-- ==== Sys2Proof/Word.lean ====
section
/-! DEFINITION. The word types of the VZ9 and the shape of its sparse storage. -/

namespace Sys2Proof

/-- A general register, control register or 64-bit address (05 R103). -/
abbrev Word := BitVec 64

/-- One byte of a window or of device memory (00 R1). -/
abbrev Byte := BitVec 8

/-- One lane of a strip, or one accumulator word (08 R176, 10 R207). -/
abbrev Lane := BitVec 32

/-- Sparse storage: key and value, keys strictly rising. -/
abbrev Map (α : Type) := List (Nat × α)

/-- Sparse byte storage, in the host's own cells; an unlisted byte reads 0. -/
abbrev Mem := List Host.Cell

/-- One sequencer of the package: a compute die (0 to 7 the array dies, 8 to 11 the stream dies)
and a task sequencer index, or `none` for the die's steward sequencer (01 R10, R16, 02 R52). -/
structure SeqRef where
  die : Nat
  idx : Option Nat
deriving DecidableEq, Repr, Inhabited

end Sys2Proof
end

