-- ==== Sys2Proof/Names.lean ====
section
/-! DEFINITION. The operands that are no plain number: the common fields of an engine command, what arrives from outside
the package, and the names of units and register spaces. -/

namespace Sys2Proof

/-- The common fields of an engine command, bits [48:10] of format EC (03 R61, R66 to R69). -/
structure Common where
  scope : BitVec 2
  step : BitVec 3
  rep : BitVec 8
  sinc : BitVec 4
  ssem : BitVec 8
  wth : BitVec 6
  wsem : BitVec 8
deriving DecidableEq, Repr, Inhabited

/-- One piece of a row that arrives through a Canopy port (24 R464, 12 R293): the port, the landing token, the offset
in the landing, the bytes, whether they are marked poisoned, the length of the row they belong to with its offset,
and whether this is the last byte of an entry that signals. -/
structure Arrival where
  port : Nat
  token : Nat
  off : Nat
  bytes : List Byte
  poisoned : Bool
  rowOff : Nat
  rowLen : Nat
  signal : Bool
deriving DecidableEq, Repr, Inhabited

/-- One executable or data segment of an image: address, bytes, and the segment flags X, W, R (03 R86). -/
structure Segment where
  addr : Nat
  bytes : List Byte
  x : Bool
  w : Bool
deriving DecidableEq, Repr, Inhabited

/-- A firmware bundle as the hub's verification finds it: the two signatures, the security version, the steward image
and the address of `stw_main` when the image has it, and the SHA-384 measurements of the monitor, the scheduler and the steward image
(24 R469, R472, R473). -/
structure Bundle where
  ecdsa : Bool
  lms : Bool
  secver : Nat
  stwMain : Option Word
  image : List Segment
  monitorSha : BitVec 384
  schedulerSha : BitVec 384
  stewardSha : BitVec 384
deriving DecidableEq, Repr, Inhabited

/-- What a boot phase finds outside the modelled state: the bundles in flash (phase 1), the units whose restored settings do not pass the
short check (phase 3, by the numbers of 24 R470's records), the units whose self-test fails (phase 4), as class 0 array, 1 stream, 2 memory,
3 hub with an index, a unit and a test code, and whether the hub, the firmware complex and the host port pass (24 R468 to R471). -/
structure BootInput where
  primary : Bundle
  secondary : Bundle
  badChecks : List Nat
  failed : List (Nat × Nat × Nat × Nat)
  hubOk : Bool
deriving DecidableEq, Repr, Inhabited

/-- Who writes a register: the host, or a layer of the hub's firmware; a plug-in belongs to a function (17 R368, R369). -/
inductive Priv where
  | host
  | plugin (f : Nat)
  | scheduler
  | monitor
deriving DecidableEq, Repr, Inhabited

/-- A register space of the hub: a BAR of the host port (24 R458), or a register or memory of the management space. The offset of
the write picks the register within the space. -/
inductive RegRef where
  /-- BAR0 of the physical function. -/
  | pfBar0
  /-- BAR0 of virtual function `f`. -/
  | vfBar0 (f : Nat)
  /-- BAR2 of virtual function `f`: its queue pages (14 R310). -/
  | vfBar2 (f : Nat)
  /-- The record of partition `p` in PTAB (17 R359). -/
  | ptab (p : Nat)
  /-- VMB0 to VMB7 and VMI0 to VMI7 of the range set kept for function `f` (11 R249), at 8 times their index. -/
  | rangeSet (f : Nat)
  /-- The FW fields of QCFG of queue `q` of function `f` (14 R311). -/
  | qcfgFw (f q : Nat)
  /-- PSAVE of partition `p` (21 R424). -/
  | psave (p : Nat)
  /-- The debug registers of partition `p` (23 R442 to R453), at 8 times the number the model gives each. -/
  | dbg (p : Nat)
  /-- DBPk_C of partition `p` (offset 16k) and DBPk_V (offset 16k + 8) (23 R444). -/
  | dbp (p : Nat)
  /-- WKC0 to WKC3 of memory die `md`, at 8 times their number (18 R374). -/
  | wkc (md : Nat)
  /-- VF_CFG of function `f` (17 R362). -/
  | vfCfg (f : Nat)
  /-- GOV_UP, GOV_DN and GOV_LIM, at 8 times their order (15 R337). -/
  | gov
  /-- PT_ERR (17 R360). -/
  | ptErr
  /-- The PMP entries of the firmware cores, at 8 times their number (17 R368). -/
  | pmp
  /-- The vector masks of virtual function `f`, and of the physical function (24 R460). -/
  | vfMsix (f : Nat)
  | pfMsix
  /-- The steward memory of compute die `d` (20 R393, 22 R435). -/
  | stewardMem (d : Nat)
  /-- The region of function `f`'s plug-in (17 R369). -/
  | plugRegion (f : Nat)
  /-- A call of function `f`'s plug-in with a budget in hub cycles; written by the plug-in, its return (17 R369). -/
  | plugCall (f : Nat)
  /-- The limits that the scheduler keeps for function `f`, least and greatest (17 R369). -/
  | plugLimits (f : Nat)
  /-- The taking of the plug-in's proposal for queue `q` of function `f` (17 R369). -/
  | plugTake (f q : Nat)
deriving DecidableEq, Repr, Inhabited

/-- The chain and strip whose word is being executed. -/
structure StripRef where
  die : Nat := 0
  ctx : Nat := 0
  chain : Nat := 0
  k : Nat := 0
deriving DecidableEq, Repr, Inhabited

/-- Where ECC meets an error (20 R403, R404): a single-bit one that it corrects, in a partition; or an uncorrectable one in the control state
of a sequencer's context or in a steward's own state; in bytes of a slice, of steward memory or of a memory die; in an accumulator element; in
a line of the stationary B; in a strip chain; in a line of an instruction cache; or in a unit that has no context. -/
inductive EccEvent where
  | corrected (part : Nat)
  | control (r : SeqRef)
  | window (die slice off n : Nat)
  | steward (die off n : Nat)
  | memory (mem pa n : Nat)
  | bank (die block row elem : Nat)
  | stationary (die block row : Nat)
  | strip (die ctx chain : Nat)
  | cache (r : SeqRef) (line : Nat)
  | unit (die unit : Nat)
deriving DecidableEq, Repr, Inhabited

end Sys2Proof
end

