-- ==== Sys2Proof/Syntax.lean ====
section
/-! DEFINITION. The instructions of the VZ9: one constructor for each row of the table of operations and
events (95). The first part is the sequencer's own words (04 R94 to R97), the second the words of a strip
(04 R100), the third the events of the package that no word encodes. -/

namespace Sys2Proof

inductive Instr where
  /-- add (R108). Writes the sum of gA and gB, modulo 2^64, to gD. -/
  | add (d : BitVec 5) (a : BitVec 5) (b : BitVec 5)
  /-- sub (R108). Writes gA minus gB, modulo 2^64, to gD. -/
  | sub (d : BitVec 5) (a : BitVec 5) (b : BitVec 5)
  /-- and (R108). Writes the bitwise AND of gA and gB to gD. -/
  | and (d : BitVec 5) (a : BitVec 5) (b : BitVec 5)
  /-- or (R108). Writes the bitwise OR of gA and gB to gD. -/
  | or (d : BitVec 5) (a : BitVec 5) (b : BitVec 5)
  /-- xor (R108). Writes the bitwise XOR of gA and gB to gD. -/
  | xor (d : BitVec 5) (a : BitVec 5) (b : BitVec 5)
  /-- andn (R108). Writes gA AND NOT gB to gD. -/
  | andn (d : BitVec 5) (a : BitVec 5) (b : BitVec 5)
  /-- sll (R108). Shifts gA left by gB[5:0] into gD. -/
  | sll (d : BitVec 5) (a : BitVec 5) (b : BitVec 5)
  /-- srl (R108). Shifts gA logically right by gB[5:0] into gD. -/
  | srl (d : BitVec 5) (a : BitVec 5) (b : BitVec 5)
  /-- sra (R108). Shifts gA arithmetically right by gB[5:0] into gD. -/
  | sra (d : BitVec 5) (a : BitVec 5) (b : BitVec 5)
  /-- rol (R108). Rotates gA left by gB[5:0] into gD. -/
  | rol (d : BitVec 5) (a : BitVec 5) (b : BitVec 5)
  /-- ror (R108). Rotates gA right by gB[5:0] into gD. -/
  | ror (d : BitVec 5) (a : BitVec 5) (b : BitVec 5)
  /-- min.s64 (R108). Writes the signed minimum of gA and gB to gD. -/
  | minS64 (d : BitVec 5) (a : BitVec 5) (b : BitVec 5)
  /-- min.n64 (R108). Writes the unsigned minimum of gA and gB to gD. -/
  | minN64 (d : BitVec 5) (a : BitVec 5) (b : BitVec 5)
  /-- max.s64 (R108). Writes the signed maximum of gA and gB to gD. -/
  | maxS64 (d : BitVec 5) (a : BitVec 5) (b : BitVec 5)
  /-- max.n64 (R108). Writes the unsigned maximum of gA and gB to gD. -/
  | maxN64 (d : BitVec 5) (a : BitVec 5) (b : BitVec 5)
  /-- slt.s64 (R108). Writes 1 to gD if gA is below gB as signed integers, else 0. -/
  | sltS64 (d : BitVec 5) (a : BitVec 5) (b : BitVec 5)
  /-- slt.n64 (R108). Writes 1 to gD if gA is below gB as unsigned integers, else 0. -/
  | sltN64 (d : BitVec 5) (a : BitVec 5) (b : BitVec 5)
  /-- seq (R108). Writes 1 to gD if gA equals gB, else 0. -/
  | seq (d : BitVec 5) (a : BitVec 5) (b : BitVec 5)
  /-- sne (R108). Writes 1 to gD if gA differs from gB, else 0. -/
  | sne (d : BitVec 5) (a : BitVec 5) (b : BitVec 5)
  /-- mul (R108). Writes the low 64 bits of gA times gB to gD. -/
  | mul (d : BitVec 5) (a : BitVec 5) (b : BitVec 5)
  /-- mulh.s64 (R108). Writes the high 64 bits of the signed product of gA and gB to gD. -/
  | mulhS64 (d : BitVec 5) (a : BitVec 5) (b : BitVec 5)
  /-- mulh.n64 (R108). Writes the high 64 bits of the unsigned product of gA and gB to gD. -/
  | mulhN64 (d : BitVec 5) (a : BitVec 5) (b : BitVec 5)
  /-- div.s64 (R109). Writes the signed quotient of gA by gB, truncated toward zero, to gD without trapping. -/
  | divS64 (d : BitVec 5) (a : BitVec 5) (b : BitVec 5)
  /-- div.n64 (R109). Writes the unsigned quotient of gA by gB to gD without trapping. -/
  | divN64 (d : BitVec 5) (a : BitVec 5) (b : BitVec 5)
  /-- rem.s64 (R109). Writes the signed remainder of gA by gB to gD without trapping. -/
  | remS64 (d : BitVec 5) (a : BitVec 5) (b : BitVec 5)
  /-- rem.n64 (R109). Writes the unsigned remainder of gA by gB to gD without trapping. -/
  | remN64 (d : BitVec 5) (a : BitVec 5) (b : BitVec 5)
  /-- clz (R108). Writes the count of leading zero bits of gA to gD. -/
  | clz (d : BitVec 5) (a : BitVec 5)
  /-- ctz (R108). Writes the count of trailing zero bits of gA to gD. -/
  | ctz (d : BitVec 5) (a : BitVec 5)
  /-- popc (R108). Writes the number of one bits of gA to gD. -/
  | popc (d : BitVec 5) (a : BitVec 5)
  /-- ext.s8 (R108). Sign-extends gA[7:0] into gD. -/
  | extS8 (d : BitVec 5) (a : BitVec 5)
  /-- ext.s16 (R108). Sign-extends gA[15:0] into gD. -/
  | extS16 (d : BitVec 5) (a : BitVec 5)
  /-- ext.s32 (R108). Sign-extends gA[31:0] into gD. -/
  | extS32 (d : BitVec 5) (a : BitVec 5)
  /-- ext.n8 (R108). Zero-extends gA[7:0] into gD. -/
  | extN8 (d : BitVec 5) (a : BitVec 5)
  /-- ext.n16 (R108). Zero-extends gA[15:0] into gD. -/
  | extN16 (d : BitVec 5) (a : BitVec 5)
  /-- ext.n32 (R108). Zero-extends gA[31:0] into gD. -/
  | extN32 (d : BitVec 5) (a : BitVec 5)
  /-- addi (R110). Writes gA plus the sign-extended 12-bit immediate to gD. -/
  | addi (d : BitVec 5) (a : BitVec 5) (i : BitVec 12)
  /-- andi (R110). Writes gA AND the sign-extended immediate to gD. -/
  | andi (d : BitVec 5) (a : BitVec 5) (i : BitVec 12)
  /-- ori (R110). Writes gA OR the sign-extended immediate to gD. -/
  | ori (d : BitVec 5) (a : BitVec 5) (i : BitVec 12)
  /-- xori (R110). Writes gA XOR the sign-extended immediate to gD. -/
  | xori (d : BitVec 5) (a : BitVec 5) (i : BitVec 12)
  /-- slli (R110). Shifts gA left by IMM12[5:0] into gD. -/
  | slli (d : BitVec 5) (a : BitVec 5) (i : BitVec 6)
  /-- srli (R110). Shifts gA logically right by IMM12[5:0] into gD. -/
  | srli (d : BitVec 5) (a : BitVec 5) (i : BitVec 6)
  /-- srai (R110). Shifts gA arithmetically right by IMM12[5:0] into gD. -/
  | srai (d : BitVec 5) (a : BitVec 5) (i : BitVec 6)
  /-- slti.s64 (R110). Writes 1 to gD if gA is below the immediate as signed integers. -/
  | sltiS64 (d : BitVec 5) (a : BitVec 5) (i : BitVec 12)
  /-- slti.n64 (R110). Writes 1 to gD if gA is below the sign-extended immediate read as unsigned. -/
  | sltiN64 (d : BitVec 5) (a : BitVec 5) (i : BitVec 12)
  /-- seqi (R110). Writes 1 to gD if gA equals the sign-extended immediate. -/
  | seqi (d : BitVec 5) (a : BitVec 5) (i : BitVec 12)
  /-- li (R111). Writes the sign-extended 32-bit immediate to gD. -/
  | li (d : BitVec 5) (i : BitVec 32)
  /-- lhi (R111). Writes the 32-bit immediate to gD[63:32], keeping gD[31:0]. -/
  | lhi (d : BitVec 5) (i : BitVec 32)
  /-- addl (R111). Adds the sign-extended 32-bit immediate to gD. -/
  | addl (d : BitVec 5) (i : BitVec 32)
  /-- ld.s8 (R113). Loads a sign-extended byte from the window into gD. -/
  | ldS8 (d : BitVec 5) (a : BitVec 5) (i : BitVec 12)
  /-- ld.n8 (R113). Loads a zero-extended byte from the window into gD. -/
  | ldN8 (d : BitVec 5) (a : BitVec 5) (i : BitVec 12)
  /-- ld.s16 (R113). Loads a sign-extended halfword from the window into gD. -/
  | ldS16 (d : BitVec 5) (a : BitVec 5) (i : BitVec 12)
  /-- ld.n16 (R113). Loads a zero-extended halfword from the window into gD. -/
  | ldN16 (d : BitVec 5) (a : BitVec 5) (i : BitVec 12)
  /-- ld.s32 (R113). Loads a sign-extended word from the window into gD. -/
  | ldS32 (d : BitVec 5) (a : BitVec 5) (i : BitVec 12)
  /-- ld.n32 (R113). Loads a zero-extended word from the window into gD. -/
  | ldN32 (d : BitVec 5) (a : BitVec 5) (i : BitVec 12)
  /-- ld.n64 (R113). Loads a doubleword from the window into gD. -/
  | ldN64 (d : BitVec 5) (a : BitVec 5) (i : BitVec 12)
  /-- ldx.n64 (R113). Loads a doubleword from window offset gA plus gB into gD. -/
  | ldxN64 (d : BitVec 5) (a : BitVec 5) (b : BitVec 5)
  /-- st.n8 (R113). Stores the low byte of gD into the window. -/
  | stN8 (d : BitVec 5) (a : BitVec 5) (i : BitVec 12)
  /-- st.n16 (R113). Stores the low halfword of gD into the window. -/
  | stN16 (d : BitVec 5) (a : BitVec 5) (i : BitVec 12)
  /-- st.n32 (R113). Stores the low word of gD into the window. -/
  | stN32 (d : BitVec 5) (a : BitVec 5) (i : BitVec 12)
  /-- st.n64 (R113). Stores gD into the window. -/
  | stN64 (d : BitVec 5) (a : BitVec 5) (i : BitVec 12)
  /-- stx.n64 (R113). Stores gD at window offset gA plus gB. -/
  | stxN64 (d : BitVec 5) (a : BitVec 5) (b : BitVec 5)
  /-- ld.dfr (R115). Loads a doubleword, deferring a window fault by poisoning gD with the offset. -/
  | ldDfr (d : BitVec 5) (a : BitVec 5) (i : BitVec 12)
  /-- vouch (R116). Raises POISON_CHECK for the lowest poisoned register among up to eight named. -/
  | vouch (g : BitVec 2) (m : BitVec 8)
  /-- beq (R126). Branches with two delay slots when gA equals gB. -/
  | beq (a : BitVec 5) (b : BitVec 5) (n : BitVec 2) (k : BitVec 10)
  /-- bne (R126). Branches with two delay slots when gA differs from gB. -/
  | bne (a : BitVec 5) (b : BitVec 5) (n : BitVec 2) (k : BitVec 10)
  /-- blt.s64 (R126). Branches when gA is below gB as signed integers. -/
  | bltS64 (a : BitVec 5) (b : BitVec 5) (n : BitVec 2) (k : BitVec 10)
  /-- bge.s64 (R126). Branches when gA is at least gB as signed integers. -/
  | bgeS64 (a : BitVec 5) (b : BitVec 5) (n : BitVec 2) (k : BitVec 10)
  /-- blt.n64 (R126). Branches when gA is below gB as unsigned integers. -/
  | bltN64 (a : BitVec 5) (b : BitVec 5) (n : BitVec 2) (k : BitVec 10)
  /-- bge.n64 (R126). Branches when gA is at least gB as unsigned integers. -/
  | bgeN64 (a : BitVec 5) (b : BitVec 5) (n : BitVec 2) (k : BitVec 10)
  /-- bbs (R126). Branches when bit gB[5:0] of gA is 1. -/
  | bbs (a : BitVec 5) (b : BitVec 5) (n : BitVec 2) (k : BitVec 10)
  /-- bbc (R126). Branches when bit gB[5:0] of gA is 0. -/
  | bbc (a : BitVec 5) (b : BitVec 5) (n : BitVec 2) (k : BitVec 10)
  /-- dbnz (R126). Decrements gA and branches when the result is non-zero. -/
  | dbnz (a : BitVec 5) (n : BitVec 2) (k : BitVec 10)
  /-- j (R127). Jumps unconditionally by a 20-bit parcel displacement. -/
  | j (n : BitVec 2) (k : BitVec 20)
  /-- call (R129). Jumps by a 20-bit displacement and writes the return address to g31. -/
  | call (n : BitVec 2) (k : BitVec 20)
  /-- jf (R127). Jumps unconditionally by a 32-bit parcel displacement. -/
  | jf (n : BitVec 2) (k : BitVec 32)
  /-- callf (R129). Far call by a 32-bit displacement, writing g31. -/
  | callf (n : BitVec 2) (k : BitVec 32)
  /-- bzf (R127). Far branch when gA is zero. -/
  | bzf (a : BitVec 5) (n : BitVec 2) (k : BitVec 30)
  /-- bnzf (R127). Far branch when gA is non-zero. -/
  | bnzf (a : BitVec 5) (n : BitVec 2) (k : BitVec 30)
  /-- bltzf (R127). Far branch when gA is negative. -/
  | bltzf (a : BitVec 5) (n : BitVec 2) (k : BitVec 30)
  /-- bgezf (R127). Far branch when gA is non-negative. -/
  | bgezf (a : BitVec 5) (n : BitVec 2) (k : BitVec 30)
  /-- jr (R128). Jumps to the address in gA after two delay slots. -/
  | jr (a : BitVec 5)
  /-- callr (R128). Jumps to the address in gA and writes the return address to g31. -/
  | callr (a : BitVec 5)
  /-- ret (R128). Jumps to the address in g31. -/
  | ret
  /-- nest (R132). Checks and loads a loop body and replays it once per iteration of walk wN. -/
  | nest (d : BitVec 5) (w : BitVec 3) (n : BitVec 8)
  /-- tret (R135). Restores the saved control state, nest state and mode from the trap registers. -/
  | tret
  /-- sem.wait (R304). Stalls until the semaphore count reaches gA, then subtracts it as an acquire. -/
  | semWait (n : BitVec 8) (a : BitVec 5)
  /-- sem.sig (R304). Adds gA to the semaphore as a release at the chosen scope, saturating with OVF. -/
  | semSig (n : BitVec 8) (a : BitVec 5) (c : BitVec 2)
  /-- sem.get (R304). Writes the semaphore count and OVF to gD. -/
  | semGet (d : BitVec 5) (n : BitVec 8)
  /-- sem.try (R304). Subtracts gA and writes 1 if the count allows after earlier waiters, else writes 0. -/
  | semTry (d : BitVec 5) (n : BitVec 8) (a : BitVec 5)
  /-- tl.wait (R305). Stalls until the timeline reaches gA, then acquires. -/
  | tlWait (n : BitVec 8) (a : BitVec 5)
  /-- tl.get (R305). Writes the timeline counter to gD. -/
  | tlGet (d : BitVec 5) (n : BitVec 8)
  /-- tl.try (R305). Writes 1 and acquires if the timeline has reached gA, else writes 0. -/
  | tlTry (d : BitVec 5) (n : BitVec 8) (a : BitVec 5)
  /-- fence.f (R306). Stalls until every earlier entry has retired and its writes are complete, at scope F. -/
  | fenceF
  /-- fence.d (R306). Fence at scope D. -/
  | fenceD
  /-- fence.p (R306). Fence at scope P. -/
  | fenceP
  /-- fence.s (R306). Fence at scope S, also waiting for HOST and XPK writes to be sent and acknowledged. -/
  | fenceS
  /-- gv.rsv (R351). Raises the context's FLOOR to gA and stalls until its load reaches it. -/
  | gvRsv (a : BitVec 5)
  /-- gv.rel (R351). Lowers the context's FLOOR to gA. -/
  | gvRel (a : BitVec 5)
  /-- gv.stat (R352). Writes a governor quantity selected by N8 to gD. -/
  | gvStat (d : BitVec 5) (n : BitVec 8)
  /-- gv.set (R353). Sets the die's RISEMAX or DFLOOR from gA. -/
  | gvSet (n : BitVec 8) (a : BitVec 5)
  /-- ls.ask (R387). Sends a zero-byte home ask for a lease on the page of gA when needed. -/
  | lsAsk (n : BitVec 8) (a : BitVec 5)
  /-- ls.drop (R387). Drops every route entry of the named holder. -/
  | lsDrop (n : BitVec 8)
  /-- ls.stat (R388). Writes a lease counter of the context to gD. -/
  | lsStat (d : BitVec 5) (n : BitVec 8)
  /-- mfc (R406). Reads a control register into gD. -/
  | mfc (d : BitVec 5) (n : BitVec 8)
  /-- mtc (R406). Writes gA to a control register field by field. -/
  | mtc (n : BitVec 8) (a : BitVec 5)
  /-- trap (R407). Raises TRAP_INSTR, saving the state after its step. -/
  | trap (n : BitVec 8)
  /-- brk (R407). Raises BREAKPOINT, saving the state after its step. -/
  | brk (n : BitVec 8)
  /-- yield (R422). Raises PREEMPT and clears PRQ when a pre-emption request is pending in task mode. -/
  | yield
  /-- tend (R53). Ends the task; the sequencer fetches nothing more. -/
  | tend
  /-- nop (R407). Does nothing. -/
  | nop
  /-- smap (R410). Maps or unmaps a virtual semaphore of a context onto a physical semaphore. -/
  | smap (n : BitVec 8) (a : BitVec 5)
  /-- csave (R412). Starts the context-save engine on a context into a save slot. -/
  | csave (n : BitVec 8) (a : BitVec 5)
  /-- crest (R413). Starts restoring a saved image onto a READY context. -/
  | crest (n : BitVec 8) (a : BitVec 5)
  /-- clm (R414). Starts a READY context: stages arguments for a fresh claim or resumes a restored one. -/
  | clmStart (n : BitVec 8) (a : BitVec 5)
  /-- clm (R414). Sets PRQ of a context. -/
  | clmPreq (n : BitVec 8) (a : BitVec 5)
  /-- clm (R414). Clears PRQ of a context. -/
  | clmPclr (n : BitVec 8) (a : BitVec 5)
  /-- clm (R414). Makes INTERRUPT pending on a context. -/
  | clmIntr (n : BitVec 8) (a : BitVec 5)
  /-- clm (R414). Continues a PARKED context in steward mode after its halt. -/
  | clmUnpark (n : BitVec 8) (a : BitVec 5)
  /-- cpres (R415). Recaptures range registers and restarts a stopped copy context from CF_PROG. -/
  | cpres (n : BitVec 8) (a : BitVec 5)
  /-- qsc (R416). Quiesces a context with an error cause, or kills it when a kill request is pending. -/
  | qsc (n : BitVec 8) (a : BitVec 5)
  /-- ewait (R417). Pops the oldest die event into gD, stalling or returning 0 when none is queued. -/
  | ewait (d : BitVec 5) (t : Bool)
  /-- halt (R417). Parks a task sequencer's context, or stops the steward until an event or cause. -/
  | halt
  /-- smget (R411). Reads a context's semaphore mapping, count and OVF into gD. -/
  | smget (d : BitVec 5) (n : BitVec 8) (a : BitVec 5)
  /-- wld (R121). Loads a walk register from a 64-byte descriptor in the window. -/
  | wld (w : BitVec 3) (a : BitVec 5) (i : BitVec 32)
  /-- wst (R121). Stores a walk register as a descriptor in the window. -/
  | wst (w : BitVec 3) (a : BitVec 5) (i : BitVec 32)
  /-- wbase (R121). Sets a walk register's base. -/
  | wbase (w : BitVec 3) (a : BitVec 5) (i : BitVec 32)
  /-- wbnd (R121). Sets one dimension's bound of a walk register. -/
  | wbnd (w : BitVec 3) (k : BitVec 3) (a : BitVec 5) (i : BitVec 32)
  /-- wstr (R121). Sets one dimension's stride of a walk register. -/
  | wstr (w : BitVec 3) (k : BitVec 3) (a : BitVec 5) (i : BitVec 32)
  /-- wclr (R121). Clears every field of a walk register. -/
  | wclr (w : BitVec 3)
  /-- mx.ldb (R187). Issues a matrix entry that loads the fragment's stationary B panels. -/
  | mxLdb (wb : BitVec 3) (bw : BitVec 2) (sp : BitVec 2) (c : Common)
  /-- mx.spm (R186). Reads a parameter record at issue and enters a matrix entry. -/
  | mxSpm (wp : BitVec 3) (c : Common)
  /-- mx.run (R188). Issues a run multiplying A rows by stationary B into the accumulators. -/
  | mxRun (wa : BitVec 3) (wr : BitVec 3) (pm : BitVec 4) (mode : BitVec 2) (src : BitVec 2) (c : Common)
  /-- mx.drn (R191). Issues a drain of accumulator rows into the window. -/
  | mxDrn (wr : BitVec 3) (wd : BitVec 3) (clr : Bool) (c : Common)
  /-- mx.drnx (R192). Issues a drain of accumulator rows as beats into the held chains. -/
  | mxDrnx (wr : BitVec 3) (clr : Bool) (c : Common)
  /-- mx.fill (R192). Issues a fill of accumulator rows from the window. -/
  | mxFill (wr : BitVec 3) (ws : BitVec 3) (c : Common)
  /-- mx.clr (R192). Issues a clear of accumulator rows to +0. -/
  | mxClr (wr : BitVec 3) (all : Bool) (c : Common)
  /-- mx.dead (R192). Issues a declaration of accumulator rows as dead. -/
  | mxDead (wr : BitVec 3) (all : Bool) (c : Common)
  /-- mx.chn (R193). Issues a change of chain routing to a link or back to default. -/
  | mxChn (h : BitVec 6) (en : Bool) (c : Common)
  /-- mx.byp (R193). Issues a change of chain routing to the bypass buffer or back to default. -/
  | mxByp (en : Bool) (c : Common)
  /-- mx.spl (R198). Checks a split record and waits to split the fragment into pieces. -/
  | mxSpl (wk : BitVec 3) (c : Common)
  /-- mx.frm (R199). Waits for every sibling to retire and re-fuses the grove. -/
  | mxFrm (c : Common)
  /-- cp.blk (R281). Issues a block copy of rows between spaces. -/
  | cpBlk (k : BitVec 2) (wr : BitVec 3) (c : Common)
  /-- cp.walk (R281). Issues a copy along two pattern walks. -/
  | cpWalk (k : BitVec 2) (wr : BitVec 3) (wa : BitVec 3) (wb : BitVec 3) (c : Common)
  /-- cp.fill (R281). Issues a fill of rows with a repeated pattern. -/
  | cpFill (k : BitVec 2) (wr : BitVec 3) (c : Common)
  /-- cp.trn (R282). Issues a transposing copy of elements. -/
  | cpTrn (k : BitVec 2) (wr : BitVec 3) (c : Common)
  /-- cp.gat (R281). Issues a gather of rows selected by an index list. -/
  | cpGat (k : BitVec 2) (wr : BitVec 3) (c : Common)
  /-- cp.sca (R281). Issues a scatter of rows to indexed destinations. -/
  | cpSca (k : BitVec 2) (wr : BitVec 3) (c : Common)
  /-- cp.red (R286). Issues reductions to DEV units returning nothing. -/
  | cpRed (k : BitVec 2) (wr : BitVec 3) (ix : Bool) (c : Common)
  /-- cp.amo (R285). Issues atomics to strided DEV units returning old values to window slots. -/
  | cpAmo (k : BitVec 2) (wr : BitVec 3) (c : Common)
  /-- cp.amor (R285). Issues atomics to indexed DEV units returning old values. -/
  | cpAmor (k : BitVec 2) (wr : BitVec 3) (c : Common)
  /-- cp.sig (R288). Issues a signal-object decrement as a release at its scope. -/
  | cpSig (k : BitVec 2) (wr : BitVec 3) (sc : BitVec 2) (c : Common)
  /-- cp.sigw (R289). Issues an entry that waits until a signal object is at most a threshold. -/
  | cpSigw (k : BitVec 2) (wr : BitVec 3) (c : Common)
  /-- cp.sigr (R290). Issues an indivisible read and re-arm of a signal object. -/
  | cpSigr (k : BitVec 2) (wr : BitVec 3) (c : Common)
  /-- cp.rw (R293). Issues remote writes, or switch reductions, to a landing over Canopy. -/
  | cpRw (k : BitVec 2) (wr : BitVec 3) (red : BitVec 2) (ls : Bool) (c : Common)
  /-- cp.land (R291). Opens a landing in the window and writes its token. -/
  | cpLand (k : BitVec 2) (wr : BitVec 3) (c : Common)
  /-- cp.lrev (R292). Closes the landing with a token. -/
  | cpLrev (k : BitVec 2) (wr : BitVec 3) (c : Common)
  /-- xb.bind (R211). Issues a binding that initialises a chain's strip state. -/
  | xbBind (ch : BitVec 3) (c : Common)
  /-- xb.free (R211). Issues a release of a chain's binding, discarding its state and ports. -/
  | xbFree (ch : BitVec 3) (c : Common)
  /-- xb.prog (R217). Reads and checks a strip descriptor and words at issue and closes a group. -/
  | xbProg (ch : BitVec 3) (wp : BitVec 3) (c : Common)
  /-- xb.feed (R218). Issues a stream entry that pushes window data as beats into a port. -/
  | xbFeed (ch : BitVec 3) (we : BitVec 3) (ws : BitVec 3) (fmt : BitVec 3) (tgt : BitVec 3) (c : Common)
  /-- xb.take (R218). Issues a stream entry that writes out-port pushes into the window. -/
  | xbTake (ch : BitVec 3) (we : BitVec 3) (ws : BitVec 3) (fmt : BitVec 3) (c : Common)
  /-- xb.seed (R219). Issues an entry that sets one strip's SR states from the window. -/
  | xbSeed (ch : BitVec 3) (ws : BitVec 3) (k : BitVec 3) (c : Common)
  /-- x.add (R225). Strip word: lane-wise sum. -/
  | xAdd (m : BitVec 6) (t : BitVec 3) (b : BitVec 4) (a : BitVec 4) (d : BitVec 4) (g : BitVec 4)
  /-- x.sub (R225). Strip word: lane-wise difference. -/
  | xSub (m : BitVec 6) (t : BitVec 3) (b : BitVec 4) (a : BitVec 4) (d : BitVec 4) (g : BitVec 4)
  /-- x.mul (R225). Strip word: lane-wise product. -/
  | xMul (m : BitVec 6) (t : BitVec 3) (b : BitVec 4) (a : BitVec 4) (d : BitVec 4) (g : BitVec 4)
  /-- x.min (R225). Strip word: lane-wise minimum. -/
  | xMin (t : BitVec 3) (b : BitVec 4) (a : BitVec 4) (d : BitVec 4) (g : BitVec 4)
  /-- x.max (R225). Strip word: lane-wise maximum. -/
  | xMax (t : BitVec 3) (b : BitVec 4) (a : BitVec 4) (d : BitVec 4) (g : BitVec 4)
  /-- x.abs (R225). Strip word: lane-wise absolute value. -/
  | xAbs (m : BitVec 6) (t : BitVec 3) (a : BitVec 4) (d : BitVec 4) (g : BitVec 4)
  /-- x.neg (R225). Strip word: lane-wise negation. -/
  | xNeg (m : BitVec 6) (t : BitVec 3) (a : BitVec 4) (d : BitVec 4) (g : BitVec 4)
  /-- x.and (R225). Strip word: lane-wise bitwise AND. -/
  | xAnd (m : BitVec 6) (t : BitVec 3) (b : BitVec 4) (a : BitVec 4) (d : BitVec 4) (g : BitVec 4)
  /-- x.or (R225). Strip word: lane-wise bitwise OR. -/
  | xOr (m : BitVec 6) (t : BitVec 3) (b : BitVec 4) (a : BitVec 4) (d : BitVec 4) (g : BitVec 4)
  /-- x.xor (R225). Strip word: lane-wise bitwise XOR. -/
  | xXor (m : BitVec 6) (t : BitVec 3) (b : BitVec 4) (a : BitVec 4) (d : BitVec 4) (g : BitVec 4)
  /-- x.shl (R225). Strip word: lane-wise shift left. -/
  | xShl (m : BitVec 6) (t : BitVec 3) (b : BitVec 4) (a : BitVec 4) (d : BitVec 4) (g : BitVec 4)
  /-- x.shr (R225). Strip word: lane-wise logical shift right. -/
  | xShr (m : BitVec 6) (t : BitVec 3) (b : BitVec 4) (a : BitVec 4) (d : BitVec 4) (g : BitVec 4)
  /-- x.sra (R225). Strip word: lane-wise arithmetic shift right. -/
  | xSra (m : BitVec 6) (t : BitVec 3) (b : BitVec 4) (a : BitVec 4) (d : BitVec 4) (g : BitVec 4)
  /-- x.mov (R225). Strip word: raw 32-bit lane move. -/
  | xMov (a : BitVec 4) (d : BitVec 4) (g : BitVec 4)
  /-- x.fma (R226). Strip word: fused a × b + d with one rounding. -/
  | xFma (r : BitVec 3) (t : BitVec 3) (b : BitVec 4) (a : BitVec 4) (d : BitVec 4) (g : BitVec 4)
  /-- x.fms (R226). Strip word: fused a × b − d. -/
  | xFms (r : BitVec 3) (t : BitVec 3) (b : BitVec 4) (a : BitVec 4) (d : BitVec 4) (g : BitVec 4)
  /-- x.fnma (R226). Strip word: fused −(a × b) + d. -/
  | xFnma (r : BitVec 3) (t : BitVec 3) (b : BitVec 4) (a : BitVec 4) (d : BitVec 4) (g : BitVec 4)
  /-- x.fnms (R226). Strip word: fused −(a × b) − d. -/
  | xFnms (r : BitVec 3) (t : BitVec 3) (b : BitVec 4) (a : BitVec 4) (d : BitVec 4) (g : BitVec 4)
  /-- x.cvt (R227). Strip word: converts lanes between lane types. -/
  | xCvt (s : BitVec 3) (r : BitVec 3) (t : BitVec 3) (a : BitVec 4) (d : BitVec 4) (g : BitVec 4)
  /-- x.cvtn (R228). Strip word: converts lanes into a narrow or MX format. -/
  | xCvtn (n : BitVec 3) (c : BitVec 3) (t : BitVec 3) (a : BitVec 4) (d : BitVec 4) (g : BitVec 4)
  /-- x.cvtw (R228). Strip word: widens narrow or MX lanes into a lane type. -/
  | xCvtw (n : BitVec 3) (c : BitVec 3) (t : BitVec 3) (a : BitVec 4) (d : BitVec 4) (g : BitVec 4)
  /-- x.pack (R229). Strip word: plane-packs 24 ingots into A lines on the byte stream. -/
  | xPack (s : BitVec 1) (k : BitVec 1) (p : BitVec 4) (t : BitVec 3) (a : BitVec 4) (g : BitVec 1)
  /-- x.unpk (R230). Strip word: unpacks 24 standalone ingots into lanes. -/
  | xUnpk (k : BitVec 1) (p : BitVec 4) (t : BitVec 3) (a : BitVec 4) (d : BitVec 4) (g : BitVec 4)
  /-- x.rcp (R231). Strip word: correctly rounded reciprocal. -/
  | xRcp (r : BitVec 3) (t : BitVec 3) (a : BitVec 4) (d : BitVec 4) (g : BitVec 4)
  /-- x.rsq (R231). Strip word: correctly rounded reciprocal square root. -/
  | xRsq (r : BitVec 3) (t : BitVec 3) (a : BitVec 4) (d : BitVec 4) (g : BitVec 4)
  /-- x.sqrt (R231). Strip word: correctly rounded square root. -/
  | xSqrt (r : BitVec 3) (t : BitVec 3) (a : BitVec 4) (d : BitVec 4) (g : BitVec 4)
  /-- x.exp2 (R231). Strip word: correctly rounded 2^a. -/
  | xExp2 (r : BitVec 3) (t : BitVec 3) (a : BitVec 4) (d : BitVec 4) (g : BitVec 4)
  /-- x.log2 (R231). Strip word: correctly rounded log2 a. -/
  | xLog2 (r : BitVec 3) (t : BitVec 3) (a : BitVec 4) (d : BitVec 4) (g : BitVec 4)
  /-- x.div (R231). Strip word: correctly rounded a / b. -/
  | xDiv (r : BitVec 3) (t : BitVec 3) (b : BitVec 4) (a : BitVec 4) (d : BitVec 4) (g : BitVec 4)
  /-- x.ceq (R232). Strip word: sets a predicate pair by equality. -/
  | xCeq (t : BitVec 3) (b : BitVec 4) (a : BitVec 4) (d : BitVec 4) (g : BitVec 4)
  /-- x.clt (R232). Strip word: sets a predicate pair by less-than. -/
  | xClt (t : BitVec 3) (b : BitVec 4) (a : BitVec 4) (d : BitVec 4) (g : BitVec 4)
  /-- x.cle (R232). Strip word: sets a predicate pair by less-or-equal. -/
  | xCle (t : BitVec 3) (b : BitVec 4) (a : BitVec 4) (d : BitVec 4) (g : BitVec 4)
  /-- x.cun (R232). Strip word: sets a predicate pair when either operand is NaN. -/
  | xCun (t : BitVec 3) (b : BitVec 4) (a : BitVec 4) (d : BitVec 4) (g : BitVec 4)
  /-- x.sel (R233). Strip word: selects vA or vB per lane by a predicate. -/
  | xSel (s : BitVec 4) (b : BitVec 4) (a : BitVec 4) (d : BitVec 4) (g : BitVec 4)
  /-- x.pand (R233). Strip word: combines two predicates by and, or, xor or andn. -/
  | xPand (o : BitVec 2) (b : BitVec 4) (a : BitVec 4) (d : BitVec 4) (g : BitVec 4)
  /-- x.pmov (R233). Strip word: sets a predicate pair from non-zero lanes. -/
  | xPmovToP (t : BitVec 3) (a : BitVec 4) (d : BitVec 4) (g : BitVec 4)
  /-- x.pmov (R233). Strip word: writes 1 or 0 into lanes from a predicate. -/
  | xPmovToV (t : BitVec 3) (a : BitVec 4) (d : BitVec 4) (g : BitVec 4)
  /-- x.rsum (R234). Strip word: sums each row of SHP with one rounding. -/
  | xRsum (m : BitVec 6) (t : BitVec 3) (a : BitVec 4) (d : BitVec 4) (g : BitVec 4)
  /-- x.csum (R234). Strip word: sums each column of SHP. -/
  | xCsum (m : BitVec 6) (t : BitVec 3) (a : BitVec 4) (d : BitVec 4) (g : BitVec 4)
  /-- x.rmax (R234). Strip word: row maximum. -/
  | xRmax (t : BitVec 3) (a : BitVec 4) (d : BitVec 4) (g : BitVec 4)
  /-- x.cmax (R234). Strip word: column maximum. -/
  | xCmax (t : BitVec 3) (a : BitVec 4) (d : BitVec 4) (g : BitVec 4)
  /-- x.rmin (R234). Strip word: row minimum. -/
  | xRmin (t : BitVec 3) (a : BitVec 4) (d : BitVec 4) (g : BitVec 4)
  /-- x.cmin (R234). Strip word: column minimum. -/
  | xCmin (t : BitVec 3) (a : BitVec 4) (d : BitVec 4) (g : BitVec 4)
  /-- x.bcr (R235). Strip word: broadcasts one row of the SHP view. -/
  | xBcr (b : BitVec 4) (a : BitVec 4) (d : BitVec 4) (g : BitVec 4)
  /-- x.bcc (R235). Strip word: broadcasts one column of the SHP view. -/
  | xBcc (b : BitVec 4) (a : BitVec 4) (d : BitVec 4) (g : BitVec 4)
  /-- x.tr (R235). Strip word: transposes the SHP view. -/
  | xTr (a : BitVec 4) (d : BitVec 4) (g : BitVec 4)
  /-- x.rot.r (R235). Strip word: rotates along rows. -/
  | xRotR (b : BitVec 4) (a : BitVec 4) (d : BitVec 4) (g : BitVec 4)
  /-- x.rot.c (R235). Strip word: rotates along columns. -/
  | xRotC (b : BitVec 4) (a : BitVec 4) (d : BitVec 4) (g : BitVec 4)
  /-- x.perm (R235). Strip word: permutes lanes by an index register. -/
  | xPerm (b : BitVec 4) (a : BitVec 4) (d : BitVec 4) (g : BitVec 4)
  /-- x.shp (R235). Strip word: sets the shape register SHP. -/
  | xShp (n : BitVec 4) (g : BitVec 1)
  /-- x.idle (R236). Strip word: issues nothing for n cycles. -/
  | xIdle (n : BitVec 6) (g : BitVec 1)
  /-- x.post (R237). Strip word: posts a launch record from lanes 0-31, handed over at group retirement. -/
  | xPost (a : BitVec 4) (g : BitVec 1)
  /-- x.flg (R238). Strip word: reads, and optionally clears, the strip's sticky flags. -/
  | xFlg (c : BitVec 1) (d : BitVec 4) (g : BitVec 4)
  /-- x.mode (R239). Strip word: sets flush-to-zero and the pack line length. -/
  | xMode (h : BitVec 3) (f : BitVec 1) (g : BitVec 1)
  /-- ASYNC_TRAP_ENTRY (R394). A pending asynchronous or die-delivered cause is taken at the start of a step while AE is 1. -/
  | asyncTrapEntry (r : SeqRef)
  /-- ENTRY_START (R340). An engine entry at its queue head starts once its wait is met and its weight fits in ballast. -/
  | entryStart (die : Nat) (ctx : Nat) (q : Nat)
  /-- ENTRY_RETIRE (R201). An engine entry completes, advances its timeline and applies its signal. -/
  | entryRetire (die : Nat) (ctx : Nat) (q : Nat)
  /-- STRIP_GROUP_START (R216). A strip group starts all its streams and programs together once its xb.prog has issued and waits are met. -/
  | stripGroupStart (die : Nat) (ctx : Nat) (ch : Nat)
  /-- STRIP_GROUP_RETIRE (R216). All entries of a completed strip group retire together in entry order. -/
  | stripGroupRetire (die : Nat) (ctx : Nat) (ch : Nat)
  /-- POSTED_RECORD_TAKE (R237). The hub takes the records posted by a retired group once earlier copies complete. -/
  | postedRecordTake
  /-- COPY_TURN (R273). A copy engine gives one copy context a turn moving bytes or elements. -/
  | copyTurn (die : Nat) (ctx : Nat) (k : Nat)
  /-- HOME_REQUEST_ARRIVAL (R373). A home request reaches the home die's walker, is translated and may be granted a lease. -/
  | homeRequestArrival (id : Nat)
  /-- DIRECT_REQUEST_ARRIVAL (R377). A direct request reaches the frame's die and is performed at its write queue. -/
  | directRequestArrival (id : Nat)
  /-- LEASE_GRANT_ARRIVAL (R378). A grant reply reaches its holder and is cached unless late or dropped. -/
  | leaseGrantArrival (id : Nat)
  /-- LEASE_EXPIRE (R376). A route entry's countdown reaches 0 and the entry becomes invalid. -/
  | leaseExpire (die : Nat) (ctx : Nat) (h : Nat) (page : Nat)
  /-- REROUTE (R378). A direct request not delivered within 3 µs is answered REROUTE and resent home. -/
  | reroute (id : Nat)
  /-- LEASE_SKEW_HOLDER (R380). A holder unit's rate monitor detects drift, drops its route entries and signals the steward. -/
  | leaseSkewHolder (die : Nat) (unit : Nat)
  /-- LEASE_SKEW_WALKER (R380). A walker's rate monitor detects drift, forcing class 0 grants and extending holds. -/
  | leaseSkewWalker (md : Nat)
  /-- SKEW_TOLERANCE_RESTORED (R380). A holder monitor measures 1 ms in tolerance and asks resume. -/
  | skewToleranceRestored (die : Nat) (unit : Nat)
  /-- QUARANTINE_RELEASE (R383). A quarantined frame's time ends; it becomes FREE and SIG is decremented. -/
  | quarantineRelease (md : Nat) (frame : Nat)
  /-- MOVE_ROUND_COMPLETE (R385). A migration copy round ends and the move freezes and switches, aborts, or starts another round. -/
  | moveRoundComplete (md : Nat)
  /-- WALKER_MAP (R375). Walker command MAP writes a leaf for a page. -/
  | walkerMap (md : Nat) (v : Word)
  /-- WALKER_UNMAP (R375). Walker command UNMAP clears a leaf and quarantines its frames. -/
  | walkerUnmap (md : Nat) (v : Word)
  /-- WALKER_MOVE (R385). Walker command MOVE begins migrating a page to new frames. -/
  | walkerMove (md : Nat) (v : Word)
  /-- WALKER_SETLC (R375). Walker command SETLC sets a leaf's lease class. -/
  | walkerSetlc (md : Nat) (v : Word)
  /-- WALKER_ADDT (R375). Walker command ADDT adds a frame to a partition's table memory. -/
  | walkerAddt (md : Nat) (v : Word)
  /-- WKS_SIGERR_CLEAR (R374). A write of 1 clears WKS.SIGERR. -/
  | wksSigerrClear (md : Nat) (v : Word)
  /-- LSK_STAT_CLEAR (R380). A write of 1 to LSK_STAT.SKEW lets the walker grant leases again. -/
  | lskStatClear (md : Nat) (v : Word)
  /-- LANDING_ARRIVAL (R464). A Canopy row arrives, is checked against its landing and written, signalling when LS applies. -/
  | landingArrival (x : Arrival)
  /-- RW_ACK (R293). An acknowledgement or refusal of a remote row reaches its sending copy context. -/
  | rwAck (die : Nat) (ctx : Nat) (k : Nat) (status : Nat)
  /-- CANOPY_PORT_DOWN (R463). A Canopy port stops carrying traffic and its unacknowledged cp.rw entries stop with XK_LINK. -/
  | canopyPortDown (port : Nat)
  /-- HOST_COMPLETION (R243). A completion from the host port reaches a HOST copy, stopping it on an error. -/
  | hostCompletion (die : Nat) (ctx : Nat) (k : Nat) (status : Nat) (bytes : List Byte)
  /-- HOST_COMPLETION_TIMEOUT (R457). A HOST completion does not arrive within 64 ms and the copy stops with HX_TIMEOUT. -/
  | hostCompletionTimeout (die : Nat) (ctx : Nat) (k : Nat)
  /-- LINK_FAIL (R465). A UCIe link fails; pending packets are answered and resent on VC3 through a third die. -/
  | linkFail (x : Nat) (y : Nat)
  /-- LINK_LANE_LOSS (R465). A UCIe module loses lanes and is repaired or degraded to half width. -/
  | linkLaneLoss (x : Nat) (y : Nat)
  /-- NOTIFY (R312). A host write to NOTIFY sets a queue's tail as a release at scope S. -/
  | notify (f : Nat) (q : Nat) (v : Word)
  /-- QUEUE_ENABLE (R311). A QCFG write setting EN enables a queue with an empty ring. -/
  | queueEnable (f : Nat) (q : Nat) (v : Word)
  /-- QUEUE_DISABLE (R311). A QCFG write clearing EN stops takes from the queue at the next hub cycle. -/
  | queueDisable (f : Nat) (q : Nat) (v : Word)
  /-- QCFG_WRITE (R311). A QCFG write changing SPC or LOG2N while EN is 0, with checks posting KIND CFG. -/
  | qcfgWrite (f : Nat) (q : Nat) (v : Word)
  /-- QERR_CLEAR (R313). A write of 1 clears ERR or OVR of QERR. -/
  | qerrClear (f : Nat) (q : Nat) (v : Word)
  /-- QERRN_CLEAR (R313). Any write clears QERRN. -/
  | qerrnClear (f : Nat) (q : Nat) (v : Word)
  /-- VF_DROP_CLEAR (R367). Any write clears VF_DROP. -/
  | vfDropClear (f : Nat) (v : Word)
  /-- ISTAT_CLEAR (R460). A write of 1 clears ISTAT bits. -/
  | istatClear (f : Nat) (v : Word)
  /-- WATCH_ARM (R461). A write of EN 1 to WATCHk_C translates the address and arms the watch. -/
  | watchArm (f : Nat) (k : Nat) (v : Word)
  /-- WATCH_DISARM (R461). A write of EN 0 to WATCHk_C disarms the watch. -/
  | watchDisarm (f : Nat) (k : Nat) (v : Word)
  /-- DIES (R462). Mailbox command DIES asks for the service bits of every die. -/
  | dies
  /-- SELFTEST (R462). Mailbox command SELFTEST asks for the failing units. -/
  | selftest
  /-- ATTEST (R473). Mailbox command ATTEST asks for a signed attestation report. -/
  | attest (nonce : List Byte)
  /-- WEAR (R462). Mailbox command WEAR asks for the wear counters. -/
  | wear
  /-- LOADIMG (R86). Mailbox command LOADIMG places an image's segments for a function. -/
  | loadimg (f : Word) (addr : Word) (len : Word)
  /-- MAILBOX_ANSWER (R462). Firmware answers a mailbox command; BUSY falls and PF vector 0 is sent. -/
  | mailboxAnswer (bytes : List Byte)
  /-- FUNCTION_LEVEL_RESET (R366). A function-level reset discards the function's work and resets its queues. -/
  | functionLevelReset (f : Nat)
  /-- FLR_COMPLETE (R366). A function-level reset completes and the function accepts writes again. -/
  | flrComplete (f : Nat)
  /-- REGISTER_WRITE (R459). A write to a register with no behaviour of its own is performed or ignored by its size and fields. -/
  | registerWrite (who : Priv) (r : RegRef) (off : Nat) (size : Nat) (v : Nat)
  /-- PARTITION_COMMIT (R360). A monitor write to PC0 checks and commits a partition record. -/
  | partitionCommit (p : Nat) (v : Word)
  /-- PARTITION_RESET (R433). A commit with EN 0 on an enabled partition stops intake and ends its contexts. -/
  | partitionReset (p : Nat)
  /-- RESET_QUIESCE_TIMEOUT (R433). A context not quiesced within 100 µs of a reset is quiesced by the hub. -/
  | resetQuiesceTimeout (die : Nat) (ctx : Nat)
  /-- PARTITION_RESET_COMPLETE (R433). A partition reset finishes its fabric quiesce and scrub. -/
  | partitionResetComplete (p : Nat)
  /-- PC1_WRITE (R359). A write to PC1 sets scheduling defaults at the next hub cycle or is refused. -/
  | pc1Write (p : Nat) (v : Word)
  /-- VF_CFG_WRITE (R362). A scheduler write to VF_CFG maps a function or sets its slice, refused when busy. -/
  | vfCfgWrite (f : Nat) (v : Word)
  /-- RESIDENCY_MOVE (R364). RES moves to the incoming function once no outgoing instance runs. -/
  | residencyMove (p : Nat)
  /-- SLICE_EXPIRE (R364). A resident function's slice runs out and a world switch begins or a new slice starts. -/
  | sliceExpire (p : Nat)
  /-- GOV_RATE_WRITE (R338). A write to GOV_UP or GOV_DN sets the slow tier and refills its tokens. -/
  | govRateWrite (dn : Bool) (v : Word)
  /-- GOV_LIM_WRITE (R337). A write to GOV_LIM sets LCAP and PINWIN at the next tick. -/
  | govLimWrite (v : Word)
  /-- GOVERNOR_TICK (R341). At a tick boundary the governor adds tokens and grants rises and falls. -/
  | governorTick
  /-- PIN_WINDOW_EXPIRE (R348). A pinned start's need is not met within PINWIN and it takes RAMP_VIOLATION. -/
  | pinWindowExpire (die : Nat) (ctx : Nat)
  /-- RECORD_TAKE (R315). The front end reads, checks and takes the next record from an enabled queue. -/
  | recordTake (f : Nat) (q : Nat)
  /-- GANG_ASSEMBLY_TIMEOUT (R326). A gang's assembly limit expires and every held member ends with a gang fault. -/
  | gangAssemblyTimeout (gid : Nat)
  /-- GANG_RESERVE (R327). An assembled gang tries to reserve all its claims in one hub step. -/
  | gangReserve (gid : Nat) (places : List (Nat × Nat × Nat × Nat))
  /-- GANG_COMMIT (R329). A gang with all claims and ramp slots commits its starts. -/
  | gangCommit (gid : Nat)
  /-- GANG_START_TIMEOUT (R330). A gang start misses the 2 µs bound and the gang faults. -/
  | gangStartTimeout (gid : Nat)
  /-- RECORD_RESERVING (R322). A ready record's reservation interval expires and it becomes reserving, choosing victims. -/
  | recordReserving (node : Nat) (die : Nat) (lead : Nat) (cls : Nat)
  /-- CLAIM_GRANT (R40). An allocator grants a claim to an offered record, assigns copy contexts and posts GRANT. -/
  | claimGrant (p : Nat) (die : Nat) (lead : Nat) (cls : Nat)
  /-- ARGUMENT_COPY_DONE (R40). The argument copy staged at START retires and the first fetch issues, or fails with COPY_FAULT. -/
  | argumentCopyDone (die : Nat) (ctx : Nat)
  /-- INSTANCE_RETIRE (R53). An ended instance retires once its entries and siblings have, applying DEC and returning its claim. -/
  | instanceRetire (die : Nat) (ctx : Nat)
  /-- PIECE_RETIRE (R47). A piece other than piece 0 retires and RETIRED is posted for it. -/
  | pieceRetire (die : Nat) (ctx : Nat)
  /-- HELD_RELEASE_APPLY (R317). A release held for a full pending table is applied once an entry frees. -/
  | heldReleaseApply (p : Nat)
  /-- QUEUE_WATCHDOG (R333). A record stays ready and unstarted for QWD ms and KIND STALL is posted. -/
  | queueWatchdog (node : Nat)
  /-- WATCHDOG_EXPIRE (R332). A context's ELAPSED reaches LIMIT and WATCHDOG is raised. -/
  | watchdogExpire (die : Nat) (ctx : Nat)
  /-- SPLIT_TAKE_EFFECT (R45). A waiting split's conditions hold and the fragment becomes pieces. -/
  | splitTakeEffect (die : Nat) (ctx : Nat)
  /-- FUSE_TAKE_EFFECT (R46). Every sibling has retired and the waiting fuse restores the fragment. -/
  | fuseTakeEffect (die : Nat) (ctx : Nat)
  /-- SAVE_COMPLETE (R412). The context-save engine finishes writing the image, returns the claim and posts SAVED. -/
  | saveComplete (die : Nat) (ctx : Nat)
  /-- RESTORE_COMPLETE (R413). A restore finishes loading the image and posts RESTORED. -/
  | restoreComplete (die : Nat) (ctx : Nat)
  /-- QUIESCE_COMPLETE (R416). A quiesced context's started entries finish, its claim is returned and QUIESCED is posted. -/
  | quiesceComplete (die : Nat) (ctx : Nat)
  /-- HELD_EVENT_POST (R417). An event held for a full event queue is posted as space frees. -/
  | heldEventPost (die : Nat)
  /-- DEBUG_STOP (R441). A DSTOP write with GO starts stopping the stop set. -/
  | debugStop (p : Nat) (v : Word)
  /-- CUT_SEAL (R441). Every member is frozen and the cut is sealed with cut records and a STOP record. -/
  | cutSeal (p : Nat)
  /-- DEBUG_RESUME (R441). A DSTOP write with RES resumes every stopped context of the partition. -/
  | debugResume (p : Nat) (v : Word)
  /-- BREAKPOINT_HIT (R444). A breakpoint matches, starts a stop and writes a BPHIT record. -/
  | breakpointHit (p : Nat) (k : Nat) (die : Nat) (ctx : Nat)
  /-- CHECKPOINT_START (R449). The checkpoint interval expires and a checkpoint cut begins. -/
  | checkpointStart (p : Nat)
  /-- CHECKPOINT_SEAL (R449). A checkpoint's memory and context images are written and the partition resumes. -/
  | checkpointSeal (p : Nat)
  /-- CK_FAIL_CLEAR (R453). A write of 1 clears CK_STAT.FAIL. -/
  | ckFailClear (p : Nat) (v : Word)
  /-- REPLAY_START (R452). A write of RP_CTL.GO restores a checkpoint and runs forced to the logged choices. -/
  | replayStart (p : Nat) (v : Word)
  /-- REPLAY_DONE (R452). The last retained log segment has been replayed and the partition stops. -/
  | replayDone (p : Nat)
  /-- PMSEL_WRITE (R455). A write to PMSELk reprograms the profiling counter PMCk. -/
  | pmselWrite (p : Nat) (k : Nat) (v : Word)
  /-- DIE_POWER_STABLE (R467). A die's supply becomes stable and the next die in the stagger powers up. -/
  | diePowerStable (die : Nat)
  /-- POWER_GOOD (R468). Power-good starts the hub reset, monitor ROM and boot. -/
  | powerGood
  /-- BOOT_PHASE_COMPLETE (R468). A boot phase finishes and the next begins, setting READY in phase 6. -/
  | bootPhaseComplete (x : BootInput)
  /-- WEAR_FLUSH (R474). The wear counters are written to flash at least every 10 minutes. -/
  | wearFlush
  /-- POWER_DOWN (R474). An orderly power-down writes the wear counters to flash. -/
  | powerDown
  /-- ILLEGAL_OP (R98). A fetched word with a reserved length or an unassigned opcode or function code raises ILLEGAL_OP with no other effect. -/
  | illegalOp (r : SeqRef)
  /-- FETCH_FAULT (R74). A fetch from an odd address, an untranslatable range or a refused page raises MISALIGNED, FETCH_RANGE or FETCH_XLATE before any instruction is decoded. -/
  | fetchFault (r : SeqRef)
  /-- DEV_COMPLETION (R295). A completion from a memory die reaches the requesting copy context or fetch path, returning read data, acknowledging a write, or refusing or marking it STALE. -/
  | devCompletion (id : Nat)
  /-- UNCORRECTABLE_ERROR (R404). An uncorrectable error arises in a context's control state or a steward's own state, quiescing the context or causing a double fault; and the other errors of R403. -/
  | uncorrectableError (e : EccEvent)
  /-- DIE_RETIRED_BY_FIRMWARE (R22). Firmware retires a compute die, which then goes out of service. -/
  | dieRetiredByFirmware (die : Nat)
  /-- DIE_POWER_UP_FAILURE (R467). A die fails to power up during the staggered power-up and is out of service. -/
  | diePowerUpFailure (die : Nat)
  /-- POWER_LOSS (R474). Power is lost without an orderly power-down, and wear counts not yet flushed are lost. -/
  | powerLoss
  /-- JUNCTION_TEMPERATURE_FALL (R474). A die's junction temperature falls from a local maximum to the next local minimum, counting a thermal cycle in its bin. -/
  | junctionTemperatureFall (cls : Nat) (dt : Nat)
  /-- CANOPY_PORT_TRAINED (R463). A Canopy port is trained by firmware and carries traffic again, so open landings accept writes from it. -/
  | canopyPortTrained (port : Nat)
deriving DecidableEq, Repr, Inhabited

end Sys2Proof
end

