-- ==== Sys2Proof/Config.lean ====
section
/-! DEFINITION. What the spec leaves to the device: free values without a body, and the constants of the package. -/

namespace Sys2Proof

/-- Whose turn the next step is: a sequencer, a strip of a running group, or an event (00 R9). -/
inductive Turn where
  | seq (r : SeqRef)
  | strip (r : StripRef)
  | ev (i : Instr)
deriving DecidableEq, Repr, Inhabited

end Sys2Proof

namespace Sys2Proof.Config

/-- Whose turn it is when none is fixed: the timing of the units and of the outside world is the device's (00 R9). Nothing
constrains it. -/
opaque pick : Nat → Turn

/-- A free choice of the device among the first `n` possibilities: the `k`-th time a choice is left open, the result is
`choose k n` modulo `n` (00 R9, 03 R76). Nothing constrains it. -/
opaque choose : Nat → Nat → Nat

/-- A free 64-bit value, for a value the spec leaves open (the `k`-th such value). -/
opaque freeWord : Nat → BitVec 64

/-- A free string of bytes: signatures, keys and measurements that no rule gives (24 R473). -/
opaque freeBytes : Nat → Nat → List Byte

/-- The HMAC-SHA-384 tag of a unit's training record, under the key derived from the device key (24 R470). No rule gives the key, so nothing
constrains it. -/
opaque recordTag : Nat → BitVec 64 → BitVec 384

/-- Array dies, stream dies and memory dies (01 R10): compute dies 0 to 7 are array dies and 8 to 11 stream dies. -/
def arrayDies : Nat := 8
def computeDies : Nat := 12
def memDies : Nat := 12
def partitions : Nat := 20
def functions : Nat := 384
def queuesPerFn : Nat := 64

/-- Bytes of one slice (01 R12), of the steward memory (20 R393), and of a die's physical memory (18 R370). -/
def sliceBytes : Nat := 0x200000
def stewardBytes : Nat := 0x10000
def dieBytes : Nat := 0x1000000000

/-- A governor tick: 50 ns, 47 arithmetic cycles (15 R335). -/
def tickNs : Nat := 50
def tickCycles : Nat := 47

end Sys2Proof.Config
end

