-- ==== Sys2Proof/Machine/State.lean ====
section
/-! DEFINITION. The state of the package as plain data: the sequencers, contexts, slices, banks and chains of the
compute dies, the memory dies, the hub, the governor, the platform, and the turns that are due. Every structure
names the rule of the spec that gives its fields. Sparse storage is a `Map`: a key not listed holds the default. -/

namespace Sys2Proof.Machine

/-! ## Sequencers (02 R52, 05 R103 to R135, 20 R393 to R400) -/

/-- A walk register (05 R120). -/
structure Walk where
  base : Word := 0
  bound : Vector (BitVec 16) 6 := Vector.replicate 6 0
  stride : Vector (BitVec 32) 6 := Vector.replicate 6 0
deriving DecidableEq, Repr, Inhabited

/-- VMB0 to VMB7 and VMI0 to VMI7 (11 R245, R246). -/
structure Ranges where
  vmb : Vector Word 8 := Vector.replicate 8 0
  vmi : Vector Word 8 := Vector.replicate 8 0
deriving DecidableEq, Repr, Inhabited

/-- The register state of one sequencer. -/
structure SeqSt where
  /-- g0 to g31 (05 R103); g0 is never written. -/
  g : Vector Word 32 := Vector.replicate 32 0
  /-- GP_POISON (05 R105). -/
  tags : BitVec 32 := 0
  walks : Vector Walk 8 := Vector.replicate 8 {}
  /-- The three PCs, `none` being SEQ, and the annul marks (05 R123). -/
  pc : Word := 0
  npc : Option Word := none
  nnpc : Option Word := none
  an0 : Bool := false
  an1 : Bool := false
  /-- SEQ_STAT.MODE, AE and PRQ (20 R399). -/
  steward : Bool := false
  ae : Bool := true
  prq : Bool := false
  nestStat : Word := 0
  nestTop : Word := 0
  /-- The loop buffer that `nest` and `tret` fill (05 R131, R135). -/
  nestBuf : List Byte := []
  trapCause : Word := 0
  trapPc0 : Word := 0
  trapPc1 : Word := 0
  trapPc2 : Word := 0
  trapAnn : Word := 0
  trapAddr0 : Word := 0
  trapAddr1 : Word := 0
  trapNstat : Word := 0
  trapNtop : Word := 0
  /-- STW_SCR0 to STW_SCR7, and CSEL of a steward sequencer (20 R400). -/
  scr : Vector Word 8 := Vector.replicate 8 0
  csel : Word := 0
  /-- The range registers that instruction fetch uses (11 R249). -/
  fetch : Ranges := {}
  /-- The 64-byte lines held by the instruction cache, by line address (03 R76), a poisoned line marked. -/
  icache : Map (List Byte) := []
  /-- A steward sequencer stopped by a double fault, or not yet started (20 R395, 24 R472). -/
  stopped : Bool := false
deriving DecidableEq, Repr, Inhabited

/-! ## Leases (18 R376) -/

/-- What a route entry is keyed by: the partition, the partition-virtual die, and the page (offset and size). -/
structure PageKey where
  part : Nat
  vdie : Nat
  off : Nat
  big : Bool
deriving DecidableEq, Repr, Inhabited

/-- A route entry; `rem` is in ns. The list a holder keeps is ordered from the least recently used. -/
structure Route where
  key : PageKey
  fdie : Nat
  frame : Nat
  w : Bool
  cls : Nat
  rem : Nat
deriving DecidableEq, Repr, Inhabited

/-- An ask that has been sent and whose grant would still be cached: the countdown runs from the ask (18 R378). The class
is not known until the grant, so the time elapsed since the ask is kept, in ns. -/
structure Ask where
  id : Nat
  vdie : Nat
  off : Nat
  age : Nat
  /-- The page is of 2 MiB. -/
  big : Bool := false
deriving DecidableEq, Repr, Inhabited

/-- A holder of leases: its route entries, its asks, and whether its rate monitor forbids asks (18 R376, R380). -/
structure Holder where
  routes : List Route := []
  asks : List Ask := []
deriving DecidableEq, Repr, Inhabited

/-! ## Engine entries (02 R51, 03 R66 to R69) -/

/-- The parameter state of a context (09 R185). -/
structure Params where
  mrows : Nat := 1
  astr : Nat := 0
  drows : Nat := 1
  dstr : Nat := 0
deriving DecidableEq, Repr, Inhabited

/-- A window byte range, from `lo` up to but not including `hi`. -/
structure Span where
  lo : Nat
  hi : Nat
deriving DecidableEq, Repr, Inhabited

/-- One strip's share of an `xb.prog`: repetitions and words; no words means forwarding (10 R217). -/
structure StripProg where
  nr : Nat := 0
  words : List (BitVec 32) := []
deriving DecidableEq, Repr, Inhabited

/-- An issued engine entry with everything it captured at issue. -/
structure Entry where
  num : Nat
  cmd : Instr
  /-- The two walk addresses of each repetition, for the first and second named walk (03 R69). -/
  reps : List (Nat × Nat) := []
  /-- The copy record of each repetition (12 R276). -/
  recs : List (BitVec 512) := []
  /-- The programs of an `xb.prog` (10 R217). -/
  progs : List StripProg := []
  params : Params := {}
  /-- Width and sparsity code of the stationary B that a run was checked against (09 R182). -/
  eB : Nat × Nat := (1, 0)
  ranges : Ranges := {}
  walkA : Walk := {}
  walkB : Walk := {}
  /-- The physical semaphore and threshold of the wait, and the physical semaphore, increment and scope of the signal,
  resolved at issue (20 R410). -/
  wait : Option (Nat × Nat) := none
  wvirt : Nat := 0
  signal : Option (Nat × Nat × Nat) := none
  rd : List Span := []
  wr : List Span := []
  /-- It holds an entry of the range scoreboard (11 R251). -/
  scb : Bool := false
  weight : Nat := 0
  /-- The wait has been met; the entry has started; every repetition has completed; its signal has been applied. -/
  waited : Bool := false
  started : Bool := false
  done : Bool := false
  signalled : Bool := false
  /-- Cycles spent with the wait unmet (23 R447). -/
  cyc : Nat := 0
  /-- Repetition, pass and progress within it. -/
  rep : Nat := 0
  pass : Nat := 0
  pos : Nat := 0
  /-- Bytes taken from a link or the bypass buffer and not yet used (09 R190). -/
  buf : List Byte := []
  /-- Bytes of the row in progress that have been read and not yet written, with their poison marks (11 R266, 12 R283). -/
  carry : List (Byte × Bool) := []
  /-- Shape, lead, height and width of each piece that a PEER operand may name, as they are at issue (11 R242). -/
  peers : List (Nat × Nat × Nat × Nat) := []
  /-- Shape, lead, height and width of the fragment at issue, whose numbering its rows and window offsets keep (09 R182). -/
  geo : Option (Nat × Nat × Nat × Nat) := none
  /-- k(r) of the rows in progress (12 R281). -/
  ix : Map Nat := []
  /-- Source bytes that a `cp.trn` has read with the aligned units they lie in and has not come to yet, by number (11 R266). -/
  kept : Map (Byte × Bool) := []
  /-- An entry that met uncorrectable data (09 R183). -/
  bad : Bool := false
  /-- For a run of `cp.sigw`: the object's write queue holds it (12 R289). -/
  parked : Bool := false
  /-- Landing token opened by `cp.land`, or given up by `cp.lrev`. -/
  token : Nat := 0
deriving DecidableEq, Repr, Inhabited

/-- An engine queue: ISS, the timeline, and the entries not yet retired, oldest first (02 R51). -/
structure EQueue where
  iss : Nat := 0
  ret : Nat := 0
  ents : List Entry := []
deriving DecidableEq, Repr, Inhabited

/-! ## Strip chains (10 R204 to R213) -/

/-- Where a fragment's out-ports go (09 R193). -/
inductive Routing where
  | dflt
  | link (n : Nat)
  | bypass
deriving DecidableEq, Repr, Inhabited

/-- A beat: 192 lanes (10 R205). -/
abbrev Beat := List Lane

/-- The state of one strip (10 R211), and its share of the running group. -/
structure Strip where
  v : Map Beat := []
  p : Map (BitVec 192) := []
  shp : Nat := 0
  ftz : Bool := false
  lg : Nat := 192
  sr : List Lane := []
  flags : BitVec 5 := 0
  /-- The line in progress of `x.pack`: the plane count and each group's exponent byte and planes (10 R229). -/
  packP : Nat := 0
  packLine : List (List Byte) := []
  prog : StripProg := {}
  /-- The next word and the iteration, and whether the strip has finished its share of the group. -/
  ip : Nat := 0
  iter : Nat := 0
  busy : Bool := false
  /-- Records of `x.post` in execution order (10 R237). -/
  posts : List (BitVec 1024) := []
  /-- The beats that the word in progress has popped from in-ports A and B while its push waits for room, and the bytes of its push that
  have left (10 R208). -/
  got : Option (List Lane × List Lane) := none
  sent : Nat := 0
deriving DecidableEq, Repr, Inhabited

/-- A held chain: the physical chain of the die, its strips when bound, its ports in the numbering of 21 R428, and the
byte stream of strip 4. -/
structure Chain where
  phys : Nat
  bound : Bool := false
  strips : Vector Strip 5 := Vector.replicate 5 {}
  ports : Vector (List Beat) 11 := Vector.replicate 11 []
  stream : List Byte := []
  /-- Where the pushes of the out-port go, oldest first, each with the number of its routing, and the routing in force with its number
  (09 R194). -/
  outTo : List (Routing × Nat) := []
  route : Routing := .dflt
  routeNo : Nat := 0
  /-- A group is running (10 R216). -/
  running : Bool := false
  /-- Bound in issue order (10 R215). -/
  iBound : Bool := false
deriving DecidableEq, Repr, Inhabited

/-! ## Fragment contexts (02, 09, 12, 15, 18, 20) -/

/-- The states of a context (20 R408). -/
inductive CtxPhase where
  | free
  | ready
  | restoring
  | run
  | trap
  | parked
  | saving
  | ending
deriving DecidableEq, Repr, Inhabited

/-- One copy context: its engine, its CF registers (12 R299), its leases, and the request it awaits. -/
structure CopyCtx where
  engine : Nat
  stop : Bool := false
  reason : Nat := 0
  repix : Nat := 0
  cfEntry : Nat := 0
  prog : Word := 0
  faddr : Word := 0
  holder : Holder := {}
  /-- The request to device memory in flight, by its number. -/
  req : Option Nat := none
  /-- The HOST read in flight: its host address and bytes, and the ns it has waited (24 R457). -/
  host : Option (Word × Nat) := none
  hostNs : Nat := 0
  /-- The row of a `cp.rw` has been sent and awaits its acknowledgement (12 R293). -/
  ack : Bool := false
deriving DecidableEq, Repr, Inhabited

/-- An open landing (12 R291). -/
structure Landing where
  token : Nat
  lo : Nat
  len : Nat
  ports : BitVec 16
  sem : Nat
  closing : Bool := false
  /-- The layout of the fragment that its window offsets are of (09 R182). -/
  geo : Option (Nat × Nat × Nat × Nat) := none
deriving DecidableEq, Repr, Inhabited

/-- Asynchronous causes held once per source (20 R394). -/
inductive PendCause where
  | interrupt
  | watchdog
  | machineCheck (que entry : Nat)
deriving DecidableEq, Repr, Inhabited

/-- Where a split or a fuse stands between its issue and its effect (09 R198, R199). -/
inductive Reshape where
  | none
  | split (into : Nat) (live pentry : Word)
  | fuse
deriving DecidableEq, Repr, Inhabited

/-- A fragment context: the claim, its piece of the grove, its queues and its registers. -/
structure Ctx where
  st : CtxPhase := .free
  /-- Shape code held (0 to 7), leading block or sequencer, height and width in blocks. -/
  shape : Nat := 0
  lead : Nat := 0
  h : Nat := 1
  w : Nat := 1
  part : Nat := 0
  fn : Nat := 0
  node : Nat := 0
  inst : BitVec 32 := 0
  count : BitVec 32 := 1
  piece : Nat := 0
  /-- The leading sequencers of the grove's pieces in piece order, one when unsplit, and of those not yet retired. -/
  grove : List Nat := []
  alive : List Nat := []
  /-- The unsplit fragment, in piece 0 of a split grove: shape, lead, h, w and chains. -/
  orig : Option (Nat × Nat × Nat × Nat) := none
  origChains : List Nat := []
  /-- The record of the node (02 R33). -/
  record : BitVec 1024 := 0
  /-- Resumption slot of a claim granted for one, and whether a RESTORED with SUB 0 has been posted (20 R414). -/
  slot : Option Nat := none
  restored : Bool := false
  /-- The image's SEMS + 1, which START checks for a resumption. -/
  needSems : Nat := 1
  copies : List CopyCtx := []
  chains : List Chain := []
  semMap : List Nat := []
  queues : Map EQueue := []
  params : Params := {}
  /-- Width code and sparsity code of the stationary B in issue order (09 R182). -/
  iB : Nat × Nat := (1, 0)
  iRouting : Routing := .dflt
  routing : Routing := .dflt
  /-- The number of the link or bypass routing that took effect last, and for each such routing the chain whose turn it is (09 R194). -/
  routeNo : Nat := 0
  turns : Map Nat := []
  bypass : List Byte := []
  /-- Bytes of the link from each sibling handle into this fragment (09 R194). -/
  links : Map (List Byte) := []
  /-- MX_STAT.MCENT, MCE and PZD (09 R203). -/
  mcent : BitVec 32 := 0
  mce : Bool := false
  pzd : Bool := false
  ranges : Ranges := {}
  /-- Cycles without progress, WDOG.LIMIT and WDOG.EN (14 R332). -/
  wdCycles : Nat := 0
  wdLimit : Nat := 0
  wdEn : Bool := false
  /-- ELAPSED has reached LIMIT, and WATCHDOG is to be raised. -/
  wdDue : Bool := false
  /-- The governor's account (15 R339, R346, R347, R351). -/
  load : Nat := 0
  floor : Nat := 0
  pres : Nat := 0
  rslots : BitVec 48 := 0
  bcyc : BitVec 48 := 0
  gwait : BitVec 48 := 0
  /-- `ls.stat` counters 0 to 5 and 7; `held` is counted from the entries (18 R388). -/
  lsc : Vector (BitVec 48) 8 := Vector.replicate 8 0
  fetchHolder : Holder := {}
  landings : List Landing := []
  pend : List PendCause := []
  ctag : Nat := 0
  /-- Elapsed running time of the instance, in ns (21 R420). -/
  elapsed : Nat := 0
  /-- Stopped by the debugger (23 R441). -/
  dbgStop : Bool := false
  /-- Stopped by the cut of a checkpoint (23 R449). -/
  ckStop : Bool := false
  /-- A member of the cut that is being sealed (23 R441). -/
  cut : Bool := false
  /-- The sequencer has executed `tend` (02 R53). -/
  tended : Bool := false
  /-- The context ends in error with this cause, or is killed, and the SUB its QUIESCED carries (20 R416, 21 R423). -/
  endCause : Option Nat := none
  killed : Bool := false
  endSub : Nat := 0
  endBy : Bool := false
  /-- The policy of a PREQ posted for it and not yet satisfied (21 R421). -/
  preq : Option Nat := none
  /-- A QREQ has been posted, at this hub time, by a partition reset (21 R433). -/
  qreq : Option Nat := none
  /-- Save area of a save or restore in progress (20 R412, R413). -/
  area : Word := 0
  /-- The slot that a save in progress has moved to SAVING (21 R424). -/
  saveSlot : Option Nat := none
  /-- Load that the siblings of a split grove have left in the die pool, for the fuse to take back (15 R345). -/
  fuseBack : Nat := 0
  /-- Restored by a replay: stopped until its load has been granted (log entry 93). -/
  revived : Bool := false
  reshape : Reshape := .none
  /-- `sem.wait` registered as a waiter: physical semaphore and threshold, with its cycles of waiting. -/
  semWait : Option (Nat × Nat) := none
  semCyc : Nat := 0
  /-- A piece that has ended while siblings of its grove have not: its blocks stay with the grove (02 R46, R47). -/
  retired : Bool := false
  /-- A piece that has been saved and not resumed: its place stays with the grove, and it has not retired (21 R431; log entry 82). -/
  away : Bool := false
  /-- A piece of the grove has ended in error with this cause, or has been killed (02 R47, 21 R423). -/
  groveErr : Option Nat := none
  groveKill : Bool := false
  /-- The first start of its instance, which the start order of a queue binds (14 R318). -/
  bound : Bool := false
  /-- The argument copy has been staged and the sequencer may fetch (02 R40). -/
  fresh : Bool := true
  /-- Steps of the sequencer so far, by which the order logs place its window accesses (11 R242). -/
  steps : Nat := 0
deriving DecidableEq, Repr, Inhabited

/-! ## Dies (01 R10 to R20) -/

/-- A waiter on a semaphore: a sequencer (queue 15) or an entry, with its threshold (12 R303). -/
structure Waiter where
  ctx : Nat
  que : Nat
  ent : Nat
  thr : Nat
deriving DecidableEq, Repr, Inhabited

/-- A physical semaphore (12 R302), its waiters in the order they began, and the latest release applied to it since it
was mapped: the releasing context tag, queue code and entry (23 R447). -/
structure Sem where
  count : Nat := 0
  ovf : Bool := false
  waiters : List Waiter := []
  rel : Option (Nat × Nat × Nat) := none
  /-- The function whose context mapped it last (17 R365). -/
  fn : Option Nat := none
  /-- The context and virtual number that mapped it first, by which the order logs name it (23 R451). -/
  tag : Nat × Nat := (0, 0)
deriving DecidableEq, Repr, Inhabited

/-- One 2 MiB slice: its bytes, the offsets of uncorrectable bytes, the function that last used it, and the save slot that
owns it as partition, slot and slice number (17 R365, 21 R429). -/
structure Slice where
  mem : Mem := []
  poison : List Nat := []
  lastFn : Option Nat := none
  /-- The claim that had it last, by context tag, and its number in that claim: what its bytes were left by (02 R49, 23 R451). -/
  last : Option (Nat × Nat) := none
  owner : Option (Nat × Nat × Nat) := none
deriving DecidableEq, Repr, Inhabited

/-- One live accumulator row of a bank: 192 words, their PZ bits (08 R172, R176), and the elements that an uncorrectable error has
poisoned (20 R403). -/
structure BankRow where
  vals : List Lane
  pz : BitVec 192 := 0
  ecc : BitVec 192 := 0
deriving DecidableEq, Repr, Inhabited

/-- The stationary B of one block: width code, sparsity code, and the line of each PE row (08 R165, R178). A row that is not
listed is a zero ingot. -/
structure BBlock where
  bw : Nat := 1
  sp : Nat := 0
  lines : Map (List Byte) := []
  /-- PE rows whose lines an uncorrectable error has hit since they were loaded (09 R183, 20 R403). -/
  ecc : List Nat := []
deriving DecidableEq, Repr, Inhabited

/-- Causes delivered to a die's steward (20 R392), each with its context (0xFF for none) and its TRAP_ADDR1. -/
inductive DieCause where
  | copyFault (ctx k : Nat)
  | leaseSkew (unit : Nat)
  | watchdog (ctx : Nat)
  | machineCheck (unit : Nat)
deriving DecidableEq, Repr, Inhabited

/-- A compute die: an array die (0 to 7) or a stream die (8 to 11). -/
structure Die where
  inSvc : Bool := false
  stw : SeqSt := { steward := true, stopped := true }
  /-- The steward memory, 64 KiB (20 R393), and its poisoned bytes. -/
  smem : Mem := []
  smemBad : List Nat := []
  stwVec : Word := 0
  /-- The steward image and its executable segments (20 R393). -/
  image : Mem := []
  imageX : List Span := []
  events : List Word := []
  heldEvents : List Word := []
  sems : Map Sem := []
  slices : Map Slice := []
  banks : Map (Map BankRow) := []
  bmat : Map BBlock := []
  seqs : Map SeqSt := []
  ctxs : Map Ctx := []
  pend : List DieCause := []
  /-- Saves whose claims have gone back and whose SAVED has still to be posted: context, partition and slot (20 R412, 22 R438). -/
  lateSaved : List (Nat × Nat × Nat) := []
  /-- The die pool's load, RISEMAX and DFLOOR (15 R339, R353). -/
  pool : Nat := 0
  risemax : Nat := 32
  dfloor : Nat := 0
  /-- A fault has taken the die out of service, and it draws nothing (15 R345). -/
  dark : Bool := false
  /-- Units whose rate monitor is out of tolerance (18 R380). -/
  skewed : List Nat := []
  /-- Cycle count of the die, for the debug log's TS (23 R446). -/
  cycles : Nat := 0
  /-- Its turn in the staggered power-up has passed (24 R467). -/
  powered : Bool := false
deriving DecidableEq, Repr, Inhabited

/-! ## Memory dies (18) -/

/-- The state of a 64 KiB frame (18 R371). -/
inductive FrameSt where
  | free
  | mapped
  | quar
  | table (part : Nat)
deriving DecidableEq, Repr, Inhabited

/-- A page in quarantine on a frame's die (18 R383): its first frame address, size, home die and offset there, the
remaining ns, the SIG address, the partition and the walker that performed the command. -/
structure Quar where
  frame : Nat
  big : Bool
  home : Nat
  off : Nat
  rem : Nat
  sig : Word
  part : Nat
  walker : Nat
  /-- Its 64 KiB frames that have not been released. -/
  left : List Nat := []
deriving DecidableEq, Repr, Inhabited

/-- The latest hold end of the grants sent for a leaf, in ns from now (18 R378). -/
structure Hold where
  part : Nat
  off : Nat
  rem : Nat
deriving DecidableEq, Repr, Inhabited

/-- A MOVE in progress (18 R385): the page, the new frame, the round, and the dirty lines. -/
structure Move where
  part : Nat
  off : Nat
  big : Bool
  oldDie : Nat
  oldPa : Nat
  newDie : Nat
  newPa : Nat
  round : Nat
  lines : List Nat
  dirty : List Nat
  sig : Word
deriving DecidableEq, Repr, Inhabited

/-- A memory die. -/
structure MemDie where
  inSvc : Bool := false
  /-- Its turn in the staggered power-up has passed (24 R467). -/
  powered : Bool := false
  mem : Mem := []
  poison : List Nat := []
  frames : Map FrameSt := []
  /-- Root table of each partition, and its table pages not yet used (18 R372). -/
  roots : Map Nat := []
  tabFree : Map (List Nat) := []
  /-- WKC0 to WKC3, and WKS as BUSY, SIGERR, ROUNDS and RESULT (18 R374). -/
  wkc : Vector Word 4 := Vector.replicate 4 0
  busy : Bool := false
  sigerr : Bool := false
  rounds : Nat := 0
  result : Nat := 0
  move : Option Move := none
  holds : List Hold := []
  quar : List Quar := []
  /-- LSK_STAT.SKEW, and whether the monitor is out of tolerance (18 R380). -/
  skew : Bool := false
  outTol : Bool := false
  /-- 64 KiB frames written since the last checkpoint (23 R449). -/
  touched : List Nat := []
deriving DecidableEq, Repr, Inhabited

/-! ## The hub (14, 17, 21, 23, 24) -/

/-- A queue of a function (14 R310 to R313). -/
structure HQueue where
  en : Bool := false
  host : Bool := false
  log2n : Nat := 0
  wt : Nat := 1
  age : Nat := 0
  qwd : Nat := 0
  qbase : Word := 0
  head : BitVec 32 := 0
  tail : BitVec 32 := 0
  qerr : Word := 0
  qerrn : Nat := 0
  /-- Records taken, for the order of a barrier (14 R316). -/
  taken : Nat := 0
  /-- DC (14 R321). -/
  dc : Nat := 0
deriving DecidableEq, Repr, Inhabited

/-- MSI-X of a function: the masked vectors, the function's mask, and the pending vectors. Every vector is masked after reset (log
entry 109). -/
structure Msix where
  mask : BitVec 5 := 0x1F
  all : Bool := false
  pend : BitVec 5 := 0
deriving DecidableEq, Repr, Inhabited

/-- The plug-in of a function (17 R369): hub cycles left of its budget while it runs, whether it has returned, its region, and the least and
greatest WT, AGE and QWD that the scheduler allows, each at its place in QCFG. -/
structure Plugin where
  left : Option Nat := none
  done : Bool := false
  region : Mem := []
  lo : Word := 0x0000_1000_0000_0000
  hi : Word := 0x000F_F0FF_FF00_0000
deriving DecidableEq, Repr, Inhabited

/-- A host watch (24 R461). -/
structure Watch where
  a : Word := 0
  t : Word := 0
  en : Bool := false
  fired : Bool := false
  xerr : Bool := false
  /-- Where the armed object lies: memory die and physical address. -/
  at_ : Option (Nat × Nat) := none
deriving DecidableEq, Repr, Inhabited

/-- A virtual function (17 R362, R367, 24 R458, R460). -/
structure Fn where
  map : Bool := false
  part : Nat := 0
  slice : Nat := 0
  gidh : Nat := 0
  drop : BitVec 48 := 0
  istat : BitVec 5 := 0
  /-- Messages sent, by vector, newest last. -/
  msgs : List Nat := []
  msix : Msix := {}
  watches : Map Watch := []
  plug : Plugin := {}
  ranges : Ranges := {}
  queues : Map HQueue := []
  /-- A function-level reset in progress (17 R366). -/
  flr : Bool := false
  /-- No queue has been enabled since the last reset (17 R367). -/
  afterReset : Bool := true
deriving DecidableEq, Repr, Inhabited

/-- How a record came into the hub's hands (14 R314). -/
inductive Came where
  | queue
  | released
  | posted
deriving DecidableEq, Repr, Inhabited

/-- A place of a claim: die, leading block or sequencer, and class (02 R37). -/
structure Place where
  die : Nat
  lead : Nat
  cls : Nat
deriving DecidableEq, Repr, Inhabited

/-- A node: a taken, released or posted record and the progress of its instances (02 R31, R32, 14 R314 to R331). -/
structure Node where
  fn : Nat
  part : Nat
  record : BitVec 1024
  /-- Virtual address of the record, for records reached by release. -/
  addr : Word := 0
  /-- Origin queue: function and queue number. -/
  oFn : Nat
  oQ : Nat
  came : Came
  /-- Position in its queue's order of taking. -/
  seqNo : Nat := 0
  ready : Bool := false
  readyAt : Nat := 0
  lastStart : Nat := 0
  count : Option Nat := none
  /-- Next instance number to open a start for, instances open or running, and instances retired or ended. -/
  started : Nat := 0
  live : Nat := 0
  ended : Nat := 0
  /-- Instances started: their claims granted and their first fetches issued (14 R318). -/
  begun : Nat := 0
  /-- Instances given back before they started, lowest first: they are offered again in their order (log entry 92). -/
  again : List Nat := []
  /-- Killed instances to run again (21 R423). -/
  rerun : List Nat := []
  /-- Cause of the first failing instance. -/
  failed : Option Nat := none
  /-- The kind the error is posted with, when not ECOMP. -/
  failKind : Nat := 2
  stalled : Bool := false
  /-- A member of a gang that has faulted: its error has been posted, and it releases nothing (14 R330). -/
  gangOut : Bool := false
  reserving : Bool := false
  /-- The reserved position while reserving: die, lead and class. -/
  resv : Option Place := none
  gang : Option Nat := none
deriving DecidableEq, Repr, Inhabited

/-- An entry of a pending table (14 R317). -/
structure Pending where
  fn : Nat
  addr : Word
  left : Nat
  err : Bool
  record : BitVec 1024
  oFn : Nat
  oQ : Nat
deriving DecidableEq, Repr, Inhabited

/-- A release the hub has still to apply: the successor's address, whether it is an error release, and the origin. -/
structure Release where
  fn : Nat
  addr : Word
  err : Bool
  oFn : Nat
  oQ : Nat
deriving DecidableEq, Repr, Inhabited

/-- A start whose glades the allocator has found and which waits for ramp slots (15 R342). -/
structure Start where
  part : Nat
  fn : Nat
  node : Nat
  inst : Nat
  slot : Option Nat
  place : Place
  xreq : Bool
  /-- Engines of its copy contexts, and the virtual semaphores it needs (12 R272). -/
  engines : List Nat
  sems : Nat
  /-- What is still to be granted, what has been, and PRES (15 R339, R347). -/
  need : Nat
  granted : Nat
  pres : Nat
  pinned : Bool
  rslots : Nat := 0
  /-- Cycles that its request has waited; the GWAIT of the context starts at 0 (15 R346). -/
  gwait : Nat := 0
  /-- ns since its request opened. -/
  age : Nat := 0
  /-- Its gang, by the node number of the first member taken. -/
  gang : Option Nat := none
  /-- The first start of its instance, which the start order of a queue binds (14 R318). -/
  bound : Bool := false
deriving DecidableEq, Repr, Inhabited

/-- A gang (14 R324 to R330), kept under the node number of its first member taken. -/
structure Gang where
  gid : Nat
  mcnt : Nat
  /-- Members: node number and MIDX. -/
  members : List (Nat × Nat) := []
  asm : Nat := 0
  /-- ns since the first take, since the assembly and since the commit. -/
  age : Nat := 0
  assembled : Bool := false
  waited : Nat := 0
  /-- Reserving, with the reserved position of every instance: node, instance and place. -/
  reserving : Bool := false
  resv : List (Nat × Nat × Place) := []
  /-- Its ramp slots have been asked for. -/
  asked : Bool := false
  committed : Bool := false
  sinceCommit : Nat := 0
deriving DecidableEq, Repr, Inhabited

/-- A save slot (21 R424, R429). -/
inductive SlotSt where
  | free
  | saving
  | suspended
  | restoring
deriving DecidableEq, Repr, Inhabited

structure Slot where
  st : SlotSt := .free
  fn : Nat := 0
  node : Nat := 0
  inst : Nat := 0
  shape : Nat := 0
  sems : Nat := 0
  elapsed : Nat := 0
  since : Nat := 0
  /-- The order of suspension (17 R364). -/
  order : Nat := 0
  /-- The die it must resume on, when an entry is shared (21 R430). -/
  die : Option Nat := none
  /-- The slices still in place, as slice number, die and physical slice. -/
  owned : List (Nat × Nat × Nat) := []
  floor : Nat := 0
  /-- The partial unit of ELAPSED at the save, in cycles, which no image holds (14 R332). -/
  wdPart : Nat := 0
  /-- For a piece of a split grove: the die and the leading sequencer of its place in the grove, which waits for it (21 R431; log entry 82). -/
  own : Option (Nat × Nat) := none
  /-- Offered first, since a world switch brought its function in (17 R364). -/
  first : Bool := false
  reserving : Bool := false
  resv : Option Place := none
deriving DecidableEq, Repr, Inhabited

/-- A record posted by a strip group and not yet taken (10 R237): the record, the context that posted it and the copy
entries that must complete first. -/
structure Posted where
  die : Nat
  ctx : Nat
  record : BitVec 1024
  fn : Nat
  part : Nat
  oFn : Nat
  oQ : Nat
  need : List (Nat × Nat)
deriving DecidableEq, Repr, Inhabited

/-- A choice of the order logs (23 R451). -/
inductive Choice where
  /-- Arrival at the 64-byte line `line` of intermediate addresses, by context and queue. -/
  | line (line : Nat) (ctag que : Nat)
  /-- A grant: the record and instance, the class, height and width in blocks, and whose bytes each slice was left with. -/
  | grant (node inst : Nat) (cls : Nat) (layout : Nat × Nat) (prov : List (Option (Nat × Nat)))
  | token (ctag t : Nat)
  | notify (f q : Nat) (tail : Nat)
  | record (f q : Nat) (bytes : BitVec 1024)
  | hostRead (ctag k : Nat) (bytes : List Byte)
  | arrive (x : Arrival)
  /-- A change of the semaphore that `tag` names, or a waiter that begins on it, by context, queue and entry (11 R259, 12 R303). -/
  | sem (tag : Nat × Nat) (ctag que ent : Nat) (wait : Bool)
  /-- A PEER access of a copy context to the window of another piece, and how far that piece had come (11 R242). -/
  | peer (ctag k target : Nat) (seq : Nat) (queues : List (Nat × List Nat))
deriving DecidableEq, Repr, Inhabited

/-- A memory die's part of a checkpoint. -/
structure MemSnap where
  mem : Mem := []
  poison : List Nat := []
  frames : Map FrameSt := []
  roots : Map Nat := []
  tabFree : Map (List Nat) := []
deriving DecidableEq, Repr, Inhabited

/-- A context's part of a checkpoint: the die and leading sequencer it ran on, and its registers. -/
structure CtxSnap where
  die : Nat
  lead : Nat
  ctx : Ctx
  seq : SeqSt
deriving DecidableEq, Repr, Inhabited

/-- A checkpoint: its number, the memory frames, contexts, slices and hub state of the partition as they stood at the cut
(23 R449). -/
structure Checkpoint where
  num : Nat
  /-- The 64 MiB units of the ring that it takes (23 R448, R450). -/
  units : List Nat := []
  mems : Map MemSnap := []
  ctxs : List CtxSnap := []
  slices : List (Nat × Nat × Slice) := []
  banks : List (Nat × Nat × Map BankRow) := []
  bmats : List (Nat × Nat × BBlock) := []
  sems : List (Nat × Nat × Sem) := []
  queues : List (Nat × Nat × HQueue) := []
  nodes : List (Nat × Node) := []
  gangs : List (Nat × Gang) := []
  pendTab : List Pending := []
  held : List Release := []
  starts : List Start := []
  posted : List Posted := []
  resident : Option Nat := none
  slots : Map Slot := []
  pmsel : Map Word := []
  pmc : Map Word := []
  psid : Word := 0
  words : Map Word := []
  /-- The compute dies in service at the cut (23 R452). -/
  inSvc : List Nat := []
  tagNext : Nat := 0
  /-- The log segment that follows it. -/
  log : List Choice := []
deriving DecidableEq, Repr, Inhabited

/-- A partition (17 R358 to R364, 21 R424, 23). -/
structure Part where
  en : Bool := false
  /-- The staged words and the committed words of the record, by word number (17 R359, R360). -/
  staged : Map Word := []
  words : Map Word := []
  /-- The record that a partition reset puts in force when it completes (17 R360, 21 R433). -/
  nextWords : Map Word := []
  /-- Channels that a commit has removed, by memory die, which stay the partition's until the requests numbered below
  `oldUpto` have been performed (17 R360). -/
  oldChan : Map Nat := []
  oldUpto : Nat := 0
  pc1 : Word := 0x0190_0000_0000_0001
  resident : Option Nat := none
  /-- An outgoing function whose switch is under way (17 R364). -/
  outgoing : Bool := false
  /-- The function that the switch under way brings in. -/
  incoming : Nat := 0
  sliceNs : Nat := 0
  /-- Reset in progress (21 R433), and the kill of its contexts at this age. -/
  resetting : Bool := false
  resetNs : Nat := 0
  pendTab : List Pending := []
  held : List Release := []
  psave : Word := 0
  slots : Map Slot := []
  suspended : Nat := 0
  /-- Turn pointers of the priority levels: function and queue (14 R321). -/
  turn : Map (Nat × Nat) := []
  /-- DSTOP.ALL and CTAG of the stop that is sealing, and whether one is (23 R440). -/
  stopGo : Bool := false
  stopAll : Bool := false
  stopTag : Nat := 0
  dbp : Map (Word × Word) := []
  dbgArea : Word := 0
  logBase : Word := 0
  logCfg : Word := 0
  logHead : Nat := 0
  ckCfg : Word := 0x0032_0400_0000_0000
  ckBase : Word := 0
  ckSize : Word := 0
  ckFail : Bool := false
  ckBusy : Bool := false
  ckNum : Nat := 0
  ckNs : Nat := 0
  ckpts : List Checkpoint := []
  ckNext : Nat := 0
  rpCtl : Word := 0
  rpStat : Word := 0
  rpPos : Word := 0
  /-- The choices still to replay, with the segments after them. -/
  replay : Option (List Choice) := none
  /-- The choices that the turn in progress has made in a replay (23 R452). -/
  made : List Choice := []
  psid : Word := 1
  pmsel : Map Word := []
  pmc : Map Word := []
  tagNext : Nat := 0
  ran : Bool := false
deriving DecidableEq, Repr, Inhabited

/-- What a request does at the memory die (11 R262, R269, 12 R285 to R290, 18 R377). -/
inductive ReqKind where
  | read (n : Nat)
  | write (bytes : List (Byte × Bool))
  | atomic (aop aty : Nat) (v c : Nat) (ret : Bool)
  | sig (v : Word)
  | sigw (v : Word)
  | sigr (v : Word)
  | ask
deriving DecidableEq, Repr, Inhabited

/-- How a request stands: on its way, performed with the bytes it returns, refused with a reason, or to be sent again. -/
inductive ReqSt where
  | sent
  | done (bytes : List (Byte × Bool))
  | refused (reason : Nat)
  | reroute
deriving DecidableEq, Repr, Inhabited

/-- A request of a copy context to device memory (18 R377). -/
structure Req where
  id : Nat
  die : Nat
  ctx : Nat
  /-- Copy context, or 4 for the fetch path. -/
  k : Nat
  part : Nat
  va : Word
  ia : Nat
  kind : ReqKind
  /-- The frame a direct request names. -/
  direct : Option (Nat × Nat) := none
  ask : Bool := false
  stale : Bool := false
  st : ReqSt := .sent
  grant : Option Route := none
  /-- ns since it was sent to the frame that it names (18 R378). -/
  age : Nat := 0
  /-- Held at its object's write queue (12 R289). -/
  waiting : Bool := false
  /-- The memory die and physical address it reached. -/
  at_ : Option (Nat × Nat) := none
deriving DecidableEq, Repr, Inhabited

/-- A HOST write the port has sent: function, host address, bytes, and whether it was poisoned (12 R295). -/
structure HostWrite where
  fn : Nat
  addr : Word
  bytes : List Byte
  poisoned : Bool
deriving DecidableEq, Repr, Inhabited

/-- A piece of a row sent through a Canopy port (12 R293). -/
structure XpkWrite where
  port : Nat
  token : Nat
  off : Nat
  bytes : List Byte
  poisoned : Bool
  signal : Bool
  /-- RED of the command; not 0 for a reduction group of the switch (12 R294). -/
  red : Nat
deriving DecidableEq, Repr, Inhabited

/-- The hub. -/
structure Hub where
  /-- Time on the hub's counter, in ns. -/
  now : Nat := 0
  fns : Map Fn := []
  parts : Map Part := []
  ptErr : Word := 0
  nodes : Map Node := []
  nodeNext : Nat := 0
  gangs : Map Gang := []
  starts : List Start := []
  reqs : List Req := []
  reqNext : Nat := 0
  posted : List Posted := []
  hostOut : List HostWrite := []
  /-- Rows and row pieces sent through Canopy ports, newest last. -/
  xpkOut : List XpkWrite := []
  /-- What was answered to the senders of arriving rows: token and status, 0 or the reason of the refusal (24 R464). -/
  xpkAcks : List (Nat × Nat) := []
  ports : BitVec 16 := 0xFFFF
  tokenNext : Nat := 1
  failedLinks : List (Nat × Nat) := []
  halfLinks : List (Nat × Nat) := []
  /-- Interrupts raised to the scheduler firmware, by kind, newest last. -/
  fwIrq : List Nat := []
  pfMsgs : List Nat := []
  pfMsix : Msix := {}
  /-- PMP entries that the monitor has written (17 R368). -/
  pmp : Map Word := []
  /-- Writes of the firmware that met a RISC-V access fault: the layer, the space and the offset, newest last (17 R359, R368). -/
  accessFaults : List (Priv × RegRef × Nat) := []
  /-- Reads of images through the host port: host address and length, newest last (24 R462). -/
  fwReads : List (Nat × Nat) := []
  mbCmd : Word := 0
  mbBusy : Bool := false
  mbLen : Nat := 0
  mbResult : Nat := 0
  mbData : Mem := []
deriving DecidableEq, Repr, Inhabited

/-! ## The governor (15) -/

/-- A request of an entry or a floor for load, in the order of opening (15 R341). -/
inductive GReq where
  | entry (die ctx que : Nat)
  | floor (die ctx : Nat)
  | dfloor (die : Nat)
  | start (k : Nat)
  | gang (g : Nat)
  | fuse (die ctx : Nat)
deriving DecidableEq, Repr, Inhabited

structure Gov where
  /-- RATE and BURST of GOV_UP and GOV_DN, LCAP and PINWIN (15 R337). -/
  upRate : Nat := 0
  upBurst : Nat := 0
  dnRate : Nat := 0
  dnBurst : Nat := 0
  lcap : Nat := 11280
  pinwin : Nat := 20
  /-- The PINWIN in force: a write takes effect at the next tick boundary (15 R337). -/
  pinNow : Nat := 20
  /-- Tokens in units of 2^-32 ramp unit (15 R338). -/
  upTok : Nat := 0
  dnTok : Nat := 0
  open_ : List GReq := []
  /-- Holders with excess, in the order the excess appeared: die, and context or `none` for the pool. -/
  excess : List (Nat × Option Nat) := []
  /-- The load was at most 1,000 units since the last counted ramp (24 R474). -/
  low : Bool := true
deriving DecidableEq, Repr, Inhabited

/-! ## The platform (24 R458, R467 to R474) -/

structure Platform where
  power : Bool := false
  phase : Nat := 0
  safe : Bool := false
  ready : Bool := false
  /-- Thermal cycles by class and bin, power-ups and ramps; the copy in flash. -/
  thermal : Map (BitVec 48) := []
  powerUps : BitVec 48 := 0
  ramps : BitVec 48 := 0
  flash : Map (BitVec 48) := []
  sinceFlush : Nat := 0
  /-- The fused minimum of the security version, the bundle accepted, and LMS indices used. -/
  minSec : Nat := 0
  bundle : Option Bundle := none
  lmsUsed : Nat := 0
  failedTests : List (Nat × Nat × Nat × Nat) := []
  /-- The training records in flash: settings and tag; the settings in force; and the units that this boot has trained in full (24 R470). -/
  records : Map (Word × BitVec 384) := []
  settings : Map Word := []
  trained : List Nat := []
deriving DecidableEq, Repr, Inhabited

/-! ## The machine -/

/-- Everything but the platform and the turns. -/
structure Sys where
  dies : Map Die := []
  mems : Map MemDie := []
  hub : Hub := {}
  gov : Gov := {}
  /-- How many free values have been used (MODEL'S OWN: the argument of the opaque choices of Config). -/
  used : Nat := 0
deriving DecidableEq, Repr, Inhabited

structure State where
  /-- MODEL'S OWN: the turns already fixed, soonest first; with none, Config.pick chooses. -/
  agenda : List Turn := []
  /-- MODEL'S OWN: turns taken. -/
  tick : Nat := 0
  /-- MODEL'S OWN: the sequencer and the strip whose turn it is. -/
  cur : SeqRef := ⟨0, none⟩
  curStrip : StripRef := {}
  plat : Platform := {}
  sys : Sys := {}
deriving DecidableEq, Repr

/-- The stops of a step that are no refusal. -/
inductive Fault where
  /-- A request names a physical memory die that the package does not have; raised by no meaning on a state that the
  model reaches, since every translation checks the die. Safe: the spec gives no such die (01 R17). -/
  | noSuchDie
deriving DecidableEq, Repr

/-- The stops that say the model gives no meaning. -/
inductive Refusal where
  /-- Raised by an arm of the dispatcher that has no meaning yet. Safe: nothing is claimed of it. -/
  | notModelled (mnemonic : String)
deriving DecidableEq, Repr

/-- The package at power-good reset (24 R468, PHASE 0): no die is in service, nothing is claimed, every register is at the
reset value its rule gives, and memory lists nothing. -/
def State.reset : State := { plat := { power := true } }

end Sys2Proof.Machine
end

