-- ==== Sys2Proof/Machine/Maps.lean ====
section
/-! DEFINITION. Sparse maps and sparse byte memories, each in one canonical form: keys strictly rising, and no byte equal
to what an unlisted address reads as. -/

namespace Sys2Proof.Machine

variable {α : Type}

/-- The value at a key. -/
def mget? : Map α → Nat → Option α
  | [], _ => none
  | (k', v) :: t, k => if k = k' then some v else mget? t k

/-- The value at a key, with the default of an unlisted one. -/
def mgetD (m : Map α) (k : Nat) (d : α) : α := (mget? m k).getD d

/-- Write one key. -/
def mset : Map α → Nat → α → Map α
  | [], k, v => [(k, v)]
  | (k', v') :: t, k, v =>
    if k < k' then (k, v) :: (k', v') :: t
    else if k = k' then (k, v) :: t
    else (k', v') :: mset t k v

/-- Remove one key. -/
def merase (m : Map α) (k : Nat) : Map α := m.filter (fun e => e.1 != k)

/-- Keys strictly rising, all above `lo` when one is given. -/
def risingFrom : Option Nat → Map α → Bool
  | _, [] => true
  | lo, (k, _) :: t => (match lo with | none => true | some l => decide (l < k)) && risingFrom (some k) t

/-- The canonical form of a map. -/
def Map.wf (m : Map α) : Bool := risingFrom none m

/-- What a byte of memory that nothing has written reads as (log entry 2). -/
def unlistedByte : Byte := 0

/-- Read one byte. -/
def rdByte (m : Mem) (a : Nat) : Byte := mgetD m a unlistedByte

/-- Write one byte, keeping the canonical form: the unlisted value is not listed. -/
def wrByte (m : Mem) (a : Nat) (v : Byte) : Mem := if v = unlistedByte then merase m a else mset m a v

/-- The canonical form of a memory: addresses strictly rising, and no entry equal to what an unlisted address reads as. -/
def Memory.wf (m : Mem) : Bool := Map.wf m && m.all (fun c => c.2 != unlistedByte)

/-- Bytes `a` to `a + n - 1`. -/
def rdBytes (m : Mem) (a n : Nat) : List Byte := (List.range n).map (fun k => rdByte m (a + k))

/-- Write bytes from `a` upward. -/
def wrBytes : Mem → Nat → List Byte → Mem
  | m, _, [] => m
  | m, a, b :: t => wrBytes (wrByte m a b) (a + 1) t

/-- Bytes as a little-endian number (00 R1). -/
def leNat : List Byte → Nat
  | [] => 0
  | b :: t => b.toNat + 256 * leNat t

/-- The low `n` bytes of a number, little-endian (00 R1). -/
def leSplit : Nat → Nat → List Byte
  | 0, _ => []
  | n + 1, v => BitVec.ofNat 8 v :: leSplit n (v / 256)

/-- Entries of a memory from `lo` up to but not including `hi`, with addresses counted from `lo`. -/
def sliceOut (m : Mem) (lo hi : Nat) : Mem :=
  (m.filter (fun c => lo ≤ c.1 && c.1 < hi)).map (fun c => (c.1 - lo, c.2))

/-- Remove the entries from `lo` up to but not including `hi`. -/
def clearRange (m : Mem) (lo hi : Nat) : Mem := m.filter (fun c => !(lo ≤ c.1 && c.1 < hi))

/-- Write the listed bytes of `src` at `lo` onwards over `n` bytes of `m`, the rest of the range reading as unlisted. -/
def copyIn (m src : Mem) (lo n : Nat) : Mem :=
  (src.filter (fun c => c.1 < n)).foldl (fun acc c => wrByte acc (lo + c.1) c.2) (clearRange m lo (lo + n))

/-- A set of addresses in rising order without repeats. -/
def sinsert (s : List Nat) (a : Nat) : List Nat :=
  match s with
  | [] => [a]
  | b :: t => if a < b then a :: b :: t else if a = b then b :: t else b :: sinsert t a

def sremove (s : List Nat) (a : Nat) : List Nat := s.filter (fun b => b != a)

/-- Mark or unmark bytes `a` to `a + n - 1` of a poison set. -/
def markBytes (s : List Nat) (a : Nat) : List Bool → List Nat
  | [] => s
  | p :: t => markBytes (if p then sinsert s a else sremove s a) (a + 1) t

/-- Two spans overlap. -/
def Span.meets (x y : Span) : Bool := x.lo < y.hi && y.lo < x.hi && x.lo < x.hi && y.lo < y.hi

/-- Some span of one list overlaps some span of the other. -/
def spansMeet (xs ys : List Span) : Bool := xs.any (fun x => ys.any (fun y => x.meets y))

/-- Replace element `k` of a list. -/
def lset (l : List α) (k : Nat) (v : α) : List α := l.set k v

/-- Change element `k` of a list. -/
def lmod (l : List α) (k : Nat) (f : α → α) : List α :=
  match l[k]? with
  | none => l
  | some v => l.set k (f v)

/-- The first position of an element that `p` accepts. -/
def findIx (p : α → Bool) : List α → Option Nat
  | [] => none
  | a :: t => if p a then some 0 else (findIx p t).map (· + 1)

end Sys2Proof.Machine
end

