-- ==== Sys2Proof/Machine/Ops.lean ====
section
/-! DEFINITION. The named operations over the state: the units of the package, window bytes, device memory through the
walkers, semaphores, die events, the debug log, and taking a trap. -/

namespace Sys2Proof.Machine

/-! ## Units -/

def Sys.die (y : Sys) (d : Nat) : Die := mgetD y.dies d {}
def Sys.setDie (y : Sys) (d : Nat) (v : Die) : Sys := { y with dies := mset y.dies d v }
def Sys.modDie (y : Sys) (d : Nat) (f : Die → Die) : Sys := y.setDie d (f (y.die d))

def Sys.memDie (y : Sys) (m : Nat) : MemDie := mgetD y.mems m {}
def Sys.setMem (y : Sys) (m : Nat) (v : MemDie) : Sys := { y with mems := mset y.mems m v }
def Sys.modMem (y : Sys) (m : Nat) (f : MemDie → MemDie) : Sys := y.setMem m (f (y.memDie m))

def Sys.modHub (y : Sys) (f : Hub → Hub) : Sys := { y with hub := f y.hub }
def Sys.part (y : Sys) (p : Nat) : Part := mgetD y.hub.parts p {}
def Sys.modPart (y : Sys) (p : Nat) (f : Part → Part) : Sys :=
  y.modHub (fun h => { h with parts := mset h.parts p (f (mgetD h.parts p {})) })
def Sys.fn (y : Sys) (f : Nat) : Fn := mgetD y.hub.fns f {}
def Sys.modFn (y : Sys) (f : Nat) (g : Fn → Fn) : Sys :=
  y.modHub (fun h => { h with fns := mset h.fns f (g (mgetD h.fns f {})) })
def Fn.queue (v : Fn) (q : Nat) : HQueue := mgetD v.queues q {}
def Sys.modQueue (y : Sys) (f q : Nat) (g : HQueue → HQueue) : Sys :=
  y.modFn f (fun v => { v with queues := mset v.queues q (g (v.queue q)) })

def Sys.ctx (y : Sys) (d k : Nat) : Ctx := mgetD (y.die d).ctxs k {}
def Sys.setCtx (y : Sys) (d k : Nat) (c : Ctx) : Sys := y.modDie d (fun v => { v with ctxs := mset v.ctxs k c })
def Sys.modCtx (y : Sys) (d k : Nat) (f : Ctx → Ctx) : Sys := y.setCtx d k (f (y.ctx d k))

/-- The register state of a sequencer; `none` is the die's steward sequencer. -/
def Sys.seq (y : Sys) (r : SeqRef) : SeqSt :=
  match r.idx with
  | none => (y.die r.die).stw
  | some k => mgetD (y.die r.die).seqs k {}

def Sys.setSeq (y : Sys) (r : SeqRef) (q : SeqSt) : Sys :=
  match r.idx with
  | none => y.modDie r.die (fun v => { v with stw := q })
  | some k => y.modDie r.die (fun v => { v with seqs := mset v.seqs k q })

def Sys.modSeq (y : Sys) (r : SeqRef) (f : SeqSt → SeqSt) : Sys := y.setSeq r (f (y.seq r))

/-- The context of a task sequencer; the default context for a steward sequencer. -/
def Sys.ctxOf (y : Sys) (r : SeqRef) : Ctx :=
  match r.idx with
  | none => {}
  | some k => y.ctx r.die k

def Sys.modCtxOf (y : Sys) (r : SeqRef) (f : Ctx → Ctx) : Sys :=
  match r.idx with
  | none => y
  | some k => y.modCtx r.die k f

/-- An array die; the others are stream dies (01 R10). -/
def isArray (d : Nat) : Bool := d < Config.arrayDies

/-- Task sequencers of a die (01 R20). -/
def seqsOf (d : Nat) : Nat := if isArray d then 36 else 24

/-- Queue `q` of a context, in the QUE codes of 20 R398. -/
def Ctx.queue (c : Ctx) (q : Nat) : EQueue := mgetD c.queues q {}
def Ctx.setQueue (c : Ctx) (q : Nat) (v : EQueue) : Ctx := { c with queues := mset c.queues q v }
def Ctx.modQueue (c : Ctx) (q : Nat) (f : EQueue → EQueue) : Ctx := c.setQueue q (f (c.queue q))

/-- The QUE codes of the queues the context holds (02 R51). -/
def Ctx.queueCodes (c : Ctx) : List Nat :=
  (if c.shape = 7 then [] else [0]) ++ (List.range c.chains.length).map (· + 1) ++
    (List.range c.copies.length).map (· + 8)

/-- Every issued, unretired entry with its queue code. -/
def Ctx.entries (c : Ctx) : List (Nat × Entry) :=
  c.queueCodes.flatMap (fun q => (c.queue q).ents.map (fun e => (q, e)))

/-- The live sequencer state is the context's own (20 R408): it holds a claim. -/
def Ctx.isFree (c : Ctx) : Bool := c.st == .free

/-- The context is stopped: by the debugger, for a checkpoint, or until its load is granted in a replay (23 R441, R449, R452). -/
def Ctx.stopped (c : Ctx) : Bool := c.dbgStop || c.ckStop || c.revived

/-- Every context of the package that holds a claim: die, leading sequencer, context. -/
def Sys.contexts (y : Sys) : List (Nat × Nat × Ctx) :=
  y.dies.flatMap (fun dv => (dv.2.ctxs.filter (fun c => !c.2.isFree)).map (fun c => (dv.1, c.1, c.2)))

/-! ## Shapes (02 R37) -/

/-- Height and width in blocks of a class. -/
def shapeSize : Nat → Nat × Nat
  | 0 => (6, 6)
  | 1 => (3, 6)
  | 2 => (6, 3)
  | 3 => (3, 3)
  | 4 => (1, 6)
  | 5 => (6, 1)
  | _ => (1, 1)

/-- The physical blocks (or the stream sequencer) of a fragment, in row-major order (02 R42). -/
def blocksOf (shape lead h w : Nat) : List Nat :=
  if shape = 7 then [lead]
  else (List.range (h * w)).map (fun k => lead + 6 * (k / w) + k % w)

def Ctx.blocks (c : Ctx) : List Nat := blocksOf c.shape c.lead c.h c.w

/-- A fragment as an entry found it at issue: its shape, lead, height and width (09 R182). -/
def Ctx.asIssued (c : Ctx) (geo : Option (Nat × Nat × Nat × Nat)) : Ctx :=
  match geo with
  | none => c
  | some (s, l, h, w) => { c with shape := s, lead := l, h := h, w := w }

/-- The fragment of an entry, as the entry was checked against it: a fuse since then changes neither its rows nor its window offsets
(09 R182, 08 R173). -/
def Sys.ctxFor (y : Sys) (d l : Nat) (e : Entry) : Ctx := (y.ctx d l).asIssued e.geo

/-- The window size in bytes (02 R37, R42). -/
def Ctx.wsz (c : Ctx) : Nat := c.blocks.length * Config.sliceBytes

/-- WSZ of a sequencer: its fragment's window, or the steward memory (20 R393). -/
def Sys.wsz (y : Sys) (r : SeqRef) : Nat :=
  match r.idx with
  | none => Config.stewardBytes
  | some k => (y.ctx r.die k).wsz

/-! ## Window bytes (02 R42) -/

def Die.slice (v : Die) (k : Nat) : Slice := mgetD v.slices k {}

/-- The physical slice and the offset in it of a window offset. -/
def Ctx.place (c : Ctx) (off : Nat) : Nat × Nat :=
  (c.blocks.getD (off / Config.sliceBytes) c.lead, off % Config.sliceBytes)

/-- One byte of a context's window, with its poison mark. -/
def winByte (v : Die) (c : Ctx) (off : Nat) : Byte × Bool :=
  let (k, o) := c.place off
  let s := v.slice k
  (rdByte s.mem o, s.poison.contains o)

def winRead (v : Die) (c : Ctx) (off n : Nat) : List (Byte × Bool) :=
  (List.range n).map (fun i => winByte v c (off + i))

/-- Write one window byte with its poison mark. -/
def winPut (v : Die) (c : Ctx) (off : Nat) (b : Byte × Bool) : Die :=
  let (k, o) := c.place off
  let s := v.slice k
  { v with slices := mset v.slices k { s with
      mem := wrByte s.mem o b.1
      poison := if b.2 then sinsert s.poison o else sremove s.poison o } }

def winWrite (v : Die) (c : Ctx) : Nat → List (Byte × Bool) → Die
  | _, [] => v
  | off, b :: t => winWrite (winPut v c off b) c (off + 1) t

/-- Bytes without poison. -/
def clean (bs : List Byte) : List (Byte × Bool) := bs.map (fun b => (b, false))

/-- Window bytes as a number. -/
def winNat (v : Die) (c : Ctx) (off n : Nat) : Nat := leNat ((winRead v c off n).map (·.1))

/-- Window bytes of a sequencer: its context's window, or the steward memory of a steward sequencer. -/
def Sys.seqRead (y : Sys) (r : SeqRef) (off n : Nat) : List (Byte × Bool) :=
  match r.idx with
  | none => (rdBytes (y.die r.die).smem off n).mapIdx (fun i b => (b, (y.die r.die).smemBad.contains (off + i)))
  | some k => winRead (y.die r.die) (y.ctx r.die k) off n

def Sys.seqWrite (y : Sys) (r : SeqRef) (off : Nat) (bs : List Byte) : Sys :=
  match r.idx with
  | none => y.modDie r.die (fun v =>
      { v with smem := wrBytes v.smem off bs, smemBad := v.smemBad.filter (fun a => a < off || off + bs.length ≤ a) })
  | some k => y.modDie r.die (fun v => winWrite v (y.ctx r.die k) off (clean bs))

/-! ## The partition record (17 R359) -/

/-- Committed word `n` (offset 8n) of partition `p`. -/
def Part.word (p : Part) (n : Nat) : Nat := (mgetD p.words n 0).toNat

def bitOf (x n : Nat) : Bool := x / 2 ^ n % 2 == 1
def bitsOf (x lo n : Nat) : Nat := x / 2 ^ lo % 2 ^ n

def Part.nvd (p : Part) : Nat := bitsOf (p.word 2) 48 4
/-- The physical memory die of partition-virtual number `k` (11 R250, 17 R361). -/
def Part.vdie (p : Part) (k : Nat) : Option Nat :=
  if k < p.nvd then some (bitsOf (p.word 2) (4 * k) 4) else none
/-- The partition owns channel `c` of memory die `m`. -/
def Part.ownsChan (p : Part) (m c : Nat) : Bool := bitOf (p.word (15 + m)) c
/-- A channel is the partition's: by its record while it is enabled or being reset, or until requests older than its removal have been
performed (17 R358, R360). -/
def Sys.ownsChan (y : Sys) (part m c : Nat) : Bool :=
  let p := y.part part
  ((p.en || p.resetting) && p.ownsChan m c) ||
    (bitOf (mgetD p.oldChan m 0) c && y.hub.reqs.any (fun q => q.part == part && q.id < p.oldUpto && q.st == .sent))
/-- The word of compute die `d`: AWd for an array die, SWd for a stream die. -/
def Part.dieWord (p : Part) (d : Nat) : Nat := if isArray d then p.word (3 + d) else p.word (11 + (d - 8))
/-- It owns block or stream sequencer `k` of die `d`. -/
def Part.ownsBlock (p : Part) (d k : Nat) : Bool := bitOf (p.dieWord d) k
def Part.ownsChain (p : Part) (d k : Nat) : Bool :=
  if isArray d then bitOf (p.dieWord d) (36 + k) else bitOf (p.dieWord d) k
def Part.ownsEngine (p : Part) (d e : Nat) : Bool :=
  if isArray d then bitOf (p.dieWord d) (42 + e) else bitOf (p.dieWord d) (24 + e)
/-- Its physical semaphores on die `d`: the first, and how many. -/
def Part.semRange (p : Part) (d : Nat) : Nat × Nat :=
  (128 * bitsOf (p.dieWord d) 50 7, 128 * bitsOf (p.dieWord d) 57 7)

/-! ## Translation (11 R247, 18 R372, R373) -/

/-- The permissions an access needs (11 R247). -/
inductive Need where
  | rd
  | wr
  | rw
  | ex
deriving DecidableEq, Repr

def Need.bits : Need → Nat
  | .rd => 1
  | .wr => 2
  | .rw => 3
  | .ex => 4

def Need.writes : Need → Bool
  | .wr => true
  | .rw => true
  | _ => false

/-- Reason codes of 11 R248 and 12 R300. -/
def xfCanon : Nat := 1
def xfRange : Nat := 2
def xfPerm : Nat := 3
def xfDie : Nat := 4
def xfWalk : Nat := 5

/-- The lowest-numbered valid range that contains `u` decides (11 R247). -/
def matchRange (g : Ranges) (u : Nat) (need : Need) : List Nat → Except Nat Nat
  | [] => .error xfRange
  | k :: t =>
    let b := (g.vmb.toList.getD k 0).toNat
    let i := (g.vmi.toList.getD k 0).toNat
    let lo := bitsOf b 21 36 * 2 ^ 21
    if bitOf b 3 && lo ≤ u && u < lo + (bitsOf i 37 27 + 1) * 2 ^ 21 then
      if Nat.land need.bits (bitsOf b 0 3) != need.bits then .error xfPerm
      else
        let ia := bitsOf i 0 27 * 2 ^ 21 + (u - lo)
        if ia ≥ 2 ^ 48 then .error xfRange
        else if ia / 2 ^ 44 ≥ 12 then .error xfDie
        else .ok ia
    else matchRange g u need t

/-- A virtual address is canonical when its bits [63:57] equal bit 56 (11 R244). -/
def canonical (v : Word) : Bool :=
  v.toNat / 2 ^ 56 == 0 || v.toNat / 2 ^ 56 == 2 ^ 8 - 1

/-- VirtToInt of 11 R247. -/
def virtToInt (g : Ranges) (v : Word) (need : Need) : Except Nat Nat :=
  if !canonical v then .error xfCanon
  else matchRange g (v.toNat % 2 ^ 57) need (List.range 8)

/-- A translated page: the frame's die, the physical address, the lease class, MG, W, and the page. -/
structure Leaf where
  fdie : Nat
  pa : Nat
  lc : Nat
  mg : Bool
  w : Bool
  pageOff : Nat
  big : Bool
  /-- Where the entry stands in table memory of the home die. -/
  slot : Nat
deriving DecidableEq, Repr, Inhabited

def dev64 (m : MemDie) (pa : Nat) : Nat := leNat (rdBytes m.mem pa 8)

/-- The index of a page offset at each level (18 R372). -/
def levelIx (off : Nat) : Nat → Nat
  | 0 => bitsOf off 39 5
  | 1 => bitsOf off 30 9
  | 2 => bitsOf off 21 9
  | _ => bitsOf off 16 5

/-- The walk from the table at `tab`, level `lvl`, with `fuel` levels left: the place, value and level of the entry that
ends it (18 R373). -/
def walkTab (m : MemDie) (off : Nat) : Nat → Nat → Nat → Option (Nat × Nat × Nat)
  | 0, _, _ => none
  | fuel + 1, lvl, tab =>
    let a := tab + 8 * levelIx off lvl
    let e := dev64 m a
    if !bitOf e 63 || bitsOf e 40 17 != 0 || bitsOf e 0 12 != 0 then none
    else if bitOf e 62 then some (a, e, lvl)
    else if lvl = 3 || bitsOf e 36 4 != 0 then none
    else walkTab m off fuel (lvl + 1) (bitsOf e 12 24 * 4096)

/-- The leaf that covers an offset of a partition on its home die, whatever the access (18 R373). -/
def findLeaf (m : MemDie) (part off : Nat) : Option Leaf :=
  match mget? m.roots part with
  | none => none
  | some root =>
    match walkTab m off 4 0 root with
    | none => none
    | some (a, e, lvl) =>
      if lvl < 2 then none
      else
        let big := lvl == 2
        let sz := if big then 2 ^ 21 else 2 ^ 16
        some { fdie := bitsOf e 36 4, pa := bitsOf e 16 20 * 2 ^ 16 + off % sz, lc := bitsOf e 59 3,
               mg := bitOf e 57, w := bitOf e 58, pageOff := off - off % sz, big := big, slot := a }

/-- The walker's translation of an offset for an access, on the home die `home` (18 R373). -/
def walkerXlate (y : Sys) (home part off : Nat) (need : Need) : Option Leaf :=
  match findLeaf (y.memDie home) part off with
  | none => none
  | some l =>
    if l.fdie ≥ 12 || !(y.memDie l.fdie).inSvc || !y.ownsChan part l.fdie (l.pa / 2 ^ 31) then none
    else if need.writes && !l.w then none
    else some l

/-- An intermediate address of a partition, for an access: the memory die and physical address, or the reason
(11 R250, 17 R361, 18 R373). -/
def intXlate (y : Sys) (part ia : Nat) (need : Need) : Except Nat Leaf :=
  match (y.part part).vdie (ia / 2 ^ 44) with
  | none => .error xfDie
  | some home =>
    if !(y.memDie home).inSvc then .error xfWalk
    else match walkerXlate y home part (ia % 2 ^ 44) need with
      | none => .error xfWalk
      | some l => .ok l

/-- A virtual address of a range set, for an access. -/
def virtXlate (y : Sys) (part : Nat) (g : Ranges) (v : Word) (need : Need) : Except Nat Leaf :=
  match virtToInt g v need with
  | .error e => .error e
  | .ok ia => intXlate y part ia need

/-! ## Device memory bytes -/

def devByte (y : Sys) (md pa : Nat) : Byte × Bool :=
  let m := y.memDie md
  (rdByte m.mem pa, m.poison.contains pa)

def devRead (y : Sys) (md pa n : Nat) : List (Byte × Bool) := (List.range n).map (fun i => devByte y md (pa + i))

def memPut (m : MemDie) : Nat → List (Byte × Bool) → MemDie
  | _, [] => m
  | pa, b :: t =>
    memPut { m with
      mem := wrByte m.mem pa b.1
      poison := (if b.2 then sinsert m.poison pa else sremove m.poison pa)
      touched := sinsert m.touched (pa / 2 ^ 16) } (pa + 1) t

/-- Vector `k` may not be sent. -/
def Msix.blocks (m : Msix) (k : Nat) : Bool := m.all || m.mask.getLsbD k

/-- A message of vector `k`: sent, after those of `sent`, or pending while the vector is masked (24 R460). -/
def Msix.send (m : Msix) (k : Nat) (sent : List Nat) : Msix × List Nat :=
  if m.blocks k then ({ m with pend := m.pend ||| BitVec.ofNat 5 (2 ^ k) }, sent) else (m, sent ++ [k])

/-- The messages that wait and may be sent now. -/
def Msix.ready (m : Msix) : List Nat := (List.range 5).filter (fun k => m.pend.getLsbD k && !m.blocks k)

/-- New masks: what waited on a vector that is masked no more is sent. -/
def Msix.setMask (m : Msix) (mask : BitVec 5) (all : Bool) (sent : List Nat) : Msix × List Nat :=
  let m := { m with mask := mask, all := all }
  ({ m with pend := if all then m.pend else m.pend &&& mask }, sent ++ m.ready)

/-- Set a bit of ISTAT, sending its vector when the bit rises (24 R460). -/
def raiseIstat (v : Fn) (k : Nat) : Fn :=
  let bit : BitVec 5 := BitVec.ofNat 5 (2 ^ k)
  if v.istat &&& bit = 0 then
    let (m, l) := v.msix.send k v.msgs
    { v with istat := v.istat ||| bit, msix := m, msgs := l }
  else v

/-- A message of the physical function (24 R460). -/
def sendPf (k : Nat) (y : Sys) : Sys :=
  let (m, l) := y.hub.pfMsix.send k y.hub.pfMsgs
  y.modHub (fun h => { h with pfMsix := m, pfMsgs := l })

/-- A watch fires (24 R461). -/
def fireWatch (v : Fn) (k : Nat) : Fn :=
  let w := mgetD v.watches k {}
  raiseIstat { v with watches := mset v.watches k { w with en := false, fired := true } } (k + 1)

/-- The 64-bit value of a signal object; none while some byte of it is uncorrectable (11 R262; log entry 37). -/
def objValue (y : Sys) (md pa : Nat) : Option Word :=
  if (devRead y md pa 8).any (·.2) then none else some (BitVec.ofNat 64 (dev64 (y.memDie md) pa))

/-- The condition of a `cp.sigw` or a watch: the object's value, as a signed number, is at most the threshold (12 R289, 24 R461). -/
def atMost (val : Option Word) (t : Word) : Bool := (val.map (fun x => x.sle t)).getD false

/-- The watches of a function that stand on the object at `(md, pa)`, whose value is `val`, fire when it is at most their
threshold (24 R461). -/
def checkWatches (md pa : Nat) (val : Option Word) (v : Fn) : Fn :=
  v.watches.foldl (fun acc kw =>
    let w := mgetD acc.watches kw.1 {}
    if w.en && w.at_ = some (md, pa) && atMost val w.t then fireWatch acc kw.1 else acc) v

/-- A waiting `cp.sigw` request on the object at `(md, pa)` completes when the value is at most its threshold
(12 R289). -/
def checkSigw (md pa : Nat) (val : Option Word) (q : Req) : Req :=
  match q.kind with
  | .sigw t => if q.waiting && q.at_ = some (md, pa) && atMost val t then { q with waiting := false, st := .done [] } else q
  | _ => q

/-- After a modification of the aligned 64-bit value at `pa`, its waiters and watches evaluate it again. -/
def objCheck (y : Sys) (md pa : Nat) : Sys :=
  let val := objValue y md pa
  y.modHub (fun h => { h with
    reqs := h.reqs.map (checkSigw md pa val)
    fns := h.fns.map (fun fv => (fv.1, checkWatches md pa val fv.2)) })

/-- Note the 256-byte lines written of a page that is being moved (18 R385). -/
def noteDirty (mv : Move) (md pa n : Nat) : Move :=
  let sz := if mv.big then 2 ^ 21 else 2 ^ 16
  if md = mv.oldDie && mv.oldPa ≤ pa && pa < mv.oldPa + sz then
    let ls := (List.range ((pa + n - 1) / 256 - pa / 256 + 1)).map (fun i => pa / 256 + i - mv.oldPa / 256)
    { mv with dirty := ls.foldl sinsert mv.dirty }
  else mv

/-- The write queue of a memory die accepts a write (11 R271): the bytes, the dirty lines of a move, and every object the
write touches. -/
def devWrite (y : Sys) (md pa : Nat) (bs : List (Byte × Bool)) : Sys :=
  let y := y.modMem md (fun m => memPut m pa bs)
  let y := { y with mems := y.mems.map (fun mv => (mv.1, { mv.2 with
      move := mv.2.move.map (fun v => noteDirty v md pa bs.length) })) }
  if bs.isEmpty then y
  else (List.range ((pa + bs.length - 1) / 8 - pa / 8 + 1)).foldl (fun y i => objCheck y md (8 * (pa / 8 + i))) y

/-! ## The order logs (23 R451) -/

/-- The log segment after the last checkpoint takes a choice; without a checkpoint nothing is kept. -/
def addToLast (c : Choice) : List Checkpoint → List Checkpoint
  | [] => []
  | [k] => [{ k with log := k.log ++ [c] }]
  | k :: t => k :: addToLast c t

def recordChoice (y : Sys) (part : Nat) (c : Choice) : Sys := y.modPart part (fun p => { p with ckpts := addToLast c p.ckpts })

/-- A choice that a turn makes: recorded in a live run; in a replay, held against the log when the turn is over (23 R452). -/
def note (y : Sys) (part : Nat) (c : Choice) : Sys :=
  y.modPart part (fun p => if p.replay.isSome then { p with made := p.made ++ [c] } else { p with ckpts := addToLast c p.ckpts })

/-- A write of the hub or of a die's microsteps is recorded at every line it touches. -/
def noteLines (y : Sys) (part ia n : Nat) : Sys :=
  if (y.part part).replay.isNone && (y.part part).ckpts.isEmpty || n = 0 then y
  else (List.range ((ia + n - 1) / 64 - ia / 64 + 1)).foldl (fun y i => note y part (.line (ia / 64 + i) 0 15)) y

/-- Two choices are alternatives at one place: one line, one landing, one source of host input. -/
def sameKey : Choice → Choice → Bool
  | .line a _ _, .line b _ _ => a == b
  | .grant _ _ _ _ _, .grant _ _ _ _ _ => true
  | .token a _, .token b _ => a == b
  | .notify f q _, .notify f' q' _ => f == f' && q == q'
  | .record f q _, .record f' q' _ => f == f' && q == q'
  | .hostRead c k _, .hostRead c' k' _ => c == c' && k == k'
  | .arrive a, .arrive b => a.token == b.token
  | .sem a _ _ _ _, .sem b _ _ _ _ => a == b
  | .peer _ _ a _ _, .peer _ _ b _ _ => a == b
  | _, _ => false

/-- How far one queue has come is not beyond how far it came another time. -/
def notBeyond : List Nat → List Nat → Bool
  | [], _ => true
  | _ :: _, [] => false
  | a :: t, b :: u => a < b || (a == b && notBeyond t u)

def queueAt (qs : List (Nat × List Nat)) (q : Nat) : List Nat := mgetD qs q [0]

/-- A choice about to be made is the logged one. A grant brings the bytes of its slices with it, and a PEER access waits until the piece it
reaches has come as far as it had. -/
def asLogged (c c' : Choice) : Bool :=
  match c, c' with
  | .grant n i k _ _, .grant n' i' k' _ _ => n == n' && i == i' && k == k'
  | .peer a k t n qs, .peer a' k' t' n' qs' =>
    a == a' && k == k' && t == t' && n' ≤ n && qs'.all (fun q => notBeyond q.2 (queueAt qs q.1))
  | c, c' => c == c'

/-- The next logged choice for the place of `c`. -/
def Part.logged (p : Part) (c : Choice) : Option Choice := p.replay.bind (fun l => l.find? (sameKey c))

/-- A write that the hub or a die's microsteps make themselves: a context image, a cut record, a record of the debug log
(log entry 59). -/
def ownWrite : Choice → Bool
  | .line _ 0 15 => true
  | _ => false

/-- A segment that has been replayed gives way to the next one retained (23 R453: SEG and POS). -/
def Part.nextSegment (p : Part) : Nat → Part
  | 0 => p
  | fuel + 1 =>
    match p.replay, p.ckpts.find? (fun k => bitsOf p.rpStat.toNat 0 32 < k.num) with
    | some l, some k =>
      if !l.all ownWrite then p
      else { p with replay := some k.log, rpPos := 0, rpStat := BitVec.ofNat 64 (p.rpStat.toNat / 2 ^ 32 * 2 ^ 32 + k.num % 2 ^ 32) }.nextSegment fuel
    | _, _ => p

/-- A logged choice has been made. -/
def Part.consume (p : Part) (c : Choice) : Part :=
  { p with replay := p.replay.map (fun (l : List Choice) => l.erase c), rpPos := p.rpPos + 1 }.nextSegment p.ckpts.length

/-- The segment being replayed is the last one retained. -/
def Part.lastSegment (p : Part) : Bool := !p.ckpts.any (fun k => bitsOf p.rpStat.toNat 0 32 < k.num)

/-- Every logged choice has been made: the replay is about to be done. -/
def Part.spent (p : Part) : Bool := (p.replay.map (fun (l : List Choice) => l.all ownWrite)).getD false && p.lastSegment

/-- The choices of the segments after the one that is being replayed. -/
def Part.laterLogs (p : Part) : List Choice := (p.ckpts.filter (fun k => bitsOf p.rpStat.toNat 0 32 < k.num)).flatMap (·.log)

/-- The log does not predict a choice for whose place the segment in progress has none left: no later segment has one, and the log has not
ended (23 R452). -/
def Part.unforeseen (p : Part) (c : Choice) : Bool := !p.spent && !p.laterLogs.any (sameKey c)

/-- Write through an intermediate address of a partition, byte runs within pages; `none` when the walker refuses. -/
def intWrite (y : Sys) (part ia : Nat) (bs : List (Byte × Bool)) : Option Sys :=
  match intXlate y part ia .wr with
  | .error _ => none
  | .ok l => some (noteLines (devWrite y l.fdie l.pa bs) part ia bs.length)

/-- Read `n` bytes that lie in one page through an intermediate address. -/
def intRead (y : Sys) (part ia n : Nat) : Option (List (Byte × Bool)) :=
  match intXlate y part ia .rd with
  | .error _ => none
  | .ok l => some (devRead y l.fdie l.pa n)

/-! ## The debug log (23 R445, R446) -/

/-- Write one record of KIND `kind` with time stamp `ts` when the log and the kind are on; WAIT records, and the BPHIT records that
have no bit in MASK, are written whenever the log is on. -/
def writeRecord (y : Sys) (part kind que ctag ent : Nat) (d1 d2 : Word) (ts : Nat) : Sys :=
  let p := y.part part
  if !bitOf p.logCfg.toNat 63 || (kind != 3 && kind < 9 && !bitOf p.logCfg.toNat (40 + (kind - 1))) then y
  else
    let n := 2 ^ bitsOf p.logCfg.toNat 51 5
    let ia := p.logBase.toNat + 32 * (p.logHead % n)
    let d0 := kind * 2 ^ 56 + que * 2 ^ 52 + ctag % 2 ^ 16 * 2 ^ 32 + ent % 2 ^ 32
    let bytes := leSplit 8 d0 ++ leSplit 8 d1.toNat ++ leSplit 8 d2.toNat ++ leSplit 8 (ts % 2 ^ 48)
    let y := match intWrite y part ia (clean bytes) with
      | some y' => y'
      | none => y
    y.modPart part (fun p => { p with logHead := p.logHead + 1 })

/-- HEAD as LOG_CFG shows it: the count of records, saturated. -/
def Part.logHeadField (p : Part) : Nat := min p.logHead (2 ^ 40 - 1)

/-- A record that a die writes, with its cycle count. -/
def debugLog (y : Sys) (d part kind que ctag ent : Nat) (d1 d2 : Word) : Sys :=
  writeRecord y part kind que ctag ent d1 d2 (y.die d).cycles

/-! ## Breakpoints (23 R444) -/

/-- Breakpoint `k`: DBPk_C and DBPk_V. -/
def Part.bp (p : Part) (k : Nat) : Word × Word := mgetD p.dbp k (0, 0)

/-- The breakpoint is armed for this context. -/
def bpFor (c : Ctx) (b : Word × Word) : Bool := bitOf b.1.toNat 63 && (bitOf b.1.toNat 55 || bitsOf b.1.toNat 0 16 == c.ctag)

def bpKind (b : Word × Word) : Nat := bitsOf b.1.toNat 60 3
def bpQue (b : Word × Word) : Nat := bitsOf b.1.toNat 56 4

/-- KIND 0: the next step of the sequencer is at the address. -/
def bpStep (y : Sys) (r : SeqRef) (b : Word × Word) : Bool := bpKind b == 0 && (y.seq r).pc == b.2

/-- KIND 1: the entry is at the head of its queue, unstarted. -/
def bpEntry (c : Ctx) (unit : List Entry) (q : Nat) (b : Word × Word) : Bool :=
  bpKind b == 1 && bpQue b == q && !c.isFree && unit.any (fun e => e.num == b.2.toNat && !e.started)

/-- An armed breakpoint holds the next step of a task sequencer. -/
def stepHeld (y : Sys) (r : SeqRef) : Bool :=
  match r.idx with
  | none => false
  | some k => (y.part (y.ctx r.die k).part).dbp.any (fun b => bpFor (y.ctx r.die k) b.2 && bpStep y r b.2)

/-- An armed breakpoint holds the head of a queue. -/
def entryHeld (y : Sys) (d l q : Nat) (unit : List Entry) : Bool :=
  (y.part (y.ctx d l).part).dbp.any (fun b => bpFor (y.ctx d l) b.2 && bpEntry (y.ctx d l) unit q b.2)

/-! ## Profiling (23 R455) -/

/-- The counters of a session that count event `ev` add `n`, modulo 2^48 with OVF (23 R454). -/
def addCount (p : Part) (ev n : Nat) : Part :=
  { p with pmc := p.pmsel.foldl (fun m kv =>
      if bitOf kv.2.toNat 63 && bitsOf kv.2.toNat 0 16 == ev then
        let old := (mgetD m kv.1 0).toNat
        let sum := old % 2 ^ 48 + n
        mset m kv.1 (BitVec.ofNat 64 ((if bitOf old 62 || 2 ^ 48 ≤ sum then 2 ^ 62 else 0) + sum % 2 ^ 48))
      else m) p.pmc }

/-- An occurrence of event `ev`, `n` times, in a partition; an event the set does not hold counts nothing (23 R455, R456). -/
def countEvent (y : Sys) (part ev n : Nat) : Sys := if n = 0 then y else y.modPart part (fun p => addCount p ev n)

/-! ## Die events (20 R417, R418) -/

/-- The 64-bit event record. -/
def eventWord (kind ctx sub need arg : Nat) : Word :=
  BitVec.ofNat 64 (kind * 2 ^ 56 + ctx * 2 ^ 48 + sub * 2 ^ 40 + need * 2 ^ 32 + arg)

/-- Post an event: to the queue when it has room and nothing is held before it, else held (20 R417). -/
def Die.post (v : Die) (e : Word) : Die :=
  if v.heldEvents.isEmpty && v.events.length < 256 then { v with events := v.events ++ [e] }
  else { v with heldEvents := v.heldEvents ++ [e] }

/-- Move the oldest held event into the queue when there is room. -/
def Die.unhold (v : Die) : Die :=
  match v.heldEvents with
  | [] => v
  | e :: t => if v.events.length < 256 then { v with events := v.events ++ [e], heldEvents := t } else v

def postEvent (y : Sys) (d kind ctx sub need arg : Nat) : Sys :=
  y.modDie d (fun v => v.post (eventWord kind ctx sub need arg))

/-! ## Semaphores (12 R302, R303) -/

def Die.sem (v : Die) (ps : Nat) : Sem := mgetD v.sems ps {}
def Die.setSem (v : Die) (ps : Nat) (s : Sem) : Die := { v with sems := mset v.sems ps s }

/-- An increment, saturating with OVF (12 R302), by the release `rel`. -/
def Sem.add (s : Sem) (inc : Nat) (rel : Nat × Nat × Nat) : Sem :=
  { s with count := min (s.count + inc) 65535, ovf := s.ovf || 65535 < s.count + inc, rel := some rel }

/-- What is left for a waiter once the waiters before it whose thresholds the count meets have been served (12 R303). -/
def availAfter : List Waiter → Nat → Nat
  | [], c => c
  | w :: t, c => availAfter t (if w.thr ≤ c then c - w.thr else c)

def isWaiter (ctx que ent : Nat) (w : Waiter) : Bool := w.ctx == ctx && w.que == que && w.ent == ent

/-- The waiters that began before this one; all of them when it has not begun. -/
def Sem.before (s : Sem) (ctx que ent : Nat) : List Waiter :=
  s.waiters.takeWhile (fun w => !isWaiter ctx que ent w)

/-- The threshold can be taken now by this waiter. -/
def Sem.met (s : Sem) (ctx que ent thr : Nat) : Bool := thr ≤ availAfter (s.before ctx que ent) s.count

/-- Take the threshold and leave the waiters. -/
def Sem.take (s : Sem) (ctx que ent thr : Nat) : Sem :=
  { s with count := s.count - thr, waiters := s.waiters.filter (fun w => !isWaiter ctx que ent w) }

/-- Begin waiting, once. -/
def Sem.wait (s : Sem) (ctx que ent thr : Nat) : Sem :=
  if s.waiters.any (isWaiter ctx que ent) then s
  else { s with waiters := s.waiters ++ [⟨ctx, que, ent, thr⟩] }

def Sem.leave (s : Sem) (ctx que ent : Nat) : Sem :=
  { s with waiters := s.waiters.filter (fun w => !isWaiter ctx que ent w) }

/-- A semaphore is changed, or gets a waiter: a choice of the order logs (11 R259, 12 R303). -/
def noteSem (y : Sys) (d part ps ctag que ent : Nat) (wait : Bool) : Sys :=
  note y part (.sem ((y.die d).sem ps).tag ctag que ent wait)

/-- A release adds to a semaphore of a die, with its SIG record (23 R446). -/
def semSignal (y : Sys) (d part ps inc ctag que ent : Nat) : Sys :=
  let y := (noteSem y d part ps ctag que ent false).modDie d (fun v => v.setSem ps ((v.sem ps).add inc (ctag, que, ent)))
  debugLog y d part 6 que ctag ent (BitVec.ofNat 64 (ps * 2 ^ 48 + inc % 2 ^ 16)) (BitVec.ofNat 64 ((y.die d).sem ps).count)

/-- The WAIT record of a subtraction (23 R447). -/
def logWait (y : Sys) (d part ps virt thr cyc ctag que ent : Nat) : Sys :=
  let y := noteSem y d part ps ctag que ent false
  let (a, b, c) := ((y.die d).sem ps).rel.getD (0, 0, 0)
  debugLog y d part 3 que ctag ent
    (BitVec.ofNat 64 (ps * 2 ^ 48 + virt * 2 ^ 40 + thr % 2 ^ 16 * 2 ^ 24 + min cyc (2 ^ 24 - 1)))
    (BitVec.ofNat 64 (a * 2 ^ 48 + b * 2 ^ 44 + c % 2 ^ 32))

/-! ## Interrupts to the firmware -/

/-- Kinds of interrupt to the scheduler firmware: 0 a steward's double fault, 1 lease skew of a walker, 2 a SIG decrement that
could not be applied, 3 a refused spill. -/
def fwInterrupt (y : Sys) (kind : Nat) : Sys := y.modHub (fun h => { h with fwIrq := h.fwIrq ++ [kind] })

/-! ## Cause codes (20 R397) -/

def cIllegalOp : Nat := 0x01
def cReserved : Nat := 0x02
def cFetchRange : Nat := 0x03
def cFetchXlate : Nat := 0x04
def cBounds : Nat := 0x05
def cMisaligned : Nat := 0x06
def cPoison : Nat := 0x07
def cOperand : Nat := 0x08
def cSparsity : Nat := 0x09
def cSemRange : Nat := 0x0B
def cPrivilege : Nat := 0x0C
def cBreakpoint : Nat := 0x0D
def cTrapInstr : Nat := 0x0E
def cCopyFault : Nat := 0x10
def cRamp : Nat := 0x11
def cLeaseSkew : Nat := 0x12
def cAtomicAlign : Nat := 0x13
def cStripFault : Nat := 0x14
def cPreempt : Nat := 0x15
def cInterrupt : Nat := 0x16
def cWatchdog : Nat := 0x17
def cMachineCheck : Nat := 0x18

/-! ## Declared load (15 R339, R340) -/

/-- The start weight: one unit per block, one for an ST claim. -/
def Ctx.startWeight (c : Ctx) : Nat := c.blocks.length

/-- Entries that have started and not retired weigh. -/
def Ctx.realWeight (c : Ctx) : Nat :=
  c.startWeight + ((c.entries.filter (fun qe => qe.2.started)).map (fun qe => qe.2.weight)).foldl (· + ·) 0

def isFeed : Instr → Bool
  | .xbFeed _ _ _ _ _ _ => true
  | _ => false

def isTake : Instr → Bool
  | .xbTake _ _ _ _ _ => true
  | _ => false

def isProg : Instr → Bool
  | .xbProg _ _ _ => true
  | _ => false

def isStream (i : Instr) : Bool := isFeed i || isTake i

/-- The entries up to and including the first `xb.prog`. -/
def throughProg : List Entry → List Entry
  | [] => []
  | e :: t => if isProg e.cmd then [e] else e :: throughProg t

/-- What stands at the head of a queue: one entry, or a strip group as far as it has issued (10 R216). -/
def EQueue.unit (q : EQueue) : List Entry :=
  match q.ents with
  | [] => []
  | e :: t => if isStream e.cmd || isProg e.cmd then throughProg (e :: t) else [e]

/-- A unit is complete: one entry that is no stream entry, or a group with its `xb.prog`. -/
def unitWhole (l : List Entry) : Bool := (l.getLast?.map (fun e => !isStream e.cmd)).getD false

/-- The entries of a queue that wait for weight: their waits are met, and they have not started (15 R340). -/
def EQueue.waiting (q : EQueue) : List Entry :=
  if unitWhole q.unit && q.unit.all (·.waited) then q.unit.filter (fun e => !e.started) else []

def Ctx.waiting (c : Ctx) : List (Nat × Entry) := c.queueCodes.flatMap (fun q => (c.queue q).waiting.map (fun e => (q, e)))

def Ctx.pending (c : Ctx) : Nat := (c.waiting.map (fun qe => qe.2.weight)).foldl (· + ·) 0

/-- The start weight that a fuse takes back, while its siblings have all retired (02 R46, 15 R345). -/
def Ctx.fuseNeed (c : Ctx) : Nat :=
  match c.orig with
  | some (_, _, h, w) => if c.reshape == .fuse && c.alive.length == 1 then h * w - c.blocks.length else 0
  | none => 0

def Ctx.target (c : Ctx) : Nat := max (c.realWeight + c.pending + c.fuseNeed) (max c.floor c.pres)

/-- Ballast: load less real weight. -/
def Ctx.ballast (c : Ctx) : Nat := c.load - c.realWeight

/-- Load of the starts that wait on a die (15 R339). -/
def startsLoad (h : Hub) (d : Nat) : Nat :=
  ((h.starts.filter (fun w => w.place.die == d)).map (·.granted)).foldl (· + ·) 0

/-- The die's total load: its pool, its contexts and the starts that wait on it. -/
def dieLoad (y : Sys) (d : Nat) : Nat :=
  let v := y.die d
  v.pool + (v.ctxs.map (fun c => c.2.load)).foldl (· + ·) 0 + startsLoad y.hub d

/-- The package's declared load. -/
def packageLoad (y : Sys) : Nat := ((List.range Config.computeDies).map (dieLoad y)).foldl (· + ·) 0

/-- Open a request, once. -/
def Gov.openReq (g : Gov) (q : GReq) : Gov := if g.open_.contains q then g else { g with open_ := g.open_ ++ [q] }

/-- The load that a context asks for apart from its entries: its FLOOR, and the real weight that a replay has restored it with; its PRES
too before it goes on (15 R341, log entry 93). -/
def Ctx.base (c : Ctx) : Nat := max (max c.realWeight c.floor) (if c.revived then c.pres else 0)

/-- The requests that are due: of floors above their loads, of waiting starts, and of gangs that have asked (15 R341, R342, R349). -/
def dueReqs (y : Sys) : List GReq :=
  ((y.contexts.filter (fun x => !(y.die x.1).dark && x.2.2.load < x.2.2.base)).map (fun x => .floor x.1 x.2.1)) ++
    ((List.range Config.computeDies).filter (fun d => !(y.die d).dark && (y.die d).pool < (y.die d).dfloor)).map .dfloor ++
    ((y.hub.starts.filter (fun w => w.need != 0 && w.gang.isNone)).map (fun w => .start (64 * w.place.die + w.place.lead))) ++
    ((y.hub.gangs.filter (fun g => g.2.asked && !g.2.committed &&
      y.hub.starts.any (fun w => w.gang == some g.1 && w.need != 0))).map (fun g => .gang g.1))

/-- Every request that is due is open; those that were keep their order. -/
def openDue (y : Sys) : Sys := { y with gov := (dueReqs y).foldl Gov.openReq y.gov }

/-! ## Excess (15 R339, R341) -/

/-- The excess of a holder: a context, or the pool of a die (15 R339). -/
def excessOf (y : Sys) (h : Nat × Option Nat) : Nat :=
  match h.2 with
  | none => (y.die h.1).pool - (y.die h.1).dfloor
  | some l => if (y.ctx h.1 l).isFree then 0 else (y.ctx h.1 l).load - (y.ctx h.1 l).target

/-- Every holder: the pools, and the contexts. -/
def holders (y : Sys) : List (Nat × Option Nat) :=
  (List.range Config.computeDies).map (fun d => (d, none)) ++ y.contexts.map (fun x => (x.1, some x.2.1))

/-- Holders with excess, in the order in which it appeared. -/
def excessList (y : Sys) : List (Nat × Option Nat) :=
  let old := y.gov.excess.filter (fun h => excessOf y h != 0)
  old ++ (holders y).filter (fun h => excessOf y h != 0 && !old.contains h)

/-- Excess that has appeared takes its place in the order. -/
def noteExcess (y : Sys) : Sys := { y with gov := { y.gov with excess := excessList y } }

/-- The contexts that a replay has restored go on once they have the load they ran on (log entry 93). -/
def wakeRevived (y : Sys) : Sys :=
  y.contexts.foldl (fun y x => if x.2.2.revived && x.2.2.base ≤ x.2.2.load then y.modCtx x.1 x.2.1 (fun c => { c with revived := false }) else y) y

/-- What an event that moves load leaves for the governor: the requests that are due, and the excess that has appeared. -/
def govGo (y : Sys) : Sys := noteExcess (openDue y)

/-! ## Quiescence (20 R416) -/

/-- Remove every waiter of a context from the semaphores of its die. -/
def dropWaiters (v : Die) (k : Nat) : Die :=
  { v with sems := v.sems.map (fun sv => (sv.1, { sv.2 with waiters := sv.2.waiters.filter (fun w => w.ctx != k) })) }

/-- Entries of a quiesced queue: the unstarted ones are discarded, the started ones run on without signalling. -/
def quiesceQueue (q : EQueue) : EQueue :=
  { q with ents := (q.ents.filter (fun e => e.started && !e.done)).map (fun e => { e with signal := none }) }

/-- The cycles a waiter of a context has waited: the sequencer's or its entry's (23 R447). -/
def Ctx.waitCycles (c : Ctx) (w : Waiter) : Nat :=
  if w.que = 15 then c.semCyc
  else (((c.queue w.que).ents.find? (fun e => e.num == w.ent)).map (·.cyc)).getD 0

/-- The WAIT records of the waits of a context that a quiescence ends (23 R447). -/
def logQuiesced (y : Sys) (d k : Nat) : Sys :=
  let c := y.ctx d k
  (y.die d).sems.foldl (fun y sv =>
    (sv.2.waiters.filter (fun w => w.ctx == k)).foldl (fun y w =>
      debugLog y d c.part 3 w.que c.ctag w.ent
        (BitVec.ofNat 64 (sv.1 * 2 ^ 48 + (findIx (· == sv.1) c.semMap).getD 0 * 2 ^ 40 + w.thr % 2 ^ 16 * 2 ^ 24 +
          min (c.waitCycles w) (2 ^ 24 - 1)))
        0xFFFF_0000_0000_0000) y) y

/-- The slices that a slot still owns are freed unspilled (21 R424, R433). -/
def freeOwned (y : Sys) (sl : Slot) : Sys :=
  sl.owned.foldl (fun y o => y.modDie o.2.1 (fun v =>
    { v with slices := mset v.slices o.2.2 { v.slice o.2.2 with owner := none } })) y

/-- The slot is the one that a context was granted for: it holds the context's instance, and no save has taken it since. -/
def slotHolds (c : Ctx) (t : Slot) : Bool := t.st != .free && t.st != .saving && t.node == c.node && t.inst == c.inst.toNat

/-- A context that ends during its resumption gives its slot up (20 R416, 21 R424), unless the slot has become another's. -/
def endResumption (y : Sys) (c : Ctx) : Sys :=
  match c.slot with
  | none => y
  | some sl =>
    if c.restored || !slotHolds c (mgetD (y.part c.part).slots sl {}) then y
    else (freeOwned y (mgetD (y.part c.part).slots sl {})).modPart c.part (fun p => { p with slots := merase p.slots sl })

/-- The requests that the copy contexts of a context have sent and that have not been performed are performed no more: its copies end at the
unit where they stand, and nothing of it signals (20 R416; log entry 126). -/
def dropSent (d k : Nat) (y : Sys) : Sys :=
  y.modHub (fun h => { h with reqs := h.reqs.filter (fun q => !(q.die == d && q.ctx == k && q.kind != .ask && q.st == .sent)) })

/-- The context goes to ENDING with an error cause (20 R416 steps 1 and 2): the sequencer stops, waits end, unstarted entries
go, copies end. `sub` is the SUB of its QUIESCED. -/
def quiesce (y : Sys) (d k cause sub : Nat) : Sys :=
  let c := y.ctx d k
  if c.st == .free || (c.st == .ending && c.endBy) then y
  else
    let y := dropSent d k ((logQuiesced y d k).modDie d (fun v => dropWaiters v k))
    let killed := cause == cPreempt && c.preq == some 1
    let c := { c with
      st := .ending, endBy := true, killed := killed, endCause := if killed then none else some cause, endSub := sub
      queues := c.queues.map (fun qv => (qv.1, quiesceQueue qv.2))
      copies := c.copies.map (fun p => { p with stop := false, req := none, host := none, ack := false })
      landings := [], semWait := none, reshape := .none }
    noteExcess (endResumption (y.setCtx d k c) c)

/-! ## Taking a trap (20 R393 to R396, 05 R134) -/

/-- A cause about to be taken: its code, TRAP_ADDR1, TRAP_ADDR0 when it is not the instruction's address, and whether the
state saved is the one after the step. -/
structure Trap where
  code : Nat
  addr1 : Word := 0
  addr0 : Option Word := none
deriving DecidableEq, Repr

/-- TRAP_CAUSE (20 R398). -/
def causeWord (code : Nat) (async ext : Bool) (ctx que : Nat) : Word :=
  BitVec.ofNat 64 (code + async.toNat * 2 ^ 8 + ext.toNat * 2 ^ 9 + ctx * 2 ^ 10 + que * 2 ^ 20)

/-- TRAP_ANN of a control state (05 R106, R134). -/
def annWord (q : SeqSt) : Word :=
  BitVec.ofNat 64 (q.an0.toNat + q.an1.toNat * 2 + q.steward.toNat * 4 + q.npc.isNone.toNat * 8 + q.nnpc.isNone.toNat * 16)

/-- Trap entry on a sequencer, once the cause words are known (20 R393, 05 R133, R134): the one operation that saves the
control state, changes the mode, and enters the handler at `vec`. -/
def SeqSt.enterTrap (q : SeqSt) (vec cause addr0 addr1 : Word) : SeqSt :=
  { q with
    trapCause := cause
    trapAddr0 := addr0
    trapAddr1 := addr1
    trapPc0 := q.pc
    trapPc1 := q.npc.getD 0
    trapPc2 := q.nnpc.getD 0
    trapAnn := annWord q
    trapNstat := q.nestStat
    trapNtop := q.nestTop
    nestStat := 0
    nestBuf := []
    steward := true
    ae := false
    pc := vec
    npc := none
    nnpc := none
    an0 := false
    an1 := false }

/-- A task sequencer in steward mode makes its context TRAP, in task mode RUN (20 R408); other states stay. -/
def syncPhase (steward : Bool) (c : Ctx) : Ctx :=
  match c.st with
  | .run => { c with st := if steward then .trap else .run }
  | .trap => { c with st := if steward then .trap else .run }
  | _ => c

/-- A stalled `sem.wait` that a trap interrupts is no waiter any more (12 R304). -/
def leaveSemWait (y : Sys) (r : SeqRef) : Sys :=
  match r.idx, (y.ctxOf r).semWait with
  | some k, some (ps, _) =>
    (y.modDie r.die (fun v => v.setSem ps ((v.sem ps).leave k 15 0))).modCtxOf r (fun c => { c with semWait := none, semCyc := 0 })
  | _, _ => y

/-- Enter the handler with these cause words, and write the TRAP record (23 R446). -/
def enterTrap (y : Sys) (r : SeqRef) (cause addr0 addr1 : Word) : Sys :=
  let y := leaveSemWait y r
  let q := y.seq r
  let c := y.ctxOf r
  let y := y.setSeq r (q.enterTrap (y.die r.die).stwVec cause addr0 addr1)
  let y := y.modCtxOf r (fun c => syncPhase true { c with reshape := .none })
  if r.idx.isSome then debugLog y r.die c.part 7 15 c.ctag 0 cause q.pc else y

/-- DEVSTAT has changed: PF vector 1 is sent (24 R460). -/
def devstatChanged (y : Sys) : Sys := sendPf 1 y

/-- A compute die goes out of service (01 R22, 24 R458): its stewards run no code, and DEVSTAT changes. -/
def computeOut (d : Nat) (y : Sys) : Sys :=
  if (y.die d).inSvc then
    devstatChanged (y.modDie d (fun v => { v with inSvc := false, stw := { v.stw with stopped := true } }))
  else y

/-- A memory die goes out of service (01 R23). -/
def memoryOut (m : Nat) (y : Sys) : Sys :=
  if (y.memDie m).inSvc then devstatChanged (y.modMem m (fun v => { v with inSvc := false })) else y

/-- A die that a fault takes out of service stops drawing at once, and draws no more: no request of it is granted (15 R345). A context that
waits for its load there waits no longer. -/
def stopDrawing (d : Nat) (y : Sys) : Sys :=
  let rest (c : Ctx) : Ctx := { c with load := 0, floor := 0, pres := 0, revived := false }
  (y.modDie d (fun v => { v with dark := true, pool := 0, dfloor := 0, ctxs := v.ctxs.map (fun c => (c.1, rest c.2)) })).modHub (fun h =>
    { h with starts := h.starts.map (fun (w : Start) => if w.place.die = d then { w with granted := 0 } else w) })

/-- A double fault of a steward sequencer (20 R395). -/
def stewardDoubleFault (y : Sys) (d : Nat) : Sys :=
  let y := ((y.die d).ctxs.map (·.1)).foldl (fun y k => quiesce y d k cMachineCheck 0) y
  fwInterrupt ((stopDrawing d (computeOut d y)).modDie d (fun v => { v with stw := { v.stw with stopped := true } })) 0

/-- Take a synchronous cause on a sequencer whose control state is the one to be saved (20 R393, R395). `pc0` is the
instruction's address. -/
def takeTrap (y : Sys) (r : SeqRef) (pc0 : Word) (t : Trap) : Sys :=
  let q := y.seq r
  if q.steward && !q.ae then
    match r.idx with
    | none => stewardDoubleFault y r.die
    | some k => quiesce y r.die k t.code 2
  else enterTrap y r (causeWord t.code false false 0 0) (t.addr0.getD pc0) t.addr1

end Sys2Proof.Machine
end

