-- ==== Sys2Proof/Machine/Lease.lean ====
section
/-! DEFINITION. Route entries and leases (18 R376 to R384): what a holder keeps, what it sends, and what a walker grants. -/

namespace Sys2Proof.Machine

/-- Element `k` of a vector, with a default beyond its end. -/
def vgetD {α : Type} {n : Nat} (v : Vector α n) (k : Nat) (d : α) : α := v.toList.getD k d

/-- The lease counters of 18 R388 by item number. -/
def lcAsk : Nat := 0
def lcGrant : Nat := 1
def lcRenew : Nat := 2
def lcDirect : Nat := 3
def lcHome : Nat := 4
def lcStale : Nat := 5
def lcSkew : Nat := 7

/-- One more of a lease counter. -/
def Ctx.bump (c : Ctx) (n : Nat) : Ctx := { c with lsc := c.lsc.setIfInBounds n (vgetD c.lsc n 0 + 1) }

def Ctx.bumpIf (c : Ctx) (n : Nat) (b : Bool) : Ctx := if b then c.bump n else c

/-- Bytes of a page. -/
def pageBytes (big : Bool) : Nat := if big then 2 ^ 21 else 2 ^ 16

/-- The lease time of class `k` in ns (18 R378). -/
def leaseNs (k : Nat) : Nat := 8000 * 2 ^ k

/-- The hold of a grant at the issuer in ns: D × 65/64 + 4 µs (18 R378). -/
def holdNs (k : Nat) : Nat := leaseNs k * 65 / 64 + 4000

def Route.covers (t : Route) (part vdie off : Nat) : Bool :=
  t.key.part == part && t.key.vdie == vdie && t.key.off ≤ off && off < t.key.off + pageBytes t.key.big && 0 < t.rem

/-- The valid entry for an offset (18 R376). -/
def Holder.find (h : Holder) (part vdie off : Nat) : Option Route := h.routes.find? (fun t => t.covers part vdie off)

/-- Use an entry: it becomes the most recently used. -/
def Holder.touch (h : Holder) (t : Route) : Holder :=
  { h with routes := h.routes.filter (fun u => u != t) ++ [t] }

/-- The page that covers an intermediate address of a partition is of 2 MiB, as its home walker has it (log entry 129). -/
def Sys.pageBig (y : Sys) (part ia : Nat) : Bool :=
  match (y.part part).vdie (ia / 2 ^ 44) with
  | none => false
  | some home => ((findLeaf (y.memDie home) part (ia % 2 ^ 44)).map (·.big)).getD false

/-- An ask for this page is outstanding. -/
def Holder.asking (h : Holder) (vdie off : Nat) : Bool :=
  h.asks.any (fun a => a.vdie == vdie && a.off / pageBytes a.big == off / pageBytes a.big)

/-- Room for an entry: when all `cap` are in use the least recently used goes; an entry that has run out is not in use (18 R377). -/
def makeRoom (cap : Nat) (l : List Route) : List Route :=
  let live := l.filter (fun t => 0 < t.rem)
  if cap ≤ live.length then live.drop 1 else l

/-- Send an ask, with room for its grant (18 R377). -/
def Holder.sendAsk (h : Holder) (cap id vdie off : Nat) (big renewal : Bool) : Holder :=
  { routes := if renewal then h.routes else makeRoom cap h.routes
    asks := h.asks ++ [⟨id, vdie, off, 0, big⟩] }

/-- A grant answers an ask: it is cached unless the lease has run out or the ask was dropped; the entry of the same page is
replaced (18 R378, R379). -/
def Holder.cacheGrant (h : Holder) (cap id : Nat) (t : Route) : Holder × Bool :=
  match h.asks.find? (fun a => a.id == id) with
  | none => (h, false)
  | some a =>
    let asks := h.asks.filter (fun b => b.id != id)
    if leaseNs t.cls ≤ a.age then ({ h with asks := asks }, false)
    else
      let rest := makeRoom cap (h.routes.filter (fun u => u.key != t.key))
      ({ routes := rest ++ [{ t with rem := leaseNs t.cls - a.age }], asks := asks }, true)

/-- Forget an ask that brought no grant. -/
def Holder.endAsk (h : Holder) (id : Nat) : Holder := { h with asks := h.asks.filter (fun b => b.id != id) }

/-- Drop every entry and every ask sent before (18 R381). -/
def Holder.dropAll (_ : Holder) : Holder := {}

/-- Drop the entry that covers an offset (18 R381: REROUTE and STALE completions). -/
def Holder.dropPage (h : Holder) (part vdie off : Nat) : Holder :=
  { h with routes := h.routes.filter (fun t => !t.covers part vdie off) }

/-- A renewal is due: rem below D/4 (18 R379). -/
def Route.due (t : Route) : Bool := 4 * t.rem < leaseNs t.cls

/-- The grant a walker sends with the reply to an ask, when LC ≥ 1, MG = 0 and its monitor is not forced to class 0
(18 R377, R380). -/
def grantOf (y : Sys) (home part vdie : Nat) (l : Leaf) : Option Route :=
  let m := y.memDie home
  if l.lc = 0 || l.mg || m.skew || m.outTol then none
  else some { key := ⟨part, vdie, l.pageOff, l.big⟩, fdie := l.fdie, frame := l.pa - l.pa % pageBytes l.big,
              w := l.w, cls := l.lc, rem := leaseNs l.lc }

/-- The walker keeps, for each leaf, the latest hold end of any grant it has sent (18 R378). -/
def noteHold (m : MemDie) (part off cls : Nat) : MemDie :=
  let old := ((m.holds.find? (fun h => h.part == part && h.off == off)).map (·.rem)).getD 0
  { m with holds := m.holds.filter (fun h => !(h.part == part && h.off == off)) ++ [⟨part, off, max old (holdNs cls)⟩] }

/-- The 64 KiB frames of a page. -/
def framesOf (pa : Nat) (big : Bool) : List Nat := (List.range (if big then 32 else 1)).map (fun i => pa / 2 ^ 16 + i)

/-- The quarantined page that a frame address lies in, while its frame has not been released. -/
def MemDie.quarOf (m : MemDie) (pa : Nat) : Option Quar :=
  m.quar.find? (fun q => q.left.contains (pa / 2 ^ 16))

/-- Unit codes of the rate monitors (18 R380): engine e is e, the fetch path of sequencer k is 0x100 + k. -/
def fetchUnit (k : Nat) : Nat := 0x100 + k

/-- The holder of a lease target of a context: copy context k, or the fetch path for 4. -/
def Ctx.holder (c : Ctx) (k : Nat) : Holder :=
  if k = 4 then c.fetchHolder else ((c.copies[k]?).map (·.holder)).getD {}

def Ctx.setHolder (c : Ctx) (k : Nat) (h : Holder) : Ctx :=
  if k = 4 then { c with fetchHolder := h }
  else { c with copies := lmod c.copies k (fun p => { p with holder := h }) }

/-- Route entries of a holder: 16 for a copy context, 8 for a fetch path (18 R376). -/
def holderCap (k : Nat) : Nat := if k = 4 then 8 else 16

/-- The unit that serves the holder. -/
def Ctx.holderUnit (c : Ctx) (k : Nat) : Nat :=
  if k = 4 then fetchUnit c.lead else ((c.copies[k]?).map (·.engine)).getD 0

/-- Every holder of the context is dropped (18 R381: save, retirement, split, fuse). -/
def Ctx.dropLeases (c : Ctx) : Ctx :=
  { c with fetchHolder := {}, copies := c.copies.map (fun p => { p with holder := {} }) }

/-- Valid route entries held now, over the copy contexts and the fetch path (18 R388). -/
def Ctx.held (c : Ctx) : Nat :=
  ((c.fetchHolder.routes ++ c.copies.flatMap (fun p => p.holder.routes)).filter (fun t => 0 < t.rem)).length

/-- A home read of zero bytes that carries an ask, as `ls.ask` and a renewal send it (18 R379, R387): a request to the hub. -/
def sendAskReq (y : Sys) (d lead k part : Nat) (v : Word) (ia : Nat) (renewal : Bool) : Sys :=
  let id := y.hub.reqNext
  let y := y.modHub (fun h => { h with reqNext := id + 1
                                       reqs := h.reqs ++ [{ id := id, die := d, ctx := lead, k := k, part := part, va := v,
                                                            ia := ia, kind := .ask, ask := true }] })
  y.modCtx d lead (fun c =>
    let c := c.setHolder k ((c.holder k).sendAsk (holderCap k) id (ia / 2 ^ 44) (ia % 2 ^ 44) (y.pageBig part ia) renewal)
    ((c.bump lcAsk).bump lcHome).bumpIf lcRenew renewal)

/-- An ask of the fetch path, answered at once: the grant is cached, and the walker keeps the hold. -/
def fetchGrant (y : Sys) (d lead home vdie : Nat) (l : Option Leaf) : Sys :=
  let c := y.ctx d lead
  match l.bind (fun l => grantOf y home c.part vdie l) with
  | none => y
  | some g =>
    let rest := makeRoom (holderCap 4) (c.fetchHolder.routes.filter (fun u => u.key != g.key))
    (y.modMem home (fun m => noteHold m c.part g.key.off g.cls)).setCtx d lead
      { (c.bump lcGrant) with fetchHolder := { c.fetchHolder with routes := rest ++ [g] } }

/-- The fill goes home, with an ask when the unit may send one and has none out for the page. -/
def fetchHome (y : Sys) (d lead home vdie off : Nat) : Sys × Except Nat Leaf :=
  let c := y.ctx d lead
  let ask := !(y.die d).skewed.contains (fetchUnit lead) && !c.fetchHolder.asking vdie off
  let h := if ask then { c.fetchHolder with routes := makeRoom (holderCap 4) c.fetchHolder.routes } else c.fetchHolder
  let y := y.setCtx d lead { ((c.bump lcHome).bumpIf lcAsk ask) with fetchHolder := h }
  match walkerXlate y home c.part off .ex with
  | none => (y, .error xfWalk)
  | some l => (if ask then fetchGrant y d lead home vdie (some l) else y, .ok l)

/-- The fill goes direct under a valid entry; at a frame in quarantine it is forwarded home and the entry dropped, and it does not reach a
channel that is the partition's no more (17 R358; log entry 125). -/
def fetchDirect (y : Sys) (d lead home vdie off : Nat) (t : Route) : Sys × Except Nat Leaf :=
  let c := y.ctx d lead
  let fpa := t.frame + (off - t.key.off)
  match (y.memDie t.fdie).quarOf fpa with
  | some _ =>
    let y := y.setCtx d lead { ((c.bump lcDirect).bump lcStale) with fetchHolder := c.fetchHolder.dropPage c.part vdie off }
    match walkerXlate y home c.part off .ex with
    | none => (y, .error xfWalk)
    | some l => (y, .ok l)
  | none =>
    (y.setCtx d lead { (c.bump lcDirect) with fetchHolder := c.fetchHolder.touch t },
      if !y.ownsChan c.part t.fdie (fpa / 2 ^ 31) then .error xfWalk else
      .ok { fdie := t.fdie, pa := fpa, lc := t.cls, mg := false, w := t.w, pageOff := t.key.off, big := t.key.big, slot := 0 })

/-- An instruction-cache fill of a task sequencer, sent and answered at once (18 R377 to R379), with the renewal that goes beside it. -/
def fetchXlate (y : Sys) (d lead : Nat) (ia : Nat) : Sys × Except Nat Leaf :=
  let c := y.ctx d lead
  let vdie := ia / 2 ^ 44
  let off := ia % 2 ^ 44
  match (y.part c.part).vdie vdie with
  | none => (y, .error xfDie)
  | some home =>
    match (if (y.die d).skewed.contains (fetchUnit lead) then none else c.fetchHolder.find c.part vdie off) with
    | none => fetchHome y d lead home vdie off
    | some t =>
      let renew := t.due && !c.fetchHolder.asking vdie off
      let (y, r) := fetchDirect y d lead home vdie off t
      let y := if renew then y.modCtx d lead (fun c => ((c.bump lcAsk).bump lcRenew).bump lcHome) else y
      (if renew then fetchGrant y d lead home vdie (walkerXlate y home c.part off .rd) else y, r)

end Sys2Proof.Machine
end

