-- ==== Sys2Proof/Machine/Operands.lean ====
section
/-! DEFINITION. The operand forms of the sequencer's instructions and the step they share: register reads and writes with
their poison tags (05 R103, R117, R118), immediates, displacements, walks (05 R120), the advance of the three PCs
(05 R124) with the `nest` rule (05 R132), and the ways an instruction ends. -/

namespace Sys2Proof.Machine

/-! ## Registers -/

/-- Read g0 to g31; g0 reads as 0 (05 R103). -/
def SeqSt.rg (q : SeqSt) (a : BitVec 5) : Word := if a = 0 then 0 else q.g[a.toNat]'(a.isLt)

/-- Write a register and clear its tag; g0 ignores writes (05 R103). -/
def SeqSt.wg (q : SeqSt) (d : BitVec 5) (v : Word) : SeqSt :=
  if d = 0 then q else { q with g := q.g.set d.toNat v d.isLt, tags := q.tags &&& ~~~(1#32 <<< d.toNat) }

/-- Write a carried value and set the tag (05 R115, R117). -/
def SeqSt.wgPoison (q : SeqSt) (d : BitVec 5) (v : Word) : SeqSt :=
  if d = 0 then q else { q with g := q.g.set d.toNat v d.isLt, tags := q.tags ||| (1#32 <<< d.toNat) }

/-- The poison tag of a register (05 R105); g0 is never poisoned. -/
def SeqSt.tag (q : SeqSt) (a : BitVec 5) : Bool := a != 0 && q.tags.getLsbD a.toNat

/-- The carried value of the first poisoned register of a list (05 R117, R119). -/
def SeqSt.firstPoison (q : SeqSt) : List (BitVec 5) → Option Word
  | [] => none
  | a :: t => if q.tag a then some (q.rg a) else q.firstPoison t

/-- The carried value of the lowest-numbered poisoned register of a list (05 R116, R118). -/
def SeqSt.lowPoison (q : SeqSt) (l : List (BitVec 5)) : Option Word :=
  q.firstPoison (((List.range 32).map (BitVec.ofNat 5)).filter l.contains)

def SeqSt.wk (q : SeqSt) (w : BitVec 3) : Walk := q.walks[w.toNat]'(w.isLt)
def SeqSt.setWk (q : SeqSt) (w : BitVec 3) (v : Walk) : SeqSt := { q with walks := q.walks.set w.toNat v w.isLt }

/-- SignExt of an immediate to 64 bits. -/
def sx {n : Nat} (i : BitVec n) : Word := i.signExtend 64

/-! ## Walks (05 R120) -/

/-- Bounds and strides of the six dimensions, dimension 0 first. -/
def Walk.dims (w : Walk) : List (Nat × Int) := (w.bound.toList.zip w.stride.toList).map (fun p => (p.1.toNat, p.2.toInt))

/-- WalkCount of 05 R120. -/
def Walk.count (w : Walk) : Nat := w.dims.foldl (fun n p => if p.1 = 0 then n else n * p.1) 1

/-- The address term of iteration `i`, dimension 0 innermost. -/
def walkTerm : List (Nat × Int) → Nat → Int
  | [], _ => 0
  | (b, t) :: r, i => if b = 0 then walkTerm r i else (i % b : Nat) * t + walkTerm r (i / b)

/-- WalkAddr of 05 R120. -/
def Walk.addr (w : Walk) (i : Nat) : Word := BitVec.ofInt 64 (w.base.toNat + walkTerm w.dims i)

/-- The walk address that R69 assigns to a repetition under a STEP code. -/
def stepAddr (w : Walk) (step : Nat) (i : Nat) : Word :=
  if step = 0 then w.base
  else if step = 7 then w.addr i
  else
    let d := step - 1
    BitVec.ofInt 64 (w.base.toNat + (i : Int) * (vgetD w.stride d 0).toInt)

/-- The repetition count exceeds the walk (03 R69; check code 0x02): STEP d names a dimension whose bound is below n + 1, or the
product of the non-zero bounds is below n + 1. -/
def stepShort (w : Walk) (step n : Nat) : Bool :=
  if step = 0 then false
  else if step = 7 then w.count < n + 1
  else (vgetD w.bound (step - 1) 0).toNat < n + 1

/-- The 64-byte descriptor of a walk (03 R82). -/
def walkDesc (w : Walk) : List Byte :=
  leSplit 8 w.base.toNat ++
    (w.bound.toList.zip w.stride.toList).flatMap (fun p => leSplit 8 (p.1.toNat * 2 ^ 32 + p.2.toNat)) ++ leSplit 8 0

/-- A descriptor read: the walk, unless a reserved bit is set (03 R82, 05 R121). -/
def walkOf (bs : List Byte) : Option Walk :=
  let word (k : Nat) : Nat := leNat ((bs.drop (8 * k)).take 8)
  if word 7 != 0 || (List.range 6).any (fun d => word (d + 1) / 2 ^ 48 != 0) then none
  else some { base := BitVec.ofNat 64 (word 0)
              bound := Vector.ofFn (fun d : Fin 6 => BitVec.ofNat 16 (word (d.val + 1) / 2 ^ 32))
              stride := Vector.ofFn (fun d : Fin 6 => BitVec.ofNat 32 (word (d.val + 1))) }

/-! ## NEST_STAT (05 R107) -/

def nestWord (walk dreg blen bcnt iter : Nat) : Word :=
  BitVec.ofNat 64 (2 ^ 63 + walk * 2 ^ 60 + dreg * 2 ^ 55 + blen * 2 ^ 48 + bcnt * 2 ^ 40 + iter)

def nestAct (s : Word) : Bool := bitOf s.toNat 63
def nestWalk (s : Word) : BitVec 3 := BitVec.ofNat 3 (s.toNat / 2 ^ 60)
def nestDreg (s : Word) : BitVec 5 := BitVec.ofNat 5 (s.toNat / 2 ^ 55)
def nestBlen (s : Word) : Nat := bitsOf s.toNat 48 7
def nestIter (s : Word) : Nat := bitsOf s.toNat 0 40

/-- First address after the body of the active `nest`, from the NEST_TOP that the register holds now (log entry 102). -/
def nestEnd (q : SeqSt) : Word := q.nestTop + BitVec.ofNat 64 (2 * (nestBlen q.nestStat + 1))

/-! ## The advance of the three PCs (05 R124) -/

/-- What a control transfer decided: whether it is taken, where to, and its nullifying form (03 R64). -/
structure Jump where
  taken : Bool
  tgt : Word
  nul : BitVec 2
deriving DecidableEq, Repr

/-- Both delay slots are annulled (05 R124). -/
def Jump.annuls (j : Jump) : Bool := (j.nul == 1 && !j.taken) || (j.nul == 2 && j.taken)

/-- Succ of the instruction at pc, with the `nest` rule at the end of a body (05 R132): the next pc, and the state with the
iteration advanced or the nest ended. -/
def SeqSt.succ (q : SeqSt) (len : Nat) : SeqSt × Word :=
  let s := q.pc + BitVec.ofNat 64 len
  if nestAct q.nestStat && s = nestEnd q then
    let w := q.wk (nestWalk q.nestStat)
    let i := nestIter q.nestStat + 1
    if i < w.count then
      let d := nestDreg q.nestStat
      ({ (if d = 0 then q else q.wg d (w.addr i)) with
          nestStat := q.nestStat - BitVec.ofNat 64 (nestIter q.nestStat) + BitVec.ofNat 64 (i % 2 ^ 40) }, q.nestTop)
    else ({ q with nestStat := 0, nestBuf := [] }, s)
  else (q, s)

/-- The end of a step whose instruction is `len` bytes long (05 R124). -/
def SeqSt.advance (q : SeqSt) (len : Nat) (j : Option Jump) : SeqSt :=
  let (q, s) := q.succ len
  let an := match j with
    | some j => j.annuls
    | none => false
  let tgt := match j with
    | some j => if j.taken then some j.tgt else none
    | none => none
  { q with pc := q.npc.getD s, npc := q.nnpc, nnpc := tgt, an0 := q.an1 || an, an1 := an }

/-! ## How an instruction ends -/

/-- The ways an instruction of a sequencer ends: its effect and the advance; a cause with the state before the step; a cause
with the state after its step (05 R134); a stall; or an effect that replaces the control state or ends the fetching. -/
inductive Res where
  | ok (y : Sys) (j : Option Jump)
  | trap (t : Trap)
  | trapAfter (y : Sys) (t : Trap)
  | stall (y : Sys)
  | stop (y : Sys)

/-- A context makes progress (14 R332). -/
def progress (y : Sys) (r : SeqRef) : Sys := y.modCtxOf r (fun c => { c with wdCycles := 0 })

/-- Carry out the end of an instruction of `len` bytes. -/
def commit (r : SeqRef) (y : Sys) (len : Nat) : Res → Sys
  | .ok y' j => progress (y'.modSeq r (fun q => q.advance len j)) r
  | .trap t => takeTrap y r (y.seq r).pc t
  | .trapAfter y' t => takeTrap (progress (y'.modSeq r (fun q => q.advance len none)) r) r (y.seq r).pc t
  | .stall y' => y'
  | .stop y' => y'

/-- One step of the current sequencer's instruction: the platform, the turns and the rest of the machine stay. -/
def runSeq (s : State) (len : Nat) (f : SeqRef → Sys → Res) : Host.Outcome State Fault Refusal :=
  .next { s with sys := commit s.cur s.sys len (f s.cur s.sys) }

/-- An event of another unit. -/
def runEv (s : State) (f : Sys → Sys) : Host.Outcome State Fault Refusal := .next { s with sys := f s.sys }

/-! ## Causes -/

def operandCode (code : Nat) : Trap := { code := cOperand, addr1 := BitVec.ofNat 64 code }
def operandRep (code rep : Nat) : Trap := { code := cOperand, addr1 := BitVec.ofNat 64 (code + rep * 2 ^ 8) }

/-- POISON_CHECK for the lowest-numbered poisoned register that an instruction reads (05 R116, R118), else go on. -/
def unpoisoned (q : SeqSt) (l : List (BitVec 5)) (k : Res) : Res :=
  match q.lowPoison l with
  | some v => .trap { code := cPoison, addr1 := v }
  | none => k

/-- A steward-only instruction in task mode raises PRIVILEGE (02 R52, 04 R94). -/
def stewardOnly (q : SeqSt) (k : Res) : Res := if q.steward then k else .trap { code := cPrivilege }

/-- A register write and the plain advance. -/
def done (y : Sys) (r : SeqRef) (f : SeqSt → SeqSt) : Res := .ok (y.modSeq r f) none

/-- The first cause of a list of checks. -/
def firstTrap : List (Option Trap) → Option Trap
  | [] => none
  | some t :: _ => some t
  | none :: l => firstTrap l

def whenBad (b : Bool) (t : Trap) : Option Trap := if b then some t else none

end Sys2Proof.Machine
end

