-- ==== Sys2Proof/Machine/Alu.lean ====
section
/-! DEFINITION. The integer instructions of the sequencer (05 R108 to R111) with the poison rule of 05 R117. -/

namespace Sys2Proof.Machine

/-! ## Results (05 R108, R109) -/

def flag (b : Bool) : Word := if b then 1 else 0

/-- The shift amount gB[5:0] (05 R108). -/
def shAmt (b : Word) : Nat := b.toNat % 64

/-- Division of 05 R109. -/
def divS (a b : Word) : Word := if b = 0 then BitVec.allOnes 64 else BitVec.ofInt 64 (a.toInt.tdiv b.toInt)
def remS (a b : Word) : Word := if b = 0 then a else BitVec.ofInt 64 (a.toInt - b.toInt * a.toInt.tdiv b.toInt)
def divN (a b : Word) : Word := if b = 0 then BitVec.allOnes 64 else BitVec.ofNat 64 (a.toNat / b.toNat)
def remN (a b : Word) : Word := if b = 0 then a else BitVec.ofNat 64 (a.toNat % b.toNat)

/-- Leading zero bits of 64. -/
def clzOf (a : Word) : Nat := ((List.range 64).takeWhile (fun k => !a.getMsbD k)).length
/-- Trailing zero bits of 64. -/
def ctzOf (a : Word) : Nat := ((List.range 64).takeWhile (fun k => !a.getLsbD k)).length
def popcOf (a : Word) : Nat := ((List.range 64).filter (fun k => a.getLsbD k)).length

def resAdd (a b : Word) : Word := a + b
def resSub (a b : Word) : Word := a - b
def resAnd (a b : Word) : Word := a &&& b
def resOr (a b : Word) : Word := a ||| b
def resXor (a b : Word) : Word := a ^^^ b
def resAndn (a b : Word) : Word := a &&& ~~~b
def resSll (a b : Word) : Word := a <<< shAmt b
def resSrl (a b : Word) : Word := a >>> shAmt b
def resSra (a b : Word) : Word := a.sshiftRight (shAmt b)
def resRol (a b : Word) : Word := a.rotateLeft (shAmt b)
def resRor (a b : Word) : Word := a.rotateRight (shAmt b)
def resMinS64 (a b : Word) : Word := if a.slt b then a else b
def resMinN64 (a b : Word) : Word := if a.ult b then a else b
def resMaxS64 (a b : Word) : Word := if a.slt b then b else a
def resMaxN64 (a b : Word) : Word := if a.ult b then b else a
def resSltS64 (a b : Word) : Word := flag (a.slt b)
def resSltN64 (a b : Word) : Word := flag (a.ult b)
def resSeq (a b : Word) : Word := flag (a == b)
def resSne (a b : Word) : Word := flag (a != b)
def resMul (a b : Word) : Word := a * b
def resMulhS64 (a b : Word) : Word := BitVec.ofInt 64 (a.toInt * b.toInt / 2 ^ 64)
def resMulhN64 (a b : Word) : Word := BitVec.ofNat 64 (a.toNat * b.toNat / 2 ^ 64)
def resDivS64 (a b : Word) : Word := divS a b
def resDivN64 (a b : Word) : Word := divN a b
def resRemS64 (a b : Word) : Word := remS a b
def resRemN64 (a b : Word) : Word := remN a b
def resClz (a : Word) : Word := BitVec.ofNat 64 (clzOf a)
def resCtz (a : Word) : Word := BitVec.ofNat 64 (ctzOf a)
def resPopc (a : Word) : Word := BitVec.ofNat 64 (popcOf a)
def resExtS8 (a : Word) : Word := (a.truncate 8).signExtend 64
def resExtS16 (a : Word) : Word := (a.truncate 16).signExtend 64
def resExtS32 (a : Word) : Word := (a.truncate 32).signExtend 64
def resExtN8 (a : Word) : Word := (a.truncate 8).zeroExtend 64
def resExtN16 (a : Word) : Word := (a.truncate 16).zeroExtend 64
def resExtN32 (a : Word) : Word := (a.truncate 32).zeroExtend 64
def resAddi (a : Word) (i : BitVec 12) : Word := a + sx i
def resAndi (a : Word) (i : BitVec 12) : Word := a &&& sx i
def resOri (a : Word) (i : BitVec 12) : Word := a ||| sx i
def resXori (a : Word) (i : BitVec 12) : Word := a ^^^ sx i
def resSlli (a : Word) (i : BitVec 6) : Word := a <<< i.toNat
def resSrli (a : Word) (i : BitVec 6) : Word := a >>> i.toNat
def resSrai (a : Word) (i : BitVec 6) : Word := a.sshiftRight i.toNat
def resSltiS64 (a : Word) (i : BitVec 12) : Word := flag (a.slt (sx i))
def resSltiN64 (a : Word) (i : BitVec 12) : Word := flag (a.ult (sx i))
def resSeqi (a : Word) (i : BitVec 12) : Word := flag (a == sx i)
def resLhi (g : Word) (i : BitVec 32) : Word := i ++ g.truncate 32
def resAddl (g : Word) (i : BitVec 32) : Word := g + sx i

/-! ## The shared step -/

/-- The result goes to gD, or the carried value of the first poisoned source goes there with its tag (05 R117). -/
def SeqSt.putAlu (q : SeqSt) (d : BitVec 5) (srcs : List (BitVec 5)) (v : Word) : SeqSt :=
  match q.firstPoison srcs with
  | some p => q.wgPoison d p
  | none => q.wg d v

/-- An instruction of two register sources. -/
def aluRR (d a b : BitVec 5) (f : Word → Word → Word) (s : State) : Host.Outcome State Fault Refusal :=
  runSeq s 4 (fun r y => done y r (fun q => q.putAlu d [a, b] (f (q.rg a) (q.rg b))))

/-- An instruction of one register source, `len` bytes long. -/
def aluR (len : Nat) (d a : BitVec 5) (f : Word → Word) (s : State) : Host.Outcome State Fault Refusal :=
  runSeq s len (fun r y => done y r (fun q => q.putAlu d [a] (f (q.rg a))))

/-! ## The instructions -/

/-- `add` (05 R108). -/
def execAdd (d a b : BitVec 5) (s : State) : Host.Outcome State Fault Refusal := aluRR d a b resAdd s

/-- `sub` (05 R108). -/
def execSub (d a b : BitVec 5) (s : State) : Host.Outcome State Fault Refusal := aluRR d a b resSub s

/-- `and` (05 R108). -/
def execAnd (d a b : BitVec 5) (s : State) : Host.Outcome State Fault Refusal := aluRR d a b resAnd s

/-- `or` (05 R108). -/
def execOr (d a b : BitVec 5) (s : State) : Host.Outcome State Fault Refusal := aluRR d a b resOr s

/-- `xor` (05 R108). -/
def execXor (d a b : BitVec 5) (s : State) : Host.Outcome State Fault Refusal := aluRR d a b resXor s

/-- `andn` (05 R108). -/
def execAndn (d a b : BitVec 5) (s : State) : Host.Outcome State Fault Refusal := aluRR d a b resAndn s

/-- `sll` (05 R108). -/
def execSll (d a b : BitVec 5) (s : State) : Host.Outcome State Fault Refusal := aluRR d a b resSll s

/-- `srl` (05 R108). -/
def execSrl (d a b : BitVec 5) (s : State) : Host.Outcome State Fault Refusal := aluRR d a b resSrl s

/-- `sra` (05 R108). -/
def execSra (d a b : BitVec 5) (s : State) : Host.Outcome State Fault Refusal := aluRR d a b resSra s

/-- `rol` (05 R108). -/
def execRol (d a b : BitVec 5) (s : State) : Host.Outcome State Fault Refusal := aluRR d a b resRol s

/-- `ror` (05 R108). -/
def execRor (d a b : BitVec 5) (s : State) : Host.Outcome State Fault Refusal := aluRR d a b resRor s

/-- `minS64` (05 R108). -/
def execMinS64 (d a b : BitVec 5) (s : State) : Host.Outcome State Fault Refusal := aluRR d a b resMinS64 s

/-- `minN64` (05 R108). -/
def execMinN64 (d a b : BitVec 5) (s : State) : Host.Outcome State Fault Refusal := aluRR d a b resMinN64 s

/-- `maxS64` (05 R108). -/
def execMaxS64 (d a b : BitVec 5) (s : State) : Host.Outcome State Fault Refusal := aluRR d a b resMaxS64 s

/-- `maxN64` (05 R108). -/
def execMaxN64 (d a b : BitVec 5) (s : State) : Host.Outcome State Fault Refusal := aluRR d a b resMaxN64 s

/-- `sltS64` (05 R108). -/
def execSltS64 (d a b : BitVec 5) (s : State) : Host.Outcome State Fault Refusal := aluRR d a b resSltS64 s

/-- `sltN64` (05 R108). -/
def execSltN64 (d a b : BitVec 5) (s : State) : Host.Outcome State Fault Refusal := aluRR d a b resSltN64 s

/-- `seq` (05 R108). -/
def execSeq (d a b : BitVec 5) (s : State) : Host.Outcome State Fault Refusal := aluRR d a b resSeq s

/-- `sne` (05 R108). -/
def execSne (d a b : BitVec 5) (s : State) : Host.Outcome State Fault Refusal := aluRR d a b resSne s

/-- `mul` (05 R108). -/
def execMul (d a b : BitVec 5) (s : State) : Host.Outcome State Fault Refusal := aluRR d a b resMul s

/-- `mulhS64` (05 R108). -/
def execMulhS64 (d a b : BitVec 5) (s : State) : Host.Outcome State Fault Refusal := aluRR d a b resMulhS64 s

/-- `mulhN64` (05 R108). -/
def execMulhN64 (d a b : BitVec 5) (s : State) : Host.Outcome State Fault Refusal := aluRR d a b resMulhN64 s

/-- `divS64` (05 R109). -/
def execDivS64 (d a b : BitVec 5) (s : State) : Host.Outcome State Fault Refusal := aluRR d a b resDivS64 s

/-- `divN64` (05 R109). -/
def execDivN64 (d a b : BitVec 5) (s : State) : Host.Outcome State Fault Refusal := aluRR d a b resDivN64 s

/-- `remS64` (05 R109). -/
def execRemS64 (d a b : BitVec 5) (s : State) : Host.Outcome State Fault Refusal := aluRR d a b resRemS64 s

/-- `remN64` (05 R109). -/
def execRemN64 (d a b : BitVec 5) (s : State) : Host.Outcome State Fault Refusal := aluRR d a b resRemN64 s

/-- `clz` (05 R108). -/
def execClz (d a : BitVec 5) (s : State) : Host.Outcome State Fault Refusal := aluR 4 d a resClz s

/-- `ctz` (05 R108). -/
def execCtz (d a : BitVec 5) (s : State) : Host.Outcome State Fault Refusal := aluR 4 d a resCtz s

/-- `popc` (05 R108). -/
def execPopc (d a : BitVec 5) (s : State) : Host.Outcome State Fault Refusal := aluR 4 d a resPopc s

/-- `extS8` (05 R108). -/
def execExtS8 (d a : BitVec 5) (s : State) : Host.Outcome State Fault Refusal := aluR 4 d a resExtS8 s

/-- `extS16` (05 R108). -/
def execExtS16 (d a : BitVec 5) (s : State) : Host.Outcome State Fault Refusal := aluR 4 d a resExtS16 s

/-- `extS32` (05 R108). -/
def execExtS32 (d a : BitVec 5) (s : State) : Host.Outcome State Fault Refusal := aluR 4 d a resExtS32 s

/-- `extN8` (05 R108). -/
def execExtN8 (d a : BitVec 5) (s : State) : Host.Outcome State Fault Refusal := aluR 4 d a resExtN8 s

/-- `extN16` (05 R108). -/
def execExtN16 (d a : BitVec 5) (s : State) : Host.Outcome State Fault Refusal := aluR 4 d a resExtN16 s

/-- `extN32` (05 R108). -/
def execExtN32 (d a : BitVec 5) (s : State) : Host.Outcome State Fault Refusal := aluR 4 d a resExtN32 s

/-- `addi` (05 R110). -/
def execAddi (d a : BitVec 5) (i : BitVec 12) (s : State) : Host.Outcome State Fault Refusal :=
  aluR 4 d a (fun v => resAddi v i) s

/-- `andi` (05 R110). -/
def execAndi (d a : BitVec 5) (i : BitVec 12) (s : State) : Host.Outcome State Fault Refusal :=
  aluR 4 d a (fun v => resAndi v i) s

/-- `ori` (05 R110). -/
def execOri (d a : BitVec 5) (i : BitVec 12) (s : State) : Host.Outcome State Fault Refusal :=
  aluR 4 d a (fun v => resOri v i) s

/-- `xori` (05 R110). -/
def execXori (d a : BitVec 5) (i : BitVec 12) (s : State) : Host.Outcome State Fault Refusal :=
  aluR 4 d a (fun v => resXori v i) s

/-- `slli` (05 R110). -/
def execSlli (d a : BitVec 5) (i : BitVec 6) (s : State) : Host.Outcome State Fault Refusal :=
  aluR 4 d a (fun v => resSlli v i) s

/-- `srli` (05 R110). -/
def execSrli (d a : BitVec 5) (i : BitVec 6) (s : State) : Host.Outcome State Fault Refusal :=
  aluR 4 d a (fun v => resSrli v i) s

/-- `srai` (05 R110). -/
def execSrai (d a : BitVec 5) (i : BitVec 6) (s : State) : Host.Outcome State Fault Refusal :=
  aluR 4 d a (fun v => resSrai v i) s

/-- `sltiS64` (05 R110). -/
def execSltiS64 (d a : BitVec 5) (i : BitVec 12) (s : State) : Host.Outcome State Fault Refusal :=
  aluR 4 d a (fun v => resSltiS64 v i) s

/-- `sltiN64` (05 R110). -/
def execSltiN64 (d a : BitVec 5) (i : BitVec 12) (s : State) : Host.Outcome State Fault Refusal :=
  aluR 4 d a (fun v => resSltiN64 v i) s

/-- `seqi` (05 R110). -/
def execSeqi (d a : BitVec 5) (i : BitVec 12) (s : State) : Host.Outcome State Fault Refusal :=
  aluR 4 d a (fun v => resSeqi v i) s

/-- `li` reads no register (05 R111). -/
def execLi (d : BitVec 5) (i : BitVec 32) (s : State) : Host.Outcome State Fault Refusal :=
  runSeq s 6 (fun r y => done y r (fun q => q.wg d (sx i)))

/-- `lhi` reads gD (05 R111). -/
def execLhi (d : BitVec 5) (i : BitVec 32) (s : State) : Host.Outcome State Fault Refusal :=
  aluR 6 d d (fun v => resLhi v i) s

/-- `addl` reads gD (05 R111). -/
def execAddl (d : BitVec 5) (i : BitVec 32) (s : State) : Host.Outcome State Fault Refusal :=
  aluR 6 d d (fun v => resAddl v i) s

end Sys2Proof.Machine
end

