-- ==== Sys2Proof/WellFormed.lean ====
section
/-! DEFINITION. Which operand values an encoding admits: the reserved values and unused fields of 03 R61 to R67,
09 R179, 10 R214 and R222, 12 R274, and the register numbers of 15 R352, 18 R387 and 20 R405. -/

namespace Sys2Proof

/-- WTH = 0 with a WSEM, or SINC = 0 with an SSEM or a SCOPE, is a reserved combination (03 R66, R67). -/
def Common.bad (c : Common) : Bool :=
  (c.wth == 0 && c.wsem != 0) || (c.sinc == 0 && (c.ssem != 0 || c.scope != 0))

/-- A command that names no walk keeps STEP at 0 (04 R91). -/
def Common.noWalk (c : Common) : Bool := c.step == 0

/-- The split and the fuse carry no wait, signal, repeat or step (09 R198, R199). -/
def Common.plain (c : Common) : Bool :=
  c.rep == 0 && c.step == 0 && c.wth == 0 && c.wsem == 0 && c.sinc == 0 && c.ssem == 0 && c.scope == 0

/-- The reserved values and unused fields of an engine command (09 R179, R198, R199, 10 R214, 12 R274): the
encoding causes that its fields alone decide. -/
def commandBad : Instr → Bool
  | .mxLdb _ bw _ c => c.bad || bw == 3
  | .mxSpm _ c => c.bad
  | .mxRun wa _ _ mode src c => c.bad || mode == 3 || src == 3 || (src != 0 && wa != 0)
  | .mxDrn _ _ _ c => c.bad
  | .mxDrnx _ _ c => c.bad
  | .mxFill _ _ c => c.bad
  | .mxClr wr all c => c.bad || (all && (wr != 0 || !c.noWalk))
  | .mxDead wr all c => c.bad || (all && (wr != 0 || !c.noWalk))
  | .mxChn h en c => c.bad || !c.noWalk || (!en && h != 0)
  | .mxByp _ c => c.bad || !c.noWalk
  | .mxSpl _ c => !c.plain
  | .mxFrm c => !c.plain
  | .cpBlk _ _ c => c.bad
  | .cpWalk _ _ _ _ c => c.bad
  | .cpFill _ _ c => c.bad
  | .cpTrn _ _ c => c.bad
  | .cpGat _ _ c => c.bad
  | .cpSca _ _ c => c.bad
  | .cpRed _ _ _ c => c.bad
  | .cpAmo _ _ c => c.bad
  | .cpAmor _ _ c => c.bad
  | .cpSig _ _ _ c => c.bad
  | .cpSigw _ _ c => c.bad
  | .cpSigr _ _ c => c.bad
  | .cpRw _ _ _ _ c => c.bad
  | .cpLand _ _ c => c.bad
  | .cpLrev _ _ c => c.bad
  | .xbBind _ c => c.bad || !c.noWalk
  | .xbFree _ c => c.bad || !c.noWalk
  | .xbProg _ _ c => c.bad || c.rep != 0 || c.step != 0
  | .xbFeed _ _ ws fmt tgt c => c.bad || 5 < tgt.toNat || (fmt.toNat < 5 && ws != 0)
  | .xbTake _ _ ws fmt c => c.bad || (fmt.toNat < 5 && ws != 0)
  | .xbSeed _ _ k c => c.bad || 4 < k.toNat
  | _ => false

/-- A timeline number that 12 R305 does not assign. -/
def tlBad (n : Nat) : Bool := n == 7 || 11 < n

/-- An item of `gv.stat` that 15 R352 does not list. -/
def gvStatBad (n : Nat) : Bool := n == 7 || 10 < n

/-- An item of `gv.set` that 15 R353 does not list. -/
def gvSetBad (n : Nat) : Bool := !(n == 9 || n == 10)

/-- A target of `ls.ask` or `ls.drop` that 18 R387 does not assign. -/
def lsBad (n : Nat) : Bool := !(n == 0 || (8 ≤ n && n ≤ 11))

/-- A counter of `ls.stat` that 18 R388 does not list. -/
def lsStatBad (n : Nat) : Bool := 7 < n

/-- A control-register number that 20 R405 does not list. -/
def crBad (n : Nat) : Bool :=
  !(n ≤ 9 || (0x10 ≤ n && n ≤ 0x18) || n == 0x1C || n == 0x1D || (0x20 ≤ n && n ≤ 0x27) || (0x30 ≤ n && n ≤ 0x4B))

/-- TYPE names a floating lane type (03 R71). -/
def tyFloat (t : Nat) : Bool := t ≤ 2

/-- TYPE names an integer lane type (03 R71). -/
def tyInt (t : Nat) : Bool := 3 ≤ t && t ≤ 6

/-- MOD of a word that rounds a float and saturates an integer: RM or SAT, the rest reserved (10 R223, R224). -/
def arithModBad (t m : Nat) : Bool := if tyFloat t then 4 < m else 1 < m

/-- MOD of `x.abs` and `x.neg`: nothing for a float, SAT for an integer (10 R225). -/
def absModBad (t m : Nat) : Bool := if tyFloat t then m != 0 else 1 < m

/-- MOD of the logic words and shifts: SAT alone (10 R224, R225; log entry 30). -/
def logicModBad (m : Nat) : Bool := 1 < m

/-- A source type that `x.cvtn` does not take, or MX on int32 (10 R228). -/
def cvtnNo (t cm : Nat) : Bool := !(t ≤ 3) || (t == 3 && 4 < cm)

/-- MX on an integer destination of `x.cvtw` (10 R228). -/
def cvtwNo (t cm : Nat) : Bool := tyInt t && 4 < cm

/-- `x.pack` with a kind that its TYPE does not have (10 R229). -/
def packNo (t kind : Nat) : Bool := !((tyFloat t && kind == 0) || (tyInt t && kind == 1))

/-- The operands are ones that some encoding of the instruction holds; an event has no encoding and every operand of
it is admitted. -/
def Instr.wf : Instr → Bool
  | .add _ _ _ => true
  | .sub _ _ _ => true
  | .and _ _ _ => true
  | .or _ _ _ => true
  | .xor _ _ _ => true
  | .andn _ _ _ => true
  | .sll _ _ _ => true
  | .srl _ _ _ => true
  | .sra _ _ _ => true
  | .rol _ _ _ => true
  | .ror _ _ _ => true
  | .minS64 _ _ _ => true
  | .minN64 _ _ _ => true
  | .maxS64 _ _ _ => true
  | .maxN64 _ _ _ => true
  | .sltS64 _ _ _ => true
  | .sltN64 _ _ _ => true
  | .seq _ _ _ => true
  | .sne _ _ _ => true
  | .mul _ _ _ => true
  | .mulhS64 _ _ _ => true
  | .mulhN64 _ _ _ => true
  | .divS64 _ _ _ => true
  | .divN64 _ _ _ => true
  | .remS64 _ _ _ => true
  | .remN64 _ _ _ => true
  | .clz _ _ => true
  | .ctz _ _ => true
  | .popc _ _ => true
  | .extS8 _ _ => true
  | .extS16 _ _ => true
  | .extS32 _ _ => true
  | .extN8 _ _ => true
  | .extN16 _ _ => true
  | .extN32 _ _ => true
  | .addi _ _ _ => true
  | .andi _ _ _ => true
  | .ori _ _ _ => true
  | .xori _ _ _ => true
  | .slli _ _ _ => true
  | .srli _ _ _ => true
  | .srai _ _ _ => true
  | .sltiS64 _ _ _ => true
  | .sltiN64 _ _ _ => true
  | .seqi _ _ _ => true
  | .li _ _ => true
  | .lhi _ _ => true
  | .addl _ _ => true
  | .ldS8 _ _ _ => true
  | .ldN8 _ _ _ => true
  | .ldS16 _ _ _ => true
  | .ldN16 _ _ _ => true
  | .ldS32 _ _ _ => true
  | .ldN32 _ _ _ => true
  | .ldN64 _ _ _ => true
  | .ldxN64 _ _ _ => true
  | .stN8 _ _ _ => true
  | .stN16 _ _ _ => true
  | .stN32 _ _ _ => true
  | .stN64 _ _ _ => true
  | .stxN64 _ _ _ => true
  | .ldDfr _ _ _ => true
  | .vouch _ _ => true
  | .beq _ _ n _ => n != 3
  | .bne _ _ n _ => n != 3
  | .bltS64 _ _ n _ => n != 3
  | .bgeS64 _ _ n _ => n != 3
  | .bltN64 _ _ n _ => n != 3
  | .bgeN64 _ _ n _ => n != 3
  | .bbs _ _ n _ => n != 3
  | .bbc _ _ n _ => n != 3
  | .dbnz _ n _ => n != 3
  | .j n _ => n != 3
  | .call n _ => n != 3
  | .jf n _ => n != 3
  | .callf n _ => n != 3
  | .bzf _ n _ => n != 3
  | .bnzf _ n _ => n != 3
  | .bltzf _ n _ => n != 3
  | .bgezf _ n _ => n != 3
  | .jr _ => true
  | .callr _ => true
  | .ret => true
  | .nest _ _ _ => true
  | .tret => true
  | .semWait _ _ => true
  | .semSig _ _ _ => true
  | .semGet _ _ => true
  | .semTry _ _ _ => true
  | .tlWait n _ => !tlBad n.toNat
  | .tlGet _ n => !tlBad n.toNat
  | .tlTry _ n _ => !tlBad n.toNat
  | .fenceF => true
  | .fenceD => true
  | .fenceP => true
  | .fenceS => true
  | .gvRsv _ => true
  | .gvRel _ => true
  | .gvStat _ n => !gvStatBad n.toNat
  | .gvSet n _ => !gvSetBad n.toNat
  | .lsAsk n _ => !lsBad n.toNat
  | .lsDrop n => !lsBad n.toNat
  | .lsStat _ n => !lsStatBad n.toNat
  | .mfc _ n => !crBad n.toNat
  | .mtc n _ => !crBad n.toNat
  | .trap _ => true
  | .brk _ => true
  | .yield => true
  | .tend => true
  | .nop => true
  | .smap _ _ => true
  | .csave _ _ => true
  | .crest _ _ => true
  | .clmStart _ _ => true
  | .clmPreq _ _ => true
  | .clmPclr _ _ => true
  | .clmIntr _ _ => true
  | .clmUnpark _ _ => true
  | .cpres _ _ => true
  | .qsc _ _ => true
  | .ewait _ _ => true
  | .halt => true
  | .smget _ _ _ => true
  | .wld _ _ _ => true
  | .wst _ _ _ => true
  | .wbase _ _ _ => true
  | .wbnd _ k _ _ => k.toNat < 6
  | .wstr _ k _ _ => k.toNat < 6
  | .wclr _ => true
  | .mxLdb wb bw sp c => !commandBad (.mxLdb wb bw sp c)
  | .mxSpm wp c => !commandBad (.mxSpm wp c)
  | .mxRun wa wr pm mode src c => !commandBad (.mxRun wa wr pm mode src c)
  | .mxDrn wr wd clr c => !commandBad (.mxDrn wr wd clr c)
  | .mxDrnx wr clr c => !commandBad (.mxDrnx wr clr c)
  | .mxFill wr ws c => !commandBad (.mxFill wr ws c)
  | .mxClr wr all c => !commandBad (.mxClr wr all c)
  | .mxDead wr all c => !commandBad (.mxDead wr all c)
  | .mxChn h en c => !commandBad (.mxChn h en c)
  | .mxByp en c => !commandBad (.mxByp en c)
  | .mxSpl wk c => !commandBad (.mxSpl wk c)
  | .mxFrm c => !commandBad (.mxFrm c)
  | .cpBlk k wr c => !commandBad (.cpBlk k wr c)
  | .cpWalk k wr wa wb c => !commandBad (.cpWalk k wr wa wb c)
  | .cpFill k wr c => !commandBad (.cpFill k wr c)
  | .cpTrn k wr c => !commandBad (.cpTrn k wr c)
  | .cpGat k wr c => !commandBad (.cpGat k wr c)
  | .cpSca k wr c => !commandBad (.cpSca k wr c)
  | .cpRed k wr ix c => !commandBad (.cpRed k wr ix c)
  | .cpAmo k wr c => !commandBad (.cpAmo k wr c)
  | .cpAmor k wr c => !commandBad (.cpAmor k wr c)
  | .cpSig k wr sc c => !commandBad (.cpSig k wr sc c)
  | .cpSigw k wr c => !commandBad (.cpSigw k wr c)
  | .cpSigr k wr c => !commandBad (.cpSigr k wr c)
  | .cpRw k wr red ls c => !commandBad (.cpRw k wr red ls c)
  | .cpLand k wr c => !commandBad (.cpLand k wr c)
  | .cpLrev k wr c => !commandBad (.cpLrev k wr c)
  | .xbBind ch c => !commandBad (.xbBind ch c)
  | .xbFree ch c => !commandBad (.xbFree ch c)
  | .xbProg ch wp c => !commandBad (.xbProg ch wp c)
  | .xbFeed ch we ws fmt tgt c => !commandBad (.xbFeed ch we ws fmt tgt c)
  | .xbTake ch we ws fmt c => !commandBad (.xbTake ch we ws fmt c)
  | .xbSeed ch ws k c => !commandBad (.xbSeed ch ws k c)
  | .xAdd m t _ _ d g => g != 12 && g != 13 && t != 7 && !arithModBad t.toNat m.toNat && d != 14
  | .xSub m t _ _ d g => g != 12 && g != 13 && t != 7 && !arithModBad t.toNat m.toNat && d != 14
  | .xMul m t _ _ d g => g != 12 && g != 13 && t != 7 && !arithModBad t.toNat m.toNat && d != 14
  | .xMin t _ _ d g => g != 12 && g != 13 && t != 7 && d != 14
  | .xMax t _ _ d g => g != 12 && g != 13 && t != 7 && d != 14
  | .xAbs m t _ d g => g != 12 && g != 13 && t != 7 && !absModBad t.toNat m.toNat && d != 14
  | .xNeg m t _ d g => g != 12 && g != 13 && t != 7 && !absModBad t.toNat m.toNat && d != 14
  | .xAnd m t _ _ d g => g != 12 && g != 13 && (t == 3 || t == 4) && !logicModBad m.toNat && d != 14
  | .xOr m t _ _ d g => g != 12 && g != 13 && (t == 3 || t == 4) && !logicModBad m.toNat && d != 14
  | .xXor m t _ _ d g => g != 12 && g != 13 && (t == 3 || t == 4) && !logicModBad m.toNat && d != 14
  | .xShl m t _ _ d g => g != 12 && g != 13 && (t == 3 || t == 4) && !logicModBad m.toNat && d != 14
  | .xShr m t _ _ d g => g != 12 && g != 13 && (t == 3 || t == 4) && !logicModBad m.toNat && d != 14
  | .xSra m t _ _ d g => g != 12 && g != 13 && (t == 3 || t == 4) && !logicModBad m.toNat && d != 14
  | .xMov _ d g => g != 12 && g != 13 && d != 14
  | .xFma r t _ _ d g => g != 12 && g != 13 && tyFloat t.toNat && r.toNat < 5 && d.toNat < 14
  | .xFms r t _ _ d g => g != 12 && g != 13 && tyFloat t.toNat && r.toNat < 5 && d.toNat < 14
  | .xFnma r t _ _ d g => g != 12 && g != 13 && tyFloat t.toNat && r.toNat < 5 && d.toNat < 14
  | .xFnms r t _ _ d g => g != 12 && g != 13 && tyFloat t.toNat && r.toNat < 5 && d.toNat < 14
  | .xCvt s r t _ d g => g != 12 && g != 13 && t != 7 && s != 7 && r.toNat < 5 && d != 14
  | .xCvtn _ c t _ d g => g != 12 && g != 13 && t != 7 && c != 7 && !cvtnNo t.toNat c.toNat && d != 14
  | .xCvtw _ c t _ d g => g != 12 && g != 13 && t != 7 && c != 7 && !cvtwNo t.toNat c.toNat && d != 14
  | .xPack _ k _ t _ _ => t != 7 && !packNo t.toNat k.toNat
  | .xUnpk _ _ t _ d g => g != 12 && g != 13 && t != 7 && d != 14
  | .xRcp r t _ d g => g != 12 && g != 13 && tyFloat t.toNat && r.toNat < 5 && d != 14
  | .xRsq r t _ d g => g != 12 && g != 13 && tyFloat t.toNat && r.toNat < 5 && d != 14
  | .xSqrt r t _ d g => g != 12 && g != 13 && tyFloat t.toNat && r.toNat < 5 && d != 14
  | .xExp2 r t _ d g => g != 12 && g != 13 && tyFloat t.toNat && r.toNat < 5 && d != 14
  | .xLog2 r t _ d g => g != 12 && g != 13 && tyFloat t.toNat && r.toNat < 5 && d != 14
  | .xDiv r t _ _ d g => g != 12 && g != 13 && tyFloat t.toNat && r.toNat < 5 && d != 14
  | .xCeq t _ _ d g => g != 12 && g != 13 && t != 7 && d.toNat < 6
  | .xClt t _ _ d g => g != 12 && g != 13 && t != 7 && d.toNat < 6
  | .xCle t _ _ d g => g != 12 && g != 13 && t != 7 && d.toNat < 6
  | .xCun t _ _ d g => g != 12 && g != 13 && tyFloat t.toNat && d.toNat < 6
  | .xSel s _ _ d g => g != 12 && g != 13 && s.toNat < 12 && d != 14
  | .xPand _ b a d g => g != 12 && g != 13 && b.toNat < 12 && a.toNat < 12 && d.toNat < 12
  | .xPmovToP t _ d g => g != 12 && g != 13 && t != 7 && d.toNat < 6
  | .xPmovToV t a d g => g != 12 && g != 13 && t != 7 && a.toNat < 12 && d != 14
  | .xRsum m t _ d g => g != 12 && g != 13 && t != 7 && !arithModBad t.toNat m.toNat && !(tyFloat t.toNat && m == 4) && d != 14
  | .xCsum m t _ d g => g != 12 && g != 13 && t != 7 && !arithModBad t.toNat m.toNat && !(tyFloat t.toNat && m == 4) && d != 14
  | .xRmax t _ d g => g != 12 && g != 13 && t != 7 && d != 14
  | .xCmax t _ d g => g != 12 && g != 13 && t != 7 && d != 14
  | .xRmin t _ d g => g != 12 && g != 13 && t != 7 && d != 14
  | .xCmin t _ d g => g != 12 && g != 13 && t != 7 && d != 14
  | .xBcr _ _ d g => g != 12 && g != 13 && d != 14
  | .xBcc _ _ d g => g != 12 && g != 13 && d != 14
  | .xTr _ d g => g != 12 && g != 13 && d != 14
  | .xRotR _ _ d g => g != 12 && g != 13 && d != 14
  | .xRotC _ _ d g => g != 12 && g != 13 && d != 14
  | .xPerm _ _ d g => g != 12 && g != 13 && d != 14
  | .xShp n _ => n.toNat < 14
  | .xIdle _ _ => true
  | .xPost _ _ => true
  | .xFlg _ d g => g != 12 && g != 13 && d != 14
  | .xMode h _ _ => h != 7
  | .asyncTrapEntry _ => true
  | .entryStart _ _ _ => true
  | .entryRetire _ _ _ => true
  | .stripGroupStart _ _ _ => true
  | .stripGroupRetire _ _ _ => true
  | .postedRecordTake => true
  | .copyTurn _ _ _ => true
  | .homeRequestArrival _ => true
  | .directRequestArrival _ => true
  | .leaseGrantArrival _ => true
  | .leaseExpire _ _ _ _ => true
  | .reroute _ => true
  | .leaseSkewHolder _ _ => true
  | .leaseSkewWalker _ => true
  | .skewToleranceRestored _ _ => true
  | .quarantineRelease _ _ => true
  | .moveRoundComplete _ => true
  | .walkerMap _ _ => true
  | .walkerUnmap _ _ => true
  | .walkerMove _ _ => true
  | .walkerSetlc _ _ => true
  | .walkerAddt _ _ => true
  | .wksSigerrClear _ _ => true
  | .lskStatClear _ _ => true
  | .landingArrival _ => true
  | .rwAck _ _ _ _ => true
  | .canopyPortDown _ => true
  | .hostCompletion _ _ _ _ _ => true
  | .hostCompletionTimeout _ _ _ => true
  | .linkFail _ _ => true
  | .linkLaneLoss _ _ => true
  | .notify _ _ _ => true
  | .queueEnable _ _ _ => true
  | .queueDisable _ _ _ => true
  | .qcfgWrite _ _ _ => true
  | .qerrClear _ _ _ => true
  | .qerrnClear _ _ _ => true
  | .vfDropClear _ _ => true
  | .istatClear _ _ => true
  | .watchArm _ _ _ => true
  | .watchDisarm _ _ _ => true
  | .dies => true
  | .selftest => true
  | .attest _ => true
  | .wear => true
  | .loadimg _ _ _ => true
  | .mailboxAnswer _ => true
  | .functionLevelReset _ => true
  | .flrComplete _ => true
  | .registerWrite _ _ _ _ _ => true
  | .partitionCommit _ _ => true
  | .partitionReset _ => true
  | .resetQuiesceTimeout _ _ => true
  | .partitionResetComplete _ => true
  | .pc1Write _ _ => true
  | .vfCfgWrite _ _ => true
  | .residencyMove _ => true
  | .sliceExpire _ => true
  | .govRateWrite _ _ => true
  | .govLimWrite _ => true
  | .governorTick => true
  | .pinWindowExpire _ _ => true
  | .recordTake _ _ => true
  | .gangAssemblyTimeout _ => true
  | .gangReserve _ _ => true
  | .gangCommit _ => true
  | .gangStartTimeout _ => true
  | .recordReserving _ _ _ _ => true
  | .claimGrant _ _ _ _ => true
  | .argumentCopyDone _ _ => true
  | .instanceRetire _ _ => true
  | .pieceRetire _ _ => true
  | .heldReleaseApply _ => true
  | .queueWatchdog _ => true
  | .watchdogExpire _ _ => true
  | .splitTakeEffect _ _ => true
  | .fuseTakeEffect _ _ => true
  | .saveComplete _ _ => true
  | .restoreComplete _ _ => true
  | .quiesceComplete _ _ => true
  | .heldEventPost _ => true
  | .debugStop _ _ => true
  | .cutSeal _ => true
  | .debugResume _ _ => true
  | .breakpointHit _ _ _ _ => true
  | .checkpointStart _ => true
  | .checkpointSeal _ => true
  | .ckFailClear _ _ => true
  | .replayStart _ _ => true
  | .replayDone _ => true
  | .pmselWrite _ _ _ => true
  | .diePowerStable _ => true
  | .powerGood => true
  | .bootPhaseComplete _ => true
  | .wearFlush => true
  | .powerDown => true
  | .illegalOp _ => true
  | .fetchFault _ => true
  | .devCompletion _ => true
  | .uncorrectableError _ => true
  | .dieRetiredByFirmware _ => true
  | .diePowerUpFailure _ => true
  | .powerLoss => true
  | .junctionTemperatureFall _ _ => true
  | .canopyPortTrained _ => true

end Sys2Proof
end

