-- ==== Sys2Proof/Decode.lean ====
section
/-! DEFINITION. The decoder of the two word spaces of the VZ9, total on any bits, and the encoder.
A sequencer instruction is a number whose bit 0 is bit 0 of its first parcel (03 R57); a strip word is a
32-bit number (03 R70). Rejections carry the cause that R65 or R102 gives. -/

namespace Sys2Proof

/-- Why an encoding is refused: ILLEGAL_OP, RESERVED_FIELD or STRIP_FAULT (03 R65, 04 R98, R102). -/
inductive DecErr where
  | illegal
  | reserved
  | strip
deriving DecidableEq, Repr, Inhabited

/-- Bits [lo+n-1:lo] of `w`, as a number. -/
def fld (w lo n : Nat) : Nat := w / 2 ^ lo % 2 ^ n

/-- Bits [lo+n-1:lo] of `w`, as a bit vector. -/
def bf (w lo n : Nat) : BitVec n := BitVec.ofNat n (w / 2 ^ lo)

/-- The instruction, unless a reserved field is not zero or a field holds a reserved value (00 R2). -/
def resv (bad : Bool) (i : Instr) : Except DecErr Instr := if bad then .error .reserved else .ok i

/-- A function code picks an instruction; an unassigned one is ILLEGAL_OP (04 R90, R95). -/
def pickFn (f : Nat) (l : List (Except DecErr Instr)) : Except DecErr Instr := l.getD f (.error .illegal)

/-- The length in bytes that LEN selects; `none` for the reserved length (03 R57). -/
def lenOf (w : Nat) : Option Nat :=
  match fld w 0 2 with
  | 0 => some 4
  | 1 => some 6
  | 2 => some 8
  | _ => none

/-- The common fields of format EC (03 R61). -/
def commonOf (w : Nat) : Common :=
  ⟨bf w 47 2, bf w 44 3, bf w 36 8, bf w 32 4, bf w 24 8, bf w 18 6, bf w 10 8⟩

/-- The 32-bit space (04 R94, R95): `w` is the word, `op` its bits [9:2]. -/
def decode32 (op w : Nat) : Except DecErr Instr :=
  match op with
  | 0x01 => pickFn (fld w 25 7) [.ok (.add (bf w 10 5) (bf w 15 5) (bf w 20 5))]
  | 0x02 => pickFn (fld w 25 7) [.ok (.sub (bf w 10 5) (bf w 15 5) (bf w 20 5))]
  | 0x03 => pickFn (fld w 25 7) [.ok (.and (bf w 10 5) (bf w 15 5) (bf w 20 5))]
  | 0x04 => pickFn (fld w 25 7) [.ok (.or (bf w 10 5) (bf w 15 5) (bf w 20 5))]
  | 0x05 => pickFn (fld w 25 7) [.ok (.xor (bf w 10 5) (bf w 15 5) (bf w 20 5))]
  | 0x06 => pickFn (fld w 25 7) [.ok (.andn (bf w 10 5) (bf w 15 5) (bf w 20 5))]
  | 0x07 => pickFn (fld w 25 7) [.ok (.sll (bf w 10 5) (bf w 15 5) (bf w 20 5))]
  | 0x08 => pickFn (fld w 25 7) [.ok (.srl (bf w 10 5) (bf w 15 5) (bf w 20 5))]
  | 0x09 => pickFn (fld w 25 7) [.ok (.sra (bf w 10 5) (bf w 15 5) (bf w 20 5))]
  | 0x0A => pickFn (fld w 25 7) [.ok (.rol (bf w 10 5) (bf w 15 5) (bf w 20 5))]
  | 0x0B => pickFn (fld w 25 7) [.ok (.ror (bf w 10 5) (bf w 15 5) (bf w 20 5))]
  | 0x0C => pickFn (fld w 25 7) [.ok (.minS64 (bf w 10 5) (bf w 15 5) (bf w 20 5)), .ok (.minN64 (bf w 10 5) (bf w 15 5) (bf w 20 5))]
  | 0x0D => pickFn (fld w 25 7) [.ok (.maxS64 (bf w 10 5) (bf w 15 5) (bf w 20 5)), .ok (.maxN64 (bf w 10 5) (bf w 15 5) (bf w 20 5))]
  | 0x0E => pickFn (fld w 25 7) [.ok (.sltS64 (bf w 10 5) (bf w 15 5) (bf w 20 5)), .ok (.sltN64 (bf w 10 5) (bf w 15 5) (bf w 20 5))]
  | 0x0F => pickFn (fld w 25 7) [.ok (.seq (bf w 10 5) (bf w 15 5) (bf w 20 5)), .ok (.sne (bf w 10 5) (bf w 15 5) (bf w 20 5))]
  | 0x10 => pickFn (fld w 25 7) [.ok (.mul (bf w 10 5) (bf w 15 5) (bf w 20 5)), .ok (.mulhS64 (bf w 10 5) (bf w 15 5) (bf w 20 5)), .ok (.mulhN64 (bf w 10 5) (bf w 15 5) (bf w 20 5))]
  | 0x11 => pickFn (fld w 25 7) [.ok (.divS64 (bf w 10 5) (bf w 15 5) (bf w 20 5)), .ok (.divN64 (bf w 10 5) (bf w 15 5) (bf w 20 5))]
  | 0x12 => pickFn (fld w 25 7) [.ok (.remS64 (bf w 10 5) (bf w 15 5) (bf w 20 5)), .ok (.remN64 (bf w 10 5) (bf w 15 5) (bf w 20 5))]
  | 0x13 => pickFn (fld w 25 7) [resv (fld w 20 5 != 0) (.clz (bf w 10 5) (bf w 15 5)), resv (fld w 20 5 != 0) (.ctz (bf w 10 5) (bf w 15 5)), resv (fld w 20 5 != 0) (.popc (bf w 10 5) (bf w 15 5))]
  | 0x14 => pickFn (fld w 25 7) [resv (fld w 20 5 != 0) (.extS8 (bf w 10 5) (bf w 15 5)), resv (fld w 20 5 != 0) (.extS16 (bf w 10 5) (bf w 15 5)), resv (fld w 20 5 != 0) (.extS32 (bf w 10 5) (bf w 15 5)), resv (fld w 20 5 != 0) (.extN8 (bf w 10 5) (bf w 15 5)), resv (fld w 20 5 != 0) (.extN16 (bf w 10 5) (bf w 15 5)), resv (fld w 20 5 != 0) (.extN32 (bf w 10 5) (bf w 15 5))]
  | 0x20 => .ok (.addi (bf w 10 5) (bf w 15 5) (bf w 20 12))
  | 0x21 => .ok (.andi (bf w 10 5) (bf w 15 5) (bf w 20 12))
  | 0x22 => .ok (.ori (bf w 10 5) (bf w 15 5) (bf w 20 12))
  | 0x23 => .ok (.xori (bf w 10 5) (bf w 15 5) (bf w 20 12))
  | 0x24 => resv (fld w 26 6 != 0) (.slli (bf w 10 5) (bf w 15 5) (bf w 20 6))
  | 0x25 => resv (fld w 26 6 != 0) (.srli (bf w 10 5) (bf w 15 5) (bf w 20 6))
  | 0x26 => resv (fld w 26 6 != 0) (.srai (bf w 10 5) (bf w 15 5) (bf w 20 6))
  | 0x27 => .ok (.sltiS64 (bf w 10 5) (bf w 15 5) (bf w 20 12))
  | 0x28 => .ok (.sltiN64 (bf w 10 5) (bf w 15 5) (bf w 20 12))
  | 0x29 => .ok (.seqi (bf w 10 5) (bf w 15 5) (bf w 20 12))
  | 0x40 => .ok (.ldS8 (bf w 10 5) (bf w 15 5) (bf w 20 12))
  | 0x41 => .ok (.ldN8 (bf w 10 5) (bf w 15 5) (bf w 20 12))
  | 0x42 => .ok (.ldS16 (bf w 10 5) (bf w 15 5) (bf w 20 12))
  | 0x43 => .ok (.ldN16 (bf w 10 5) (bf w 15 5) (bf w 20 12))
  | 0x44 => .ok (.ldS32 (bf w 10 5) (bf w 15 5) (bf w 20 12))
  | 0x45 => .ok (.ldN32 (bf w 10 5) (bf w 15 5) (bf w 20 12))
  | 0x46 => .ok (.ldN64 (bf w 10 5) (bf w 15 5) (bf w 20 12))
  | 0x47 => pickFn (fld w 25 7) [.ok (.ldxN64 (bf w 10 5) (bf w 15 5) (bf w 20 5))]
  | 0x48 => .ok (.stN8 (bf w 10 5) (bf w 15 5) (bf w 20 12))
  | 0x49 => .ok (.stN16 (bf w 10 5) (bf w 15 5) (bf w 20 12))
  | 0x4A => .ok (.stN32 (bf w 10 5) (bf w 15 5) (bf w 20 12))
  | 0x4B => .ok (.stN64 (bf w 10 5) (bf w 15 5) (bf w 20 12))
  | 0x4C => pickFn (fld w 25 7) [.ok (.stxN64 (bf w 10 5) (bf w 15 5) (bf w 20 5))]
  | 0x50 => .ok (.ldDfr (bf w 10 5) (bf w 15 5) (bf w 20 12))
  | 0x51 => pickFn (fld w 28 4) [resv (fld w 17 3 != 0 || fld w 10 5 != 0) (.vouch (bf w 15 2) (bf w 20 8))]
  | 0x60 => resv (fld w 20 2 == 3) (.beq (bf w 10 5) (bf w 15 5) (bf w 20 2) (bf w 22 10))
  | 0x61 => resv (fld w 20 2 == 3) (.bne (bf w 10 5) (bf w 15 5) (bf w 20 2) (bf w 22 10))
  | 0x62 => resv (fld w 20 2 == 3) (.bltS64 (bf w 10 5) (bf w 15 5) (bf w 20 2) (bf w 22 10))
  | 0x63 => resv (fld w 20 2 == 3) (.bgeS64 (bf w 10 5) (bf w 15 5) (bf w 20 2) (bf w 22 10))
  | 0x64 => resv (fld w 20 2 == 3) (.bltN64 (bf w 10 5) (bf w 15 5) (bf w 20 2) (bf w 22 10))
  | 0x65 => resv (fld w 20 2 == 3) (.bgeN64 (bf w 10 5) (bf w 15 5) (bf w 20 2) (bf w 22 10))
  | 0x66 => resv (fld w 20 2 == 3) (.bbs (bf w 10 5) (bf w 15 5) (bf w 20 2) (bf w 22 10))
  | 0x67 => resv (fld w 20 2 == 3) (.bbc (bf w 10 5) (bf w 15 5) (bf w 20 2) (bf w 22 10))
  | 0x68 => resv (fld w 20 2 == 3 || fld w 15 5 != 0) (.dbnz (bf w 10 5) (bf w 20 2) (bf w 22 10))
  | 0x69 => resv (fld w 10 2 == 3) (.j (bf w 10 2) (bf w 12 20))
  | 0x6A => resv (fld w 10 2 == 3) (.call (bf w 10 2) (bf w 12 20))
  | 0x6B => pickFn (fld w 25 7) [resv (fld w 20 5 != 0 || fld w 10 5 != 0) (.jr (bf w 15 5))]
  | 0x6C => pickFn (fld w 25 7) [resv (fld w 20 5 != 0 || fld w 10 5 != 0) (.callr (bf w 15 5))]
  | 0x6D => pickFn (fld w 25 7) [resv (fld w 10 15 != 0) .ret]
  | 0x70 => pickFn (fld w 28 4) [resv (fld w 18 2 != 0) (.nest (bf w 10 5) (bf w 15 3) (bf w 20 8))]
  | 0x71 => pickFn (fld w 28 4) [resv (fld w 10 18 != 0) (.tret)]
  | 0x80 => pickFn (fld w 28 4) [resv (fld w 10 5 != 0) (.semWait (bf w 20 8) (bf w 15 5))]
  | 0x81 => pickFn (fld w 28 4) [resv (fld w 12 3 != 0) (.semSig (bf w 20 8) (bf w 15 5) (bf w 10 2))]
  | 0x82 => pickFn (fld w 28 4) [resv (fld w 15 5 != 0) (.semGet (bf w 10 5) (bf w 20 8))]
  | 0x83 => pickFn (fld w 28 4) [.ok (.semTry (bf w 10 5) (bf w 20 8) (bf w 15 5))]
  | 0x84 => pickFn (fld w 28 4) [resv (fld w 10 5 != 0 || tlBad (fld w 20 8)) (.tlWait (bf w 20 8) (bf w 15 5))]
  | 0x85 => pickFn (fld w 28 4) [resv (fld w 15 5 != 0 || tlBad (fld w 20 8)) (.tlGet (bf w 10 5) (bf w 20 8))]
  | 0x86 => pickFn (fld w 28 4) [resv (tlBad (fld w 20 8)) (.tlTry (bf w 10 5) (bf w 20 8) (bf w 15 5))]
  | 0x87 => pickFn (fld w 28 4) [resv (fld w 10 18 != 0) .fenceF, resv (fld w 10 18 != 0) .fenceD, resv (fld w 10 18 != 0) .fenceP, resv (fld w 10 18 != 0) .fenceS]
  | 0x88 => pickFn (fld w 28 4) [resv (fld w 20 8 != 0 || fld w 10 5 != 0) (.gvRsv (bf w 15 5))]
  | 0x89 => pickFn (fld w 28 4) [resv (fld w 20 8 != 0 || fld w 10 5 != 0) (.gvRel (bf w 15 5))]
  | 0x8A => pickFn (fld w 28 4) [resv (gvStatBad (fld w 20 8) || fld w 15 5 != 0) (.gvStat (bf w 10 5) (bf w 20 8))]
  | 0x8B => pickFn (fld w 28 4) [resv (gvSetBad (fld w 20 8) || fld w 10 5 != 0) (.gvSet (bf w 20 8) (bf w 15 5))]
  | 0x90 => pickFn (fld w 28 4) [resv (lsBad (fld w 20 8) || fld w 10 5 != 0) (.lsAsk (bf w 20 8) (bf w 15 5))]
  | 0x91 => pickFn (fld w 28 4) [resv (lsBad (fld w 20 8) || fld w 10 10 != 0) (.lsDrop (bf w 20 8))]
  | 0x92 => pickFn (fld w 28 4) [resv (lsStatBad (fld w 20 8) || fld w 15 5 != 0) (.lsStat (bf w 10 5) (bf w 20 8))]
  | 0xA0 => pickFn (fld w 28 4) [resv (crBad (fld w 20 8) || fld w 15 5 != 0) (.mfc (bf w 10 5) (bf w 20 8))]
  | 0xA1 => pickFn (fld w 28 4) [resv (crBad (fld w 20 8) || fld w 10 5 != 0) (.mtc (bf w 20 8) (bf w 15 5))]
  | 0xA2 => pickFn (fld w 28 4) [resv (fld w 10 10 != 0) (.trap (bf w 20 8))]
  | 0xA3 => pickFn (fld w 28 4) [resv (fld w 10 10 != 0) (.brk (bf w 20 8))]
  | 0xA4 => pickFn (fld w 28 4) [resv (fld w 10 18 != 0) (.yield)]
  | 0xA5 => pickFn (fld w 28 4) [resv (fld w 10 18 != 0) (.tend)]
  | 0xA6 => pickFn (fld w 28 4) [resv (fld w 10 18 != 0) (.nop)]
  | 0xB0 => pickFn (fld w 28 4) [resv (fld w 10 5 != 0) (.smap (bf w 20 8) (bf w 15 5))]
  | 0xB1 => pickFn (fld w 28 4) [resv (fld w 10 5 != 0) (.csave (bf w 20 8) (bf w 15 5))]
  | 0xB2 => pickFn (fld w 28 4) [resv (fld w 10 5 != 0) (.crest (bf w 20 8) (bf w 15 5))]
  | 0xB3 => pickFn (fld w 28 4) [resv (fld w 10 5 != 0) (.clmStart (bf w 20 8) (bf w 15 5))]
  | 0xB4 => pickFn (fld w 28 4) [resv (fld w 10 5 != 0) (.cpres (bf w 20 8) (bf w 15 5))]
  | 0xB5 => pickFn (fld w 28 4) [resv (fld w 10 5 != 0) (.qsc (bf w 20 8) (bf w 15 5))]
  | 0xB6 => pickFn (fld w 28 4) [resv (fld w 15 5 != 0 || fld w 21 7 != 0) (.ewait (bf w 10 5) (fld w 20 1 == 1))]
  | 0xB7 => pickFn (fld w 28 4) [resv (fld w 10 18 != 0) (.halt)]
  | 0xB8 => pickFn (fld w 28 4) [.ok (.smget (bf w 10 5) (bf w 20 8) (bf w 15 5))]
  | _ => .error .illegal

/-- The 48-bit space (04 R96, 03 R60). -/
def decode48 (op w : Nat) : Except DecErr Instr :=
  match op with
  | 0x00 => resv (fld w 15 1 != 0) (.li (bf w 10 5) (bf w 16 32))
  | 0x01 => resv (fld w 15 1 != 0) (.lhi (bf w 10 5) (bf w 16 32))
  | 0x02 => resv (fld w 15 1 != 0) (.addl (bf w 10 5) (bf w 16 32))
  | 0x08 => resv (fld w 12 4 != 0 || fld w 10 2 == 3) (.jf (bf w 10 2) (bf w 16 32))
  | 0x09 => resv (fld w 12 4 != 0 || fld w 10 2 == 3) (.callf (bf w 10 2) (bf w 16 32))
  | 0x10 => resv (fld w 15 1 != 0 || fld w 16 2 == 3) (.bzf (bf w 10 5) (bf w 16 2) (bf w 18 30))
  | 0x11 => resv (fld w 15 1 != 0 || fld w 16 2 == 3) (.bnzf (bf w 10 5) (bf w 16 2) (bf w 18 30))
  | 0x12 => resv (fld w 15 1 != 0 || fld w 16 2 == 3) (.bltzf (bf w 10 5) (bf w 16 2) (bf w 18 30))
  | 0x13 => resv (fld w 15 1 != 0 || fld w 16 2 == 3) (.bgezf (bf w 10 5) (bf w 16 2) (bf w 18 30))
  | _ => .error .illegal

/-- The 64-bit space (04 R97): the engine commands of 09 R179, 10 R214 and 12 R274, and the walk set-up words of
05 R121. The checks that no field of the command alone decides stand in `commandBad`. -/
def decode64 (op w : Nat) : Except DecErr Instr :=
  match op with
  | 0x00 => resv (fld w 49 8 != 0 || commandBad (.mxLdb (bf w 61 3) (bf w 59 2) (bf w 57 2) (commonOf w))) (.mxLdb (bf w 61 3) (bf w 59 2) (bf w 57 2) (commonOf w))
  | 0x01 => resv (fld w 49 12 != 0 || commandBad (.mxSpm (bf w 61 3) (commonOf w))) (.mxSpm (bf w 61 3) (commonOf w))
  | 0x04 => resv (fld w 49 1 != 0 || commandBad (.mxRun (bf w 61 3) (bf w 58 3) (bf w 54 4) (bf w 52 2) (bf w 50 2) (commonOf w))) (.mxRun (bf w 61 3) (bf w 58 3) (bf w 54 4) (bf w 52 2) (bf w 50 2) (commonOf w))
  | 0x08 => resv (fld w 49 8 != 0 || commandBad (.mxDrn (bf w 61 3) (bf w 58 3) (fld w 57 1 == 1) (commonOf w))) (.mxDrn (bf w 61 3) (bf w 58 3) (fld w 57 1 == 1) (commonOf w))
  | 0x09 => resv (fld w 49 11 != 0 || commandBad (.mxDrnx (bf w 61 3) (fld w 60 1 == 1) (commonOf w))) (.mxDrnx (bf w 61 3) (fld w 60 1 == 1) (commonOf w))
  | 0x0C => resv (fld w 49 9 != 0 || commandBad (.mxFill (bf w 61 3) (bf w 58 3) (commonOf w))) (.mxFill (bf w 61 3) (bf w 58 3) (commonOf w))
  | 0x0D => resv (fld w 49 11 != 0 || commandBad (.mxClr (bf w 61 3) (fld w 60 1 == 1) (commonOf w))) (.mxClr (bf w 61 3) (fld w 60 1 == 1) (commonOf w))
  | 0x0E => resv (fld w 49 11 != 0 || commandBad (.mxDead (bf w 61 3) (fld w 60 1 == 1) (commonOf w))) (.mxDead (bf w 61 3) (fld w 60 1 == 1) (commonOf w))
  | 0x10 => resv (fld w 49 8 != 0 || commandBad (.mxChn (bf w 58 6) (fld w 57 1 == 1) (commonOf w))) (.mxChn (bf w 58 6) (fld w 57 1 == 1) (commonOf w))
  | 0x11 => resv (fld w 49 14 != 0 || commandBad (.mxByp (fld w 63 1 == 1) (commonOf w))) (.mxByp (fld w 63 1 == 1) (commonOf w))
  | 0x18 => resv (fld w 49 12 != 0 || commandBad (.mxSpl (bf w 61 3) (commonOf w))) (.mxSpl (bf w 61 3) (commonOf w))
  | 0x19 => resv (fld w 49 15 != 0 || commandBad (.mxFrm (commonOf w))) (.mxFrm (commonOf w))
  | 0x40 => resv (fld w 49 10 != 0 || commandBad (.cpBlk (bf w 62 2) (bf w 59 3) (commonOf w))) (.cpBlk (bf w 62 2) (bf w 59 3) (commonOf w))
  | 0x41 => resv (fld w 49 4 != 0 || commandBad (.cpWalk (bf w 62 2) (bf w 59 3) (bf w 56 3) (bf w 53 3) (commonOf w))) (.cpWalk (bf w 62 2) (bf w 59 3) (bf w 56 3) (bf w 53 3) (commonOf w))
  | 0x42 => resv (fld w 49 10 != 0 || commandBad (.cpFill (bf w 62 2) (bf w 59 3) (commonOf w))) (.cpFill (bf w 62 2) (bf w 59 3) (commonOf w))
  | 0x43 => resv (fld w 49 10 != 0 || commandBad (.cpTrn (bf w 62 2) (bf w 59 3) (commonOf w))) (.cpTrn (bf w 62 2) (bf w 59 3) (commonOf w))
  | 0x44 => resv (fld w 49 10 != 0 || commandBad (.cpGat (bf w 62 2) (bf w 59 3) (commonOf w))) (.cpGat (bf w 62 2) (bf w 59 3) (commonOf w))
  | 0x45 => resv (fld w 49 10 != 0 || commandBad (.cpSca (bf w 62 2) (bf w 59 3) (commonOf w))) (.cpSca (bf w 62 2) (bf w 59 3) (commonOf w))
  | 0x48 => resv (fld w 50 9 != 0 || commandBad (.cpRed (bf w 62 2) (bf w 59 3) (fld w 49 1 == 1) (commonOf w))) (.cpRed (bf w 62 2) (bf w 59 3) (fld w 49 1 == 1) (commonOf w))
  | 0x49 => resv (fld w 49 10 != 0 || commandBad (.cpAmo (bf w 62 2) (bf w 59 3) (commonOf w))) (.cpAmo (bf w 62 2) (bf w 59 3) (commonOf w))
  | 0x4A => resv (fld w 49 10 != 0 || commandBad (.cpAmor (bf w 62 2) (bf w 59 3) (commonOf w))) (.cpAmor (bf w 62 2) (bf w 59 3) (commonOf w))
  | 0x50 => resv (fld w 51 8 != 0 || commandBad (.cpSig (bf w 62 2) (bf w 59 3) (bf w 49 2) (commonOf w))) (.cpSig (bf w 62 2) (bf w 59 3) (bf w 49 2) (commonOf w))
  | 0x51 => resv (fld w 49 10 != 0 || commandBad (.cpSigw (bf w 62 2) (bf w 59 3) (commonOf w))) (.cpSigw (bf w 62 2) (bf w 59 3) (commonOf w))
  | 0x52 => resv (fld w 49 10 != 0 || commandBad (.cpSigr (bf w 62 2) (bf w 59 3) (commonOf w))) (.cpSigr (bf w 62 2) (bf w 59 3) (commonOf w))
  | 0x58 => resv (fld w 52 7 != 0 || commandBad (.cpRw (bf w 62 2) (bf w 59 3) (bf w 50 2) (fld w 49 1 == 1) (commonOf w))) (.cpRw (bf w 62 2) (bf w 59 3) (bf w 50 2) (fld w 49 1 == 1) (commonOf w))
  | 0x59 => resv (fld w 49 10 != 0 || commandBad (.cpLand (bf w 62 2) (bf w 59 3) (commonOf w))) (.cpLand (bf w 62 2) (bf w 59 3) (commonOf w))
  | 0x5A => resv (fld w 49 10 != 0 || commandBad (.cpLrev (bf w 62 2) (bf w 59 3) (commonOf w))) (.cpLrev (bf w 62 2) (bf w 59 3) (commonOf w))
  | 0x80 => resv (fld w 49 12 != 0 || commandBad (.xbBind (bf w 61 3) (commonOf w))) (.xbBind (bf w 61 3) (commonOf w))
  | 0x81 => resv (fld w 49 12 != 0 || commandBad (.xbFree (bf w 61 3) (commonOf w))) (.xbFree (bf w 61 3) (commonOf w))
  | 0x82 => resv (fld w 49 9 != 0 || commandBad (.xbProg (bf w 61 3) (bf w 58 3) (commonOf w))) (.xbProg (bf w 61 3) (bf w 58 3) (commonOf w))
  | 0x83 => resv (commandBad (.xbFeed (bf w 61 3) (bf w 58 3) (bf w 55 3) (bf w 52 3) (bf w 49 3) (commonOf w))) (.xbFeed (bf w 61 3) (bf w 58 3) (bf w 55 3) (bf w 52 3) (bf w 49 3) (commonOf w))
  | 0x84 => resv (fld w 49 3 != 0 || commandBad (.xbTake (bf w 61 3) (bf w 58 3) (bf w 55 3) (bf w 52 3) (commonOf w))) (.xbTake (bf w 61 3) (bf w 58 3) (bf w 55 3) (bf w 52 3) (commonOf w))
  | 0x85 => resv (fld w 49 6 != 0 || commandBad (.xbSeed (bf w 61 3) (bf w 58 3) (bf w 55 3) (commonOf w))) (.xbSeed (bf w 61 3) (bf w 58 3) (bf w 55 3) (commonOf w))
  | 0xA0 => resv (fld w 13 3 != 0 || fld w 21 11 != 0) (.wld (bf w 10 3) (bf w 16 5) (bf w 32 32))
  | 0xA1 => resv (fld w 13 3 != 0 || fld w 21 11 != 0) (.wst (bf w 10 3) (bf w 16 5) (bf w 32 32))
  | 0xA2 => resv (fld w 13 3 != 0 || fld w 21 11 != 0) (.wbase (bf w 10 3) (bf w 16 5) (bf w 32 32))
  | 0xA3 => resv (fld w 21 11 != 0 || fld w 13 3 > 5) (.wbnd (bf w 10 3) (bf w 13 3) (bf w 16 5) (bf w 32 32))
  | 0xA4 => resv (fld w 21 11 != 0 || fld w 13 3 > 5) (.wstr (bf w 10 3) (bf w 13 3) (bf w 16 5) (bf w 32 32))
  | 0xA5 => resv (fld w 13 19 != 0 || fld w 32 32 != 0) (.wclr (bf w 10 3))
  | _ => .error .illegal

/-- A fully fetched sequencer instruction, its bits numbered from its first parcel: the length and the
instruction, or the first encoding cause of R65. -/
def decodeSeq (w : Nat) : Except DecErr Instr :=
  match fld w 0 2 with
  | 0 => decode32 (fld w 2 8) w
  | 1 => decode48 (fld w 2 8) w
  | 2 => decode64 (fld w 2 8) w
  | _ => .error .illegal

/-- A strip word read, when no unused field of it is set and its TYPE and MOD values are assigned
(stage 3 of 04 R102), and accepted by the word (stage 4): `bad` is stage 3, `no` is stage 4 together with the
rules of 10 R222 that depend on the word alone. -/
def stripWord (bad no : Bool) (i : Instr) : Except DecErr Instr :=
  if bad then .error .reserved else if no then .error .strip else .ok i

/-- A strip word, its causes taken in the order of 04 R102 (the guard codes 12 and 13 before the fields). -/
def decodeStrip (w : Nat) : Except DecErr Instr :=
  if fld w 7 4 = 12 || fld w 7 4 = 13 then .error .strip
  else match fld w 0 7 with
    | 0x00 => stripWord (fld w 23 3 == 7 || arithModBad (fld w 23 3) (fld w 26 6)) (!(tyFloat (fld w 23 3) || tyInt (fld w 23 3)) || fld w 11 4 == 14) (.xAdd (bf w 26 6) (bf w 23 3) (bf w 19 4) (bf w 15 4) (bf w 11 4) (bf w 7 4))
    | 0x01 => stripWord (fld w 23 3 == 7 || arithModBad (fld w 23 3) (fld w 26 6)) (!(tyFloat (fld w 23 3) || tyInt (fld w 23 3)) || fld w 11 4 == 14) (.xSub (bf w 26 6) (bf w 23 3) (bf w 19 4) (bf w 15 4) (bf w 11 4) (bf w 7 4))
    | 0x02 => stripWord (fld w 23 3 == 7 || arithModBad (fld w 23 3) (fld w 26 6)) (!(tyFloat (fld w 23 3) || tyInt (fld w 23 3)) || fld w 11 4 == 14) (.xMul (bf w 26 6) (bf w 23 3) (bf w 19 4) (bf w 15 4) (bf w 11 4) (bf w 7 4))
    | 0x03 => stripWord (fld w 26 6 != 0 || fld w 23 3 == 7) (!(tyFloat (fld w 23 3) || tyInt (fld w 23 3)) || fld w 11 4 == 14) (.xMin (bf w 23 3) (bf w 19 4) (bf w 15 4) (bf w 11 4) (bf w 7 4))
    | 0x04 => stripWord (fld w 26 6 != 0 || fld w 23 3 == 7) (!(tyFloat (fld w 23 3) || tyInt (fld w 23 3)) || fld w 11 4 == 14) (.xMax (bf w 23 3) (bf w 19 4) (bf w 15 4) (bf w 11 4) (bf w 7 4))
    | 0x05 => stripWord (fld w 19 4 != 0 || fld w 23 3 == 7 || absModBad (fld w 23 3) (fld w 26 6)) (!(tyFloat (fld w 23 3) || tyInt (fld w 23 3)) || fld w 11 4 == 14) (.xAbs (bf w 26 6) (bf w 23 3) (bf w 15 4) (bf w 11 4) (bf w 7 4))
    | 0x06 => stripWord (fld w 19 4 != 0 || fld w 23 3 == 7 || absModBad (fld w 23 3) (fld w 26 6)) (!(tyFloat (fld w 23 3) || tyInt (fld w 23 3)) || fld w 11 4 == 14) (.xNeg (bf w 26 6) (bf w 23 3) (bf w 15 4) (bf w 11 4) (bf w 7 4))
    | 0x07 => stripWord (fld w 23 3 == 7 || logicModBad (fld w 26 6)) (!(fld w 23 3 == 3 || fld w 23 3 == 4) || fld w 11 4 == 14) (.xAnd (bf w 26 6) (bf w 23 3) (bf w 19 4) (bf w 15 4) (bf w 11 4) (bf w 7 4))
    | 0x08 => stripWord (fld w 23 3 == 7 || logicModBad (fld w 26 6)) (!(fld w 23 3 == 3 || fld w 23 3 == 4) || fld w 11 4 == 14) (.xOr (bf w 26 6) (bf w 23 3) (bf w 19 4) (bf w 15 4) (bf w 11 4) (bf w 7 4))
    | 0x09 => stripWord (fld w 23 3 == 7 || logicModBad (fld w 26 6)) (!(fld w 23 3 == 3 || fld w 23 3 == 4) || fld w 11 4 == 14) (.xXor (bf w 26 6) (bf w 23 3) (bf w 19 4) (bf w 15 4) (bf w 11 4) (bf w 7 4))
    | 0x0A => stripWord (fld w 23 3 == 7 || logicModBad (fld w 26 6)) (!(fld w 23 3 == 3 || fld w 23 3 == 4) || fld w 11 4 == 14) (.xShl (bf w 26 6) (bf w 23 3) (bf w 19 4) (bf w 15 4) (bf w 11 4) (bf w 7 4))
    | 0x0B => stripWord (fld w 23 3 == 7 || logicModBad (fld w 26 6)) (!(fld w 23 3 == 3 || fld w 23 3 == 4) || fld w 11 4 == 14) (.xShr (bf w 26 6) (bf w 23 3) (bf w 19 4) (bf w 15 4) (bf w 11 4) (bf w 7 4))
    | 0x0C => stripWord (fld w 23 3 == 7 || logicModBad (fld w 26 6)) (!(fld w 23 3 == 3 || fld w 23 3 == 4) || fld w 11 4 == 14) (.xSra (bf w 26 6) (bf w 23 3) (bf w 19 4) (bf w 15 4) (bf w 11 4) (bf w 7 4))
    | 0x0D => stripWord (fld w 19 4 != 0 || fld w 26 6 != 0 || fld w 23 3 == 7) (fld w 23 3 != 0 || fld w 11 4 == 14) (.xMov (bf w 15 4) (bf w 11 4) (bf w 7 4))
    | 0x10 => stripWord (fld w 29 3 != 0 || fld w 23 3 == 7 || fld w 26 3 > 4) (!tyFloat (fld w 23 3) || fld w 11 4 > 13) (.xFma (bf w 26 3) (bf w 23 3) (bf w 19 4) (bf w 15 4) (bf w 11 4) (bf w 7 4))
    | 0x11 => stripWord (fld w 29 3 != 0 || fld w 23 3 == 7 || fld w 26 3 > 4) (!tyFloat (fld w 23 3) || fld w 11 4 > 13) (.xFms (bf w 26 3) (bf w 23 3) (bf w 19 4) (bf w 15 4) (bf w 11 4) (bf w 7 4))
    | 0x12 => stripWord (fld w 29 3 != 0 || fld w 23 3 == 7 || fld w 26 3 > 4) (!tyFloat (fld w 23 3) || fld w 11 4 > 13) (.xFnma (bf w 26 3) (bf w 23 3) (bf w 19 4) (bf w 15 4) (bf w 11 4) (bf w 7 4))
    | 0x13 => stripWord (fld w 29 3 != 0 || fld w 23 3 == 7 || fld w 26 3 > 4) (!tyFloat (fld w 23 3) || fld w 11 4 > 13) (.xFnms (bf w 26 3) (bf w 23 3) (bf w 19 4) (bf w 15 4) (bf w 11 4) (bf w 7 4))
    | 0x18 => stripWord (fld w 19 4 != 0 || fld w 23 3 == 7 || fld w 26 3 > 4 || fld w 29 3 == 7) (fld w 11 4 == 14) (.xCvt (bf w 29 3) (bf w 26 3) (bf w 23 3) (bf w 15 4) (bf w 11 4) (bf w 7 4))
    | 0x19 => stripWord (fld w 19 4 != 0 || fld w 23 3 == 7 || fld w 26 3 == 7) (cvtnNo (fld w 23 3) (fld w 26 3) || fld w 11 4 == 14) (.xCvtn (bf w 29 3) (bf w 26 3) (bf w 23 3) (bf w 15 4) (bf w 11 4) (bf w 7 4))
    | 0x1A => stripWord (fld w 19 4 != 0 || fld w 23 3 == 7 || fld w 26 3 == 7) (cvtwNo (fld w 23 3) (fld w 26 3) || fld w 11 4 == 14) (.xCvtw (bf w 29 3) (bf w 26 3) (bf w 23 3) (bf w 15 4) (bf w 11 4) (bf w 7 4))
    | 0x1B => stripWord (fld w 19 4 != 0 || fld w 23 3 == 7) (packNo (fld w 23 3) (fld w 30 1) || fld w 7 4 < 14 || fld w 11 4 != 15) (.xPack (bf w 31 1) (bf w 30 1) (bf w 26 4) (bf w 23 3) (bf w 15 4) (bf w 7 1))
    | 0x1C => stripWord (fld w 19 4 != 0 || fld w 31 1 != 0 || fld w 23 3 == 7) (fld w 11 4 == 14) (.xUnpk (bf w 30 1) (bf w 26 4) (bf w 23 3) (bf w 15 4) (bf w 11 4) (bf w 7 4))
    | 0x20 => stripWord (fld w 19 4 != 0 || fld w 29 3 != 0 || fld w 23 3 == 7 || fld w 26 3 > 4) (!tyFloat (fld w 23 3) || fld w 11 4 == 14) (.xRcp (bf w 26 3) (bf w 23 3) (bf w 15 4) (bf w 11 4) (bf w 7 4))
    | 0x21 => stripWord (fld w 19 4 != 0 || fld w 29 3 != 0 || fld w 23 3 == 7 || fld w 26 3 > 4) (!tyFloat (fld w 23 3) || fld w 11 4 == 14) (.xRsq (bf w 26 3) (bf w 23 3) (bf w 15 4) (bf w 11 4) (bf w 7 4))
    | 0x22 => stripWord (fld w 19 4 != 0 || fld w 29 3 != 0 || fld w 23 3 == 7 || fld w 26 3 > 4) (!tyFloat (fld w 23 3) || fld w 11 4 == 14) (.xSqrt (bf w 26 3) (bf w 23 3) (bf w 15 4) (bf w 11 4) (bf w 7 4))
    | 0x23 => stripWord (fld w 19 4 != 0 || fld w 29 3 != 0 || fld w 23 3 == 7 || fld w 26 3 > 4) (!tyFloat (fld w 23 3) || fld w 11 4 == 14) (.xExp2 (bf w 26 3) (bf w 23 3) (bf w 15 4) (bf w 11 4) (bf w 7 4))
    | 0x24 => stripWord (fld w 19 4 != 0 || fld w 29 3 != 0 || fld w 23 3 == 7 || fld w 26 3 > 4) (!tyFloat (fld w 23 3) || fld w 11 4 == 14) (.xLog2 (bf w 26 3) (bf w 23 3) (bf w 15 4) (bf w 11 4) (bf w 7 4))
    | 0x25 => stripWord (fld w 29 3 != 0 || fld w 23 3 == 7 || fld w 26 3 > 4) (!tyFloat (fld w 23 3) || fld w 11 4 == 14) (.xDiv (bf w 26 3) (bf w 23 3) (bf w 19 4) (bf w 15 4) (bf w 11 4) (bf w 7 4))
    | 0x28 => stripWord (fld w 26 6 != 0 || fld w 23 3 == 7) (!(tyFloat (fld w 23 3) || tyInt (fld w 23 3)) || fld w 11 4 > 5) (.xCeq (bf w 23 3) (bf w 19 4) (bf w 15 4) (bf w 11 4) (bf w 7 4))
    | 0x29 => stripWord (fld w 26 6 != 0 || fld w 23 3 == 7) (!(tyFloat (fld w 23 3) || tyInt (fld w 23 3)) || fld w 11 4 > 5) (.xClt (bf w 23 3) (bf w 19 4) (bf w 15 4) (bf w 11 4) (bf w 7 4))
    | 0x2A => stripWord (fld w 26 6 != 0 || fld w 23 3 == 7) (!(tyFloat (fld w 23 3) || tyInt (fld w 23 3)) || fld w 11 4 > 5) (.xCle (bf w 23 3) (bf w 19 4) (bf w 15 4) (bf w 11 4) (bf w 7 4))
    | 0x2B => stripWord (fld w 26 6 != 0 || fld w 23 3 == 7) (!tyFloat (fld w 23 3) || fld w 11 4 > 5) (.xCun (bf w 23 3) (bf w 19 4) (bf w 15 4) (bf w 11 4) (bf w 7 4))
    | 0x2C => stripWord (fld w 30 2 != 0 || fld w 23 3 == 7) (fld w 23 3 != 0 || fld w 11 4 == 14 || fld w 26 4 > 11) (.xSel (bf w 26 4) (bf w 19 4) (bf w 15 4) (bf w 11 4) (bf w 7 4))
    | 0x2D => stripWord (fld w 28 4 != 0 || fld w 23 3 == 7) (fld w 23 3 != 0 || fld w 11 4 > 11 || fld w 15 4 > 11 || fld w 19 4 > 11) (.xPand (bf w 26 2) (bf w 19 4) (bf w 15 4) (bf w 11 4) (bf w 7 4))
    | 0x2E => if fld w 26 1 = 0 then stripWord (fld w 19 4 != 0 || fld w 27 5 != 0 || fld w 23 3 == 7) (fld w 11 4 > 5) (.xPmovToP (bf w 23 3) (bf w 15 4) (bf w 11 4) (bf w 7 4))
      else stripWord (fld w 19 4 != 0 || fld w 27 5 != 0 || fld w 23 3 == 7) (fld w 11 4 == 14 || fld w 15 4 > 11) (.xPmovToV (bf w 23 3) (bf w 15 4) (bf w 11 4) (bf w 7 4))
    | 0x30 => stripWord (fld w 19 4 != 0 || fld w 23 3 == 7 || arithModBad (fld w 23 3) (fld w 26 6)) (!(tyFloat (fld w 23 3) || tyInt (fld w 23 3)) || fld w 11 4 == 14 || tyFloat (fld w 23 3) && fld w 26 3 == 4) (.xRsum (bf w 26 6) (bf w 23 3) (bf w 15 4) (bf w 11 4) (bf w 7 4))
    | 0x31 => stripWord (fld w 19 4 != 0 || fld w 23 3 == 7 || arithModBad (fld w 23 3) (fld w 26 6)) (!(tyFloat (fld w 23 3) || tyInt (fld w 23 3)) || fld w 11 4 == 14 || tyFloat (fld w 23 3) && fld w 26 3 == 4) (.xCsum (bf w 26 6) (bf w 23 3) (bf w 15 4) (bf w 11 4) (bf w 7 4))
    | 0x32 => stripWord (fld w 19 4 != 0 || fld w 26 6 != 0 || fld w 23 3 == 7) (!(tyFloat (fld w 23 3) || tyInt (fld w 23 3)) || fld w 11 4 == 14) (.xRmax (bf w 23 3) (bf w 15 4) (bf w 11 4) (bf w 7 4))
    | 0x33 => stripWord (fld w 19 4 != 0 || fld w 26 6 != 0 || fld w 23 3 == 7) (!(tyFloat (fld w 23 3) || tyInt (fld w 23 3)) || fld w 11 4 == 14) (.xCmax (bf w 23 3) (bf w 15 4) (bf w 11 4) (bf w 7 4))
    | 0x34 => stripWord (fld w 19 4 != 0 || fld w 26 6 != 0 || fld w 23 3 == 7) (!(tyFloat (fld w 23 3) || tyInt (fld w 23 3)) || fld w 11 4 == 14) (.xRmin (bf w 23 3) (bf w 15 4) (bf w 11 4) (bf w 7 4))
    | 0x35 => stripWord (fld w 19 4 != 0 || fld w 26 6 != 0 || fld w 23 3 == 7) (!(tyFloat (fld w 23 3) || tyInt (fld w 23 3)) || fld w 11 4 == 14) (.xCmin (bf w 23 3) (bf w 15 4) (bf w 11 4) (bf w 7 4))
    | 0x38 => stripWord (fld w 26 6 != 0 || fld w 23 3 == 7) (fld w 23 3 != 0 || fld w 11 4 == 14) (.xBcr (bf w 19 4) (bf w 15 4) (bf w 11 4) (bf w 7 4))
    | 0x39 => stripWord (fld w 26 6 != 0 || fld w 23 3 == 7) (fld w 23 3 != 0 || fld w 11 4 == 14) (.xBcc (bf w 19 4) (bf w 15 4) (bf w 11 4) (bf w 7 4))
    | 0x3A => stripWord (fld w 19 4 != 0 || fld w 26 6 != 0 || fld w 23 3 == 7) (fld w 23 3 != 0 || fld w 11 4 == 14) (.xTr (bf w 15 4) (bf w 11 4) (bf w 7 4))
    | 0x3B => if fld w 26 1 = 0 then stripWord (fld w 27 5 != 0 || fld w 23 3 == 7) (fld w 23 3 != 0 || fld w 11 4 == 14) (.xRotR (bf w 19 4) (bf w 15 4) (bf w 11 4) (bf w 7 4))
      else stripWord (fld w 27 5 != 0 || fld w 23 3 == 7) (fld w 23 3 != 0 || fld w 11 4 == 14) (.xRotC (bf w 19 4) (bf w 15 4) (bf w 11 4) (bf w 7 4))
    | 0x3C => stripWord (fld w 26 6 != 0 || fld w 23 3 == 7) (fld w 23 3 != 0 || fld w 11 4 == 14) (.xPerm (bf w 19 4) (bf w 15 4) (bf w 11 4) (bf w 7 4))
    | 0x3D => stripWord (fld w 11 12 != 0 || fld w 30 2 != 0 || fld w 23 3 == 7 || fld w 26 4 > 13) (fld w 23 3 != 0 || fld w 7 4 < 14) (.xShp (bf w 26 4) (bf w 7 1))
    | 0x40 => stripWord (fld w 11 15 != 0) (fld w 7 4 < 14) (.xIdle (bf w 26 6) (bf w 7 1))
    | 0x41 => stripWord (fld w 11 4 != 0 || fld w 19 4 != 0 || fld w 26 6 != 0 || fld w 23 3 == 7) (fld w 23 3 != 0 || fld w 7 4 < 14) (.xPost (bf w 15 4) (bf w 7 1))
    | 0x42 => stripWord (fld w 15 8 != 0 || fld w 27 5 != 0 || fld w 23 3 == 7) (fld w 23 3 != 0 || fld w 11 4 == 14) (.xFlg (bf w 26 1) (bf w 11 4) (bf w 7 4))
    | 0x43 => stripWord (fld w 11 12 != 0 || fld w 30 2 != 0 || fld w 23 3 == 7 || fld w 27 3 == 7) (fld w 23 3 != 0 || fld w 7 4 < 14) (.xMode (bf w 27 3) (bf w 26 1) (bf w 7 1))
    | _ => .error .strip

/-- A word is read in the strip's space: a number of at most 32 bits that the length field calls longer, or whose opcode or function the
32-bit space does not assign (log entry 1). -/
def stripSpace (nbits w : Nat) : Bool :=
  decide (nbits ≤ 32) && (fld w 0 2 != 0 || (match decodeSeq w with
    | .error .illegal => true
    | _ => false))

/-- The instruction a word of `nbits` bits stands for. A 32-bit number that both spaces assign is read as the sequencer's (log
entry 1). -/
def decodeTableWord (nbits w : Nat) : Option Instr :=
  match (if stripSpace nbits w then decodeStrip w else decodeSeq w) with
  | .ok i => some i
  | .error _ => none

/-- A field value moved to its lowest bit's place. -/
def place (x lo : Nat) : Nat := x * 2 ^ lo

/-- The common fields of format EC, placed (03 R61). -/
def encCommon (c : Common) : Nat :=
  place c.wsem.toNat 10 + place c.wth.toNat 18 + place c.ssem.toNat 24 + place c.sinc.toNat 32 +
    place c.rep.toNat 36 + place c.step.toNat 44 + place c.scope.toNat 47

/-- The word of an instruction that has one; `none` for an event, and for the four functions of `clm` that share the
encoding of `CLM_START` (20 R414). -/
def encode : Instr → Option Nat
  | .add d a b => some (4 + place d.toNat 10 + place a.toNat 15 + place b.toNat 20)
  | .sub d a b => some (8 + place d.toNat 10 + place a.toNat 15 + place b.toNat 20)
  | .and d a b => some (12 + place d.toNat 10 + place a.toNat 15 + place b.toNat 20)
  | .or d a b => some (16 + place d.toNat 10 + place a.toNat 15 + place b.toNat 20)
  | .xor d a b => some (20 + place d.toNat 10 + place a.toNat 15 + place b.toNat 20)
  | .andn d a b => some (24 + place d.toNat 10 + place a.toNat 15 + place b.toNat 20)
  | .sll d a b => some (28 + place d.toNat 10 + place a.toNat 15 + place b.toNat 20)
  | .srl d a b => some (32 + place d.toNat 10 + place a.toNat 15 + place b.toNat 20)
  | .sra d a b => some (36 + place d.toNat 10 + place a.toNat 15 + place b.toNat 20)
  | .rol d a b => some (40 + place d.toNat 10 + place a.toNat 15 + place b.toNat 20)
  | .ror d a b => some (44 + place d.toNat 10 + place a.toNat 15 + place b.toNat 20)
  | .minS64 d a b => some (48 + place d.toNat 10 + place a.toNat 15 + place b.toNat 20)
  | .minN64 d a b => some (33554480 + place d.toNat 10 + place a.toNat 15 + place b.toNat 20)
  | .maxS64 d a b => some (52 + place d.toNat 10 + place a.toNat 15 + place b.toNat 20)
  | .maxN64 d a b => some (33554484 + place d.toNat 10 + place a.toNat 15 + place b.toNat 20)
  | .sltS64 d a b => some (56 + place d.toNat 10 + place a.toNat 15 + place b.toNat 20)
  | .sltN64 d a b => some (33554488 + place d.toNat 10 + place a.toNat 15 + place b.toNat 20)
  | .seq d a b => some (60 + place d.toNat 10 + place a.toNat 15 + place b.toNat 20)
  | .sne d a b => some (33554492 + place d.toNat 10 + place a.toNat 15 + place b.toNat 20)
  | .mul d a b => some (64 + place d.toNat 10 + place a.toNat 15 + place b.toNat 20)
  | .mulhS64 d a b => some (33554496 + place d.toNat 10 + place a.toNat 15 + place b.toNat 20)
  | .mulhN64 d a b => some (67108928 + place d.toNat 10 + place a.toNat 15 + place b.toNat 20)
  | .divS64 d a b => some (68 + place d.toNat 10 + place a.toNat 15 + place b.toNat 20)
  | .divN64 d a b => some (33554500 + place d.toNat 10 + place a.toNat 15 + place b.toNat 20)
  | .remS64 d a b => some (72 + place d.toNat 10 + place a.toNat 15 + place b.toNat 20)
  | .remN64 d a b => some (33554504 + place d.toNat 10 + place a.toNat 15 + place b.toNat 20)
  | .clz d a => some (76 + place d.toNat 10 + place a.toNat 15)
  | .ctz d a => some (33554508 + place d.toNat 10 + place a.toNat 15)
  | .popc d a => some (67108940 + place d.toNat 10 + place a.toNat 15)
  | .extS8 d a => some (80 + place d.toNat 10 + place a.toNat 15)
  | .extS16 d a => some (33554512 + place d.toNat 10 + place a.toNat 15)
  | .extS32 d a => some (67108944 + place d.toNat 10 + place a.toNat 15)
  | .extN8 d a => some (100663376 + place d.toNat 10 + place a.toNat 15)
  | .extN16 d a => some (134217808 + place d.toNat 10 + place a.toNat 15)
  | .extN32 d a => some (167772240 + place d.toNat 10 + place a.toNat 15)
  | .addi d a i => some (128 + place d.toNat 10 + place a.toNat 15 + place i.toNat 20)
  | .andi d a i => some (132 + place d.toNat 10 + place a.toNat 15 + place i.toNat 20)
  | .ori d a i => some (136 + place d.toNat 10 + place a.toNat 15 + place i.toNat 20)
  | .xori d a i => some (140 + place d.toNat 10 + place a.toNat 15 + place i.toNat 20)
  | .slli d a i => some (144 + place d.toNat 10 + place a.toNat 15 + place i.toNat 20)
  | .srli d a i => some (148 + place d.toNat 10 + place a.toNat 15 + place i.toNat 20)
  | .srai d a i => some (152 + place d.toNat 10 + place a.toNat 15 + place i.toNat 20)
  | .sltiS64 d a i => some (156 + place d.toNat 10 + place a.toNat 15 + place i.toNat 20)
  | .sltiN64 d a i => some (160 + place d.toNat 10 + place a.toNat 15 + place i.toNat 20)
  | .seqi d a i => some (164 + place d.toNat 10 + place a.toNat 15 + place i.toNat 20)
  | .li d i => some (1 + place d.toNat 10 + place i.toNat 16)
  | .lhi d i => some (5 + place d.toNat 10 + place i.toNat 16)
  | .addl d i => some (9 + place d.toNat 10 + place i.toNat 16)
  | .ldS8 d a i => some (256 + place d.toNat 10 + place a.toNat 15 + place i.toNat 20)
  | .ldN8 d a i => some (260 + place d.toNat 10 + place a.toNat 15 + place i.toNat 20)
  | .ldS16 d a i => some (264 + place d.toNat 10 + place a.toNat 15 + place i.toNat 20)
  | .ldN16 d a i => some (268 + place d.toNat 10 + place a.toNat 15 + place i.toNat 20)
  | .ldS32 d a i => some (272 + place d.toNat 10 + place a.toNat 15 + place i.toNat 20)
  | .ldN32 d a i => some (276 + place d.toNat 10 + place a.toNat 15 + place i.toNat 20)
  | .ldN64 d a i => some (280 + place d.toNat 10 + place a.toNat 15 + place i.toNat 20)
  | .ldxN64 d a b => some (284 + place d.toNat 10 + place a.toNat 15 + place b.toNat 20)
  | .stN8 d a i => some (288 + place d.toNat 10 + place a.toNat 15 + place i.toNat 20)
  | .stN16 d a i => some (292 + place d.toNat 10 + place a.toNat 15 + place i.toNat 20)
  | .stN32 d a i => some (296 + place d.toNat 10 + place a.toNat 15 + place i.toNat 20)
  | .stN64 d a i => some (300 + place d.toNat 10 + place a.toNat 15 + place i.toNat 20)
  | .stxN64 d a b => some (304 + place d.toNat 10 + place a.toNat 15 + place b.toNat 20)
  | .ldDfr d a i => some (320 + place d.toNat 10 + place a.toNat 15 + place i.toNat 20)
  | .vouch g m => some (324 + place g.toNat 15 + place m.toNat 20)
  | .beq a b n k => some (384 + place a.toNat 10 + place b.toNat 15 + place n.toNat 20 + place k.toNat 22)
  | .bne a b n k => some (388 + place a.toNat 10 + place b.toNat 15 + place n.toNat 20 + place k.toNat 22)
  | .bltS64 a b n k => some (392 + place a.toNat 10 + place b.toNat 15 + place n.toNat 20 + place k.toNat 22)
  | .bgeS64 a b n k => some (396 + place a.toNat 10 + place b.toNat 15 + place n.toNat 20 + place k.toNat 22)
  | .bltN64 a b n k => some (400 + place a.toNat 10 + place b.toNat 15 + place n.toNat 20 + place k.toNat 22)
  | .bgeN64 a b n k => some (404 + place a.toNat 10 + place b.toNat 15 + place n.toNat 20 + place k.toNat 22)
  | .bbs a b n k => some (408 + place a.toNat 10 + place b.toNat 15 + place n.toNat 20 + place k.toNat 22)
  | .bbc a b n k => some (412 + place a.toNat 10 + place b.toNat 15 + place n.toNat 20 + place k.toNat 22)
  | .dbnz a n k => some (416 + place a.toNat 10 + place n.toNat 20 + place k.toNat 22)
  | .j n k => some (420 + place n.toNat 10 + place k.toNat 12)
  | .call n k => some (424 + place n.toNat 10 + place k.toNat 12)
  | .jf n k => some (33 + place n.toNat 10 + place k.toNat 16)
  | .callf n k => some (37 + place n.toNat 10 + place k.toNat 16)
  | .bzf a n k => some (65 + place a.toNat 10 + place n.toNat 16 + place k.toNat 18)
  | .bnzf a n k => some (69 + place a.toNat 10 + place n.toNat 16 + place k.toNat 18)
  | .bltzf a n k => some (73 + place a.toNat 10 + place n.toNat 16 + place k.toNat 18)
  | .bgezf a n k => some (77 + place a.toNat 10 + place n.toNat 16 + place k.toNat 18)
  | .jr a => some (428 + place a.toNat 15)
  | .callr a => some (432 + place a.toNat 15)
  | .ret => some (436)
  | .nest d w n => some (448 + place d.toNat 10 + place w.toNat 15 + place n.toNat 20)
  | .tret => some (452)
  | .semWait n a => some (512 + place a.toNat 15 + place n.toNat 20)
  | .semSig n a c => some (516 + place c.toNat 10 + place a.toNat 15 + place n.toNat 20)
  | .semGet d n => some (520 + place d.toNat 10 + place n.toNat 20)
  | .semTry d n a => some (524 + place d.toNat 10 + place a.toNat 15 + place n.toNat 20)
  | .tlWait n a => some (528 + place a.toNat 15 + place n.toNat 20)
  | .tlGet d n => some (532 + place d.toNat 10 + place n.toNat 20)
  | .tlTry d n a => some (536 + place d.toNat 10 + place a.toNat 15 + place n.toNat 20)
  | .fenceF => some (540)
  | .fenceD => some (268435996)
  | .fenceP => some (536871452)
  | .fenceS => some (805306908)
  | .gvRsv a => some (544 + place a.toNat 15)
  | .gvRel a => some (548 + place a.toNat 15)
  | .gvStat d n => some (552 + place d.toNat 10 + place n.toNat 20)
  | .gvSet n a => some (556 + place a.toNat 15 + place n.toNat 20)
  | .lsAsk n a => some (576 + place a.toNat 15 + place n.toNat 20)
  | .lsDrop n => some (580 + place n.toNat 20)
  | .lsStat d n => some (584 + place d.toNat 10 + place n.toNat 20)
  | .mfc d n => some (640 + place d.toNat 10 + place n.toNat 20)
  | .mtc n a => some (644 + place a.toNat 15 + place n.toNat 20)
  | .trap n => some (648 + place n.toNat 20)
  | .brk n => some (652 + place n.toNat 20)
  | .yield => some (656)
  | .tend => some (660)
  | .nop => some (664)
  | .smap n a => some (704 + place a.toNat 15 + place n.toNat 20)
  | .csave n a => some (708 + place a.toNat 15 + place n.toNat 20)
  | .crest n a => some (712 + place a.toNat 15 + place n.toNat 20)
  | .clmStart n a => some (716 + place a.toNat 15 + place n.toNat 20)
  | .cpres n a => some (720 + place a.toNat 15 + place n.toNat 20)
  | .qsc n a => some (724 + place a.toNat 15 + place n.toNat 20)
  | .ewait d t => some (728 + place d.toNat 10 + place t.toNat 20)
  | .halt => some (732)
  | .smget d n a => some (736 + place d.toNat 10 + place a.toNat 15 + place n.toNat 20)
  | .wld w a i => some (642 + place w.toNat 10 + place a.toNat 16 + place i.toNat 32)
  | .wst w a i => some (646 + place w.toNat 10 + place a.toNat 16 + place i.toNat 32)
  | .wbase w a i => some (650 + place w.toNat 10 + place a.toNat 16 + place i.toNat 32)
  | .wbnd w k a i => some (654 + place w.toNat 10 + place k.toNat 13 + place a.toNat 16 + place i.toNat 32)
  | .wstr w k a i => some (658 + place w.toNat 10 + place k.toNat 13 + place a.toNat 16 + place i.toNat 32)
  | .wclr w => some (662 + place w.toNat 10)
  | .mxLdb wb bw sp c => some (2 + encCommon c + place wb.toNat 61 + place bw.toNat 59 + place sp.toNat 57)
  | .mxSpm wp c => some (6 + encCommon c + place wp.toNat 61)
  | .mxRun wa wr pm mode src c => some (18 + encCommon c + place wa.toNat 61 + place wr.toNat 58 + place pm.toNat 54 + place mode.toNat 52 + place src.toNat 50)
  | .mxDrn wr wd clr c => some (34 + encCommon c + place wr.toNat 61 + place wd.toNat 58 + place clr.toNat 57)
  | .mxDrnx wr clr c => some (38 + encCommon c + place wr.toNat 61 + place clr.toNat 60)
  | .mxFill wr ws c => some (50 + encCommon c + place wr.toNat 61 + place ws.toNat 58)
  | .mxClr wr all c => some (54 + encCommon c + place wr.toNat 61 + place all.toNat 60)
  | .mxDead wr all c => some (58 + encCommon c + place wr.toNat 61 + place all.toNat 60)
  | .mxChn h en c => some (66 + encCommon c + place h.toNat 58 + place en.toNat 57)
  | .mxByp en c => some (70 + encCommon c + place en.toNat 63)
  | .mxSpl wk c => some (98 + encCommon c + place wk.toNat 61)
  | .mxFrm c => some (102 + encCommon c)
  | .cpBlk k wr c => some (258 + encCommon c + place k.toNat 62 + place wr.toNat 59)
  | .cpWalk k wr wa wb c => some (262 + encCommon c + place k.toNat 62 + place wr.toNat 59 + place wa.toNat 56 + place wb.toNat 53)
  | .cpFill k wr c => some (266 + encCommon c + place k.toNat 62 + place wr.toNat 59)
  | .cpTrn k wr c => some (270 + encCommon c + place k.toNat 62 + place wr.toNat 59)
  | .cpGat k wr c => some (274 + encCommon c + place k.toNat 62 + place wr.toNat 59)
  | .cpSca k wr c => some (278 + encCommon c + place k.toNat 62 + place wr.toNat 59)
  | .cpRed k wr ix c => some (290 + encCommon c + place k.toNat 62 + place wr.toNat 59 + place ix.toNat 49)
  | .cpAmo k wr c => some (294 + encCommon c + place k.toNat 62 + place wr.toNat 59)
  | .cpAmor k wr c => some (298 + encCommon c + place k.toNat 62 + place wr.toNat 59)
  | .cpSig k wr sc c => some (322 + encCommon c + place k.toNat 62 + place wr.toNat 59 + place sc.toNat 49)
  | .cpSigw k wr c => some (326 + encCommon c + place k.toNat 62 + place wr.toNat 59)
  | .cpSigr k wr c => some (330 + encCommon c + place k.toNat 62 + place wr.toNat 59)
  | .cpRw k wr red ls c => some (354 + encCommon c + place k.toNat 62 + place wr.toNat 59 + place red.toNat 50 + place ls.toNat 49)
  | .cpLand k wr c => some (358 + encCommon c + place k.toNat 62 + place wr.toNat 59)
  | .cpLrev k wr c => some (362 + encCommon c + place k.toNat 62 + place wr.toNat 59)
  | .xbBind ch c => some (514 + encCommon c + place ch.toNat 61)
  | .xbFree ch c => some (518 + encCommon c + place ch.toNat 61)
  | .xbProg ch wp c => some (522 + encCommon c + place ch.toNat 61 + place wp.toNat 58)
  | .xbFeed ch we ws fmt tgt c => some (526 + encCommon c + place ch.toNat 61 + place we.toNat 58 + place ws.toNat 55 + place fmt.toNat 52 + place tgt.toNat 49)
  | .xbTake ch we ws fmt c => some (530 + encCommon c + place ch.toNat 61 + place we.toNat 58 + place ws.toNat 55 + place fmt.toNat 52)
  | .xbSeed ch ws k c => some (534 + encCommon c + place ch.toNat 61 + place ws.toNat 58 + place k.toNat 55)
  | .xAdd m t b a d g => some (0 + place g.toNat 7 + place d.toNat 11 + place a.toNat 15 + place b.toNat 19 + place t.toNat 23 + place m.toNat 26)
  | .xSub m t b a d g => some (1 + place g.toNat 7 + place d.toNat 11 + place a.toNat 15 + place b.toNat 19 + place t.toNat 23 + place m.toNat 26)
  | .xMul m t b a d g => some (2 + place g.toNat 7 + place d.toNat 11 + place a.toNat 15 + place b.toNat 19 + place t.toNat 23 + place m.toNat 26)
  | .xMin t b a d g => some (3 + place g.toNat 7 + place d.toNat 11 + place a.toNat 15 + place b.toNat 19 + place t.toNat 23)
  | .xMax t b a d g => some (4 + place g.toNat 7 + place d.toNat 11 + place a.toNat 15 + place b.toNat 19 + place t.toNat 23)
  | .xAbs m t a d g => some (5 + place g.toNat 7 + place d.toNat 11 + place a.toNat 15 + place t.toNat 23 + place m.toNat 26)
  | .xNeg m t a d g => some (6 + place g.toNat 7 + place d.toNat 11 + place a.toNat 15 + place t.toNat 23 + place m.toNat 26)
  | .xAnd m t b a d g => some (7 + place g.toNat 7 + place d.toNat 11 + place a.toNat 15 + place b.toNat 19 + place t.toNat 23 + place m.toNat 26)
  | .xOr m t b a d g => some (8 + place g.toNat 7 + place d.toNat 11 + place a.toNat 15 + place b.toNat 19 + place t.toNat 23 + place m.toNat 26)
  | .xXor m t b a d g => some (9 + place g.toNat 7 + place d.toNat 11 + place a.toNat 15 + place b.toNat 19 + place t.toNat 23 + place m.toNat 26)
  | .xShl m t b a d g => some (10 + place g.toNat 7 + place d.toNat 11 + place a.toNat 15 + place b.toNat 19 + place t.toNat 23 + place m.toNat 26)
  | .xShr m t b a d g => some (11 + place g.toNat 7 + place d.toNat 11 + place a.toNat 15 + place b.toNat 19 + place t.toNat 23 + place m.toNat 26)
  | .xSra m t b a d g => some (12 + place g.toNat 7 + place d.toNat 11 + place a.toNat 15 + place b.toNat 19 + place t.toNat 23 + place m.toNat 26)
  | .xMov a d g => some (13 + place g.toNat 7 + place d.toNat 11 + place a.toNat 15)
  | .xFma r t b a d g => some (16 + place g.toNat 7 + place d.toNat 11 + place a.toNat 15 + place b.toNat 19 + place t.toNat 23 + place r.toNat 26)
  | .xFms r t b a d g => some (17 + place g.toNat 7 + place d.toNat 11 + place a.toNat 15 + place b.toNat 19 + place t.toNat 23 + place r.toNat 26)
  | .xFnma r t b a d g => some (18 + place g.toNat 7 + place d.toNat 11 + place a.toNat 15 + place b.toNat 19 + place t.toNat 23 + place r.toNat 26)
  | .xFnms r t b a d g => some (19 + place g.toNat 7 + place d.toNat 11 + place a.toNat 15 + place b.toNat 19 + place t.toNat 23 + place r.toNat 26)
  | .xCvt s r t a d g => some (24 + place g.toNat 7 + place d.toNat 11 + place a.toNat 15 + place t.toNat 23 + place r.toNat 26 + place s.toNat 29)
  | .xCvtn n c t a d g => some (25 + place g.toNat 7 + place d.toNat 11 + place a.toNat 15 + place t.toNat 23 + place c.toNat 26 + place n.toNat 29)
  | .xCvtw n c t a d g => some (26 + place g.toNat 7 + place d.toNat 11 + place a.toNat 15 + place t.toNat 23 + place c.toNat 26 + place n.toNat 29)
  | .xPack s k p t a g => some (32539 + place g.toNat 7 + place a.toNat 15 + place t.toNat 23 + place p.toNat 26 + place k.toNat 30 + place s.toNat 31)
  | .xUnpk k p t a d g => some (28 + place g.toNat 7 + place d.toNat 11 + place a.toNat 15 + place t.toNat 23 + place p.toNat 26 + place k.toNat 30)
  | .xRcp r t a d g => some (32 + place g.toNat 7 + place d.toNat 11 + place a.toNat 15 + place t.toNat 23 + place r.toNat 26)
  | .xRsq r t a d g => some (33 + place g.toNat 7 + place d.toNat 11 + place a.toNat 15 + place t.toNat 23 + place r.toNat 26)
  | .xSqrt r t a d g => some (34 + place g.toNat 7 + place d.toNat 11 + place a.toNat 15 + place t.toNat 23 + place r.toNat 26)
  | .xExp2 r t a d g => some (35 + place g.toNat 7 + place d.toNat 11 + place a.toNat 15 + place t.toNat 23 + place r.toNat 26)
  | .xLog2 r t a d g => some (36 + place g.toNat 7 + place d.toNat 11 + place a.toNat 15 + place t.toNat 23 + place r.toNat 26)
  | .xDiv r t b a d g => some (37 + place g.toNat 7 + place d.toNat 11 + place a.toNat 15 + place b.toNat 19 + place t.toNat 23 + place r.toNat 26)
  | .xCeq t b a d g => some (40 + place g.toNat 7 + place d.toNat 11 + place a.toNat 15 + place b.toNat 19 + place t.toNat 23)
  | .xClt t b a d g => some (41 + place g.toNat 7 + place d.toNat 11 + place a.toNat 15 + place b.toNat 19 + place t.toNat 23)
  | .xCle t b a d g => some (42 + place g.toNat 7 + place d.toNat 11 + place a.toNat 15 + place b.toNat 19 + place t.toNat 23)
  | .xCun t b a d g => some (43 + place g.toNat 7 + place d.toNat 11 + place a.toNat 15 + place b.toNat 19 + place t.toNat 23)
  | .xSel s b a d g => some (44 + place g.toNat 7 + place d.toNat 11 + place a.toNat 15 + place b.toNat 19 + place s.toNat 26)
  | .xPand o b a d g => some (45 + place g.toNat 7 + place d.toNat 11 + place a.toNat 15 + place b.toNat 19 + place o.toNat 26)
  | .xPmovToP t a d g => some (46 + place g.toNat 7 + place d.toNat 11 + place a.toNat 15 + place t.toNat 23)
  | .xPmovToV t a d g => some (67108910 + place g.toNat 7 + place d.toNat 11 + place a.toNat 15 + place t.toNat 23)
  | .xRsum m t a d g => some (48 + place g.toNat 7 + place d.toNat 11 + place a.toNat 15 + place t.toNat 23 + place m.toNat 26)
  | .xCsum m t a d g => some (49 + place g.toNat 7 + place d.toNat 11 + place a.toNat 15 + place t.toNat 23 + place m.toNat 26)
  | .xRmax t a d g => some (50 + place g.toNat 7 + place d.toNat 11 + place a.toNat 15 + place t.toNat 23)
  | .xCmax t a d g => some (51 + place g.toNat 7 + place d.toNat 11 + place a.toNat 15 + place t.toNat 23)
  | .xRmin t a d g => some (52 + place g.toNat 7 + place d.toNat 11 + place a.toNat 15 + place t.toNat 23)
  | .xCmin t a d g => some (53 + place g.toNat 7 + place d.toNat 11 + place a.toNat 15 + place t.toNat 23)
  | .xBcr b a d g => some (56 + place g.toNat 7 + place d.toNat 11 + place a.toNat 15 + place b.toNat 19)
  | .xBcc b a d g => some (57 + place g.toNat 7 + place d.toNat 11 + place a.toNat 15 + place b.toNat 19)
  | .xTr a d g => some (58 + place g.toNat 7 + place d.toNat 11 + place a.toNat 15)
  | .xRotR b a d g => some (59 + place g.toNat 7 + place d.toNat 11 + place a.toNat 15 + place b.toNat 19)
  | .xRotC b a d g => some (67108923 + place g.toNat 7 + place d.toNat 11 + place a.toNat 15 + place b.toNat 19)
  | .xPerm b a d g => some (60 + place g.toNat 7 + place d.toNat 11 + place a.toNat 15 + place b.toNat 19)
  | .xShp n g => some (1853 + place g.toNat 7 + place n.toNat 26)
  | .xIdle n g => some (1856 + place g.toNat 7 + place n.toNat 26)
  | .xPost a g => some (1857 + place g.toNat 7 + place a.toNat 15)
  | .xFlg c d g => some (66 + place g.toNat 7 + place d.toNat 11 + place c.toNat 26)
  | .xMode h f g => some (1859 + place g.toNat 7 + place f.toNat 26 + place h.toNat 27)
  | .clmPreq _ _ => none
  | .clmPclr _ _ => none
  | .clmIntr _ _ => none
  | .clmUnpark _ _ => none
  | .asyncTrapEntry _ => none
  | .entryStart _ _ _ => none
  | .entryRetire _ _ _ => none
  | .stripGroupStart _ _ _ => none
  | .stripGroupRetire _ _ _ => none
  | .postedRecordTake => none
  | .copyTurn _ _ _ => none
  | .homeRequestArrival _ => none
  | .directRequestArrival _ => none
  | .leaseGrantArrival _ => none
  | .leaseExpire _ _ _ _ => none
  | .reroute _ => none
  | .leaseSkewHolder _ _ => none
  | .leaseSkewWalker _ => none
  | .skewToleranceRestored _ _ => none
  | .quarantineRelease _ _ => none
  | .moveRoundComplete _ => none
  | .walkerMap _ _ => none
  | .walkerUnmap _ _ => none
  | .walkerMove _ _ => none
  | .walkerSetlc _ _ => none
  | .walkerAddt _ _ => none
  | .wksSigerrClear _ _ => none
  | .lskStatClear _ _ => none
  | .landingArrival _ => none
  | .rwAck _ _ _ _ => none
  | .canopyPortDown _ => none
  | .hostCompletion _ _ _ _ _ => none
  | .hostCompletionTimeout _ _ _ => none
  | .linkFail _ _ => none
  | .linkLaneLoss _ _ => none
  | .notify _ _ _ => none
  | .queueEnable _ _ _ => none
  | .queueDisable _ _ _ => none
  | .qcfgWrite _ _ _ => none
  | .qerrClear _ _ _ => none
  | .qerrnClear _ _ _ => none
  | .vfDropClear _ _ => none
  | .istatClear _ _ => none
  | .watchArm _ _ _ => none
  | .watchDisarm _ _ _ => none
  | .dies => none
  | .selftest => none
  | .attest _ => none
  | .wear => none
  | .loadimg _ _ _ => none
  | .mailboxAnswer _ => none
  | .functionLevelReset _ => none
  | .flrComplete _ => none
  | .registerWrite _ _ _ _ _ => none
  | .partitionCommit _ _ => none
  | .partitionReset _ => none
  | .resetQuiesceTimeout _ _ => none
  | .partitionResetComplete _ => none
  | .pc1Write _ _ => none
  | .vfCfgWrite _ _ => none
  | .residencyMove _ => none
  | .sliceExpire _ => none
  | .govRateWrite _ _ => none
  | .govLimWrite _ => none
  | .governorTick => none
  | .pinWindowExpire _ _ => none
  | .recordTake _ _ => none
  | .gangAssemblyTimeout _ => none
  | .gangReserve _ _ => none
  | .gangCommit _ => none
  | .gangStartTimeout _ => none
  | .recordReserving _ _ _ _ => none
  | .claimGrant _ _ _ _ => none
  | .argumentCopyDone _ _ => none
  | .instanceRetire _ _ => none
  | .pieceRetire _ _ => none
  | .heldReleaseApply _ => none
  | .queueWatchdog _ => none
  | .watchdogExpire _ _ => none
  | .splitTakeEffect _ _ => none
  | .fuseTakeEffect _ _ => none
  | .saveComplete _ _ => none
  | .restoreComplete _ _ => none
  | .quiesceComplete _ _ => none
  | .heldEventPost _ => none
  | .debugStop _ _ => none
  | .cutSeal _ => none
  | .debugResume _ _ => none
  | .breakpointHit _ _ _ _ => none
  | .checkpointStart _ => none
  | .checkpointSeal _ => none
  | .ckFailClear _ _ => none
  | .replayStart _ _ => none
  | .replayDone _ => none
  | .pmselWrite _ _ _ => none
  | .diePowerStable _ => none
  | .powerGood => none
  | .bootPhaseComplete _ => none
  | .wearFlush => none
  | .powerDown => none
  | .illegalOp _ => none
  | .fetchFault _ => none
  | .devCompletion _ => none
  | .uncorrectableError _ => none
  | .dieRetiredByFirmware _ => none
  | .diePowerUpFailure _ => none
  | .powerLoss => none
  | .junctionTemperatureFall _ _ => none
  | .canopyPortTrained _ => none

/-- How many bytes the word of a sequencer instruction takes (03 R57); a strip word takes 4 (03 R70). -/
def encodedLen (w : Nat) (isStrip : Bool) : Nat := if isStrip then 4 else (lenOf w).getD 2

/-- The instruction's image in memory, lowest address first (00 R1, 03 R57). -/
def leBytes (n w : Nat) : List Byte := (List.range n).map (fun k => BitVec.ofNat 8 (w / 2 ^ (8 * k)))

end Sys2Proof
end

