-- ==== Sys2Proof/Machine/GovOps.lean ====
section
/-! DEFINITION. The `gv.` instructions (15 R350 to R353). -/

namespace Sys2Proof.Machine

/-! ## Instructions (15 R350 to R353) -/

def valueTrap : Trap := operandCode 0x38

/-- A context instruction on a steward sequencer, which has no context (20 R409; log entry 32). -/
def needsContext (r : SeqRef) (k : Nat → Res) : Res :=
  match r.idx with
  | none => .trap (operandCode 0x47)
  | some l => k l

/-- `gv.rsv`: the floor rises at once; the instruction stalls until the load has reached it. -/
def gvRsvStep (a : BitVec 5) (r : SeqRef) (y : Sys) : Res :=
  let q := y.seq r
  unpoisoned q [a] (needsContext r (fun l =>
    let v := (q.rg a).toNat
    if 65535 < v then .trap valueTrap
    else
      let y := y.modCtxOf r (fun c => { c with floor := max c.floor v })
      let c := y.ctxOf r
      if c.floor ≤ c.load then .ok y none
      else .stall { y with gov := y.gov.openReq (.floor r.die l) }))

def execGvRsv (a : BitVec 5) (s : State) : Host.Outcome State Fault Refusal := runSeq s 4 (gvRsvStep a)

/-- `gv.rel` never stalls. -/
def gvRelStep (a : BitVec 5) (r : SeqRef) (y : Sys) : Res :=
  let q := y.seq r
  unpoisoned q [a] (needsContext r (fun _ => .ok (noteExcess (y.modCtxOf r (fun c => { c with floor := min c.floor (q.rg a).toNat }))) none))

def execGvRel (a : BitVec 5) (s : State) : Host.Outcome State Fault Refusal := runSeq s 4 (gvRelStep a)

/-- The context items of `gv.stat` (15 R352). -/
def gvItem (c : Ctx) (n : Nat) : Nat :=
  match n with
  | 0 => c.load
  | 1 => c.ballast
  | 2 => c.floor
  | 3 => c.pres
  | 4 => c.rslots.toNat
  | 5 => c.bcyc.toNat
  | _ => c.gwait.toNat

/-- The die items of `gv.stat`. -/
def gvDieItem (y : Sys) (d n : Nat) : Nat :=
  match n with
  | 8 => dieLoad y d
  | 9 => (y.die d).risemax
  | _ => (y.die d).dfloor

def gvStatStep (d : BitVec 5) (n : BitVec 8) (r : SeqRef) (y : Sys) : Res :=
  if 8 ≤ n.toNat then stewardOnly (y.seq r) (done y r (fun q => q.wg d (BitVec.ofNat 64 (gvDieItem y r.die n.toNat))))
  else needsContext r (fun _ => done y r (fun q => q.wg d (BitVec.ofNat 64 (gvItem (y.ctxOf r) n.toNat))))

def execGvStat (d : BitVec 5) (n : BitVec 8) (s : State) : Host.Outcome State Fault Refusal := runSeq s 4 (gvStatStep d n)

/-- `gv.set` (15 R353). -/
def gvSetStep (n : BitVec 8) (a : BitVec 5) (r : SeqRef) (y : Sys) : Res :=
  let q := y.seq r
  stewardOnly q (unpoisoned q [a]
    (let v := (q.rg a).toNat
     if n = 9 then
       (if v = 0 || 32 < v then .trap valueTrap else .ok (y.modDie r.die (fun d => { d with risemax := v })) none)
     else if 65535 < v then .trap valueTrap
     else
       let y := y.modDie r.die (fun d => { d with dfloor := v })
       .ok (govGo (if (y.die r.die).pool < v then { y with gov := y.gov.openReq (.dfloor r.die) } else y)) none))

def execGvSet (n : BitVec 8) (a : BitVec 5) (s : State) : Host.Outcome State Fault Refusal := runSeq s 4 (gvSetStep n a)

end Sys2Proof.Machine
end

