-- ==== Sys2Proof/Machine/Fetch.lean ====
section
/-! DEFINITION. Instruction fetch (03 R58, R73 to R76, 20 R393): the bytes of an instruction with the cause each byte that
cannot be read gives, through the instruction cache, the range registers and the walkers, or from the steward image. -/

namespace Sys2Proof.Machine

/-- A fetched byte, or the cause code that its fetch raises. -/
abbrev FByte := Except Nat Byte

/-- Bytes of a cache line (03 R76). -/
def lineSize : Nat := 64

/-- Lines of the instruction cache of a task sequencer, 64 KiB (01 R25). -/
def icacheLines : Nat := 1024

/-- A line enters the instruction cache; a full cache gives up a line of the device's choice. -/
def cacheLine (n la : Nat) (bs : List Byte) (q : SeqSt) : SeqSt :=
  let kept := if (mget? q.icache la).isSome || q.icache.length < icacheLines then q.icache
    else q.icache.eraseIdx (Config.choose n icacheLines % icacheLines)
  { q with icache := mset kept la bs }

/-- A line fetched from device memory by a task sequencer, cached when none of its bytes is uncorrectable. -/
def fillLine (y : Sys) (r : SeqRef) (la : Nat) : Sys × List FByte :=
  let k := r.idx.getD 0
  match virtToInt (y.seq r).fetch (BitVec.ofNat 64 la) .ex with
  | .error _ => (y, List.replicate lineSize (.error cFetchRange))
  | .ok ia =>
    match fetchXlate y r.die k ia with
    | (y, .error e) => (y, List.replicate lineSize (.error (if e = xfDie then cFetchRange else cFetchXlate)))
    | (y, .ok l) =>
      let bs := devRead y l.fdie l.pa lineSize
      let y := if bs.any (·.2) then y else Sys.modSeq { y with used := y.used + 1 } r (cacheLine y.used la (bs.map (fun b => b.1)))
      (y, bs.map (fun b => if b.2 then .error cMachineCheck else .ok b.1))

/-- A line of code for a task: the image the cache holds, or the one in device memory; which, when both are there, is the
device's choice (03 R76). -/
def taskLine (y : Sys) (r : SeqRef) (la : Nat) : Sys × List FByte :=
  match mget? (y.seq r).icache la with
  | some bs =>
    let y' := { y with used := y.used + 1 }
    if Config.choose y.used 2 % 2 = 0 then (y', bs.map .ok) else fillLine y' r la
  | none => fillLine y r la

/-- A line of the steward image: a byte outside its executable segments raises FETCH_RANGE (20 R393). -/
def stewardLine (y : Sys) (d : Nat) (la : Nat) : List FByte :=
  let v := y.die d
  (List.range lineSize).map (fun i =>
    if v.imageX.any (fun s => s.lo ≤ la + i && la + i < s.hi) then .ok (rdByte v.image (la + i))
    else .error cFetchRange)

def codeLine (y : Sys) (r : SeqRef) (la : Nat) : Sys × List FByte :=
  if (y.seq r).steward then (y, stewardLine y r.die la) else taskLine y r la

/-- The bytes from `a` on, line after line, each line taken once. -/
def codeBytes (r : SeqRef) : Nat → Sys → Nat → Nat → Sys × List FByte
  | 0, y, _, _ => (y, [])
  | fuel + 1, y, a, n =>
    if n = 0 then (y, [])
    else
      let a := a % 2 ^ 64
      let o := a % lineSize
      let (y, l) := codeLine y r (a - o)
      let here := (l.drop o).take n
      let (y, rest) := codeBytes r fuel y (a + here.length) (n - here.length)
      (y, here ++ rest)

/-- The report of a byte that cannot be fetched: for a range or page, the lowest byte of the instruction in the failing page
(03 R74). -/
def fetchTrap (start : Nat) (bad : Nat) (code : Nat) (steward : Bool) : Trap :=
  let a1 := if steward || code = cMachineCheck then bad else max start (bad - bad % 2 ^ 16)
  { code := code, addr0 := some (BitVec.ofNat 64 start), addr1 := BitVec.ofNat 64 a1 }

/-- The bytes of an instruction that starts at `start`, or the cause of the first one that cannot be fetched. -/
def goodBytes (steward : Bool) (start : Nat) : Nat → List FByte → Except Trap (List Byte)
  | _, [] => .ok []
  | a, .error e :: _ => .error (fetchTrap start a e steward)
  | a, .ok b :: t =>
    match goodBytes steward start (a + 1) t with
    | .error e => .error e
    | .ok bs => .ok (b :: bs)

/-- MISALIGNED for an odd address (03 R58). -/
def oddTrap (a : Word) : Trap := { code := cMisaligned, addr0 := some a, addr1 := a }

/-- Bytes that the length field of a first parcel calls for; one parcel for the reserved length (03 R57, R73). -/
def lenBytes (w : Nat) : Nat := (lenOf w).getD 2

/-- The instruction at `a`, its bits as one number with its length, or the fetch cause (03 R73, R74). The two lines it may
touch are each taken once. A buffered body is indexed by the NEST_TOP that the register holds now (log entry 102). -/
def fetchInstr (y : Sys) (r : SeqRef) (a : Word) : Sys × Except Trap (Nat × Nat) :=
  if a.toNat % 2 = 1 then (y, .error (oddTrap a))
  else
    let q := y.seq r
    let top := q.nestTop.toNat
    if nestAct q.nestStat && top ≤ a.toNat && a.toNat < top + q.nestBuf.length then
      let bs := q.nestBuf.drop (a.toNat - top)
      let n := lenBytes (leNat (bs.take 2))
      (y, .ok (leNat (bs.take n), n))
    else
      let (y, p) := codeBytes r 1 y a.toNat lineSize
      match goodBytes q.steward a.toNat a.toNat (p.take 2) with
      | .error t => (y, .error t)
      | .ok bs =>
        let n := lenBytes (leNat bs)
        let (y, more) := if p.length < n then codeBytes r 1 y (a.toNat + p.length) (n - p.length) else (y, [])
        match goodBytes q.steward a.toNat a.toNat ((p ++ more).take n) with
        | .error t => (y, .error t)
        | .ok bs => (y, .ok (leNat bs, n))

/-- The length of the instruction at `a`, from its first parcel (05 R129). -/
def lengthAt (y : Sys) (r : SeqRef) (a : Word) : Sys × Except Trap Nat :=
  if a.toNat % 2 = 1 then (y, .error (oddTrap a))
  else
    let (y, p) := codeBytes r 1 y a.toNat 2
    match goodBytes (y.seq r).steward a.toNat a.toNat p with
    | .error t => (y, .error t)
    | .ok bs => (y, .ok (lenBytes (leNat bs)))

end Sys2Proof.Machine
end

