-- ==== Sys2Proof/Machine/Window.lean ====
section
/-! DEFINITION. Window loads and stores, the deferring load and `vouch` (05 R112 to R119). -/

namespace Sys2Proof.Machine

/-! ## The access (05 R113, R114) -/

/-- The cause that the offset alone decides: alignment, then bounds (05 R113). -/
def accessTrap (y : Sys) (r : SeqRef) (off : Word) (sz : Nat) : Option Trap :=
  if off.toNat % sz != 0 then some { code := cMisaligned, addr1 := off }
  else if y.wsz r < off.toNat + sz then some { code := cBounds, addr1 := off }
  else none

/-- An access of the sequencer waits for every issued, unretired entry whose window ranges conflict with it (05 R114,
11 R252). -/
def Ctx.blocks? (c : Ctx) (rd wr : List Span) : Bool :=
  c.entries.any (fun qe => spansMeet rd qe.2.wr || spansMeet wr (qe.2.rd ++ qe.2.wr))

def seqBlocked (y : Sys) (r : SeqRef) (rd wr : List Span) : Bool :=
  r.idx.isSome && (y.ctxOf r).blocks? rd wr

def spanAt (off : Word) (n : Nat) : List Span := [⟨off.toNat, off.toNat + n⟩]

/-- A load: the interlocks, then the bytes, with MACHINE_CHECK on an uncorrectable one (05 R113, 20 R403). -/
def loadBytes (y : Sys) (r : SeqRef) (off : Word) (sz : Nat) (k : Nat → Res) : Res :=
  if seqBlocked y r (spanAt off sz) [] then .stall y
  else
    let bs := y.seqRead r off.toNat sz
    if bs.any (·.2) then .trap { code := cMachineCheck, addr1 := off } else k (leNat (bs.map (·.1)))

/-- A load into gD from the offset `off`, with the base and index registers `srcs` (05 R113). -/
def loadStep (d : BitVec 5) (srcs : List (BitVec 5)) (off : SeqSt → Word) (sz : Nat) (ext : Nat → Word) (r : SeqRef) (y : Sys) :
    Res :=
  let q := y.seq r
  unpoisoned q srcs
    (match accessTrap y r (off q) sz with
     | some t => .trap t
     | none => loadBytes y r (off q) sz (fun v => done y r (fun q => q.wg d (ext v))))

/-- A store of the low `sz` bytes of gD (05 R113). -/
def storeStep (d : BitVec 5) (srcs : List (BitVec 5)) (off : SeqSt → Word) (sz : Nat) (r : SeqRef) (y : Sys) : Res :=
  let q := y.seq r
  unpoisoned q (srcs ++ [d])
    (match accessTrap y r (off q) sz with
     | some t => .trap t
     | none =>
       if seqBlocked y r [] (spanAt (off q) sz) then .stall y
       else .ok (y.seqWrite r (off q).toNat (leSplit sz (q.rg d).toNat)) none)

/-- The offset of the immediate forms and of the indexed forms (05 R112). -/
def offRI (a : BitVec 5) (i : BitVec 12) (q : SeqSt) : Word := q.rg a + sx i
def offRR (a b : BitVec 5) (q : SeqSt) : Word := q.rg a + q.rg b

/-- Sign and zero extension of a loaded value of `n` bits. -/
def extS (n v : Nat) : Word := (BitVec.ofNat n v).signExtend 64
def extN (v : Nat) : Word := BitVec.ofNat 64 v

/-! ## The instructions -/

/-- `ld.s8` (05 R113). -/
def execLdS8 (d a : BitVec 5) (i : BitVec 12) (s : State) : Host.Outcome State Fault Refusal :=
  runSeq s 4 (loadStep d [a] (offRI a i) 1 (extS 8))

/-- `ld.n8` (05 R113). -/
def execLdN8 (d a : BitVec 5) (i : BitVec 12) (s : State) : Host.Outcome State Fault Refusal :=
  runSeq s 4 (loadStep d [a] (offRI a i) 1 (extN))

/-- `ld.s16` (05 R113). -/
def execLdS16 (d a : BitVec 5) (i : BitVec 12) (s : State) : Host.Outcome State Fault Refusal :=
  runSeq s 4 (loadStep d [a] (offRI a i) 2 (extS 16))

/-- `ld.n16` (05 R113). -/
def execLdN16 (d a : BitVec 5) (i : BitVec 12) (s : State) : Host.Outcome State Fault Refusal :=
  runSeq s 4 (loadStep d [a] (offRI a i) 2 (extN))

/-- `ld.s32` (05 R113). -/
def execLdS32 (d a : BitVec 5) (i : BitVec 12) (s : State) : Host.Outcome State Fault Refusal :=
  runSeq s 4 (loadStep d [a] (offRI a i) 4 (extS 32))

/-- `ld.n32` (05 R113). -/
def execLdN32 (d a : BitVec 5) (i : BitVec 12) (s : State) : Host.Outcome State Fault Refusal :=
  runSeq s 4 (loadStep d [a] (offRI a i) 4 (extN))

/-- `ld.n64` (05 R113). -/
def execLdN64 (d a : BitVec 5) (i : BitVec 12) (s : State) : Host.Outcome State Fault Refusal :=
  runSeq s 4 (loadStep d [a] (offRI a i) 8 (extN))

/-- `ldx.n64` (05 R113). -/
def execLdxN64 (d a b : BitVec 5) (s : State) : Host.Outcome State Fault Refusal :=
  runSeq s 4 (loadStep d [a, b] (offRR a b) 8 extN)

/-- `st.n8` (05 R113). -/
def execStN8 (d a : BitVec 5) (i : BitVec 12) (s : State) : Host.Outcome State Fault Refusal :=
  runSeq s 4 (storeStep d [a] (offRI a i) 1)

/-- `st.n16` (05 R113). -/
def execStN16 (d a : BitVec 5) (i : BitVec 12) (s : State) : Host.Outcome State Fault Refusal :=
  runSeq s 4 (storeStep d [a] (offRI a i) 2)

/-- `st.n32` (05 R113). -/
def execStN32 (d a : BitVec 5) (i : BitVec 12) (s : State) : Host.Outcome State Fault Refusal :=
  runSeq s 4 (storeStep d [a] (offRI a i) 4)

/-- `st.n64` (05 R113). -/
def execStN64 (d a : BitVec 5) (i : BitVec 12) (s : State) : Host.Outcome State Fault Refusal :=
  runSeq s 4 (storeStep d [a] (offRI a i) 8)

/-- `stx.n64` (05 R113). -/
def execStxN64 (d a b : BitVec 5) (s : State) : Host.Outcome State Fault Refusal :=
  runSeq s 4 (storeStep d [a, b] (offRR a b) 8)

/-- `ld.dfr`: a poisoned base or a window fault poisons gD and reads nothing (05 R115). -/
def dfrStep (d a : BitVec 5) (i : BitVec 12) (r : SeqRef) (y : Sys) : Res :=
  let q := y.seq r
  let off := offRI a i q
  if q.tag a then done y r (fun q => q.wgPoison d (q.rg a))
  else match accessTrap y r off 8 with
    | some _ => done y r (fun q => q.wgPoison d off)
    | none => loadBytes y r off 8 (fun v => done y r (fun q => q.wg d (extN v)))

/-- `ld.dfr` (05 R115). -/
def execLdDfr (d a : BitVec 5) (i : BitVec 12) (s : State) : Host.Outcome State Fault Refusal :=
  runSeq s 4 (dfrStep d a i)

/-- The registers that a `vouch` names, lowest first (05 R116). -/
def vouchRegs (g : BitVec 2) (m : BitVec 8) : List (BitVec 5) :=
  ((List.range 8).filter (fun k => m.getLsbD k)).map (fun k => BitVec.ofNat 5 (8 * g.toNat + k))

/-- `vouch` (05 R116). -/
def execVouch (g : BitVec 2) (m : BitVec 8) (s : State) : Host.Outcome State Fault Refusal :=
  runSeq s 4 (fun r y => unpoisoned (y.seq r) (vouchRegs g m) (.ok y none))

end Sys2Proof.Machine
end

