-- ==== Sys2Proof/Machine/Control.lean ====
section
/-! DEFINITION. Branches, jumps and calls with their two delay slots, `nest`, and `tret` (05 R123 to R135). -/

namespace Sys2Proof.Machine

/-! ## Transfers (05 R124 to R128) -/

/-- The target of a displacement in parcels from the instruction's address (03 R63). -/
def dispTarget (q : SeqSt) (k : Word) : Word := q.pc + 2 * k

/-- A transfer that reads `srcs`, taken by `cond`, with a displacement. -/
def branchStep (srcs : List (BitVec 5)) (cond : SeqSt → Bool) (nul : BitVec 2) (k : Word) (r : SeqRef) (y : Sys) : Res :=
  let q := y.seq r
  unpoisoned q srcs (.ok y (some ⟨cond q, dispTarget q k, nul⟩))

/-- A short conditional branch of two registers (05 R126). -/
def branchRR (a b : BitVec 5) (n : BitVec 2) (k : BitVec 10) (c : Word → Word → Bool) (s : State) :
    Host.Outcome State Fault Refusal :=
  runSeq s 4 (branchStep [a, b] (fun q => c (q.rg a) (q.rg b)) n (sx k))

/-- A far conditional branch of one register (05 R127). -/
def branchFar (a : BitVec 5) (n : BitVec 2) (k : BitVec 30) (c : Word → Bool) (s : State) : Host.Outcome State Fault Refusal :=
  runSeq s 6 (branchStep [a] (fun q => c (q.rg a)) n (sx k))

/-- `beq` (05 R126). -/
def execBeq (a b : BitVec 5) (n : BitVec 2) (k : BitVec 10) (s : State) : Host.Outcome State Fault Refusal :=
  branchRR a b n k (fun x y => x == y) s

/-- `bne` (05 R126). -/
def execBne (a b : BitVec 5) (n : BitVec 2) (k : BitVec 10) (s : State) : Host.Outcome State Fault Refusal :=
  branchRR a b n k (fun x y => x != y) s

/-- `blt.s64` (05 R126). -/
def execBltS64 (a b : BitVec 5) (n : BitVec 2) (k : BitVec 10) (s : State) : Host.Outcome State Fault Refusal :=
  branchRR a b n k (fun x y => x.slt y) s

/-- `bge.s64` (05 R126). -/
def execBgeS64 (a b : BitVec 5) (n : BitVec 2) (k : BitVec 10) (s : State) : Host.Outcome State Fault Refusal :=
  branchRR a b n k (fun x y => !x.slt y) s

/-- `blt.n64` (05 R126). -/
def execBltN64 (a b : BitVec 5) (n : BitVec 2) (k : BitVec 10) (s : State) : Host.Outcome State Fault Refusal :=
  branchRR a b n k (fun x y => x.ult y) s

/-- `bge.n64` (05 R126). -/
def execBgeN64 (a b : BitVec 5) (n : BitVec 2) (k : BitVec 10) (s : State) : Host.Outcome State Fault Refusal :=
  branchRR a b n k (fun x y => !x.ult y) s

/-- `bbs` tests bit gB[5:0] of gA (05 R126). -/
def execBbs (a b : BitVec 5) (n : BitVec 2) (k : BitVec 10) (s : State) : Host.Outcome State Fault Refusal :=
  branchRR a b n k (fun x y => x.getLsbD (y.toNat % 64)) s

/-- `bbc` (05 R126). -/
def execBbc (a b : BitVec 5) (n : BitVec 2) (k : BitVec 10) (s : State) : Host.Outcome State Fault Refusal :=
  branchRR a b n k (fun x y => !x.getLsbD (y.toNat % 64)) s

/-- `dbnz` writes gA - 1 whether or not it is taken (05 R126). -/
def dbnzStep (a : BitVec 5) (n : BitVec 2) (k : BitVec 10) (r : SeqRef) (y : Sys) : Res :=
  let q := y.seq r
  unpoisoned q [a]
    (.ok (y.modSeq r (fun q => q.wg a (q.rg a - 1))) (some ⟨q.rg a - 1 != 0, dispTarget q (sx k), n⟩))

def execDbnz (a : BitVec 5) (n : BitVec 2) (k : BitVec 10) (s : State) : Host.Outcome State Fault Refusal :=
  runSeq s 4 (dbnzStep a n k)

/-- `j` (05 R127). -/
def execJ (n : BitVec 2) (k : BitVec 20) (s : State) : Host.Outcome State Fault Refusal :=
  runSeq s 4 (branchStep [] (fun _ => true) n (sx k))

/-- `jf` (05 R127). -/
def execJf (n : BitVec 2) (k : BitVec 32) (s : State) : Host.Outcome State Fault Refusal :=
  runSeq s 6 (branchStep [] (fun _ => true) n (sx k))

/-- `bzf` (05 R127). -/
def execBzf (a : BitVec 5) (n : BitVec 2) (k : BitVec 30) (s : State) : Host.Outcome State Fault Refusal :=
  branchFar a n k (fun x => x == 0) s

/-- `bnzf` (05 R127). -/
def execBnzf (a : BitVec 5) (n : BitVec 2) (k : BitVec 30) (s : State) : Host.Outcome State Fault Refusal :=
  branchFar a n k (fun x => x != 0) s

/-- `bltzf` (05 R127). -/
def execBltzf (a : BitVec 5) (n : BitVec 2) (k : BitVec 30) (s : State) : Host.Outcome State Fault Refusal :=
  branchFar a n k (fun x => x.slt 0) s

/-- `bgezf` (05 R127). -/
def execBgezf (a : BitVec 5) (n : BitVec 2) (k : BitVec 30) (s : State) : Host.Outcome State Fault Refusal :=
  branchFar a n k (fun x => !x.slt 0) s

/-! ## Calls (05 R129) -/

/-- Succ of an instruction of `len` bytes at `x`, inside the active `nest` when there is one (05 R123, R132). -/
def SeqSt.succAt (q : SeqSt) (x : Word) (len : Nat) : Word :=
  let s := x + BitVec.ofNat 64 len
  if nestAct q.nestStat && s = nestEnd q && nestIter q.nestStat + 1 < (q.wk (nestWalk q.nestStat)).count then q.nestTop else s

/-- The value of g31: the successor of the second delay slot. The first parcels of both slots are read (05 R129). -/
def linkValue (y : Sys) (r : SeqRef) (len : Nat) : Sys × Except Trap Word :=
  let q := y.seq r
  let s1 := q.npc.getD (q.succAt q.pc len)
  match lengthAt y r s1 with
  | (y, .error t) => (y, .error t)
  | (y, .ok n1) =>
    let s2 := q.nnpc.getD (q.succAt s1 n1)
    match lengthAt y r s2 with
    | (y, .error t) => (y, .error t)
    | (y, .ok n2) => (y, .ok (q.succAt s2 n2))

/-- A call that reads `srcs`: the target is read before g31 is written (05 R128, R129). A poisoned source is reported before a delay
slot that cannot be fetched (log entry 101). -/
def callStep (len : Nat) (srcs : List (BitVec 5)) (tgt : SeqSt → Word) (n : BitVec 2) (r : SeqRef) (y : Sys) : Res :=
  let q := y.seq r
  unpoisoned q srcs
    (match linkValue y r len with
     | (_, .error t) => .trap t
     | (y, .ok v) => .ok (y.modSeq r (fun q => q.wg 31 v)) (some ⟨true, tgt q, n⟩))

/-- `call` (05 R127, R129). -/
def execCall (n : BitVec 2) (k : BitVec 20) (s : State) : Host.Outcome State Fault Refusal :=
  runSeq s 4 (callStep 4 [] (fun q => dispTarget q (sx k)) n)

/-- `callf` (05 R127, R129). -/
def execCallf (n : BitVec 2) (k : BitVec 32) (s : State) : Host.Outcome State Fault Refusal :=
  runSeq s 6 (callStep 6 [] (fun q => dispTarget q (sx k)) n)

/-- `callr` (05 R128, R129). -/
def execCallr (a : BitVec 5) (s : State) : Host.Outcome State Fault Refusal :=
  runSeq s 4 (callStep 4 [a] (fun q => q.rg a) 0)

/-- A register jump (05 R128). -/
def jumpReg (a : BitVec 5) (r : SeqRef) (y : Sys) : Res :=
  let q := y.seq r
  unpoisoned q [a] (.ok y (some ⟨true, q.rg a, 0⟩))

/-- `jr` (05 R128). -/
def execJr (a : BitVec 5) (s : State) : Host.Outcome State Fault Refusal := runSeq s 4 (jumpReg a)

/-- `ret` reads g31 (05 R128). -/
def execRet (s : State) : Host.Outcome State Fault Refusal := runSeq s 4 (jumpReg 31)

/-! ## `nest` (05 R130 to R132) -/

/-- An encoding that a body may not hold (05 R131): `w` is the instruction's bits, `n` its length, `k` the `nest`'s walk. A word with the
opcode of `yield` or `tend` is refused whatever its FN4 and its reserved fields hold (log entry 103). -/
def nestForbids (w n : Nat) (k : BitVec 3) : Bool :=
  let op := fld w 2 8
  (n == 4 && ((0x60 ≤ op && op ≤ 0x71) || op == 0xA4 || op == 0xA5)) || (n == 6 && 0x08 ≤ op && op ≤ 0x13) ||
    (n == 8 && 0xA0 ≤ op && op ≤ 0xA5 && fld w 10 3 == k.toNat)

/-- The instructions of a body from its fetched bytes: how many, whether one is forbidden, and whether they end exactly at the
end; or the fetch cause of a body byte, reported for its instruction (05 R131). -/
def scanBody (steward : Bool) (k : BitVec 3) : Nat → Nat → List FByte → Nat → Bool → Except Trap (Nat × Bool × Bool)
  | 0, _, l, cnt, bad => .ok (cnt, bad, l.isEmpty)
  | fuel + 1, a, l, cnt, bad =>
    if l.isEmpty then .ok (cnt, bad, true)
    else match goodBytes steward a a (l.take 2) with
      | .error t => .error t
      | .ok p =>
        let n := lenBytes (leNat p)
        match goodBytes steward a a (l.take n) with
        | .error t => .error t
        | .ok bs =>
          if l.length < n then .ok (cnt + 1, bad, false)
          else scanBody steward k fuel (a + n) (l.drop n) (cnt + 1) (bad || nestForbids (leNat bs) n k)

/-- The bytes of a body that all can be fetched. -/
def bodyBytes (l : List FByte) : List Byte := l.map (fun b => match b with | .ok v => v | .error _ => 0)

def nestStep (d : BitVec 5) (w : BitVec 3) (n : BitVec 8) (r : SeqRef) (y : Sys) : Res :=
  if n = 0 || 128 < n.toNat then .trap (operandCode 0)
  else
    let q := y.seq r
    let top := q.pc + 4
    let (y, l) := codeBytes r 6 y top.toNat (2 * n.toNat)
    match scanBody q.steward w 129 top.toNat l 0 false with
    | .error t => .trap t
    | .ok (cnt, bad, exact) =>
      if q.npc.isSome || q.nnpc.isSome || !exact || 32 < cnt || bad || 2 ^ 40 < (q.wk w).count then .trap (operandCode 0)
      else done y r (fun q =>
        { (if d = 0 then q else q.wg d ((q.wk w).addr 0)) with
            nestTop := top
            nestStat := nestWord w.toNat d.toNat (n.toNat - 1) (cnt - 1) 0
            nestBuf := bodyBytes l })

/-- The step of a `nest` itself: its successor is NEST_TOP, the next address, and the nest rule does not apply to it. -/
def execNest (d : BitVec 5) (w : BitVec 3) (n : BitVec 8) (s : State) : Host.Outcome State Fault Refusal :=
  runSeq s 4 (nestStep d w n)

/-! ## `tret` (05 R135, 20 R394) -/

/-- The check of the saved loop state. -/
def tretBad (q : SeqSt) : Bool :=
  nestAct q.trapNstat &&
    (q.trapPc0.toNat < q.trapNtop.toNat || q.trapNtop.toNat + 2 * (nestBlen q.trapNstat + 1) ≤ q.trapPc0.toNat ||
      !bitOf q.trapAnn.toNat 3 || !bitOf q.trapAnn.toNat 4 ||
      (q.wk (nestWalk q.trapNstat)).count ≤ nestIter q.trapNstat)

/-- The control state that `tret` restores; `task` says that the sequencer is a task sequencer. -/
def SeqSt.tret (q : SeqSt) (task : Bool) (g : Ranges) : SeqSt :=
  let ann := q.trapAnn.toNat
  { q with
    pc := q.trapPc0
    npc := if bitOf ann 3 then none else some q.trapPc1
    nnpc := if bitOf ann 4 then none else some q.trapPc2
    an0 := bitOf ann 0
    an1 := bitOf ann 1
    nestStat := q.trapNstat
    nestTop := q.trapNtop
    nestBuf := []
    steward := !task || bitOf ann 2
    ae := true
    fetch := if task then g else q.fetch }

/-- Refill the loop buffer of the restored loop; a byte that cannot be fetched is reported against the restored pc. -/
def refill (y : Sys) (r : SeqRef) : Sys :=
  let q := y.seq r
  if !nestAct q.nestStat then y
  else
    let (y, l) := codeBytes r 6 y q.nestTop.toNat (2 * (nestBlen q.nestStat + 1))
    match goodBytes q.steward q.nestTop.toNat q.nestTop.toNat l with
    | .error t => takeTrap y r q.pc { t with addr0 := some q.pc }
    | .ok bs => y.modSeq r (fun q => { q with nestBuf := bs })

def tretStep (r : SeqRef) (y : Sys) : Res :=
  let q := y.seq r
  stewardOnly q
    (if tretBad q then .trap (operandCode 0)
     else
       let y := y.modSeq r (fun q => q.tret r.idx.isSome (y.ctxOf r).ranges)
       let y := y.modCtxOf r (syncPhase (y.seq r).steward)
       .stop (progress (refill y r) r))

def execTret (s : State) : Host.Outcome State Fault Refusal := runSeq s 4 tretStep

end Sys2Proof.Machine
end

