-- ==== Sys2Proof/Machine/Num.lean ====
section
/-! DEFINITION. Extended values, number formats, rounding and conversion (07 R138 to R152), MX elements and ingots
(07 R153 to R159). Every result is computed from exact values and rounded once. -/

namespace Sys2Proof.Machine

/-! ## Extended values (07 R138) -/

/-- An extended value. `fin neg m e more` has magnitude m × 2^e, or, when `more` is set, a value strictly between that and
(m + 1) × 2^e. -/
inductive Ext where
  | fin (neg : Bool) (m : Nat) (e : Int) (more : Bool)
  | inf (neg : Bool)
  | nan (neg : Bool)
deriving DecidableEq, Repr, Inhabited

def Ext.zero (neg : Bool) : Ext := .fin neg 0 0 false

def Ext.isNan : Ext → Bool
  | .nan _ => true
  | _ => false

def Ext.isInf : Ext → Bool
  | .inf _ => true
  | _ => false

def Ext.isZero : Ext → Bool
  | .fin _ m _ more => m == 0 && !more
  | _ => false

def Ext.neg? : Ext → Bool
  | .fin n _ _ _ => n
  | .inf n => n
  | .nan n => n

/-- The value with the opposite sign. -/
def Ext.flip : Ext → Ext
  | .fin n m e k => .fin (!n) m e k
  | .inf n => .inf (!n)
  | .nan n => .nan (!n)

/-- The value with sign `n`. -/
def Ext.sign (n : Bool) : Ext → Ext
  | .fin _ m e k => .fin n m e k
  | .inf _ => .inf n
  | .nan _ => .nan n

def Ext.ofInt (n : Int) : Ext := .fin (n < 0) n.natAbs 0 false

/-- The value times 2^k. -/
def Ext.scale (x : Ext) (k : Int) : Ext :=
  match x with
  | .fin n m e b => .fin n m (e + k) b
  | x => x

/-- floor(log2 |x|) of a finite non-zero value. -/
def Ext.log2 : Ext → Int
  | .fin _ m e _ => Nat.log2 m + e
  | _ => 0

/-! ## Formats (07 R141, R142) -/

/-- A floating-point format: fraction width, exponent width, bias, the exponent and fraction fields of its largest finite
value, whether it has infinities, and its canonical NaN. -/
structure Fmt where
  m : Nat
  eb : Nat
  bias : Nat
  maxE : Nat
  maxM : Nat
  hasInf : Bool
  nan : Option Nat
  /-- Flush-to-zero acts on it (07 R148). -/
  flush : Bool
deriving DecidableEq, Repr

def fFP32 : Fmt := ⟨23, 8, 127, 254, 2 ^ 23 - 1, true, some 0x7FC00000, true⟩
def fFP16 : Fmt := ⟨10, 5, 15, 30, 2 ^ 10 - 1, true, some 0x7E00, true⟩
def fBF16 : Fmt := ⟨7, 8, 127, 254, 127, true, some 0x7FC0, true⟩
def fE4M3 : Fmt := ⟨3, 4, 7, 15, 6, false, some 0x7F, false⟩
def fE5M2 : Fmt := ⟨2, 5, 15, 30, 3, true, some 0x7E, false⟩
def fE3M2 : Fmt := ⟨2, 3, 3, 7, 3, false, none, false⟩
def fE2M3 : Fmt := ⟨3, 2, 1, 3, 7, false, none, false⟩
def fE2M1 : Fmt := ⟨1, 2, 1, 3, 1, false, none, false⟩

/-- The exponent of the smallest normal. -/
def Fmt.emin (f : Fmt) : Int := 1 - f.bias
def Fmt.width (f : Fmt) : Nat := 1 + f.eb + f.m
def Fmt.signBit (f : Fmt) : Nat := 2 ^ (f.eb + f.m)
def Fmt.maxBits (f : Fmt) : Nat := f.maxE * 2 ^ f.m + f.maxM
def Fmt.infBits (f : Fmt) : Nat := (2 ^ f.eb - 1) * 2 ^ f.m

def Fmt.signed (f : Fmt) (neg : Bool) (mag : Nat) : Nat := if neg then f.signBit + mag else mag

/-- The canonical NaN with a sign (07 R142); 0 for a format without one. -/
def Fmt.nanBits (f : Fmt) (neg : Bool) : Nat :=
  match f.nan with
  | some b => f.signed neg b
  | none => 0

/-- Decode of 07 R138, R141. -/
def Fmt.decode (f : Fmt) (bits : Nat) : Ext :=
  let neg := bitOf' bits (f.eb + f.m)
  let e := bits / 2 ^ f.m % 2 ^ f.eb
  let m := bits % 2 ^ f.m
  if f.hasInf && e == 2 ^ f.eb - 1 then (if m = 0 then .inf neg else .nan neg)
  else if f.nan == some 0x7F && e == 15 && m == 7 then .nan neg
  else if e = 0 then .fin neg m (f.emin - f.m) false
  else .fin neg (2 ^ f.m + m) ((e : Int) - f.bias - f.m) false
where
  bitOf' (x n : Nat) : Bool := x / 2 ^ n % 2 == 1

/-! ## Flags (07 R149) -/

abbrev Flg := BitVec 5

def flNV : Flg := 16
def flDZ : Flg := 8
def flOF : Flg := 4
def flUF : Flg := 2
def flNX : Flg := 1

def flIf (b : Bool) (f : Flg) : Flg := if b then f else 0

/-- Bits with the flags that producing them raised. -/
structure Rd where
  bits : Nat
  fl : Flg := 0
deriving DecidableEq, Repr

/-! ## Rounding (07 R143) -/

/-- A magnitude in units of 2^q: the floor, whether anything is left, and the decision of each mode. `draw` is SRStep's value
for mode 4. -/
def roundUnits (neg : Bool) (m : Nat) (e : Int) (more : Bool) (q : Int) (mode draw : Nat) : Nat × Bool :=
  if q ≤ e then
    let n := m * 2 ^ (e - q).toNat
    let up := more && ((mode == 2 && !neg) || (mode == 3 && neg))
    (if up then n + 1 else n, more)
  else
    let sh := (q - e).toNat
    let far := Nat.log2 m + 40 < sh
    let n := if far then 0 else m / 2 ^ sh
    let rem := if far then 0 else m % 2 ^ sh
    let inexact := if far then m != 0 || more else rem != 0 || more
    let up := match mode with
      | 0 => if far then false
             else 2 ^ sh < 2 * rem || (2 * rem == 2 ^ sh && (more || n % 2 == 1))
      | 1 => false
      | 2 => inexact && !neg
      | 3 => inexact && neg
      | _ => !far && draw < rem * 2 ^ 32 / 2 ^ sh
    (if up then n + 1 else n, inexact)

/-- Round of 07 R143 for a finite non-zero value. `ftz` applies the result rule of 07 R148. -/
def Fmt.round (f : Fmt) (neg : Bool) (m : Nat) (e : Int) (more : Bool) (mode draw : Nat) (sat ftz : Bool) : Rd :=
  let ex : Int := Nat.log2 m + e
  let q := max ex f.emin - f.m
  let (n, inexact) := roundUnits neg m e more q mode draw
  let maxQ : Int := (f.maxE : Int) - f.bias - f.m
  let tooBig := maxQ < q || (q == maxQ && 2 ^ f.m + f.maxM < n)
  let fl := flIf inexact flNX ||| flIf (ex < f.emin && inexact) flUF
  if tooBig then
    let fl := fl ||| flOF ||| flNX
    let satHere := sat && (f.nan == some 0x7F || f.nan == some 0x7E && f.m == 2)
    if !f.hasInf || satHere then
      if f.nan == some 0x7F && !sat then ⟨f.nanBits neg, fl⟩ else ⟨f.signed neg f.maxBits, fl⟩
    else if mode == 1 || (mode == 2 && neg) || (mode == 3 && !neg) then ⟨f.signed neg f.maxBits, fl⟩
    else ⟨f.signed neg f.infBits, fl⟩
  else if n < 2 ^ f.m then
    if ftz && f.flush && n != 0 then ⟨f.signed neg 0, fl ||| flUF ||| flNX⟩ else ⟨f.signed neg n, fl⟩
  else ⟨f.signed neg ((q + f.m + f.bias).toNat * 2 ^ f.m + (n - 2 ^ f.m)), fl⟩

/-- SRStep (07 R145). -/
def srStep (s : Lane) : Lane :=
  let s : Lane := if s = 0 then 0x6A09E667 else s
  let s := s ^^^ (s <<< 13)
  let s := s ^^^ (s >>> 17)
  s ^^^ (s <<< 5)

/-- An extended value written into a format that has NaNs, with infinities as the format gives them (07 R143, R146, R148). -/
def Fmt.put (f : Fmt) (x : Ext) (mode draw : Nat) (sat ftz : Bool) : Rd :=
  match x with
  | .nan n => ⟨f.nanBits n, 0⟩
  | .inf n => ⟨f.signed n f.infBits, 0⟩
  | .fin n m e more => if m = 0 then ⟨f.signed n 0, 0⟩ else f.round n m e more mode draw sat ftz

/-- RNE32 (07 R147), without its flags. -/
def rne32 (x : Ext) : Lane := BitVec.ofNat 32 (fFP32.put x 0 0 false false).bits

/-- The source rule of flush-to-zero (07 R148). -/
def Fmt.read (f : Fmt) (ftz : Bool) (bits : Nat) : Ext :=
  match f.decode bits with
  | .fin n m e k =>
    if ftz && f.flush && m < 2 ^ f.m then .zero n else .fin n m e k
  | x => x

/-! ## Exact arithmetic -/

/-- The signed integer of a finite value in units of 2^k, for k at most its exponent. -/
def finUnits (n : Bool) (m : Nat) (e k : Int) : Int :=
  let v : Int := (m * 2 ^ (e - k).toNat : Nat)
  if n then -v else v

/-- The exact sum of two finite values, with the sign rule of an exact-zero total (07 R146). -/
def addFin (mode : Nat) (n₁ : Bool) (m₁ : Nat) (e₁ : Int) (n₂ : Bool) (m₂ : Nat) (e₂ : Int) : Ext :=
  let k := min e₁ e₂
  let t := finUnits n₁ m₁ e₁ k + finUnits n₂ m₂ e₂ k
  if t = 0 then
    if m₁ = 0 && m₂ = 0 then .zero (n₁ && n₂) else .zero (mode == 3)
  else .fin (t < 0) t.natAbs k false

/-- a + b, `none` when invalid; a NaN gives the first one. A sum of zeros that are not all −0 is −0 under RDN only when some addend
is not zero (07 R146). -/
def addExt (mode : Nat) (a b : Ext) : Option Ext :=
  match a, b with
  | .nan n, _ => some (.nan n)
  | _, .nan n => some (.nan n)
  | .inf n, .inf n' => if n == n' then some (.inf n) else none
  | .inf n, .fin _ _ _ _ => some (.inf n)
  | .fin _ _ _ _, .inf n => some (.inf n)
  | .fin n₁ m₁ e₁ _, .fin n₂ m₂ e₂ _ => some (addFin mode n₁ m₁ e₁ n₂ m₂ e₂)

/-- a × b, `none` for 0 × Inf. -/
def mulExt (a b : Ext) : Option Ext :=
  match a, b with
  | .nan n, _ => some (.nan n)
  | _, .nan n => some (.nan n)
  | .inf n, .inf n' => some (.inf (n != n'))
  | .inf n, .fin n' m _ _ => if m = 0 then none else some (.inf (n != n'))
  | .fin n m _ _, .inf n' => if m = 0 then none else some (.inf (n != n'))
  | .fin n₁ m₁ e₁ _, .fin n₂ m₂ e₂ _ => some (.fin (n₁ != n₂) (m₁ * m₂) (e₁ + e₂) false)

/-- The exact sum of a list, `none` for infinities of both signs; a NaN decides, with the sign of the first in the list (log entry 117). -/
def sumExt (mode : Nat) (l : List Ext) : Option Ext :=
  match l.find? (·.isNan) with
  | some x => some x
  | none =>
    let pos := l.any (fun x => x == .inf false)
    let neg := l.any (fun x => x == .inf true)
    if pos && neg then none
    else if pos then some (.inf false)
    else if neg then some (.inf true)
    else
      let k := l.foldl (fun k x => match x with | .fin _ m e _ => if m = 0 then k else min k e | _ => k) 0
      let t := l.foldl (fun (t : Int) x => match x with | .fin n m e _ => if m = 0 then t else t + finUnits n m e k | _ => t) 0
      if t = 0 then
        if l.all (fun x => x.isZero) then some (.zero (l.all (fun x => x.neg?))) else some (.zero (mode == 3))
      else some (.fin (t < 0) t.natAbs k false)

/-- Comparison of two values that are no NaN: less, and equal (+0 equals −0). -/
def ltExt (a b : Ext) : Bool :=
  match a, b with
  | .inf n, .inf n' => n && !n'
  | .inf n, _ => n
  | _, .inf n => !n
  | .fin n₁ m₁ e₁ _, .fin n₂ m₂ e₂ _ => let k := min e₁ e₂; finUnits n₁ m₁ e₁ k < finUnits n₂ m₂ e₂ k
  | _, _ => false

def eqExt (a b : Ext) : Bool :=
  match a, b with
  | .inf n, .inf n' => n == n'
  | .fin n₁ m₁ e₁ _, .fin n₂ m₂ e₂ _ => let k := min e₁ e₂; finUnits n₁ m₁ e₁ k == finUnits n₂ m₂ e₂ k
  | _, _ => false

/-- The smaller, with −0 below +0 and a NaN giving the other source (10 R225). -/
def minExt (a b : Ext) : Ext :=
  if a.isNan then (if b.isNan then a else b)
  else if b.isNan then a
  else if ltExt b a || (eqExt a b && b.neg?) then b else a

def maxExt (a b : Ext) : Ext :=
  if a.isNan then (if b.isNan then a else b)
  else if b.isNan then a
  else if ltExt a b || (eqExt a b && !b.neg?) then b else a

/-! ## Quotients, roots and logarithms, to any precision (10 R231) -/

/-- floor of the square root, by bits from 2^k down. -/
def isqrtFrom : Nat → Nat → Nat → Nat
  | 0, n, r => if (r + 1) * (r + 1) ≤ n then r + 1 else r
  | k + 1, n, r =>
    let t := r + 2 ^ (k + 1)
    isqrtFrom k n (if t * t ≤ n then t else r)

def isqrt (n : Nat) : Nat := isqrtFrom (Nat.log2 n / 2) n 0

/-- Extra bits kept in quotients and roots. -/
def guardBits : Nat := 160

/-- m₁ × 2^e₁ divided by m₂ × 2^e₂, both non-zero. -/
def divFin (neg : Bool) (m₁ : Nat) (e₁ : Int) (m₂ : Nat) (e₂ : Int) : Ext :=
  let k := guardBits + Nat.log2 m₂
  let n := m₁ * 2 ^ k
  .fin neg (n / m₂) (e₁ - e₂ - k) (n % m₂ != 0)

/-- The square root of m × 2^e, non-zero. -/
def sqrtFin (m : Nat) (e : Int) : Ext :=
  let odd := e % 2 == 1
  let m := if odd then 2 * m else m
  let e := if odd then e - 1 else e
  let n := m * 2 ^ (2 * guardBits)
  let r := isqrt n
  .fin false r (e / 2 - guardBits) (r * r != n)

/-- The reciprocal square root of m × 2^e, non-zero. -/
def rsqFin (m : Nat) (e : Int) : Ext :=
  let odd := e % 2 == 1
  let m := if odd then 2 * m else m
  let e := if odd then e - 1 else e
  let k := guardBits + Nat.log2 m
  let n := 2 ^ (2 * k)
  let r := isqrt (n / m)
  .fin false r (-(e / 2) - k) (r * r * m != n)

/-- Bounds of 2^f in units of 2^-w, for a fraction f given by its bits: `bits` over 2^`n`, the roots of 2 taken one by one. -/
def exp2Bounds (w : Nat) : Nat → Nat → Nat → Nat → Nat → Nat → Nat × Nat
  | 0, _, _, _, lo, hi => (lo, hi)
  | n + 1, bits, cl, ch, lo, hi =>
    let cl := isqrt (cl * 2 ^ w)
    let ch := isqrt (ch * 2 ^ w) + 1
    if bits / 2 ^ n % 2 == 1 then exp2Bounds w n bits cl ch (lo * cl / 2 ^ w) (hi * ch / 2 ^ w + 1)
    else exp2Bounds w n bits cl ch lo hi

/-- The leading `w - 64` fraction bits of a value between two bounds, once the bounds agree on them; the precision is doubled
until they do. -/
def settle (f : Nat → Nat × Nat) : Nat → Nat → Nat × Nat
  | 0, w => ((f w).1 / 2 ^ 64, w - 64)
  | fuel + 1, w =>
    let (lo, hi) := f w
    if lo / 2 ^ 64 == hi / 2 ^ 64 then (lo / 2 ^ 64, w - 64) else settle f fuel (2 * w)

/-- 2^x of a finite value. -/
def exp2Fin (neg : Bool) (m : Nat) (e : Int) : Ext :=
  if 0 ≤ e then .fin false 1 (finUnits neg m e 0) false
  else
    let n := (-e).toNat
    let v : Int := if neg then -(m : Int) else m
    let fl := v / (2 ^ n : Nat)
    let bits := (v % (2 ^ n : Nat)).toNat
    if bits = 0 then .fin false 1 fl false
    else
      let (r, w) := settle (fun w => exp2Bounds w n bits (2 * 2 ^ w) (2 * 2 ^ w) (2 ^ w) (2 ^ w)) 4 384
      .fin false r (fl - w) true

/-- Fraction bits of log2 of a value in [1, 2) held between bounds in units of 2^-w, by repeated squaring; `none` when the
bounds part on a bit. -/
def log2Bits (w : Nat) : Nat → Nat → Nat → Nat → Option Nat
  | 0, _, _, acc => some acc
  | n + 1, lo, hi, acc =>
    let lo := lo * lo / 2 ^ w
    let hi := hi * hi / 2 ^ w + 1
    if 2 * 2 ^ w ≤ lo then log2Bits w n (lo / 2) (hi / 2 + 1) (2 * acc + 1)
    else if hi < 2 * 2 ^ w then log2Bits w n lo hi (2 * acc)
    else none

/-- Fraction bits of log2: `n` of them, with more working precision until the bounds agree. -/
def log2Frac (m n : Nat) : Nat → Nat → Nat
  | 0, _ => 0
  | fuel + 1, w =>
    let y := m * 2 ^ w / 2 ^ Nat.log2 m
    match log2Bits w n y (if m * 2 ^ w % 2 ^ Nat.log2 m = 0 then y else y + 1) 0 with
    | some b => b
    | none => log2Frac m n fuel (2 * w)

/-- log2 of m × 2^e, non-zero. -/
def log2Fin (m : Nat) (e : Int) : Ext :=
  let l := Nat.log2 m
  let ip : Int := l + e
  if m = 2 ^ l then (if ip = 0 then .zero false else .ofInt ip)
  else
    let k : Int := ip * 2 ^ 192 + (log2Frac m 192 5 512 : Nat)
    if 0 ≤ k then .fin false k.toNat (-192) true else .fin true (-k - 1).toNat (-192) true

/-! ## Integers (07 R140, R152) -/

/-- The ends of an integer format. -/
structure IFmt where
  w : Nat
  signed : Bool
deriving DecidableEq, Repr

def IFmt.lo (f : IFmt) : Int := if f.signed then -(2 ^ (f.w - 1) : Nat) else 0
def IFmt.hi (f : IFmt) : Int := if f.signed then (2 ^ (f.w - 1) : Nat) - 1 else (2 ^ f.w : Nat) - 1

/-- The encoding of an integer modulo 2^w. -/
def IFmt.bits (f : IFmt) (n : Int) : Nat := (n % (2 ^ f.w : Nat)).toNat

def IFmt.value (f : IFmt) (b : Nat) : Int :=
  let b := b % 2 ^ f.w
  if f.signed && 2 ^ (f.w - 1) ≤ b then (b : Int) - (2 ^ f.w : Nat) else b

/-- Saturate to the nearest end, with NV (07 R152). -/
def IFmt.clamp (f : IFmt) (n : Int) : Int × Bool :=
  if n < f.lo then (f.lo, true) else if f.hi < n then (f.hi, true) else (n, false)

/-- A finite value rounded to an integer, q = 1 (07 R152). -/
def roundInt (neg : Bool) (m : Nat) (e : Int) (more : Bool) (mode draw : Nat) : Int × Bool :=
  let (n, inexact) := roundUnits neg m e more 0 mode draw
  (if neg then -(n : Int) else n, inexact)

/-! ## Conversions (07 R151, R152) -/

/-- A destination of a conversion. -/
inductive Dst where
  | flt (f : Fmt) (sat : Bool)
  | int (f : IFmt)
deriving DecidableEq, Repr

/-- The conversion of an extended value (07 R151, R152). -/
def convert (d : Dst) (x : Ext) (mode draw : Nat) (ftz : Bool) : Rd :=
  match d with
  | .int f =>
    match x with
    | .nan _ => ⟨0, flNV⟩
    | .inf n => ⟨f.bits (if n then f.lo else f.hi), flNV⟩
    | .fin n m e more =>
      let (v, inexact) := roundInt n m e more mode draw
      let (c, nv) := f.clamp v
      ⟨f.bits c, flIf inexact flNX ||| flIf nv flNV⟩
  | .flt f sat =>
    match x with
    | .nan n => if f.nan.isSome then ⟨f.nanBits n, 0⟩ else ⟨0, flNV⟩
    | .inf n =>
      if f.hasInf then ⟨f.signed n f.infBits, 0⟩
      else if f.nan == some 0x7F && !sat then ⟨f.nanBits n, flNV⟩
      else ⟨f.signed n f.maxBits, flNV⟩
    | .fin n m e more => if m = 0 then ⟨f.signed n 0, 0⟩ else f.round n m e more mode draw sat ftz

/-! ## Ingots (07 R153 to R156) -/

/-- An ingot: its exponent byte and significands. -/
structure Ingot where
  e : Nat
  a : List Int
deriving DecidableEq, Repr

/-- Plane k: the byte whose bit i is bit k of element i. -/
def Ingot.plane (g : Ingot) (k : Nat) : Byte :=
  BitVec.ofNat 8 ((List.range 8).foldl (fun acc i => acc + ((g.a.getD i 0) / (2 ^ k : Nat) % 2).toNat * 2 ^ i) 0)

/-- The significands from planes, p of them, plane p − 1 first. -/
def planesToInts (p : Nat) (planes : List Byte) : List Int :=
  (List.range 8).map (fun i =>
    let v := (List.range p).foldl (fun acc j => acc + (if (planes.getD (p - 1 - j) 0).getLsbD i then 2 ^ j else 0)) 0
    (⟨p, true⟩ : IFmt).value v)

/-- The extended values of an ingot, `none` for a poisoned one (07 R156). -/
def Ingot.values (g : Ingot) (float : Bool) : Option (List Ext) :=
  if g.e = 0xFF then none
  else some (g.a.map (fun a => if float then (if a = 0 then .zero false else (Ext.ofInt a).scale ((g.e : Int) - 127)) else .ofInt a))

/-- Elements scaled by 2^(127 − E) and rounded to integers, with whether any was inexact. -/
def packRound (xs : List Ext) (e : Nat) (sr : Bool) (draws : List Nat) : List (Int × Bool) :=
  (List.range 8).map (fun i =>
    match xs.getD i (.zero false) with
    | .fin n m ex more => if m = 0 then (0, false) else roundInt n m (ex + 127 - e) more (if sr then 4 else 0) (draws.getD i 0)
    | _ => (0, false))

/-- PackIngot (07 R154); `draws` are the SRStep values of the elements' lanes. -/
def packIngot (xs : List Ext) (p : Nat) (float sr : Bool) (draws : List Nat) : Ingot × Flg :=
  let f : IFmt := ⟨p, true⟩
  if !float then
    let cs := xs.map (fun x => match x with | .fin n m e _ => f.clamp (finUnits n m e 0) | _ => (0, false))
    (⟨0x7F, cs.map (·.1)⟩, flIf (cs.any (·.2)) flNV)
  else if xs.any (fun x => x.isNan || x.isInf) then (⟨0xFF, List.replicate 8 0⟩, flNV)
  else if xs.all (·.isZero) then (⟨0, List.replicate 8 0⟩, 0)
  else
    let ls := (xs.filter (fun x => !x.isZero)).map Ext.log2
    let emax := ls.foldl max (ls.headD 0)
    let e := min (max (emax + 129 - p) 0) 254
    let e := e.toNat
    let r := packRound xs e sr draws
    let (e, r) := if r.any (fun a => f.hi < a.1) && e < 254 then (e + 1, packRound xs (e + 1) sr draws) else (e, r)
    let cs := r.map (fun a => f.clamp a.1)
    (⟨e, cs.map (·.1)⟩, flIf (cs.any (·.2)) flNV ||| flIf (r.any (·.2) || cs.any (·.2)) flNX)

/-! ## MX (07 R157 to R159) -/

/-- A narrow element format of 10 R228: a float format with its sat, or MXINT8. -/
inductive Narrow where
  | flt (f : Fmt) (sat : Bool)
  | s8
deriving DecidableEq, Repr

def narrowOf (n : Nat) : Narrow :=
  match n with
  | 0 => .flt fE4M3 true
  | 1 => .flt fE4M3 false
  | 2 => .flt fE5M2 true
  | 3 => .flt fE5M2 false
  | 4 => .flt fE3M2 false
  | 5 => .flt fE2M3 false
  | 6 => .flt fE2M1 false
  | _ => .s8

def Narrow.width : Narrow → Nat
  | .flt f _ => f.width
  | .s8 => 8

def int8F : IFmt := ⟨8, true⟩

/-- The element's own value; an MXINT8 element n has the value n × 2^−6. -/
def Narrow.mxDecode (f : Narrow) (bits : Nat) : Ext :=
  match f with
  | .flt f _ => f.decode (bits % 2 ^ f.width)
  | .s8 => (Ext.ofInt (int8F.value bits)).scale (-6)

/-- An MX element with its scale X: X = 0xFF makes every element NaN with sign 0 (07 R158). -/
def mxValue (f : Narrow) (bits x : Nat) : Ext :=
  let v := f.mxDecode bits
  if x % 256 = 0xFF then .nan false else if v.isNan then v else v.scale ((x % 256 : Nat) - 127)

/-- emax_el of 07 R159: the exponent of the format's largest power of two. -/
def Narrow.emax : Narrow → Int
  | .flt f _ => (f.maxE : Int) - f.bias
  | .s8 => 0

/-- The shared scale of a block, with whether the block has a NaN or an infinity (07 R159). -/
def mxScale (f : Narrow) (xs : List Ext) : Nat × Bool :=
  if xs.any (fun x => x.isNan || x.isInf) then (0xFF, true)
  else
    let ls := (xs.filter (fun x => !x.isZero)).map Ext.log2
    if ls.isEmpty then (0, false)
    else (max 0 (min 254 (ls.foldl max (ls.headD 0) - f.emax + 127)) |>.toNat, false)

/-- One element under scale X, always with sat = 1 (07 R159). -/
def mxElement (f : Narrow) (x : Ext) (scale mode draw : Nat) : Rd :=
  match x.scale (127 - (scale : Int)) with
  | .fin n m e more =>
    match f with
    | .flt f _ => if m = 0 then ⟨f.signed n 0, 0⟩ else f.round n m e more mode draw true false
    | .s8 =>
      if m = 0 then ⟨0, 0⟩
      else
        let (v, inexact) := roundInt n m (e + 6) more mode draw
        let c := max (-127) (min 127 v)
        ⟨int8F.bits c, flIf inexact flNX ||| flIf (c != v) flNV⟩
  | _ => ⟨0, 0⟩

end Sys2Proof.Machine
end

