-- ==== Sys2Proof/Machine/Flags.lean ====
section
/-! DEFINITION. The sticky flags of the strips and of a chain (07 R149, R150), XFLAG (10 R213), and the results of the strip
words with the flags they raise: integer results (10 R224) and float results (10 R223). -/

namespace Sys2Proof.Machine

/-! ## Sticky flags -/

/-- A strip sets flags; a set flag stays set (07 R150). -/
def Strip.raise (s : Strip) (f : Flg) : Strip := { s with flags := s.flags ||| f }

/-- The flags of a chain: the OR of its strips' (07 R150); 0 unbound. -/
def Chain.flags (h : Chain) : BitVec 5 :=
  if h.bound then h.strips.toList.foldl (fun a s => a ||| s.flags) 0 else 0

/-- XFLAG (10 R213). -/
def xflag (c : Ctx) : Word :=
  BitVec.ofNat 64 ((List.range c.chains.length).foldl
    (fun a k => a + ((c.chains[k]?).map (fun h => h.flags.toNat)).getD 0 * 2 ^ (5 * k)) 0)

/-- A write of XFLAG: every strip's flags of each bound chain are cleared, then strip 0 takes the field (10 R213). -/
def Chain.setFlags (h : Chain) (f : BitVec 5) : Chain :=
  if h.bound then
    let z := h.strips.map (fun s => { s with flags := 0 })
    { h with strips := z.setIfInBounds 0 { vgetD z 0 {} with flags := f } }
  else h

def setXflag (c : Ctx) (v : Word) : Ctx :=
  { c with chains := c.chains.mapIdx (fun k h => h.setFlags (BitVec.ofNat 5 (v.toNat / 2 ^ (5 * k)))) }

/-! ## Lane types (03 R71, 10 R207) -/

/-- The float format of a TYPE code, when it is one. -/
def laneFmt (t : BitVec 3) : Option Fmt :=
  match t.toNat with
  | 0 => some fFP32
  | 1 => some fBF16
  | 2 => some fFP16
  | _ => none

/-- The integer format of the other TYPE codes. -/
def laneIFmt (t : BitVec 3) : IFmt :=
  match t.toNat with
  | 3 => ⟨32, true⟩
  | 4 => ⟨32, false⟩
  | 5 => ⟨16, true⟩
  | 6 => ⟨16, false⟩
  | _ => ⟨32, false⟩

/-- Bits of the TYPE. -/
def tyWidth (t : BitVec 3) : Nat :=
  match laneFmt t with
  | some f => f.width
  | none => (laneIFmt t).w

/-- A lane from a result of the TYPE: int16 is sign-extended, the other 16-bit types are zero-extended (10 R207). -/
def tyLane (t : BitVec 3) (bits : Nat) : Lane :=
  if t = 5 then (BitVec.ofNat 16 bits).signExtend 32 else BitVec.ofNat 32 (bits % 2 ^ tyWidth t)

/-- The extended value of a lane, with the source rule of flush-to-zero (07 R148, 10 R223). -/
def tyRead (t : BitVec 3) (ftz : Bool) (v : Lane) : Ext :=
  match laneFmt t with
  | some f => f.read ftz (v.toNat % 2 ^ f.width)
  | none => .ofInt ((laneIFmt t).value v.toNat)

/-- The integer of a lane of an integer TYPE. -/
def tyVal (t : BitVec 3) (v : Lane) : Int := (laneIFmt t).value v.toNat

/-- Where a conversion writes (10 R227). -/
def tyDst (t : BitVec 3) : Dst :=
  match laneFmt t with
  | some f => .flt f false
  | none => .int (laneIFmt t)

/-! ## Results -/

/-- The result of an integer word (10 R224). -/
def intRes (t : BitVec 3) (sat : Bool) (x : Int) : Lane × Flg :=
  let f := laneIFmt t
  if sat then (tyLane t (f.bits (f.clamp x).1), flIf (f.clamp x).2 flNV) else (tyLane t (f.bits x), 0)

/-- The result of a float word (10 R223): `srcs` in the order SA, SB, DST; `exact` is the exact result with the flags its special
operands raise, or none when the operation is invalid; `nv` is raised even when a NaN decides. -/
def floatRes (t : BitVec 3) (f : Fmt) (ftz : Bool) (rm draw : Nat) (srcs : List Ext) (nv : Bool) (exact : Option (Ext × Flg)) :
    Lane × Flg :=
  match srcs.find? (·.isNan) with
  | some x => (tyLane t (f.nanBits x.neg?), flIf nv flNV)
  | none =>
    match exact with
    | none => (tyLane t (f.nanBits false), flNV)
    | some (x, fl) =>
      let r := f.put x rm draw false ftz
      (tyLane t r.bits, r.fl ||| fl)

end Sys2Proof.Machine
end

