-- ==== Sys2Proof/Machine/System.lean ====
section
/-! DEFINITION. Control registers, `mfc` and `mtc` (20 R398 to R406), the system instructions (20 R407), when a sequencer
takes a step, and the causes taken at its start (20 R392 to R396, R404). -/

namespace Sys2Proof.Machine

/-! ## The register map (20 R405) -/

/-- What a mode may do with a register. -/
inductive Acc where
  | none
  | rd
  | rw
  | absent
deriving DecidableEq, Repr

/-- A control register: the access in task mode, in steward mode on a task sequencer, and on a steward sequencer; whether a
steward sequencer reaches it through CSEL; its reserved bits; and whether it has a writable field. -/
structure CrInfo where
  task : Acc
  stw : Acc
  own : Acc
  csel : Bool
  rsv : Nat
  writable : Bool
deriving DecidableEq, Repr

/-- The bits from `lo` up to but not including `hi`. -/
def maskBits (lo hi : Nat) : Nat := 2 ^ hi - 2 ^ lo

/-- 20 R405, with the reserved bits of the layouts its last column names. -/
def crInfo (n : Nat) : CrInfo :=
  if n = 0x00 then ⟨.rd, .rw, .rw, false, maskBits 8 64 + maskBits 4 7 + 1, true⟩
  else if n = 0x01 then ⟨.rd, .rd, .rd, true, 0, false⟩
  else if n = 0x02 then ⟨.none, .rd, .rd, false, 0, false⟩
  else if n = 0x03 then ⟨.rd, .rw, .rw, false, maskBits 32 64, true⟩
  else if n = 0x04 then ⟨.rd, .rw, .rw, false, maskBits 46 48, true⟩
  else if n = 0x05 then ⟨.rd, .rw, .rw, false, 0, true⟩
  else if n = 0x06 then ⟨.rd, .rw, .rw, true, maskBits 40 64 + maskBits 3 8, true⟩
  else if n = 0x07 then ⟨.rw, .rw, .rw, true, maskBits 30 64, true⟩
  else if n = 0x08 then ⟨.rd, .rd, .rd, true, 0, false⟩
  else if n = 0x09 then ⟨.none, .rw, .rw, true, maskBits 56 64 + maskBits 1 8, true⟩
  else if n = 0x10 then ⟨.none, .rw, .rw, false, maskBits 24 64 + maskBits 18 20 + maskBits 6 8, true⟩
  else if n = 0x14 then ⟨.none, .rw, .rw, false, maskBits 5 64, true⟩
  else if n = 0x17 then ⟨.none, .rw, .rw, false, maskBits 46 48, true⟩
  else if n = 0x1C then ⟨.none, .rd, .rw, false, maskBits 0 6, true⟩
  else if n = 0x1D then ⟨.none, .absent, .rw, false, maskBits 8 64, true⟩
  else if 0x30 ≤ n && n ≤ 0x37 then ⟨.none, .rw, .rw, true, maskBits 57 64 + maskBits 4 21, true⟩
  else if 0x38 ≤ n && n ≤ 0x3F then ⟨.none, .rw, .rw, true, maskBits 27 37, true⟩
  else if 0x40 ≤ n && n ≤ 0x43 then ⟨.none, .rd, .rd, true, 0, false⟩
  else if 0x44 ≤ n && n ≤ 0x47 then ⟨.none, .rw, .rw, true, 0, true⟩
  else if 0x48 ≤ n && n ≤ 0x4B then ⟨.none, .rd, .rd, true, 0, false⟩
  else ⟨.none, .rw, .rw, false, 0, true⟩

/-- The access the table gives a sequencer in its mode. -/
def CrInfo.acc (i : CrInfo) (r : SeqRef) (q : SeqSt) : Acc :=
  if !q.steward then i.task else if r.idx.isNone then i.own else i.stw

/-! ## Values -/

/-- TASK_INFO (02 R50). -/
def taskInfo (c : Ctx) : Word :=
  BitVec.ofNat 64 (c.inst.toNat * 2 ^ 32 + (c.semMap.length - 1) % 256 * 2 ^ 24 + c.copies.length * 2 ^ 16 +
    c.chains.length * 2 ^ 12 + c.piece / 4 * 2 ^ 8 + c.piece % 4 * 2 ^ 6 + c.shape)

/-- DIE_INFO (01 R20). -/
def dieInfo (d : Nat) : Word :=
  if isArray d then BitVec.ofNat 64 (d * 2 ^ 28 + 36 * 2 ^ 20 + 8 * 2 ^ 12 + 6 * 2 ^ 4 + 1)
  else BitVec.ofNat 64 (2 ^ 32 + (d - 8) * 2 ^ 28 + 24 * 2 ^ 20 + 16 * 2 ^ 12 + 24 * 2 ^ 4 + 1)

/-- SEQ_STAT (20 R399). -/
def seqStat (r : SeqRef) (q : SeqSt) : Word :=
  BitVec.ofNat 64 (q.prq.toNat * 2 ^ 7 + q.ae.toNat * 2 ^ 3 + r.idx.isNone.toNat * 2 ^ 2 + q.steward.toNat * 2)

/-- A link or the bypass buffer into or out of the fragment holds bytes (09 R203). -/
def linksHold (v : Die) (c : Ctx) : Bool :=
  !c.bypass.isEmpty || c.links.any (fun l => !l.2.isEmpty) ||
    c.grove.any (fun l => ((mget? (mgetD v.ctxs l {}).links c.piece).map (fun b => !b.isEmpty)).getD false)

/-- MX_STAT (09 R203). -/
def mxStat (v : Die) (c : Ctx) : Word :=
  BitVec.ofNat 64 (c.mcent.toNat * 2 ^ 8 + (linksHold v c).toNat * 4 + c.mce.toNat * 2 + c.pzd.toNat)

/-- Scoreboard entries in use (11 R253). -/
def scbStat (c : Ctx) : Word := BitVec.ofNat 64 (c.entries.filter (fun qe => qe.2.scb)).length

/-- ELAPSED in units of 1,024 cycles, saturating (14 R332). -/
def Ctx.elapsedUnits (c : Ctx) : Nat := min (c.wdCycles / 1024) (2 ^ 24 - 1)

/-- WDOG (14 R332). -/
def wdog (c : Ctx) : Word := BitVec.ofNat 64 (c.elapsedUnits * 2 ^ 32 + c.wdLimit % 2 ^ 24 * 2 ^ 8 + c.wdEn.toNat)

/-- CF_STATk (12 R299). -/
def cfStat (p : CopyCtx) : Word :=
  BitVec.ofNat 64 (p.cfEntry % 2 ^ 32 * 2 ^ 32 + p.repix * 2 ^ 24 + p.reason * 2 ^ 8 + p.stop.toNat)

/-- A register that a steward sequencer reaches through CSEL, of a context. -/
def ctxCr (v : Die) (c : Ctx) (n : Nat) : Word :=
  if n = 0x01 then taskInfo c
  else if n = 0x06 then mxStat v c
  else if n = 0x07 then xflag c
  else if n = 0x08 then scbStat c
  else if n = 0x09 then wdog c
  else if n < 0x38 then vgetD c.ranges.vmb (n - 0x30) 0
  else if n < 0x40 then vgetD c.ranges.vmi (n - 0x38) 0
  else if n < 0x44 then cfStat ((c.copies[n - 0x40]?).getD { engine := 0 })
  else if n < 0x48 then ((c.copies[n - 0x44]?).getD { engine := 0 }).prog
  else ((c.copies[n - 0x48]?).getD { engine := 0 }).faddr

/-- A register of the sequencer itself. -/
def ownCr (v : Die) (r : SeqRef) (q : SeqSt) (n : Nat) : Word :=
  match n with
  | 0x00 => seqStat r q
  | 0x02 => dieInfo r.die
  | 0x03 => q.tags.zeroExtend 64
  | 0x04 => q.nestStat
  | 0x05 => q.nestTop
  | 0x10 => q.trapCause
  | 0x11 => q.trapPc0
  | 0x12 => q.trapPc1
  | 0x13 => q.trapPc2
  | 0x14 => q.trapAnn
  | 0x15 => q.trapAddr0
  | 0x16 => q.trapAddr1
  | 0x17 => q.trapNstat
  | 0x18 => q.trapNtop
  | 0x1C => v.stwVec
  | 0x1D => q.csel
  | k => vgetD q.scr (k - 0x20) 0

/-- Write a context's register. -/
def setCtxCr (c : Ctx) (n : Nat) (v : Word) : Ctx :=
  if n = 0x06 then { c with mcent := BitVec.ofNat 32 (v.toNat / 2 ^ 8), mce := v.getLsbD 1, pzd := v.getLsbD 0 }
  else if n = 0x07 then setXflag c v
  else if n = 0x09 then { c with wdLimit := bitsOf v.toNat 8 24, wdEn := v.getLsbD 0, wdCycles := 0 }
  else if n < 0x38 then { c with ranges := { c.ranges with vmb := c.ranges.vmb.setIfInBounds (n - 0x30) v } }
  else if n < 0x40 then { c with ranges := { c.ranges with vmi := c.ranges.vmi.setIfInBounds (n - 0x38) v } }
  else { c with copies := lmod c.copies (n - 0x44) (fun p => { p with prog := v }) }

/-- Write a register of the sequencer itself; bits of read-only fields are ignored (20 R406). -/
def setOwnCr (q : SeqSt) (n : Nat) (v : Word) : SeqSt :=
  match n with
  | 0x00 => { q with ae := v.getLsbD 3 }
  | 0x03 => { q with tags := v.truncate 32 &&& ~~~1 }
  | 0x04 => { q with nestStat := v, nestBuf := [] }
  | 0x05 => { q with nestTop := v }
  | 0x10 => { q with trapCause := v }
  | 0x11 => { q with trapPc0 := v }
  | 0x12 => { q with trapPc1 := v }
  | 0x13 => { q with trapPc2 := v }
  | 0x14 => { q with trapAnn := v }
  | 0x15 => { q with trapAddr0 := v }
  | 0x16 => { q with trapAddr1 := v }
  | 0x17 => { q with trapNstat := v }
  | 0x18 => { q with trapNtop := v }
  | 0x1D => { q with csel := v }
  | k => { q with scr := q.scr.setIfInBounds (k - 0x20) v }

/-! ## `mfc` and `mtc` (20 R406) -/

/-- The context that an access via CSEL reaches, or the sequencer's own (20 R405). -/
def crTarget (y : Sys) (r : SeqRef) (q : SeqSt) (k : Nat → Res) : Res :=
  match r.idx with
  | some l => k l
  | none =>
    let l := q.csel.toNat % 256
    if seqsOf r.die ≤ l then .trap (operandCode 0x40)
    else if (y.ctx r.die l).isFree then .trap (operandCode 0x41)
    else k l

def mfcStep (d : BitVec 5) (n : BitVec 8) (r : SeqRef) (y : Sys) : Res :=
  let q := y.seq r
  let i := crInfo n.toNat
  match i.acc r q with
  | .none => .trap { code := cPrivilege }
  | .absent => .trap (operandCode 0x47)
  | _ =>
    if i.csel then crTarget y r q (fun l => done y r (fun q => q.wg d (ctxCr (y.die r.die) (y.ctx r.die l) n.toNat)))
    else done y r (fun q => q.wg d (ownCr (y.die r.die) r q n.toNat))

/-- `mfc` (20 R406). -/
def execMfc (d : BitVec 5) (n : BitVec 8) (s : State) : Host.Outcome State Fault Refusal := runSeq s 4 (mfcStep d n)

/-- The write itself, once every check before it has passed. -/
def mtcWrite (n : BitVec 8) (v : Word) (r : SeqRef) (y : Sys) (q : SeqSt) (i : CrInfo) : Res :=
  let put (l : Nat) : Res :=
    if v.toNat &&& i.rsv != 0 then .trap { code := cReserved }
    else if i.csel then .ok (y.modCtx r.die l (fun c => setCtxCr c n.toNat v)) none
    else if n = 0x04 && v.getLsbD 63 then .trap (operandCode 0)
    else if n = 0x1C then .ok (y.modDie r.die (fun d => { d with stwVec := v })) none
    else done y r (fun q => setOwnCr q n.toNat v)
  if i.csel then crTarget y r q put else put 0

def mtcStep (n : BitVec 8) (a : BitVec 5) (r : SeqRef) (y : Sys) : Res :=
  let q := y.seq r
  let i := crInfo n.toNat
  match i.acc r q with
  | .none => .trap { code := cPrivilege }
  | .rd => .trap { code := cPrivilege }
  | .absent => unpoisoned q [a] (.trap (operandCode 0x47))
  | .rw => unpoisoned q [a] (mtcWrite n (q.rg a) r y q i)

/-- `mtc` (20 R406). -/
def execMtc (n : BitVec 8) (a : BitVec 5) (s : State) : Host.Outcome State Fault Refusal := runSeq s 4 (mtcStep n a)

/-! ## The system instructions (20 R407) -/

/-- `trap` saves the state after its step. -/
def execTrap (n : BitVec 8) (s : State) : Host.Outcome State Fault Refusal :=
  runSeq s 4 (fun _ y => .trapAfter y { code := cTrapInstr, addr1 := n.zeroExtend 64 })

/-- `brk` saves the state after its step. -/
def execBrk (n : BitVec 8) (s : State) : Host.Outcome State Fault Refusal :=
  runSeq s 4 (fun _ y => .trapAfter y { code := cBreakpoint, addr1 := n.zeroExtend 64 })

/-- `yield` raises PREEMPT in task mode when a request is pending, and clears the request. -/
def yieldStep (r : SeqRef) (y : Sys) : Res :=
  let q := y.seq r
  if !q.steward && q.prq then .trapAfter (y.modSeq r (fun q => { q with prq := false })) { code := cPreempt }
  else .ok y none

def execYield (s : State) : Host.Outcome State Fault Refusal := runSeq s 4 yieldStep

/-- `tend`: the sequencer fetches nothing more and the context goes to ENDING (02 R53, 20 R408). -/
def tendStep (r : SeqRef) (y : Sys) : Res :=
  if (y.seq r).steward then .trap (operandCode 0x47)
  else .stop (progress (y.modCtxOf r (fun c => { c with st := .ending, tended := true })) r)

def execTend (s : State) : Host.Outcome State Fault Refusal := runSeq s 4 tendStep

/-- `nop`. -/
def execNop (s : State) : Host.Outcome State Fault Refusal := runSeq s 4 (fun _ y => .ok y none)

/-! ## When a sequencer takes a step -/

/-- A sequencer that can take a step: a steward of an in-service die that has not stopped, or a task sequencer whose context
runs, in either mode, is not stopped by the debugger or held by a breakpoint, and has its argument block (02 R40, 20 R408, 23 R441,
R444). On a die out of service no steward code runs (01 R22), and task code goes on (log entry 72). -/
def seqReady (y : Sys) (r : SeqRef) : Bool :=
  match r.idx with
  | none => (y.die r.die).inSvc && !(y.die r.die).stw.stopped
  | some k =>
    let c := y.ctx r.die k
    (c.st == .run || c.st == .trap) && !c.stopped && c.fresh && !stepHeld y r &&
      ((y.die r.die).inSvc || !(y.seq r).steward)

/-- Rank of an asynchronous cause (20 R396, rank 1). -/
def PendCause.rank : PendCause → Nat
  | .machineCheck _ _ => 0
  | .watchdog => 1
  | .interrupt => 4

def DieCause.rank : DieCause → Nat
  | .machineCheck _ => 0
  | .watchdog _ => 1
  | .copyFault _ _ => 2
  | .leaseSkew _ => 3

/-- The first of the causes of lowest rank. -/
def minRank {α : Type} (rank : α → Nat) : List α → Option α
  | [] => none
  | a :: t =>
    match minRank rank t with
    | none => some a
    | some b => if rank b < rank a then some b else some a

/-- The cause words of an asynchronous cause of a context: TRAP_CAUSE and TRAP_ADDR1 (20 R397, R398). -/
def PendCause.words : PendCause → Word × Word
  | .interrupt => (causeWord cInterrupt true false 0 0, 0)
  | .watchdog => (causeWord cWatchdog true false 0 0, 0)
  | .machineCheck q e => (causeWord cMachineCheck true false 0 q, BitVec.ofNat 64 (e % 2 ^ 32))

/-- The cause words of a cause delivered to the die. -/
def DieCause.words : DieCause → Word × Word
  | .copyFault c k => (causeWord cCopyFault true true c (8 + k), 0)
  | .leaseSkew u => (causeWord cLeaseSkew true true 0xFF 0, BitVec.ofNat 64 u)
  | .watchdog c => (causeWord cWatchdog true true c 0, 0)
  | .machineCheck u => (causeWord cMachineCheck true true 0xFF 0, BitVec.ofNat 64 u)

/-- The pending cause that the next step of a sequencer takes, with the state it leaves (20 R394, R396). -/
def takePending (y : Sys) (r : SeqRef) : Option (Sys × Word × Word) :=
  if !(y.seq r).ae then none
  else match r.idx with
    | none =>
      match minRank DieCause.rank (y.die r.die).pend with
      | none => none
      | some p => some (y.modDie r.die (fun v => { v with pend := v.pend.filter (fun x => x != p) }), p.words)
    | some k =>
      match minRank PendCause.rank (y.ctx r.die k).pend with
      | none => none
      | some p => some (y.modCtx r.die k (fun c => { c with pend := c.pend.filter (fun x => x != p) }), p.words)

/-- An asynchronous cause is taken at the start of a step (20 R393, R394). -/
def asyncEntry (r : SeqRef) (y : Sys) : Sys :=
  if !seqReady y r then y
  else match takePending y r with
    | none => y
    | some (y, cause, addr1) => enterTrap y r cause (y.seq r).pc addr1

/-- ASYNC_TRAP_ENTRY (20 R394). -/
def execAsyncTrapEntry (r : SeqRef) (s : State) : Host.Outcome State Fault Refusal := runEv s (asyncEntry r)

/-- What the next step of a sequencer does. -/
inductive Todo where
  | idle
  | async
  | fetchFault (t : Trap)
  | illegal
  | reserved
  | annulled (len : Nat)
  | run (i : Instr)
deriving DecidableEq, Repr

/-- The function of a `clm` word is in gA[7:0] (20 R414): the word stands for the row that gA selects. -/
def clmPick (q : SeqSt) (i : Instr) : Instr :=
  match i with
  | .clmStart n a =>
    if q.tag a then i
    else match (q.rg a).toNat % 256 with
      | 1 => .clmPreq n a
      | 2 => .clmPclr n a
      | 3 => .clmIntr n a
      | 4 => .clmUnpark n a
      | _ => i
  | i => i

/-- The order of causes at one step (20 R396): pending causes, fetch causes, annulment, encoding causes, the instruction. The
state is the one after the fetch. -/
def nextTodo (y : Sys) (r : SeqRef) : Sys × Todo :=
  if !seqReady y r then (y, .idle)
  else if (takePending y r).isSome then (y, .async)
  else
    let q := y.seq r
    match fetchInstr y r q.pc with
    | (y, .error t) => (y, .fetchFault t)
    | (y, .ok (w, n)) =>
      if q.an0 then (y, .annulled n)
      else match decodeSeq w with
        | .error .reserved => (y, .reserved)
        | .error _ => (y, .illegal)
        | .ok i => (y, .run (clmPick q i))

/-- FETCH_FAULT (03 R74): raised when the next fetch of the sequencer fails. -/
def fetchFaultStep (r : SeqRef) (y : Sys) : Sys :=
  match nextTodo y r with
  | (y, .fetchFault t) => takeTrap y r (y.seq r).pc t
  | _ => y

def execFetchFault (r : SeqRef) (s : State) : Host.Outcome State Fault Refusal := runEv s (fetchFaultStep r)

/-- ILLEGAL_OP (04 R98): raised when the next word is no instruction. -/
def illegalStep (r : SeqRef) (y : Sys) : Sys :=
  match nextTodo y r with
  | (y, .illegal) => takeTrap y r (y.seq r).pc { code := cIllegalOp }
  | _ => y

def execIllegalOp (r : SeqRef) (s : State) : Host.Outcome State Fault Refusal := runEv s (illegalStep r)

/-- RESERVED_FIELD of an encoding (00 R2, 03 R65). -/
def reservedStep (r : SeqRef) (y : Sys) : Sys :=
  match nextTodo y r with
  | (y, .reserved) => takeTrap y r (y.seq r).pc { code := cReserved }
  | _ => y

/-- An annulled instruction only passes (05 R124). -/
def annulledStep (r : SeqRef) (y : Sys) : Sys :=
  match nextTodo y r with
  | (y, .annulled n) => y.modSeq r (fun q => q.advance n none)
  | _ => y

/-- UNCORRECTABLE_ERROR in a context's control state quiesces it with SUB 3; in a steward's own state it is a double fault
(20 R404). -/
def controlStateError (r : SeqRef) (y : Sys) : Sys :=
  match r.idx with
  | none => if seqReady y r then stewardDoubleFault y r.die else y
  | some k => quiesce y r.die k cMachineCheck 3

end Sys2Proof.Machine
end

