-- ==== Sys2Proof/Machine/Steward.lean ====
section
/-! DEFINITION. The steward instructions: semaphore maps, save and restore, claim control, copy resumption, quiescence, and
events (20 R408 to R418). -/

namespace Sys2Proof.Machine

/-! ## Context operands (20 R408, R409) -/

/-- The context that a context operand names, or code 0x40. -/
def ctxOperand (y : Sys) (r : SeqRef) (n : Nat) : Option Nat :=
  match r.idx with
  | some l => if n = 0xFF then some l else none
  | none =>
    if n = 0xFE then
      let l := (y.seq r).csel.toNat % 256
      if l < seqsOf r.die then some l else none
    else if n < 36 && n < seqsOf r.die then some n
    else none

/-- Go on with the context that an operand names, when its state is one that the instruction accepts: codes 0x40 (also for a
reserved bit of gA) and 0x41. -/
def withCtx (y : Sys) (r : SeqRef) (n : Nat) (resv : Bool) (ok : Ctx → Bool) (k : Nat → Ctx → Res) : Res :=
  match ctxOperand y r n with
  | none => .trap (operandCode 0x40)
  | some l =>
    let c := y.ctx r.die l
    if resv then .trap (operandCode 0x40) else if !ok c then .trap (operandCode 0x41) else k l c

/-- The context is in one of these states. -/
def inPhase (l : List CtxPhase) (c : Ctx) : Bool := l.contains c.st

/-- A steward instruction with a context operand: steward mode, then the poison of gA. -/
def stewardStep (a : BitVec 5) (r : SeqRef) (y : Sys) (k : SeqSt → Word → Res) : Res :=
  let q := y.seq r
  stewardOnly q (unpoisoned q [a] (k q (q.rg a)))

/-! ## Semaphore maps (20 R410, R411) -/

/-- The common fields of an engine command. -/
def cmdCommon : Instr → Option Common
  | .mxLdb _ _ _ c | .mxSpm _ c | .mxRun _ _ _ _ _ c | .mxDrn _ _ _ c | .mxDrnx _ _ c | .mxFill _ _ c | .mxClr _ _ c
  | .mxDead _ _ c | .mxChn _ _ c | .mxByp _ c | .mxSpl _ c | .mxFrm c => some c
  | .cpBlk _ _ c | .cpWalk _ _ _ _ c | .cpFill _ _ c | .cpTrn _ _ c | .cpGat _ _ c | .cpSca _ _ c | .cpRed _ _ _ c
  | .cpAmo _ _ c | .cpAmor _ _ c | .cpSig _ _ _ c | .cpSigw _ _ c | .cpSigr _ _ c | .cpRw _ _ _ _ c | .cpLand _ _ c
  | .cpLrev _ _ c => some c
  | .xbBind _ c | .xbFree _ c | .xbProg _ _ c | .xbFeed _ _ _ _ _ c | .xbTake _ _ _ _ c | .xbSeed _ _ _ c => some c
  | _ => none

def isLand : Instr → Bool
  | .cpLand _ _ _ => true
  | _ => false

/-- A bit field of a copy record. -/
def rfld (x : BitVec 512) (lo n : Nat) : Nat := bitsOf x.toNat lo n

/-- The virtual semaphores that an entry names: its wait, its signal, and a landing's (03 R66 to R68, 12 R291). -/
def Entry.names (e : Entry) (n : Nat) : Bool :=
  (match cmdCommon e.cmd with
   | none => false
   | some c => (c.wth != 0 && c.wsem.toNat == n) || (c.sinc != 0 && c.ssem.toNat == n)) ||
    (isLand e.cmd && e.recs.any (fun x => rfld x 384 8 == n))

/-- An issued, unretired entry or a stalled `sem.wait` of the context names virtual number `n` (code 0x44). -/
def semNamed (c : Ctx) (n : Nat) : Bool :=
  c.entries.any (fun qe => qe.2.names n) ||
    (match c.semWait with
     | none => false
     | some (ps, _) => c.semMap[n]? == some ps)

/-- Bits of gA that `smap` reserves. -/
def smapResv (v : Nat) : Bool := bitsOf v 8 8 != 0 || bitsOf v 29 3 != 0 || v / 2 ^ 34 != 0

/-- The mapping itself: OVF is cleared, and the count when ZERO is set or when another function mapped the semaphore last (17 R365), in one
modification. A semaphore that no context maps begins without a release (23 R447). -/
def smapWrite (y : Sys) (d l n ps : Nat) (zero : Bool) : Sys :=
  let f := (y.ctx d l).fn
  let other := (((y.die d).sem ps).fn.map (fun g => g != f)).getD false
  let c := y.ctx d l
  let held := (y.die d).ctxs.any (fun x => x.2.semMap.contains ps)
  let y := y.modDie d (fun v => v.setSem ps
    { v.sem ps with ovf := false, count := if zero || other then 0 else (v.sem ps).count, fn := some f
                    rel := if zero || other then some (0, 14, 0) else if held then (v.sem ps).rel else none
                    tag := if held then (v.sem ps).tag else (c.ctag, n) })
  let y := if held then noteSem y d c.part ps 0 14 0 false else y
  y.modCtx d l (fun c => { c with semMap := if n = c.semMap.length then c.semMap ++ [ps] else c.semMap.set n ps })

def smapStep (n : BitVec 8) (a : BitVec 5) (r : SeqRef) (y : Sys) : Res :=
  stewardStep a r y (fun _ g =>
    let v := g.toNat
    withCtx y r (v % 256) (smapResv v) (inPhase [.ready, .trap, .parked]) (fun l c =>
      let n := n.toNat
      let ps := bitsOf v 16 13
      let unmap := bitOf v 32
      let (lo, len) := (y.part c.part).semRange r.die
      let other := (List.range c.semMap.length).any (fun m => m != n && c.semMap[m]? == some ps)
      if !unmap && (ps < lo || lo + len ≤ ps || other) then .trap (operandCode 0x42)
      else if unmap && !(n + 1 = c.semMap.length && 1 ≤ n) then .trap (operandCode 0x43)
      else if !unmap && c.semMap.length < n then .trap (operandCode 0x43)
      else if semNamed c n then .trap (operandCode 0x44)
      else if unmap then .ok (y.modCtx r.die l (fun c => { c with semMap := c.semMap.take n })) none
      else .ok (smapWrite y r.die l n ps (bitOf v 33)) none))

/-- `smap` (20 R410). -/
def execSmap (n : BitVec 8) (a : BitVec 5) (s : State) : Host.Outcome State Fault Refusal := runSeq s 4 (smapStep n a)

/-- The value of `smget` for virtual number `n` (20 R411). -/
def smgetValue (v : Die) (c : Ctx) (n : Nat) : Word :=
  match c.semMap[n]? with
  | none => 0
  | some ps => BitVec.ofNat 64 (2 ^ 63 + ps * 2 ^ 48 + (v.sem ps).ovf.toNat * 2 ^ 16 + (v.sem ps).count)

def smgetStep (d : BitVec 5) (n : BitVec 8) (a : BitVec 5) (r : SeqRef) (y : Sys) : Res :=
  stewardStep a r y (fun _ g =>
    withCtx y r (g.toNat % 256) (g.toNat / 256 != 0) (fun c => !c.isFree) (fun _ c =>
      done y r (fun q => q.wg d (smgetValue (y.die r.die) c n.toNat))))

/-- `smget` (20 R411). -/
def execSmget (d : BitVec 5) (n : BitVec 8) (a : BitVec 5) (s : State) : Host.Outcome State Fault Refusal :=
  runSeq s 4 (smgetStep d n a)

/-! ## Save and restore (20 R412, R413, 21 R424) -/

def slotBytes : Nat := 0x5000000

/-- BASE and NSLOT of PSAVE. -/
def Part.slotBase (p : Part) : Nat := bitsOf p.psave.toNat 26 22 * 2 ^ 26
def Part.nslot (p : Part) : Nat := bitsOf p.psave.toNat 48 16

/-- The slot whose save area begins at `a`. -/
def Part.slotAt (p : Part) (a : Nat) : Option Nat :=
  if p.slotBase ≤ a && (a - p.slotBase) % slotBytes == 0 && (a - p.slotBase) / slotBytes < p.nslot then
    some ((a - p.slotBase) / slotBytes)
  else none

/-- A save area that code 0x48 refuses by its form. -/
def areaBad (p : Part) (a : Nat) : Bool := a % 4096 != 0 || 2 ^ 48 ≤ a || p.nvd ≤ a / 2 ^ 44

def Part.slot (p : Part) (k : Nat) : Slot := mgetD p.slots k {}
def Part.modSlot (p : Part) (k : Nat) (f : Slot → Slot) : Part := { p with slots := mset p.slots k (f (p.slot k)) }

/-- `csave`: the context goes to SAVING and the slot with it. A `self` save takes STW_SCR7 for the register named as gA, and
never returns. -/
def csaveStep (n : BitVec 8) (a : BitVec 5) (r : SeqRef) (y : Sys) : Res :=
  stewardStep a r y (fun q g =>
    withCtx y r n.toNat false (inPhase [if r.idx.isSome then .trap else .parked]) (fun l c =>
      let p := y.part c.part
      match (if areaBad p g.toNat then none else p.slotAt g.toNat) with
      | none => .trap (operandCode 0x48)
      | some sl =>
        if (p.slot sl).st != .free then .trap (operandCode 0x48)
        else
          let y := y.modPart c.part (fun p => { p with slots := mset p.slots sl { st := .saving, fn := c.fn } })
          let y := y.modCtx r.die l (fun c => { c with st := .saving, area := g, saveSlot := some sl })
          if r.idx.isSome then .stop (y.modSeq r (fun q' => q'.wg a (vgetD q.scr 7 0))) else .ok y none))

def execCsave (n : BitVec 8) (a : BitVec 5) (s : State) : Host.Outcome State Fault Refusal := runSeq s 4 (csaveStep n a)

/-- A slot is the one that a context was granted for: it holds the context's instance, or nothing since a RESTORED with SUB 0 (21 R424). -/
def slotIsFor (c : Ctx) (t : Slot) : Bool := t.st == .free || slotHolds c t

/-- `crest` moves the granted slot to RESTORING. A slot that an earlier RESTORED has freed owns the slices where they are (log entry 91). -/
def restoringSlot (d sl : Nat) (c : Ctx) (y : Sys) : Sys :=
  let again := ((y.part c.part).slot sl).st == .free
  let own := c.blocks.mapIdx (fun k b => (k, d, b))
  let y := y.modPart c.part (fun p => p.modSlot sl (fun t =>
    { t with st := .restoring, fn := c.fn, node := c.node, inst := c.inst.toNat, owned := if again then own else t.owned }))
  if again then
    y.modDie d (fun v => own.foldl (fun v o => { v with slices := mset v.slices o.2.2 { v.slice o.2.2 with owner := some (c.part, sl, o.1) } }) v)
  else y

/-- `crest`: the context goes to RESTORING, and the granted slot with it; the checks of the image follow (20 R413). START needs a RESTORED
with SUB 0 for this `crest` (20 R414). -/
def crestStep (n : BitVec 8) (a : BitVec 5) (r : SeqRef) (y : Sys) : Res :=
  stewardStep a r y (fun _ g =>
    withCtx y r n.toNat false (inPhase [.ready]) (fun l c =>
      let p := y.part c.part
      if areaBad p g.toNat then .trap (operandCode 0x48)
      else
        let sl := c.slot.getD 0
        let y := if c.slot.isSome && p.slotAt g.toNat == c.slot && slotIsFor c (p.slot sl) then restoringSlot r.die sl c y else y
        .ok (y.modCtx r.die l (fun c => { c with st := .restoring, area := g, restored := false })) none))

def execCrest (n : BitVec 8) (a : BitVec 5) (s : State) : Host.Outcome State Fault Refusal := runSeq s 4 (crestStep n a)

/-! ## Claim control (20 R414) -/

/-- A bit field of a launch record (02 R33). -/
def lfld (x : BitVec 1024) (lo n : Nat) : Nat := bitsOf x.toNat lo n

def recArg (x : BitVec 1024) : Word := BitVec.ofNat 64 (lfld x 128 64)
def recEntry (x : BitVec 1024) : Word := BitVec.ofNat 64 (lfld x 64 64)
def recArglen (x : BitVec 1024) : Nat := lfld x 52 4

/-- The register state of a task or piece at its first fetch (02 R49, 05 R103, R123, 20 R399, 03 R76). NEST_STAT is
cleared (log entry 104); the trap registers, the scratch registers and NEST_TOP keep their values within a function (log entry 25). -/
def SeqSt.start (q : SeqSt) (c : Ctx) (entry : Word) : SeqSt :=
  let g0 : Vector Word 32 := Vector.replicate 32 0
  { q with
    g := ((((g0.set 1 (recArg c.record)).set 2 (c.inst.zeroExtend 64)).set 3 (c.count.zeroExtend 64)).set 4
      (BitVec.ofNat 64 c.wsz)).set 5 (BitVec.ofNat 64 c.piece)
    tags := 0
    walks := Vector.replicate 8 {}
    pc := entry
    npc := none
    nnpc := none
    an0 := false
    an1 := false
    steward := false
    ae := true
    prq := false
    nestStat := 0
    nestBuf := []
    icache := []
    fetch := c.ranges }

/-- The START record of the debug log (23 R446). -/
def logStart (y : Sys) (d l : Nat) : Sys :=
  let c := y.ctx d l
  debugLog y d c.part 1 15 c.ctag 0
    (BitVec.ofNat 64 (lfld c.record 0 32 + lfld c.record 32 16 * 2 ^ 32 + c.piece * 2 ^ 48))
    (BitVec.ofNat 64 (c.inst.toNat + c.shape * 2 ^ 32))

/-- START of a fresh claim: the argument block is staged, and the first fetch waits for it. -/
def startFresh (y : Sys) (d l : Nat) : Sys :=
  let y := y.modSeq ⟨d, some l⟩ (fun q => q.start (y.ctx d l) (recEntry (y.ctx d l).record))
  y.modCtx d l (fun c => { c with st := .run, fresh := false, wdCycles := 0 })

/-- START of a restored context: it resumes as `tret` does, with an empty instruction cache (21 R431). -/
def startRestored (y : Sys) (d l : Nat) : Sys :=
  let r : SeqRef := ⟨d, some l⟩
  let bad := tretBad (y.seq r)
  let y := y.modSeq r (fun q => { q.tret true (y.ctx d l).ranges with icache := [], prq := false })
  let y := logStart (y.modCtx d l (fun c => syncPhase (y.seq r).steward { c with st := .run })) d l
  if bad then takeTrap y r (y.seq r).pc (operandCode 0) else refill y r

/-- An instance may still start: no instance of its node has failed, and its gang has not faulted (14 R330, R331); an instance that is
resumed has started already. -/
def mayStart (y : Sys) (c : Ctx) : Bool := c.slot.isSome || ((mget? y.hub.nodes c.node).map (fun n => n.failed.isNone)).getD true

/-- What START needs beyond the state READY. -/
def startReady (y : Sys) (c : Ctx) : Bool :=
  c.st == .ready && c.needSems ≤ c.semMap.length && (c.slot.isNone || c.restored) && mayStart y c

/-- A function of `clm`: codes 0x40, then 0x41 for the states the function accepts, and 0x45 for a function that is not this one. -/
def clmStep (f : Nat) (ok : Sys → Ctx → Bool) (eff : Sys → Nat → Nat → Sys) (n : BitVec 8) (a : BitVec 5) (r : SeqRef) (y : Sys) :
    Res :=
  stewardStep a r y (fun _ g =>
    let fn := g.toNat % 256
    withCtx y r n.toNat (g.toNat / 256 != 0) (fun c => fn != f || ok y c) (fun l _ =>
      if fn != f then .trap (operandCode 0x45) else .ok (eff y r.die l) none))

/-- `clm START`. -/
def execClmStart (n : BitVec 8) (a : BitVec 5) (s : State) : Host.Outcome State Fault Refusal :=
  runSeq s 4 (clmStep 0 startReady
    (fun y d l => if (y.ctx d l).slot.isSome then startRestored y d l else startFresh y d l) n a)

/-- The states that a running context is in for `clm`. -/
def clmRuns (_ : Sys) (c : Ctx) : Bool := inPhase [.run, .trap, .parked] c

/-- `clm PREQ`. -/
def execClmPreq (n : BitVec 8) (a : BitVec 5) (s : State) : Host.Outcome State Fault Refusal :=
  runSeq s 4 (clmStep 1 clmRuns (fun y d l => y.modSeq ⟨d, some l⟩ (fun q => { q with prq := true })) n a)

/-- `clm PCLR`. -/
def execClmPclr (n : BitVec 8) (a : BitVec 5) (s : State) : Host.Outcome State Fault Refusal :=
  runSeq s 4 (clmStep 2 clmRuns (fun y d l => y.modSeq ⟨d, some l⟩ (fun q => { q with prq := false })) n a)

/-- A cause becomes pending on a context, merging with the same source (20 R394). -/
def addPend (y : Sys) (d l : Nat) (p : PendCause) : Sys :=
  y.modCtx d l (fun c => if c.pend.contains p then c else { c with pend := c.pend ++ [p] })

/-- `clm INTR`. -/
def execClmIntr (n : BitVec 8) (a : BitVec 5) (s : State) : Host.Outcome State Fault Refusal :=
  runSeq s 4 (clmStep 3 clmRuns (fun y d l => addPend y d l .interrupt) n a)

/-- `clm UNPARK`. -/
def execClmUnpark (n : BitVec 8) (a : BitVec 5) (s : State) : Host.Outcome State Fault Refusal :=
  runSeq s 4 (clmStep 4 (fun _ => inPhase [.parked]) (fun y d l => y.modCtx d l (fun c => { c with st := .trap })) n a)

/-! ## Quiescence (20 R416) -/

def qscStep (n : BitVec 8) (a : BitVec 5) (r : SeqRef) (y : Sys) : Res :=
  stewardStep a r y (fun _ g =>
    withCtx y r n.toNat (g.toNat / 64 != 0) (fun c => !c.isFree) (fun l _ =>
      let y := quiesce y r.die l (g.toNat % 64) 0
      if r.idx.isSome then .stop y else .ok y none))

/-- `qsc` (20 R416). -/
def execQsc (n : BitVec 8) (a : BitVec 5) (s : State) : Host.Outcome State Fault Refusal := runSeq s 4 (qscStep n a)

/-! ## Events and waiting (20 R417) -/

def ewaitStep (d : BitVec 5) (t : Bool) (r : SeqRef) (y : Sys) : Res :=
  stewardOnly (y.seq r)
    (if r.idx.isSome then .trap (operandCode 0x47)
     else match (y.die r.die).events with
       | e :: rest => done (y.modDie r.die (fun v => { v with events := rest })) r (fun q => q.wg d e)
       | [] => if t then done y r (fun q => q.wg d 0) else .stall y)

/-- `ewait` (20 R417). -/
def execEwait (d : BitVec 5) (t : Bool) (s : State) : Host.Outcome State Fault Refusal := runSeq s 4 (ewaitStep d t)

/-- `halt`: a task sequencer parks its context; a steward sequencer waits for an event. -/
def haltStep (r : SeqRef) (y : Sys) : Res :=
  stewardOnly (y.seq r)
    (match r.idx with
     | some l => .ok (postEvent (y.modCtx r.die l (fun c => { c with st := .parked })) r.die 4 l 0 0 0) none
     | none => if (y.die r.die).events.isEmpty then .stall y else .ok y none)

def execHalt (s : State) : Host.Outcome State Fault Refusal := runSeq s 4 haltStep

/-- HELD_EVENT_POST: an event that waited for space is posted (20 R417). -/
def execHeldEventPost (die : Nat) (s : State) : Host.Outcome State Fault Refusal :=
  runEv s (fun y => y.modDie die (fun v => v.unhold))

end Sys2Proof.Machine
end

