-- ==== Sys2Proof/Machine/Sync.lean ====
section
/-! DEFINITION. Semaphore, timeline and fence instructions of the sequencer (12 R302 to R306). Order between agents is
sequentially consistent in this model, so a scope changes nothing here (log entry 5). -/

namespace Sys2Proof.Machine

/-- The queue code that a sequencer's own waits and releases are logged under (23 R446). -/
def seqQue : Nat := 15

/-! ## Semaphores -/

/-- SEM_RANGE for the virtual number `n` (03 R68, 20 R397). -/
def semRangeTrap (n : Nat) : Trap := { code := cSemRange, addr1 := BitVec.ofNat 64 n }

/-- Go on with the physical semaphore that virtual number `n` names; a steward sequencer has no map (log entry 32). -/
def withSem (y : Sys) (r : SeqRef) (n : BitVec 8) (k : Nat → Res) : Res :=
  match (y.ctxOf r).semMap[n.toNat]? with
  | none => .trap (semRangeTrap n.toNat)
  | some ps => k ps

/-- A threshold or increment above 65,535 is OPERAND_RECORD 0x30 (12 R304). -/
def smallAmount (t : Word) (k : Nat → Res) : Res := if 65535 < t.toNat then .trap (operandCode 0x30) else k t.toNat

/-- Change a physical semaphore of a sequencer's die. -/
def Sys.modSem (y : Sys) (d ps : Nat) (f : Sem → Sem) : Sys := y.modDie d (fun v => v.setSem ps (f (v.sem ps)))

/-- `sem.wait`: take the threshold when it is met, else begin waiting; a stalled wait has had no other effect. -/
def semWaitStep (n : BitVec 8) (a : BitVec 5) (r : SeqRef) (y : Sys) : Res :=
  let q := y.seq r
  let lead := r.idx.getD 0
  let c := y.ctxOf r
  unpoisoned q [a]
    (withSem y r n (fun ps => smallAmount (q.rg a) (fun t =>
      if t = 0 || ((y.die r.die).sem ps).met lead seqQue 0 t then
        let y := y.modSem r.die ps (fun m => m.take lead seqQue 0 t)
        let y := logWait y r.die c.part ps n.toNat t c.semCyc c.ctag seqQue 0
        .ok (y.modCtxOf r (fun c => { c with semWait := none, semCyc := 0 })) none
      else
        let y := if c.semWait.isNone then noteSem y r.die c.part ps c.ctag seqQue 0 true else y
        .stall ((y.modSem r.die ps (fun m => m.wait lead seqQue 0 t)).modCtxOf r (fun c => { c with semWait := some (ps, t) })))))

def execSemWait (n : BitVec 8) (a : BitVec 5) (s : State) : Host.Outcome State Fault Refusal := runSeq s 4 (semWaitStep n a)

/-- `sem.sig`: a release applied before the next instruction (12 R304). -/
def semSigStep (n : BitVec 8) (a : BitVec 5) (r : SeqRef) (y : Sys) : Res :=
  let q := y.seq r
  let c := y.ctxOf r
  unpoisoned q [a]
    (withSem y r n (fun ps => smallAmount (q.rg a) (fun t => .ok (semSignal y r.die c.part ps t c.ctag seqQue 0) none)))

def execSemSig (n : BitVec 8) (a : BitVec 5) (_ : BitVec 2) (s : State) : Host.Outcome State Fault Refusal :=
  runSeq s 4 (semSigStep n a)

/-- OVF in bit 16 and the count below it. -/
def semValue (m : Sem) : Word := BitVec.ofNat 64 (m.ovf.toNat * 2 ^ 16 + m.count)

/-- `sem.get` (12 R304). -/
def execSemGet (d : BitVec 5) (n : BitVec 8) (s : State) : Host.Outcome State Fault Refusal :=
  runSeq s 4 (fun r y => withSem y r n (fun ps => done y r (fun q => q.wg d (semValue ((y.die r.die).sem ps)))))

/-- `sem.try`: every waiter that began earlier and is met is served first (12 R303, R304). -/
def semTryStep (d : BitVec 5) (n : BitVec 8) (a : BitVec 5) (r : SeqRef) (y : Sys) : Res :=
  let q := y.seq r
  let c := y.ctxOf r
  unpoisoned q [a]
    (withSem y r n (fun ps => smallAmount (q.rg a) (fun t =>
      let m := (y.die r.die).sem ps
      if t = 0 || t ≤ availAfter m.waiters m.count then
        let y := y.modSem r.die ps (fun m => { m with count := m.count - t })
        done (logWait y r.die c.part ps n.toNat t 0 c.ctag seqQue 0) r (fun q => q.wg d 1)
      else done y r (fun q => q.wg d 0))))

def execSemTry (d : BitVec 5) (n : BitVec 8) (a : BitVec 5) (s : State) : Host.Outcome State Fault Refusal :=
  runSeq s 4 (semTryStep d n a)

/-! ## Timelines -/

/-- Go on with a queue that the context holds; another is OPERAND_RECORD 0x32 (12 R305). -/
def withQueue (y : Sys) (r : SeqRef) (n : BitVec 8) (k : EQueue → Res) : Res :=
  if r.idx.isSome && (y.ctxOf r).queueCodes.contains n.toNat then k ((y.ctxOf r).queue n.toNat)
  else .trap (operandCode 0x32)

/-- A threshold above ISS can never be met: OPERAND_RECORD 0x31 (12 R305). -/
def issued (e : EQueue) (t : Word) (k : Res) : Res := if e.iss < t.toNat then .trap (operandCode 0x31) else k

/-- `tl.wait` (12 R305). -/
def execTlWait (n : BitVec 8) (a : BitVec 5) (s : State) : Host.Outcome State Fault Refusal :=
  runSeq s 4 (fun r y =>
    let q := y.seq r
    unpoisoned q [a] (withQueue y r n (fun e => issued e (q.rg a) (if (q.rg a).toNat ≤ e.ret then .ok y none else .stall y))))

/-- `tl.get` (12 R305). -/
def execTlGet (d : BitVec 5) (n : BitVec 8) (s : State) : Host.Outcome State Fault Refusal :=
  runSeq s 4 (fun r y => withQueue y r n (fun e => done y r (fun q => q.wg d (BitVec.ofNat 64 e.ret))))

/-- `tl.try` (12 R305). -/
def execTlTry (d : BitVec 5) (n : BitVec 8) (a : BitVec 5) (s : State) : Host.Outcome State Fault Refusal :=
  runSeq s 4 (fun r y =>
    let q := y.seq r
    unpoisoned q [a] (withQueue y r n (fun e => issued e (q.rg a)
      (done y r (fun q => q.wg d (if (q.rg a).toNat ≤ e.ret then 1 else 0))))))

/-! ## Fences -/

/-- A fence waits until every issued entry has retired; its writes are complete then (12 R295, R306). -/
def fenceStep (r : SeqRef) (y : Sys) : Res := if (y.ctxOf r).entries.isEmpty then .ok y none else .stall y

/-- `fence.f` (12 R306). -/
def execFenceF (s : State) : Host.Outcome State Fault Refusal := runSeq s 4 fenceStep

/-- `fence.d` (12 R306). -/
def execFenceD (s : State) : Host.Outcome State Fault Refusal := runSeq s 4 fenceStep

/-- `fence.p` (12 R306). -/
def execFenceP (s : State) : Host.Outcome State Fault Refusal := runSeq s 4 fenceStep

/-- `fence.s` (12 R306). -/
def execFenceS (s : State) : Host.Outcome State Fault Refusal := runSeq s 4 fenceStep

end Sys2Proof.Machine
end

