-- ==== Sys2Proof/Machine/Issue.lean ====
section
/-! DEFINITION. What the engine commands share at issue: the semaphores (03 R66 to R68), the repetitions (03 R69), the records read
at issue (09 R180), the interlocks (09 R184, 10 R220, 11 R252), and the new queue entry (02 R51). -/

namespace Sys2Proof.Machine

/-- A check at issue: a value, a cause, or a stall that has had no effect. -/
abbrev Iss (α : Type) := Except (Option Trap) α

def stalls {α : Type} : Iss α := .error none
def fails {α : Type} (t : Trap) : Iss α := .error (some t)

/-- OPERAND_RECORD with a check code and a repetition (09 R180). -/
def codeIf (bad : Bool) (code rep : Nat) : Iss Unit := if bad then fails (operandRep code rep) else .ok ()

def trapIf (bad : Bool) (t : Trap) : Iss Unit := if bad then fails t else .ok ()

/-- What a command that passes its checks will do: its entry, the change of the issue-order state (09 R182), and the offset of the
first uncorrectable bytes that it read at issue. -/
structure Plan where
  e : Entry
  st : Ctx → Ctx := id
  bad : Option Nat := none

/-- One check after another, repetition by repetition. -/
def eachRep {α : Type} (f : Nat → Iss α) : Nat → Nat → Iss (List α)
  | 0, _ => .ok []
  | n + 1, i =>
    match f i with
    | .error e => .error e
    | .ok v =>
      match eachRep f n (i + 1) with
      | .error e => .error e
      | .ok vs => .ok (v :: vs)

/-- Repetitions of a command. -/
def repsOf (c : Common) : Nat := c.rep.toNat + 1

/-- The step selector. -/
def selOf (c : Common) : Nat := c.step.toNat

/-- The address of a repetition, as an unsigned number, or code 0x02: the condition of 03 R69 is the whole command's, so that it
holds at repetition 0 already (log entry 34). -/
def repAddr (w : Walk) (c : Common) (i : Nat) : Iss Nat :=
  if stepShort w (selOf c) c.rep.toNat then fails (operandRep 0x02 i) else .ok (stepAddr w (selOf c) i).toNat

/-- The semaphores in use are mapped, the wait's checked first (03 R68). -/
def semCheck (ctx : Ctx) (c : Common) : Iss Unit :=
  if c.wth != 0 && ctx.semMap.length ≤ c.wsem.toNat then fails (semRangeTrap c.wsem.toNat)
  else if c.sinc != 0 && ctx.semMap.length ≤ c.ssem.toNat then fails (semRangeTrap c.ssem.toNat)
  else .ok ()

/-- The piece of the grove with handle `n`. -/
def Sys.piece? (y : Sys) (d : Nat) (c : Ctx) (n : Nat) : Option Ctx := (c.grove[n]?).map (fun l => y.ctx d l)

/-! ## Interlocks -/

/-- Which unit a command goes to. -/
inductive Unit3 where
  | matrix
  | strip
  | copy
deriving DecidableEq, Repr

/-- The entries of a strip queue after its last `xb.prog`: the open stream entries (10 R216). -/
def openAfter : List Entry → List Entry → List Entry
  | [], acc => acc
  | e :: t, acc => openAfter t (if isProg e.cmd then [] else if isStream e.cmd then acc ++ [e] else acc)

def EQueue.openEntries (q : EQueue) : List Entry := openAfter q.ents []

/-- Entry `e` of queue `qc` is open. -/
def Ctx.isOpen (c : Ctx) (qc : Nat) (e : Entry) : Bool :=
  1 ≤ qc && qc ≤ 6 && (c.queue qc).openEntries.any (fun x => x.num == e.num)

/-- The entries a command of a unit waits for when their ranges conflict: a matrix command for strip and copy entries, a strip
command for all but open group entries, a copy command for all. -/
def Ctx.heeds (c : Ctx) (u : Unit3) (qc : Nat) (e : Entry) : Bool :=
  match u with
  | .matrix => qc != 0
  | .strip => !c.isOpen qc e
  | .copy => true

def Ctx.stallsOn (c : Ctx) (u : Unit3) (rd wr : List Span) : Bool :=
  c.entries.any (fun qe => c.heeds u qe.1 qe.2 && (spansMeet rd qe.2.wr || spansMeet wr (qe.2.rd ++ qe.2.wr)))

/-- Bytes read at issue, with their offset when some are uncorrectable: entries that write them stall the command, in a strip
command's case all but those of an open group (09 R184, 10 R220). The MACHINE_CHECK is the last of the command's causes (20 R396). -/
def readAtIssue (u : Unit3) (y : Sys) (r : SeqRef) (off n : Nat) : Iss (List Byte × Option Nat) :=
  if (y.ctxOf r).stallsOn (if u = .strip then .strip else .copy) [⟨off, off + n⟩] [] then stalls
  else
    let bs := y.seqRead r off n
    .ok (bs.map (·.1), if bs.any (·.2) then some off else none)

/-- The first of several offsets with uncorrectable bytes. -/
def firstBad (l : List (Option Nat)) : Option Nat := l.findSome? id

/-- MACHINE_CHECK for the bytes at an offset. -/
def checkTrap (off : Nat) : Trap := { code := cMachineCheck, addr1 := BitVec.ofNat 64 off }

def badCheck : Option Nat → Iss Unit
  | some off => fails (checkTrap off)
  | none => .ok ()

/-- Scoreboard entries of a context (11 R251). -/
def Ctx.scbUsed (c : Ctx) : Nat := (c.entries.filter (fun qe => qe.2.scb)).length

/-! ## The entry -/

/-- Entries a queue holds (02 R51). -/
def queueCap (qc : Nat) : Nat := if 8 ≤ qc then 32 else 16

/-- The entry with its number, command, the layout of its fragment, and the physical semaphores of its fields (20 R410). -/
def Entry.fill (e : Entry) (ctx : Ctx) (n : Nat) (i : Instr) (c : Common) : Entry :=
  { e with
    num := n
    cmd := i
    geo := some (ctx.shape, ctx.lead, ctx.h, ctx.w)
    wait := if c.wth = 0 then none else (ctx.semMap[c.wsem.toNat]?).map (fun ps => (ps, c.wth.toNat))
    wvirt := c.wsem.toNat
    signal := if c.sinc = 0 then none else (ctx.semMap[c.ssem.toNat]?).map (fun ps => (ps, c.sinc.toNat, c.scope.toNat)) }

/-- The entry joins its queue, and the issue-order state changes. -/
def enqueue (ctx : Ctx) (qc : Nat) (i : Instr) (c : Common) (p : Plan) : Ctx :=
  let q := ctx.queue qc
  p.st (ctx.setQueue qc { q with iss := q.iss + 1, ents := q.ents ++ [p.e.fill ctx (q.iss + 1) i c] })

/-- The end of the issue of a command whose checks gave `plan`: the MACHINE_CHECK of what it read, stalls for interlocks, the
scoreboard and a full queue, then the entry. -/
def issueEnd (i : Instr) (c : Common) (u : Unit3) (qc : Nat) (plan : Iss Plan) (r : SeqRef) (y : Sys) : Res :=
  let ctx := y.ctxOf r
  match plan with
  | .error none => .stall y
  | .error (some t) => .trap t
  | .ok p =>
    if p.bad.isSome then .trap (checkTrap (p.bad.getD 0))
    else if ctx.stallsOn u p.e.rd p.e.wr || (p.e.scb && 32 ≤ ctx.scbUsed) || queueCap qc ≤ (ctx.queue qc).ents.length then .stall y
    else .ok (y.modCtxOf r (fun ctx => enqueue ctx qc i c p)) none

/-- The issue of a command: its semaphores, then its own checks. -/
def issueStep (i : Instr) (c : Common) (u : Unit3) (qc : Nat) (plan : SeqRef → Sys → Iss Plan) (r : SeqRef) (y : Sys) : Res :=
  issueEnd i c u qc (match semCheck (y.ctxOf r) c with
    | .error e => .error e
    | .ok _ => plan r y) r y

/-- The 64-bit commands of a sequencer. -/
def runIssue (s : State) (i : Instr) (c : Common) (u : Unit3) (qc : Nat) (plan : SeqRef → Sys → Iss Plan) :
    Host.Outcome State Fault Refusal := runSeq s 8 (issueStep i c u qc plan)

end Sys2Proof.Machine
end

