-- ==== Sys2Proof/Machine/CopyIssue.lean ====
section
/-! DEFINITION. The copy commands at issue: records, checks, hulls, alignment, weights and entries (12 R274 to R280, R284, R291,
R296, R297). -/

namespace Sys2Proof.Machine

/-! ## The record (12 R276) -/

def rDsp (x : BitVec 512) : Nat := rfld x 0 3
def rSsp (x : BitVec 512) : Nat := rfld x 3 3
def rEsz (x : BitVec 512) : Nat := rfld x 6 2
def rAop (x : BitVec 512) : Nat := rfld x 8 4
def rAty (x : BitVec 512) : Nat := rfld x 12 3
def rDhnd (x : BitVec 512) : Nat := rfld x 64 8
def rShnd (x : BitVec 512) : Nat := rfld x 72 8
def rToken (x : BitVec 512) : Nat := rfld x 96 32
def rDaddr (x : BitVec 512) : Nat := rfld x 128 64
def rSaddr (x : BitVec 512) : Nat := rfld x 192 64
def rDstr (x : BitVec 512) : Int := (BitVec.ofNat 32 (rfld x 256 32)).toInt
def rSstr (x : BitVec 512) : Int := (BitVec.ofNat 32 (rfld x 288 32)).toInt
def rLen (x : BitVec 512) : Nat := rfld x 320 32
def rNrow (x : BitVec 512) : Nat := rfld x 352 32
def rAuxv (x : BitVec 512) : Nat := rfld x 384 64
def rVal (x : BitVec 512) : Nat := rfld x 448 64

/-- The copy commands (12 R274). -/
inductive CpKind where
  | blk
  | walk
  | fill
  | trn
  | gat
  | sca
  | red (ix : Bool)
  | amo
  | amor
  | sig
  | sigw
  | sigr
  | rw (red : Nat)
  | land
  | lrev
deriving DecidableEq, Repr

/-- Which record fields a command uses besides its spaces (12 R277). -/
structure Uses where
  val : Bool := false
  auxv : Bool := false
  nrow : Bool := false
  len : Bool := false
  sstr : Bool := false
  dstr : Bool := false
  saddr : Bool := false
  daddr : Bool := false
  token : Bool := false
  aty : Bool := false
  aop : Bool := false
  esz : Bool := false

/-- NROW, LEN, SSTR, DSTR, SADDR and DADDR. -/
def usesBlk : Uses := { nrow := true, len := true, sstr := true, dstr := true, saddr := true, daddr := true }

/-- NROW, SSTR, DSTR, SADDR, DADDR, AOP and ATY. -/
def usesAtom : Uses :=
  { nrow := true, sstr := true, dstr := true, saddr := true, daddr := true, aop := true, aty := true }

def CpKind.uses : CpKind → Uses
  | .blk => usesBlk
  | .walk => { len := true }
  | .fill => { val := true, nrow := true, len := true, dstr := true, daddr := true }
  | .trn => { usesBlk with esz := true }
  | .gat => { usesBlk with auxv := true }
  | .sca => { usesBlk with auxv := true }
  | .red ix => { usesAtom with auxv := ix }
  | .amo => usesAtom
  | .amor => { usesAtom with auxv := true }
  | .sig => { val := true, daddr := true }
  | .sigw => { val := true, daddr := true }
  | .sigr => { val := true, saddr := true, daddr := true }
  | .rw _ => { usesBlk with token := true }
  | .land => { val := true, auxv := true, len := true, saddr := true, daddr := true }
  | .lrev => { token := true }

/-- Space codes (11 R241). -/
def spWin : Nat := 0
def spPeer : Nat := 1
def spDev : Nat := 2
def spHost : Nat := 3
def spXpk : Nat := 4

/-- Source and destination spaces (12 R277). -/
def CpKind.spaces : CpKind → List Nat × List Nat
  | .blk => ([0, 1, 2, 3], [0, 1, 2, 3])
  | .walk => ([0, 1, 2, 3], [0, 1, 2, 3])
  | .fill => ([0], [0, 1, 2, 3])
  | .trn => ([0, 1, 2, 3], [0, 1, 2, 3])
  | .gat => ([2, 3], [0, 1, 2, 3])
  | .sca => ([0, 1, 2, 3], [2, 3])
  | .red _ => ([0], [2])
  | .amo => ([0], [2])
  | .amor => ([0], [2])
  | .sig => ([0], [2])
  | .sigw => ([0], [2])
  | .sigr => ([0], [2])
  | .rw _ => ([0, 2], [4])
  | .land => ([0], [0])
  | .lrev => ([0], [0])

/-- The weight of an entry (12 R297). -/
def CpKind.weight : CpKind → Nat
  | .blk | .walk | .fill | .trn | .gat | .sca | .rw _ => 3
  | .red _ | .amo | .amor => 2
  | .sig | .sigw | .sigr | .land | .lrev => 1

/-- Unit size by ATY, for the codes 12 R276 assigns; 4 for a reserved one (log entry 118). -/
def unitSize (aty : Nat) : Nat :=
  match aty with
  | 1 => 8
  | 3 => 8
  | 5 => 2
  | _ => 4

/-- The permitted operations (12 R284). -/
def atomicOk (k : CpKind) (aty aop : Nat) : Bool :=
  aty ≤ 5 && aop ≤ 8 && ((4 ≤ aty) == (aop == 8)) &&
    (match k with
     | .red _ => !(aop == 6 || aop == 7)
     | _ => true)

def CpKind.isAtomic : CpKind → Bool
  | .red _ | .amo | .amor => true
  | _ => false

/-- Commands that read an index list. -/
def CpKind.indexed : CpKind → Bool
  | .gat | .sca | .amor => true
  | .red ix => ix
  | _ => false

/-- Commands that move rows of bytes. -/
def CpKind.isMove : CpKind → Bool
  | .blk | .walk | .fill | .trn | .gat | .sca | .rw _ => true
  | _ => false

/-- A reserved field, or a field the command does not use, is not zero (12 R276, R277, R278, R291). -/
def recReserved (k : CpKind) (x : BitVec 512) : Bool :=
  let u := k.uses
  rfld x 15 49 != 0 || rfld x 80 16 != 0 || 4 < rSsp x || 4 < rDsp x ||
    (!u.val && rVal x != 0) || (!u.auxv && rAuxv x != 0) || (!u.nrow && rNrow x != 0) || (!u.len && rLen x != 0) ||
    (!u.sstr && rfld x 288 32 != 0) || (!u.dstr && rfld x 256 32 != 0) || (!u.saddr && rSaddr x != 0) ||
    (!u.daddr && rDaddr x != 0) || (!u.token && rToken x != 0) || (!u.aty && rAty x != 0) || (!u.aop && rAop x != 0) ||
    (!u.esz && rEsz x != 0) || (rSsp x != spPeer && rShnd x != 0) ||
    (rDsp x != spPeer && rDsp x != spXpk && rDhnd x != 0) ||
    (match k with
     | .land => rVal x / 2 ^ 16 != 0 || rAuxv x / 2 ^ 8 != 0
     | _ => false)

/-! ## Hulls (11 R251, 12 R296) -/

/-- A range of exact integers. -/
structure Hull where
  lo : Int
  hi : Int
deriving DecidableEq, Repr

/-- `n` rows of `len` bytes, `stride` apart. -/
def rowHull (base : Nat) (stride : Int) (n len : Nat) : Hull :=
  let far : Int := ((n : Int) - 1) * stride
  ⟨base + min 0 far, base + max 0 far + len⟩

/-- Every address of a walk, each with `len` bytes. -/
def walkHull (w : Walk) (len : Nat) : Hull :=
  let ends := w.dims.foldl (fun (a : Int × Int) d =>
    if d.1 = 0 then a else (a.1 + min 0 (((d.1 : Int) - 1) * d.2), a.2 + max 0 (((d.1 : Int) - 1) * d.2))) (0, 0)
  ⟨w.base.toNat + ends.1, w.base.toNat + ends.2 + len⟩

def elemBytes (x : BitVec 512) : Nat := 2 ^ rEsz x

/-- The hull of the source rows, when the command has some. -/
def srcHull (k : CpKind) (x : BitVec 512) (wb : Walk) : Option Hull :=
  match k with
  | .walk => some (walkHull wb (rLen x))
  | .blk | .trn | .gat | .sca | .rw _ => some (rowHull (rSaddr x) (rSstr x) (rNrow x) (rLen x))
  | _ => none

/-- The hull of the destination rows; a `cp.trn` whose LEN is no multiple of its element has one more column (log entry 118). -/
def dstHull (k : CpKind) (x : BitVec 512) (wa : Walk) : Option Hull :=
  match k with
  | .walk => some (walkHull wa (rLen x))
  | .trn =>
    let e := elemBytes x
    some (rowHull (rDaddr x) (rDstr x) ((rLen x + e - 1) / e) (rNrow x * e))
  | .blk | .fill | .gat | .sca => some (rowHull (rDaddr x) (rDstr x) (rNrow x) (rLen x))
  | _ => none

/-- Bytes of a window slot of an atomic (12 R285). -/
def slotBytesOf (x : BitVec 512) : Nat := if rAop x = 7 then 2 * unitSize (rAty x) else unitSize (rAty x)

/-- The slots of an atomic. -/
def slotHull (x : BitVec 512) : Hull := rowHull (rSaddr x) (rSstr x) (rNrow x) (slotBytesOf x)

def onlyIf (b : Bool) (h : Option Hull) : List Hull := if b then h.toList else []

/-- The window ranges that a repetition reads, and those it writes (12 R296). -/
def winHulls (k : CpKind) (x : BitVec 512) (wa wb : Walk) : List Hull × List Hull :=
  let idx : List Hull := if k.indexed then [⟨rAuxv x, rAuxv x + 4 * rNrow x⟩] else []
  let rd := onlyIf (rSsp x == spWin) (srcHull k x wb) ++ idx ++ (if k.isAtomic then [slotHull x] else [])
  let wr := onlyIf (rDsp x == spWin) (dstHull k x wa) ++
    (match k with
     | .amo | .amor => [slotHull x]
     | .sigr => [⟨rSaddr x, rSaddr x + 8⟩]
     | .land => [⟨rSaddr x, rSaddr x + 8⟩]
     | _ => [])
  (rd, wr)

def Hull.outside (h : Hull) (size : Nat) : Bool := h.lo < 0 || (size : Int) < h.hi

def Hull.meets (a b : Hull) : Bool := a.lo < b.hi && b.lo < a.hi

/-- One hull over many. -/
def hullAll : List Hull → List Span
  | [] => []
  | h :: t =>
    let a := t.foldl (fun (a : Hull) b => ⟨min a.lo b.lo, max a.hi b.hi⟩) h
    [⟨a.lo.toNat, a.hi.toNat⟩]

/-- A PEER operand fails (11 R242). -/
def peerBad (y : Sys) (d : Nat) (c : Ctx) (n : Nat) (h : Option Hull) : Bool :=
  match (if c.grove.length ≤ 1 || n = c.piece then none else y.piece? d c n) with
  | none => true
  | some p => (h.map (fun h => h.outside p.wsz)).getD false

/-- The pieces of a grove, in piece order. -/
def pieceShapes (y : Sys) (d : Nat) (c : Ctx) : List (Nat × Nat × Nat × Nat) :=
  c.grove.map (fun l => let p := y.ctx d l; (p.shape, p.lead, p.h, p.w))

/-! ## The checks (12 R279, R280) -/

/-- Element size of a `cp.rw` with a reduction (12 R294). -/
def rwElem (red : Nat) : Nat := if red = 1 then 2 else 1

/-- Code 0x2A. -/
def lenBad (k : CpKind) (x : BitVec 512) : Bool :=
  match k with
  | .trn => rLen x % elemBytes x != 0
  | .rw red => red != 0 && rLen x % rwElem red != 0
  | _ => false

/-- Landings of a context that are open or about to be opened by issued entries. -/
def Ctx.landCount (c : Ctx) : Nat :=
  c.landings.length + ((c.entries.filter (fun qe => isLand qe.2.cmd)).map (fun qe => qe.2.recs.length - qe.2.rep)).foldl (· + ·) 0

/-- Code 0x2B for repetition `i`. -/
def landingBad (k : CpKind) (c : Ctx) (x : BitVec 512) (i : Nat) : Bool :=
  match k with
  | .land => 8 ≤ c.landCount + i
  | .lrev => !c.landings.any (fun l => l.token == rToken x && !l.closing)
  | _ => false

/-- Code 0x2C. -/
def landAlign (k : CpKind) (x : BitVec 512) : Bool :=
  match k with
  | .land => rDaddr x % 64 != 0 || rLen x % 64 != 0 || rSaddr x % 8 != 0
  | _ => false

/-- The window ranges that code 0x25 bounds: those of 12 R296, and the landing. -/
def boundHulls (k : CpKind) (x : BitVec 512) (wa wb : Walk) : List Hull :=
  let w := winHulls k x wa wb
  w.1 ++ w.2 ++ (match k with | .land => [⟨rDaddr x, rDaddr x + rLen x⟩] | _ => [])

/-- Code 0x2D: source and destination hulls overlap in one window. -/
def selfOverlap (k : CpKind) (x : BitVec 512) (wa wb : Walk) : Bool :=
  match srcHull k x wb, dstHull k x wa with
  | some a, some b =>
    ((rSsp x == spWin && rDsp x == spWin) || (rSsp x == spPeer && rDsp x == spPeer && rShnd x == rDhnd x)) && a.meets b
  | _, _ => false

/-- The checks of one record, in order of code. -/
def recChecks (k : CpKind) (x : BitVec 512) (wa wb : Walk) (d : Nat) (c : Ctx) (y : Sys) (i : Nat) : Iss Unit := do
  trapIf (recReserved k x) { code := cReserved }
  codeIf (!k.spaces.1.contains (rSsp x) || !k.spaces.2.contains (rDsp x)) 0x23 i
  codeIf ((k.uses.nrow && rNrow x == 0) || (k.uses.len && rLen x == 0)) 0x24 i
  codeIf ((boundHulls k x wa wb).any (·.outside c.wsz) || (k.indexed && rAuxv x % 4 != 0)) 0x25 i
  codeIf ((rSsp x == spPeer && peerBad y d c (rShnd x) (srcHull k x wb)) ||
    (rDsp x == spPeer && peerBad y d c (rDhnd x) (dstHull k x wa))) 0x26 i
  codeIf (rDsp x == spXpk && 15 < rDhnd x) 0x27 i
  codeIf (k.isAtomic && !atomicOk k (rAty x) (rAop x)) 0x28 i
  codeIf (k == .walk && wa.count != wb.count) 0x29 i
  codeIf (lenBad k x) 0x2A i
  codeIf (landingBad k c x i) 0x2B i
  codeIf (landAlign k x) 0x2C i
  codeIf (selfOverlap k x wa wb) 0x2D i

/-- The first record field that fails the alignment rule (12 R278, R280). -/
def misaligned (k : CpKind) (x : BitVec 512) : Option Word :=
  let bad (w : Nat) (v : Int) : Option Word := if v % (w : Int) != 0 then some (BitVec.ofInt 64 v) else none
  let w := unitSize (rAty x)
  if k.isAtomic then
    (bad w (rDaddr x)).or ((bad w (rDstr x)).or ((bad w (rSaddr x)).or (bad w (rSstr x))))
  else match k with
    | .sig => bad 8 (rDaddr x)
    | .sigw => bad 8 (rDaddr x)
    | .sigr => (bad 8 (rDaddr x)).or (bad 8 (rSaddr x))
    | _ => none

/-- The first misaligned record is ATOMIC_ALIGN. -/
def alignCheck (k : CpKind) : List (BitVec 512) → Iss Unit
  | [] => .ok ()
  | x :: t =>
    match misaligned k x with
    | some v => fails { code := cAtomicAlign, addr1 := v }
    | none => alignCheck k t

/-- The record of repetition `i`, once its place passes codes 0x02 and 0x20 to 0x22, and its offset when it is uncorrectable. -/
def readRecord (k : BitVec 2) (wr : BitVec 3) (c : Common) (r : SeqRef) (y : Sys) (i : Nat) : Iss (BitVec 512 × Option Nat) := do
  let ctx := y.ctxOf r
  let off ← repAddr ((y.seq r).wk wr) c i
  codeIf (r.idx.isNone || ctx.copies.length ≤ k.toNat) 0x20 i
  codeIf (off % 64 != 0) 0x21 i
  codeIf (ctx.wsz < off + 64) 0x22 i
  let (bs, ecc) ← readAtIssue .copy y r off 64
  pure (BitVec.ofNat 512 (leNat bs), ecc)

/-- SEM_RANGE of the landing semaphores of a `cp.land`, as far as its records can be read (12 R278). -/
def landSems (k : BitVec 2) (wr : BitVec 3) (c : Common) (r : SeqRef) (y : Sys) : Nat → Nat → Iss Unit
  | 0, _ => .ok ()
  | n + 1, i =>
    match readRecord k wr c r y i with
    | .error none => stalls
    | .error (some _) => .ok ()
    | .ok (x, _) =>
      if (y.ctxOf r).semMap.length ≤ rAuxv x % 256 then fails (semRangeTrap (rAuxv x % 256)) else landSems k wr c r y n (i + 1)

def cpPlan (kind : CpKind) (k : BitVec 2) (wr wa wb : BitVec 3) (c : Common) (r : SeqRef) (y : Sys) : Iss Plan := do
  let ctx := y.ctxOf r
  let q := y.seq r
  let wa := q.wk wa
  let wb := q.wk wb
  if kind == .land then landSems k wr c r y (repsOf c) 0
  let recs ← eachRep (fun i => do
    let x ← readRecord k wr c r y i
    recChecks kind x.1 wa wb r.die ctx y i
    pure x) (repsOf c) 0
  let ecc := firstBad (recs.map (·.2))
  let recs := recs.map (·.1)
  alignCheck kind recs
  let hs := recs.map (fun x => winHulls kind x wa wb)
  let rd := hullAll (hs.flatMap (·.1))
  let wr := hullAll (hs.flatMap (·.2))
  pure { e := { num := 0, cmd := .nop, recs := recs, walkA := wa, walkB := wb, ranges := ctx.ranges, rd := rd, wr := wr
                peers := if recs.any (fun x => rSsp x == spPeer || rDsp x == spPeer) then pieceShapes y r.die ctx else []
                scb := !(rd.isEmpty && wr.isEmpty), weight := kind.weight }
         bad := ecc }

/-- The issue of a copy command without pattern walks. -/
def runCopy (s : State) (i : Instr) (kind : CpKind) (k : BitVec 2) (wr : BitVec 3) (c : Common) : Host.Outcome State Fault Refusal :=
  runIssue s i c .copy (8 + k.toNat) (cpPlan kind k wr 0 0 c)

/-- `cp.blk` (12 R281). -/
def execCpBlk (k : BitVec 2) (wr : BitVec 3) (c : Common) (s : State) : Host.Outcome State Fault Refusal :=
  runCopy s (.cpBlk k wr c) .blk k wr c

/-- `cp.walk` (12 R275, R281). -/
def execCpWalk (k : BitVec 2) (wr wa wb : BitVec 3) (c : Common) (s : State) : Host.Outcome State Fault Refusal :=
  runIssue s (.cpWalk k wr wa wb c) c .copy (8 + k.toNat) (cpPlan .walk k wr wa wb c)

/-- `cp.fill` (12 R281). -/
def execCpFill (k : BitVec 2) (wr : BitVec 3) (c : Common) (s : State) : Host.Outcome State Fault Refusal :=
  runCopy s (.cpFill k wr c) .fill k wr c

/-- `cp.trn` (12 R282). -/
def execCpTrn (k : BitVec 2) (wr : BitVec 3) (c : Common) (s : State) : Host.Outcome State Fault Refusal :=
  runCopy s (.cpTrn k wr c) .trn k wr c

/-- `cp.gat` (12 R281). -/
def execCpGat (k : BitVec 2) (wr : BitVec 3) (c : Common) (s : State) : Host.Outcome State Fault Refusal :=
  runCopy s (.cpGat k wr c) .gat k wr c

/-- `cp.sca` (12 R281). -/
def execCpSca (k : BitVec 2) (wr : BitVec 3) (c : Common) (s : State) : Host.Outcome State Fault Refusal :=
  runCopy s (.cpSca k wr c) .sca k wr c

/-- `cp.red` (12 R286). -/
def execCpRed (k : BitVec 2) (wr : BitVec 3) (ix : Bool) (c : Common) (s : State) : Host.Outcome State Fault Refusal :=
  runCopy s (.cpRed k wr ix c) (.red ix) k wr c

/-- `cp.amo` (12 R285). -/
def execCpAmo (k : BitVec 2) (wr : BitVec 3) (c : Common) (s : State) : Host.Outcome State Fault Refusal :=
  runCopy s (.cpAmo k wr c) .amo k wr c

/-- `cp.amor` (12 R285). -/
def execCpAmor (k : BitVec 2) (wr : BitVec 3) (c : Common) (s : State) : Host.Outcome State Fault Refusal :=
  runCopy s (.cpAmor k wr c) .amor k wr c

/-- `cp.sig` (12 R288). -/
def execCpSig (k : BitVec 2) (wr : BitVec 3) (sc : BitVec 2) (c : Common) (s : State) : Host.Outcome State Fault Refusal :=
  runCopy s (.cpSig k wr sc c) .sig k wr c

/-- `cp.sigw` (12 R289). -/
def execCpSigw (k : BitVec 2) (wr : BitVec 3) (c : Common) (s : State) : Host.Outcome State Fault Refusal :=
  runCopy s (.cpSigw k wr c) .sigw k wr c

/-- `cp.sigr` (12 R290). -/
def execCpSigr (k : BitVec 2) (wr : BitVec 3) (c : Common) (s : State) : Host.Outcome State Fault Refusal :=
  runCopy s (.cpSigr k wr c) .sigr k wr c

/-- `cp.rw` (12 R293, R294). -/
def execCpRw (k : BitVec 2) (wr : BitVec 3) (red : BitVec 2) (ls : Bool) (c : Common) (s : State) :
    Host.Outcome State Fault Refusal :=
  runCopy s (.cpRw k wr red ls c) (.rw red.toNat) k wr c

/-- `cp.land` (12 R291). -/
def execCpLand (k : BitVec 2) (wr : BitVec 3) (c : Common) (s : State) : Host.Outcome State Fault Refusal :=
  runCopy s (.cpLand k wr c) .land k wr c

/-- `cp.lrev` (12 R292). -/
def execCpLrev (k : BitVec 2) (wr : BitVec 3) (c : Common) (s : State) : Host.Outcome State Fault Refusal :=
  runCopy s (.cpLrev k wr c) .lrev k wr c

end Sys2Proof.Machine
end

