-- ==== Sys2Proof/Machine/MatrixIssue.lean ====
section
/-! DEFINITION. The matrix commands at issue: their checks, window ranges, weights and entries (09 R179 to R203), and the split and
the fuse as far as the sequencer carries them out (09 R198 to R200). -/

namespace Sys2Proof.Machine

/-! ## Geometry (08 R160, R164, R165) -/

/-- Groups per PE row for a sparsity code. -/
def gprOf (sp : Nat) : Nat := 2 ^ sp

/-- B width in bits of a width code. -/
def bBits (bw : Nat) : Nat := 4 * 2 ^ bw

/-- Columns of a panel line. -/
def panelCols (bw : Nat) : Nat := if bw = 0 then 384 else 192

/-- Groups of a fragment. -/
def Ctx.ng (c : Ctx) (sp : Nat) : Nat := 192 * c.h * gprOf sp

/-- Bytes of an A line. -/
def Ctx.aLine (c : Ctx) (sp pa : Nat) : Nat := c.ng sp * (1 + pa)

/-- Bytes of a line of a B panel. -/
def bLine (bw sp : Nat) : Nat :=
  panelCols bw * (gprOf sp + bBits bw) + (if sp = 0 then 0 else 192 * gprOf sp)

/-- Lines of the panels of a fragment, and their bytes (09 R187). -/
def Ctx.bLines (c : Ctx) : Nat := 192 * c.h * c.w

/-- Bytes of an accumulator row in the window. -/
def Ctx.rowBytes (c : Ctx) : Nat := 768 * c.w

/-! ## Checks (09 R181) -/

/-- Code 0x01: the context holds no matrix queue. -/
def noMatrix (r : SeqRef) (c : Ctx) : Bool := r.idx.isNone || c.shape == 7

def checkMatrix (r : SeqRef) (c : Ctx) : Iss Unit := codeIf (noMatrix r c) 0x01 0

/-- Codes 0x03 and 0x04 of a range of the window: 02 R42 would give a range past the window WINDOW_BOUNDS, and 09 R181 gives an
engine command's operands OPERAND_RECORD, which is taken (log entry 94). -/
def checkWin (c : Ctx) (off n rep : Nat) : Iss Unit := do
  codeIf (off % 64 != 0) 0x03 rep
  codeIf (c.wsz < off + n) 0x04 rep

/-- Code 0x05 of `n` accumulator rows from `row`. -/
def checkRows (c : Ctx) (row n rep : Nat) : Iss Unit := codeIf (256 * c.h < row + n) 0x05 rep

/-- Rows of `len` bytes, `n` of them, `stride` apart. -/
def rowSpans (base stride n len : Nat) : List Span :=
  if stride = len then [⟨base, base + n * len⟩] else (List.range n).map (fun t => ⟨base + t * stride, base + t * stride + len⟩)

/-! ## `mx.spm` (09 R185, R186) -/

/-- The parameter record, and whether a reserved bit is set. -/
def paramsOf (bs : List Byte) : Params × Bool :=
  let v := leNat bs
  ({ mrows := bitsOf v 0 32, astr := bitsOf v 32 32, drows := bitsOf v 64 32, dstr := bitsOf v 96 32 }, v / 2 ^ 128 != 0)

/-- Code 0x0B. -/
def paramsBad (p : Params) : Bool :=
  p.mrows < 1 || 1536 < p.mrows || p.drows < 1 || 1536 < p.drows || p.astr % 64 != 0 || p.dstr % 64 != 0

def spmPlan (wp : BitVec 3) (c : Common) (r : SeqRef) (y : Sys) : Iss Plan := do
  let ctx := y.ctxOf r
  checkMatrix r ctx
  let ps ← eachRep (fun i => do
    let off ← repAddr ((y.seq r).wk wp) c i
    checkWin ctx off 64 i
    let (bs, ecc) ← readAtIssue .matrix y r off 64
    let (p, bad) := paramsOf bs
    trapIf bad { code := cReserved }
    codeIf (paramsBad p) 0x0B i
    pure (p, ecc)) (repsOf c) 0
  let last := (ps.getLastD (ctx.params, none)).1
  pure { e := { num := 0, cmd := .nop, params := last, weight := 1 }, st := fun ctx => { ctx with params := last }
         bad := firstBad (ps.map (·.2)) }

/-- `mx.spm` (09 R186). -/
def execMxSpm (wp : BitVec 3) (c : Common) (s : State) : Host.Outcome State Fault Refusal :=
  runIssue s (.mxSpm wp c) c .matrix 0 (spmPlan wp c)

/-! ## `mx.ldb` (09 R187) -/

/-- Set bits of a mask byte. -/
def popByte (b : Byte) : Nat := ((List.range 8).filter (fun k => b.getLsbD k)).length

/-- Kept values of a group for a sparsity code. -/
def keptOf (sp : Nat) : Nat := 8 / gprOf sp

/-- The offsets in a panel line that hold masks. -/
def maskLo (bw sp : Nat) : Nat := gprOf sp * panelCols bw

/-- Offset of the masks of line `line` of the panels at `base`. -/
def maskAt (bw sp base line : Nat) : Nat := base + line * bLine bw sp + maskLo bw sp

/-- Mask bytes of a line. -/
def maskBytes (sp : Nat) : Nat := 192 * gprOf sp

/-- The masks of `n` lines from `line` on: SPARSITY_MASK at the lowest mask byte whose population is wrong, else the offset of the
first uncorrectable masks. -/
def badMask (y : Sys) (r : SeqRef) (bw sp base : Nat) : Nat → Nat → Iss (Option Nat)
  | 0, _ => .ok none
  | n + 1, line =>
    let lo := maskAt bw sp base line
    let bs := y.seqRead r lo (maskBytes sp)
    match findIx (fun b => popByte b.1 != keptOf sp) bs with
    | some k => fails { code := cSparsity, addr1 := BitVec.ofNat 64 (lo + k) }
    | none =>
      match badMask y r bw sp base n (line + 1) with
      | .error e => .error e
      | .ok b => .ok (if bs.any (·.2) then some lo else b)

/-- The ranges that the masks of a sparse load take, those that the command reads at issue (09 R184). -/
def maskSpans (bw sp lines : Nat) (bases : List Nat) : List Span :=
  bases.flatMap (fun b => rowSpans (maskAt bw sp b 0) (bLine bw sp) lines (maskBytes sp))

def ldbPlan (wb : BitVec 3) (bw sp : BitVec 2) (c : Common) (r : SeqRef) (y : Sys) : Iss Plan := do
  let ctx := y.ctxOf r
  checkMatrix r ctx
  let len := ctx.bLines * bLine bw.toNat sp.toNat
  let bases ← eachRep (fun i => do
    let base ← repAddr ((y.seq r).wk wb) c i
    checkWin ctx base len i
    pure base) (repsOf c) 0
  let rd := bases.map (fun b => (⟨b, b + len⟩ : Span))
  let ecc ← if sp = 0 then pure []
    else if ctx.stallsOn .matrix rd [] || ctx.blocks? (maskSpans bw.toNat sp.toNat ctx.bLines bases) [] then stalls
    else eachRep (fun i => badMask y r bw.toNat sp.toNat (bases.getD i 0) ctx.bLines 0) (repsOf c) 0
  pure { e := { num := 0, cmd := .nop, reps := bases.map (fun b => (b, 0)), rd := rd, eB := (bw.toNat, sp.toNat)
                weight := 6 * ctx.blocks.length }
         st := fun ctx => { ctx with iB := (bw.toNat, sp.toNat) }, bad := firstBad ecc }

/-- `mx.ldb` (09 R187). -/
def execMxLdb (wb : BitVec 3) (bw sp : BitVec 2) (c : Common) (s : State) : Host.Outcome State Fault Refusal :=
  runIssue s (.mxLdb wb bw sp c) c .matrix 0 (ldbPlan wb bw sp c)

/-! ## `mx.run` (09 R188 to R190) -/

/-- The A stride of a run. -/
def aStride (p : Params) (la : Nat) : Nat := if p.astr = 0 then la else p.astr

/-- Rows that a run of `m` A rows writes (08 R175). -/
def runRows (bw m : Nat) : Nat := if bw = 0 then 2 * m else m

/-- A sibling stands to the left of piece `p` of the fragment on leading sequencer `lead` with link geometry (09 R195): `a` is left,
`b` right. -/
def linkGeometry (a b : Ctx) : Bool :=
  a.lead != b.lead && !a.retired && !b.retired && a.lead / 6 == b.lead / 6 && a.h == b.h && b.lead % 6 == a.lead % 6 + a.w

/-- The sibling whose link feeds the fragment: its handle. -/
def leftOf (y : Sys) (d : Nat) (c : Ctx) : Option Nat :=
  (List.range c.grove.length).find? (fun n => n != c.piece && ((y.piece? d c n).map (fun a => linkGeometry a c)).getD false)

/-- The weight of a run (09 R202). -/
def runWeight (b bw sp pa : Nat) : Nat :=
  b * ((match bw with | 0 => 25 | 1 => 23 | _ => 21) + (if sp = 0 then 0 else 2)) - (if pa ≤ 3 then 4 * b else 0)

def runPlan (wa wr : BitVec 3) (pm : BitVec 4) (mode src : BitVec 2) (c : Common) (r : SeqRef) (y : Sys) : Iss Plan := do
  let ctx := y.ctxOf r
  checkMatrix r ctx
  let (bw, sp) := ctx.iB
  let pa := pm.toNat + 1
  let p := ctx.params
  let la := ctx.aLine sp pa
  let st := aStride p la
  let reps ← eachRep (fun i => do
    let a ← if src = 0 then repAddr ((y.seq r).wk wa) c i else pure 0
    let row ← repAddr ((y.seq r).wk wr) c i
    if src = 0 then checkWin ctx a ((p.mrows - 1) * st + la) i
    checkRows ctx row (runRows bw p.mrows) i
    codeIf (mode == 0 && pa < 4) 0x06 i
    codeIf (p.astr != 0 && p.astr < la) 0x07 i
    codeIf (src == 2 && ctx.chains.isEmpty) 0x08 i
    codeIf (src == 1 && (leftOf y r.die ctx).isNone) 0x09 i
    codeIf (src != 0 && bw == 2) 0x0A i
    pure (a, row)) (repsOf c) 0
  pure { e := { num := 0, cmd := .nop, reps := reps, params := p, eB := (bw, sp)
                rd := if src = 0 then reps.flatMap (fun x => rowSpans x.1 st p.mrows la) else []
                weight := runWeight ctx.blocks.length bw sp pa } }

/-- `mx.run` (09 R188). -/
def execMxRun (wa wr : BitVec 3) (pm : BitVec 4) (mode src : BitVec 2) (c : Common) (s : State) :
    Host.Outcome State Fault Refusal :=
  runIssue s (.mxRun wa wr pm mode src c) c .matrix 0 (runPlan wa wr pm mode src c)

/-! ## Row commands (09 R191, R192) -/

/-- The row distance of a drain or fill. -/
def rowStride (p : Params) (len : Nat) : Nat := if p.dstr = 0 then len else p.dstr

/-- A command that moves rows between the accumulators and the window at a second walk. -/
def movePlan (wr wx : BitVec 3) (c : Common) (writes : Bool) (r : SeqRef) (y : Sys) : Iss Plan := do
  let ctx := y.ctxOf r
  checkMatrix r ctx
  let p := ctx.params
  let len := ctx.rowBytes
  let st := rowStride p len
  let reps ← eachRep (fun i => do
    let row ← repAddr ((y.seq r).wk wr) c i
    let base ← repAddr ((y.seq r).wk wx) c i
    checkWin ctx base ((p.drows - 1) * st + len) i
    checkRows ctx row p.drows i
    codeIf (p.dstr != 0 && p.dstr < len) 0x07 i
    pure (row, base)) (repsOf c) 0
  let spans := reps.flatMap (fun x => rowSpans x.2 st p.drows len)
  pure { e := { num := 0, cmd := .nop, reps := reps, params := p, rd := if writes then [] else spans
                wr := if writes then spans else [], weight := 4 * ctx.blocks.length } }

/-- `mx.drn` (09 R191). -/
def execMxDrn (wr wd : BitVec 3) (clr : Bool) (c : Common) (s : State) : Host.Outcome State Fault Refusal :=
  runIssue s (.mxDrn wr wd clr c) c .matrix 0 (movePlan wr wd c true)

/-- `mx.fill` (09 R192). -/
def execMxFill (wr ws : BitVec 3) (c : Common) (s : State) : Host.Outcome State Fault Refusal :=
  runIssue s (.mxFill wr ws c) c .matrix 0 (movePlan wr ws c false)

/-- A command on DROWS rows alone, or on all rows; `chains` when it needs held chains. -/
def rowsPlan (wr : BitVec 3) (c : Common) (all chains : Bool) (weight : Ctx → Nat) (r : SeqRef) (y : Sys) : Iss Plan := do
  let ctx := y.ctxOf r
  checkMatrix r ctx
  let p := ctx.params
  let reps ← eachRep (fun i => do
    let row ← if all then pure 0 else repAddr ((y.seq r).wk wr) c i
    if !all then checkRows ctx row p.drows i
    codeIf (chains && ctx.chains.isEmpty) 0x08 i
    pure (row, 0)) (repsOf c) 0
  pure { e := { num := 0, cmd := .nop, reps := reps, params := p, weight := weight ctx } }

/-- `mx.drnx` (09 R192). -/
def execMxDrnx (wr : BitVec 3) (clr : Bool) (c : Common) (s : State) : Host.Outcome State Fault Refusal :=
  runIssue s (.mxDrnx wr clr c) c .matrix 0 (rowsPlan wr c false true (fun x => 4 * x.blocks.length))

/-- `mx.clr` (09 R192). -/
def execMxClr (wr : BitVec 3) (all : Bool) (c : Common) (s : State) : Host.Outcome State Fault Refusal :=
  runIssue s (.mxClr wr all c) c .matrix 0 (rowsPlan wr c all false (fun _ => 1))

/-- `mx.dead` (09 R192). -/
def execMxDead (wr : BitVec 3) (all : Bool) (c : Common) (s : State) : Host.Outcome State Fault Refusal :=
  runIssue s (.mxDead wr all c) c .matrix 0 (rowsPlan wr c all false (fun _ => 1))

/-! ## Routing (09 R193, R195) -/

/-- A routing command: code 0x08 when it needs chains, 0x09 when its geometry fails. -/
def routePlan (c : Common) (chains : Bool) (bad : Sys → Ctx → Bool) (dest : Routing) (r : SeqRef) (y : Sys) : Iss Plan := do
  let ctx := y.ctxOf r
  checkMatrix r ctx
  let _ ← eachRep (fun i => do
    codeIf (chains && ctx.chains.isEmpty) 0x08 i
    codeIf (bad y ctx) 0x09 i) (repsOf c) 0
  pure { e := { num := 0, cmd := .nop, reps := List.replicate (repsOf c) (0, 0), weight := 1 }
         st := fun ctx => { ctx with iRouting := dest } }

/-- The link geometry between the fragment and handle `n` fails. -/
def chainBad (d n : Nat) (y : Sys) (c : Ctx) : Bool := ((y.piece? d c n).map (fun b => !linkGeometry c b)).getD true

/-- `mx.chn` (09 R193). -/
def execMxChn (h : BitVec 6) (en : Bool) (c : Common) (s : State) : Host.Outcome State Fault Refusal :=
  runIssue s (.mxChn h en c) c .matrix 0
    (routePlan c en (if en then chainBad s.cur.die h.toNat else fun _ _ => false) (if en then .link h.toNat else .dflt))

/-- `mx.byp` (09 R193). -/
def execMxByp (en : Bool) (c : Common) (s : State) : Host.Outcome State Fault Refusal :=
  runIssue s (.mxByp en c) c .matrix 0 (routePlan c true (fun _ _ => false) (if en then .bypass else .dflt))

/-! ## Split and fuse (09 R198 to R200) -/

/-- Piece size in blocks of a split of a class, and the pieces' class, as 02 R43 lists them. -/
def splitAllowed (frm into : Nat) : Bool :=
  match frm with
  | 0 => 1 ≤ into && into ≤ 6
  | 1 => into == 3 || into == 4 || into == 6
  | 2 => into == 3 || into == 5 || into == 6
  | 3 => into == 6
  | 4 => into == 6
  | 5 => into == 6
  | _ => false

/-- Number of pieces. -/
def pieceCount (c : Ctx) (into : Nat) : Nat := c.blocks.length / ((shapeSize into).1 * (shapeSize into).2)

/-- Code 0x0D. -/
def pentryBad (v : Word) : Bool := v.toNat % 2 == 1 || !canonical v

/-- The split record (09 R198): INTO, LIVE and PENTRY. LIVE's bits at and above the piece count are reserved wherever 02 R43 lists the
split of the class held, be the split refused for another reason; where it lists none there is no piece count, and no bit of LIVE is
taken as reserved (log entry 96). -/
def splitPlan (wk : BitVec 3) (r : SeqRef) (y : Sys) : Iss Reshape := do
  let ctx := y.ctxOf r
  checkMatrix r ctx
  let off := ((y.seq r).wk wk).base.toNat
  checkWin ctx off 64 0
  let (bs, ecc) ← readAtIssue .matrix y r off 64
  let v := leNat bs
  let into := bitsOf v 128 4
  let live := bitsOf v 64 64
  let listed := splitAllowed ctx.shape into
  trapIf (v / 2 ^ 132 != 0 || (listed && live / 2 ^ pieceCount ctx into != 0)) { code := cReserved }
  codeIf (!(ctx.grove.length == 1 && ctx.piece == 0 && ctx.orig.isNone && listed)) 0x0C 0
  codeIf (pentryBad (BitVec.ofNat 64 v)) 0x0D 0
  badCheck ecc
  pure (.split into (BitVec.ofNat 64 live) (BitVec.ofNat 64 v))

/-- A split or a fuse that waits: the sequencer stays at the command (09 R200), and the effect follows when its conditions hold. The
checks are made, and the record is read, once, at issue; an interrupt gives the wait up. -/
def waitReshape (plan : SeqRef → Sys → Iss Reshape) (r : SeqRef) (y : Sys) : Res :=
  if (y.ctxOf r).reshape != .none then .stall y
  else match plan r y with
    | .error none => .stall y
    | .error (some t) => .trap t
    | .ok w => .stall (y.modCtxOf r (fun c => { c with reshape := w }))

/-- `mx.spl` (09 R198). -/
def execMxSpl (wk : BitVec 3) (_ : Common) (s : State) : Host.Outcome State Fault Refusal :=
  runSeq s 8 (waitReshape (splitPlan wk))

/-- Code 0x0E: not piece 0, or a grove of one fragment. -/
def fusePlan (r : SeqRef) (y : Sys) : Iss Reshape := do
  let ctx := y.ctxOf r
  checkMatrix r ctx
  codeIf (ctx.piece != 0 || ctx.grove.length ≤ 1) 0x0E 0
  pure .fuse

/-- `mx.frm` (09 R199). -/
def execMxFrm (_ : Common) (s : State) : Host.Outcome State Fault Refusal := runSeq s 8 (waitReshape fusePlan)

end Sys2Proof.Machine
end

