-- ==== Sys2Proof/Machine/StripWords.lean ====
section
/-! DEFINITION. The strip words (10 R204 to R239): the step of one word on a strip of a running group, with its pops, its guard,
its result and its push. -/

namespace Sys2Proof.Machine

/-! ## Ports (10 R205, R206, R208) -/

/-- The numbers of a strip's in-port A, in-port B and out-port; strip 4's out-port is the chain's, which its byte stream feeds. -/
def inA (k : Nat) : Nat := if k = 0 then 0 else 5 + k
def inB (k : Nat) : Nat := 1 + k
def outPort (k : Nat) : Nat := 6 + k

/-- Beats a port holds at most. -/
def portDepth : Nat := 4

def beatBytes : Nat := 768

def Chain.port (h : Chain) (p : Nat) : List Beat := vgetD h.ports p []
def Chain.setPort (h : Chain) (p : Nat) (l : List Beat) : Chain := { h with ports := h.ports.setIfInBounds p l }
def Chain.strip (h : Chain) (k : Nat) : Strip := vgetD h.strips k {}
def Chain.setStrip (h : Chain) (k : Nat) (s : Strip) : Chain := { h with strips := h.strips.setIfInBounds k s }

def Chain.pop (h : Chain) (p : Nat) : Chain := h.setPort p ((h.port p).drop 1)
def Chain.push (h : Chain) (p : Nat) (b : Beat) : Chain := h.setPort p (h.port p ++ [b])

/-- A beat as bytes and back, lane c in bytes 4c to 4c + 3. -/
def beatToBytes (b : Beat) : List Byte := b.flatMap (fun v => leSplit 4 v.toNat)

def lanesOf : Nat → List Byte → Beat
  | 0, _ => []
  | n + 1, l => BitVec.ofNat 32 (leNat (l.take 4)) :: lanesOf n (l.drop 4)

def bytesToBeat (l : List Byte) : Beat := lanesOf 192 l

/-- Whole pushes of the byte stream move to the chain out-port while it has room (10 R206). -/
def drainStream : Nat → Chain → Chain
  | 0, h => h
  | fuel + 1, h =>
    if h.stream.length < beatBytes || portDepth ≤ (h.port 10).length then h
    else drainStream fuel { h.push 10 (bytesToBeat (h.stream.take beatBytes)) with
      stream := h.stream.drop beatBytes, outTo := h.outTo ++ [(h.route, h.routeNo)] }

def Chain.append (h : Chain) (l : List Byte) : Chain := drainStream portDepth { h with stream := h.stream ++ l }

/-- A strip pushes a beat to its out-port or its byte stream. -/
def Chain.emit (h : Chain) (k : Nat) (b : Beat) : Chain :=
  if k = 4 then h.append (beatToBytes b) else h.push (outPort k) b

/-- Pushes that the chain out-port has room for. -/
def Chain.slots (h : Chain) : Nat := portDepth - (h.port 10).length

/-- Bytes that the stream can take so that no whole push stays in it (10 R206). -/
def Chain.space (h : Chain) : Nat := h.slots * beatBytes + (beatBytes - 1 - h.stream.length)

/-- Of `n` bytes, those that strip 4 can append now: all of them, or what fills whole pushes. -/
def Chain.takes (h : Chain) (n : Nat) : Nat := if n ≤ h.space then n else h.slots * beatBytes - h.stream.length

/-- There is room for a push of one beat by strip `k`. -/
def Chain.room (h : Chain) (k : Nat) : Bool :=
  if k = 4 then beatBytes ≤ h.space else (h.port (outPort k)).length < portDepth

/-! ## Registers, predicates and guards (10 R207, R210) -/

def zeroBeat : Beat := List.replicate 192 0

def Strip.reg (s : Strip) (r : Nat) : Beat := mgetD s.v r zeroBeat
def Strip.pred (s : Strip) (r : Nat) : BitVec 192 := mgetD s.p r 0

/-- The lanes that a guard selects. -/
def Strip.mask (s : Strip) (g : BitVec 4) : BitVec 192 :=
  if g = 15 then BitVec.allOnes 192 else if g = 14 then 0 else s.pred g.toNat

/-- Write a predicate on the guarded lanes. -/
def Strip.setPred (s : Strip) (r : Nat) (mask v : BitVec 192) : Strip :=
  { s with p := mset s.p r ((s.pred r &&& ~~~mask) ||| (v &&& mask)) }

/-- Write a predicate pair: the result and its complement (10 R232). -/
def Strip.setPair (s : Strip) (k : Nat) (mask v : BitVec 192) : Strip :=
  (s.setPred (2 * k) mask v).setPred (2 * k + 1) mask (~~~v)

/-- The guarded lanes of `new`, the others of `old`. -/
def mergeLanes (mask : BitVec 192) : Nat → Beat → Beat → Beat
  | l, n :: new, o :: old => (if mask.getLsbD l then n else o) :: mergeLanes mask (l + 1) new old
  | _, _, _ => []

/-- Bits from a test of each lane. -/
def laneBits (f : Lane → Bool) : Nat → Beat → Nat
  | _, [] => 0
  | l, v :: t => (if f v then 2 ^ l else 0) + laneBits f (l + 1) t

/-! ## The step of a word -/

/-- What a word computes: the strip after it, the beat it writes to DST, and bytes it adds to the stream. -/
structure WordRes where
  st : Strip
  out : Option Beat := none
  bytes : List Byte := []

/-- The next word of the program, the next repetition, or the end of the strip's share (10 R217). -/
def Strip.next (s : Strip) : Strip :=
  if s.ip + 1 < s.prog.words.length then { s with ip := s.ip + 1 }
  else if s.iter + 1 < s.prog.nr then { s with ip := 0, iter := s.iter + 1 }
  else { s with ip := 0, iter := 0, busy := false }

/-- Change a chain of a context. -/
def Sys.modChain (y : Sys) (d l ch : Nat) (f : Chain → Chain) : Sys :=
  y.modCtx d l (fun c => { c with chains := lmod c.chains ch f })

def Sys.chain? (y : Sys) (t : StripRef) : Option Chain := (y.ctx t.die t.ctx).chains[t.chain]?

/-- Strip 4 appends bytes to the stream as far as whole pushes have room: `st` is the strip when all of them have left, `held` while
the word waits (10 R206, R208). -/
def sendBytes (h : Chain) (held st : Strip) (bs : List Byte) : Chain :=
  let rest := bs.drop held.sent
  let n := h.takes rest.length
  (h.setStrip 4 (if n = rest.length then st else { held with sent := held.sent + n })).append (rest.take n)

/-- A strip pushes a beat, or keeps the word while there is no room (10 R208). -/
def sendBeat (h : Chain) (k : Nat) (held st : Strip) (b : Beat) : Chain :=
  if k = 4 then sendBytes h held st (beatToBytes b)
  else if h.room k then (h.setStrip k st).push (outPort k) b
  else h.setStrip k held

/-- Write the result of a word to a register, or push it with zeros on the lanes that are not guarded (10 R208). -/
def writeOut (h : Chain) (k : Nat) (d g : BitVec 4) (mask : BitVec 192) (held s : Strip) (b : Beat) : Chain :=
  if d = 15 then
    if g = 14 then h.setStrip k s else sendBeat h k held s (mergeLanes mask 0 b zeroBeat)
  else h.setStrip k { s with v := mset s.v d.toNat (mergeLanes mask 0 b (s.reg d.toNat)) }

/-- A word names a port among its sources. -/
def names (srcs : List (BitVec 4)) (r : BitVec 4) : Bool := srcs.contains r

/-- The pops of a word can proceed; a word that names both in-ports makes its two pops together (10 R208; log entry 100). -/
def popsReady (h : Chain) (k : Nat) (srcs : List (BitVec 4)) : Bool :=
  (!names srcs 14 || !(h.port (inA k)).isEmpty) && (!names srcs 15 || !(h.port (inB k)).isEmpty)

/-- The strip is running its program, and the word has made its pops or can make them. -/
def wordGoes (h : Chain) (k : Nat) (srcs : List (BitVec 4)) : Bool :=
  h.running && (h.strip k).busy && ((h.strip k).got.isSome || popsReady h k srcs)

/-- The two beats that the word has popped, or pops now. -/
def wordBeats (h : Chain) (k : Nat) : Beat × Beat :=
  (h.strip k).got.getD ((h.port (inA k)).headD zeroBeat, (h.port (inB k)).headD zeroBeat)

/-- The chain after the pops of a word, which come before anything else of it (10 R208). -/
def popsMade (h : Chain) (k : Nat) (srcs : List (BitVec 4)) : Chain :=
  if (h.strip k).got.isSome then h
  else
    let h := if names srcs 14 then h.pop (inA k) else h
    if names srcs 15 then h.pop (inB k) else h

/-- One word on strip `k` of a chain: `srcs` are its source registers, `d` its destination when it writes a lane register. It pops, and
has its whole effect when its push has left; until then the strip waits with the beats that it popped. -/
def chainWord (k : Nat) (srcs : List (BitVec 4)) (d : Option (BitVec 4)) (g : BitVec 4)
    (f : Strip → BitVec 192 → (BitVec 4 → Beat) → WordRes) (h : Chain) : Chain :=
  let s := h.strip k
  if !wordGoes h k srcs then h
  else
    let got := wordBeats h k
    let src (r : BitVec 4) : Beat := if r = 14 then got.1 else if r = 15 then got.2 else s.reg r.toNat
    let mask := s.mask g
    let r := f s mask src
    let st := { r.st.next with got := none, sent := 0 }
    let held := { s with got := some got }
    let h := popsMade h k srcs
    match r.out, d with
    | some b, some d => writeOut h k d g mask held st b
    | _, _ => if r.bytes.isEmpty then h.setStrip k st else sendBytes h held st r.bytes

/-- A strip's out-port or byte stream has changed. -/
def outMoved (h h' : Chain) (k : Nat) : Bool := h'.port (outPort k) != h.port (outPort k) || h'.stream != h.stream

/-- What the turn of a word leaves beside its chain: a pop or a push is progress (14 R332), and the completed word is counted when its
guard selects a lane (23 R455). -/
def wordDone (t : StripRef) (srcs : List (BitVec 4)) (g : BitVec 4) (y old : Sys) : Sys :=
  match old.chain? t, y.chain? t with
  | some h, some h' =>
    if !wordGoes h t.k srcs then y
    else
      let moved := ((h.strip t.k).got.isNone && (names srcs 14 || names srcs 15)) || outMoved h h' t.k
      let y := if moved then y.modCtx t.die t.ctx (fun c => { c with wdCycles := 0 }) else y
      countEvent y (y.ctx t.die t.ctx).part 2 (if (h'.strip t.k).got.isSome || (h.strip t.k).mask g = 0 then 0 else 1)
  | _, _ => y

/-- A step of the strip whose turn it is. -/
def runWord (s : State) (srcs : List (BitVec 4)) (d : Option (BitVec 4)) (g : BitVec 4)
    (f : Strip → BitVec 192 → (BitVec 4 → Beat) → WordRes) : Host.Outcome State Fault Refusal :=
  let t := s.curStrip
  .next { s with sys := wordDone t srcs g (s.sys.modChain t.die t.ctx t.chain (chainWord t.k srcs d g f)) s.sys }

/-! ## Words on single lanes (10 R223 to R228) -/

/-- The guarded lanes one by one: the result, the state of the lane's generator after one draw when the word draws, and the
flags (07 R145). -/
def laneLoop (mask : BitVec 192) (draws : Bool) (f : Nat → Lane → Lane → Lane → Nat → Lane × Flg) :
    List Lane → Nat → Beat → Beat → Beat → List (Lane × Lane × Flg)
  | [], _, _, _, _ => []
  | s :: t, l, a, b, d =>
    (if mask.getLsbD l then
       let s := if draws then srStep s else s
       let (v, fl) := f l (a.headD 0) (b.headD 0) (d.headD 0) s.toNat
       (v, s, fl)
     else (0, s, 0)) :: laneLoop mask draws f t (l + 1) a.tail b.tail d.tail

/-- A word that computes each lane by itself. -/
def laneWord (draws : Bool) (a b d : Beat) (mask : BitVec 192) (s : Strip) (f : Nat → Lane → Lane → Lane → Nat → Lane × Flg) :
    WordRes :=
  let r := laneLoop mask draws f s.sr 0 a b d
  { st := { s with sr := r.map (·.2.1), flags := r.foldl (fun fl x => fl ||| x.2.2) s.flags }
    out := some (r.map (·.1)) }

/-- RM of a float word, SAT of an integer word. -/
def modRm (m : BitVec 6) : Nat := m.toNat % 8
def modSat (m : BitVec 6) : Bool := m.getLsbD 0

/-- A float word draws when its RM is SR (07 R145). -/
def isSr (t : BitVec 3) (rm : Nat) : Bool := (laneFmt t).isSome && rm == 4

/-- A two-source arithmetic word: its float and its integer results. -/
def arith2 (t : BitVec 3) (rm : Nat) (sat : Bool) (fl : Ext → Ext → Option (Ext × Flg)) (nv : Ext → Ext → Bool)
    (int : Int → Int → Int) (ftz : Bool) (a b : Lane) (draw : Nat) : Lane × Flg :=
  match laneFmt t with
  | some f =>
    let x := tyRead t ftz a
    let y := tyRead t ftz b
    floatRes t f ftz rm draw [x, y] (nv x y) (fl x y)
  | none => intRes t sat (int (tyVal t a) (tyVal t b))

def noFlags (x : Option Ext) : Option (Ext × Flg) := x.map (fun v => (v, 0))

def arithWord (m : BitVec 6) (t : BitVec 3) (b a d g : BitVec 4) (fl : Nat → Ext → Ext → Option (Ext × Flg))
    (nv : Ext → Ext → Bool) (int : Int → Int → Int) (s : State) : Host.Outcome State Fault Refusal :=
  runWord s [a, b] (some d) g (fun st mask src =>
    laneWord (isSr t (modRm m)) (src a) (src b) [] mask st
      (fun _ x y _ dr => arith2 t (modRm m) (modSat m) (fl (modRm m)) nv int st.ftz x y dr))

def never (_ _ : Ext) : Bool := false

/-- 0 × Inf. -/
def zeroTimesInf (x y : Ext) : Bool := (x.isZero && y.isInf) || (x.isInf && y.isZero)

/-- `x.add` (10 R225). -/
def execXAdd (m : BitVec 6) (t : BitVec 3) (b a d g : BitVec 4) (s : State) : Host.Outcome State Fault Refusal :=
  arithWord m t b a d g (fun rm x y => noFlags (addExt rm x y)) never (fun x y => x + y) s

/-- `x.sub` (10 R225). -/
def execXSub (m : BitVec 6) (t : BitVec 3) (b a d g : BitVec 4) (s : State) : Host.Outcome State Fault Refusal :=
  arithWord m t b a d g (fun rm x y => noFlags (addExt rm x y.flip)) never (fun x y => x - y) s

/-- `x.mul` (10 R225). -/
def execXMul (m : BitVec 6) (t : BitVec 3) (b a d g : BitVec 4) (s : State) : Host.Outcome State Fault Refusal :=
  arithWord m t b a d g (fun _ x y => noFlags (mulExt x y)) never (fun x y => x * y) s

/-- A word that selects one of its values: no rounding and no flag; `v` gives the float result, NaN included. -/
def exactLane (t : BitVec 3) (f : Fmt) (v : Ext) : Lane × Flg := (tyLane t (f.put v 0 0 false false).bits, 0)

def minMax (t : BitVec 3) (ftz : Bool) (fl : Ext → Ext → Ext) (int : Int → Int → Int) (a b : Lane) : Lane × Flg :=
  match laneFmt t with
  | some f => exactLane t f (fl (tyRead t ftz a) (tyRead t ftz b))
  | none => intRes t false (int (tyVal t a) (tyVal t b))

/-- `x.min` (10 R225). -/
def execXMin (t : BitVec 3) (b a d g : BitVec 4) (s : State) : Host.Outcome State Fault Refusal :=
  runWord s [a, b] (some d) g (fun st mask src =>
    laneWord false (src a) (src b) [] mask st (fun _ x y _ _ => minMax t st.ftz minExt min x y))

/-- `x.max` (10 R225). -/
def execXMax (t : BitVec 3) (b a d g : BitVec 4) (s : State) : Host.Outcome State Fault Refusal :=
  runWord s [a, b] (some d) g (fun st mask src =>
    laneWord false (src a) (src b) [] mask st (fun _ x y _ _ => minMax t st.ftz maxExt max x y))

/-- A sign word: `fl` gives the float result, `int` the exact integer. -/
def signWord (m : BitVec 6) (t : BitVec 3) (a d g : BitVec 4) (fl : Ext → Ext) (int : Int → Int) (s : State) :
    Host.Outcome State Fault Refusal :=
  runWord s [a] (some d) g (fun st mask src =>
    laneWord false (src a) [] [] mask st (fun _ x _ _ _ =>
      match laneFmt t with
      | some f => exactLane t f (fl (tyRead t st.ftz x))
      | none => intRes t (modSat m) (int (tyVal t x))))

/-- `x.abs` (10 R225). -/
def execXAbs (m : BitVec 6) (t : BitVec 3) (a d g : BitVec 4) (s : State) : Host.Outcome State Fault Refusal :=
  signWord m t a d g (fun x => x.sign false) (fun x => x.natAbs) s

/-- `x.neg` (10 R225). -/
def execXNeg (m : BitVec 6) (t : BitVec 3) (a d g : BitVec 4) (s : State) : Host.Outcome State Fault Refusal :=
  signWord m t a d g (fun x => x.flip) (fun x => -x) s

/-- A bitwise or shift word on 32-bit integers (10 R225; log entry 30 for SAT). -/
def logicWord (m : BitVec 6) (t : BitVec 3) (b a d g : BitVec 4) (f : Lane → Lane → Int) (s : State) :
    Host.Outcome State Fault Refusal :=
  runWord s [a, b] (some d) g (fun st mask src =>
    laneWord false (src a) (src b) [] mask st (fun _ x y _ _ => intRes t (modSat m) (f x y)))

/-- The value of a bit pattern in the TYPE. -/
def tyPat (t : BitVec 3) (v : Lane) : Int := tyVal t v

/-- `x.and` (10 R225). -/
def execXAnd (m : BitVec 6) (t : BitVec 3) (b a d g : BitVec 4) (s : State) : Host.Outcome State Fault Refusal :=
  logicWord m t b a d g (fun x y => tyPat t (x &&& y)) s

/-- `x.or` (10 R225). -/
def execXOr (m : BitVec 6) (t : BitVec 3) (b a d g : BitVec 4) (s : State) : Host.Outcome State Fault Refusal :=
  logicWord m t b a d g (fun x y => tyPat t (x ||| y)) s

/-- `x.xor` (10 R225). -/
def execXXor (m : BitVec 6) (t : BitVec 3) (b a d g : BitVec 4) (s : State) : Host.Outcome State Fault Refusal :=
  logicWord m t b a d g (fun x y => tyPat t (x ^^^ y)) s

/-- `x.shl` (10 R225). -/
def execXShl (m : BitVec 6) (t : BitVec 3) (b a d g : BitVec 4) (s : State) : Host.Outcome State Fault Refusal :=
  logicWord m t b a d g (fun x y => tyVal t x * (2 ^ (y.toNat % 32) : Nat)) s

/-- `x.shr` (10 R225). -/
def execXShr (m : BitVec 6) (t : BitVec 3) (b a d g : BitVec 4) (s : State) : Host.Outcome State Fault Refusal :=
  logicWord m t b a d g (fun x y => tyPat t (x >>> (y.toNat % 32))) s

/-- `x.sra` (10 R225). -/
def execXSra (m : BitVec 6) (t : BitVec 3) (b a d g : BitVec 4) (s : State) : Host.Outcome State Fault Refusal :=
  logicWord m t b a d g (fun x y => tyPat t (x.sshiftRight (y.toNat % 32))) s

/-- A raw word that moves lanes. -/
def rawWord (srcs : List (BitVec 4)) (d g : BitVec 4) (f : Strip → (BitVec 4 → Beat) → Beat) (s : State) :
    Host.Outcome State Fault Refusal :=
  runWord s srcs (some d) g (fun st _ src => { st := st, out := some (f st src) })

/-- `x.mov` (10 R225). -/
def execXMov (a d g : BitVec 4) (s : State) : Host.Outcome State Fault Refusal :=
  rawWord [a] d g (fun _ src => src a) s

/-- A multiply-add: the product with `np` its sign change, and the addend with `nd` (10 R226). -/
def fmaLane (t : BitVec 3) (f : Fmt) (ftz : Bool) (rm : Nat) (np nd : Bool) (a b d : Lane) (draw : Nat) : Lane × Flg :=
  let x := tyRead t ftz a
  let y := tyRead t ftz b
  let z := tyRead t ftz d
  let exact := match mulExt x y with
    | none => none
    | some p => addExt rm (if np then p.flip else p) (if nd then z.flip else z)
  floatRes t f ftz rm draw [x, y, z] (zeroTimesInf x y) (noFlags exact)

def fmaWord (np nd : Bool) (r t : BitVec 3) (b a d g : BitVec 4) (s : State) : Host.Outcome State Fault Refusal :=
  runWord s [a, b] (some d) g (fun st mask src =>
    laneWord (r == 4) (src a) (src b) (st.reg d.toNat) mask st
      (fun _ x y z dr => fmaLane t ((laneFmt t).getD fFP32) st.ftz r.toNat np nd x y z dr))

/-- `x.fma` (10 R226). -/
def execXFma (r t : BitVec 3) (b a d g : BitVec 4) (s : State) : Host.Outcome State Fault Refusal := fmaWord false false r t b a d g s

/-- `x.fms` (10 R226). -/
def execXFms (r t : BitVec 3) (b a d g : BitVec 4) (s : State) : Host.Outcome State Fault Refusal := fmaWord false true r t b a d g s

/-- `x.fnma` (10 R226). -/
def execXFnma (r t : BitVec 3) (b a d g : BitVec 4) (s : State) : Host.Outcome State Fault Refusal := fmaWord true false r t b a d g s

/-- `x.fnms` (10 R226). -/
def execXFnms (r t : BitVec 3) (b a d g : BitVec 4) (s : State) : Host.Outcome State Fault Refusal := fmaWord true true r t b a d g s

/-! ## Conversions (10 R227, R228) -/

/-- A value written by a conversion into a lane type. -/
def cvtLane (t : BitVec 3) (ftz : Bool) (rm draw : Nat) (x : Ext) : Lane × Flg :=
  let r := convert (tyDst t) x rm draw ftz
  (tyLane t r.bits, r.fl)

/-- `x.cvt` (10 R227). With RM = SR every guarded lane draws, also where nothing is rounded (log entry 99). -/
def execXCvt (sr r t : BitVec 3) (a d g : BitVec 4) (s : State) : Host.Outcome State Fault Refusal :=
  runWord s [a] (some d) g (fun st mask src =>
    laneWord (r == 4) (src a) [] [] mask st (fun _ x _ _ dr => cvtLane t st.ftz r.toNat dr (tyRead sr st.ftz x)))

/-- The destination of a plain narrow conversion. -/
def narrowDst : Narrow → Dst
  | .flt f sat => .flt f sat
  | .s8 => .int int8F

/-- The value of a narrow element outside MX. -/
def narrowVal (f : Narrow) (bits : Nat) : Ext :=
  match f with
  | .flt f _ => f.decode (bits % 2 ^ f.width)
  | .s8 => .ofInt (int8F.value bits)

/-- Blocks of 32 lanes. -/
def blocks32 : Nat → Beat → List Beat
  | 0, _ => []
  | n + 1, b => b.take 32 :: blocks32 n (b.drop 32)

/-- An MX lane: the element in the low bits and the block's scale in bits [15:8] (10 R228, 07 R159). A block whose values are all
zero has elements of 0, and so has one with a NaN or an infinity. -/
def mxLane (f : Narrow) (scale : Nat) (bad zero : Bool) (x : Ext) (mode draw : Nat) : Lane × Flg :=
  if bad then (BitVec.ofNat 32 (scale * 256), flNV)
  else if zero then (0, 0)
  else
    let r := mxElement f x scale mode draw
    (BitVec.ofNat 32 (scale * 256 + r.bits), r.fl)

/-- `x.cvtn` (10 R228). A block's scale reads all its lanes; its flags are set for its guarded lanes (log entry 33). -/
def execXCvtn (n c t : BitVec 3) (a d g : BitVec 4) (s : State) : Host.Outcome State Fault Refusal :=
  runWord s [a] (some d) g (fun st mask src =>
    let f := narrowOf n.toNat
    if c.toNat < 5 then
      laneWord (c == 4) (src a) [] [] mask st (fun _ x _ _ dr =>
        let r := convert (narrowDst f) (tyRead t st.ftz x) c.toNat dr st.ftz
        (BitVec.ofNat 32 r.bits, r.fl))
    else
      let blocks := (blocks32 6 (src a)).map (fun b =>
        let xs := b.map (tyRead t st.ftz)
        let (sc, bad) := mxScale f xs
        (sc, bad, xs.all (·.isZero)))
      laneWord (c == 6) (src a) [] [] mask st (fun l x _ _ dr =>
        let (sc, bad, zero) := blocks.getD (l / 32) (0, false, true)
        mxLane f sc bad zero (tyRead t st.ftz x) (if c = 6 then 4 else 0) dr))

/-- `x.cvtw` (10 R228). -/
def execXCvtw (n c t : BitVec 3) (a d g : BitVec 4) (s : State) : Host.Outcome State Fault Refusal :=
  runWord s [a] (some d) g (fun st mask src =>
    let f := narrowOf n.toNat
    laneWord (c == 4 || c == 6) (src a) [] [] mask st (fun _ x _ _ dr =>
      if c.toNat < 5 then cvtLane t st.ftz c.toNat dr (narrowVal f x.toNat)
      else cvtLane t st.ftz (if c = 6 then 4 else 0) dr (mxValue f x.toNat (x.toNat / 256))))

/-! ## Pack and unpack (10 R229, R230) -/

/-- A line of LG groups: exponent bytes, then the planes from the sign plane down (08 R164). -/
def lineBytes (p : Nat) (line : List (List Byte)) : List Byte :=
  (List.range (p + 1)).flatMap (fun j => line.map (fun g => g.getD j 0))

/-- The image of an ingot: the exponent byte, then planes p - 1 down to 0 (07 R153). -/
def Ingot.image (g : Ingot) (p : Nat) : List Byte :=
  BitVec.ofNat 8 g.e :: (List.range p).map (fun j => g.plane (p - 1 - j))

/-- Add groups of eight lanes to the line in progress. -/
def packGroups (t : BitVec 3) (p : Nat) (float sr : Bool) : Nat → Beat → Strip → List Byte → Strip × List Byte
  | 0, _, s, out => (s, out)
  | n + 1, b, s, out =>
    let g := 23 - n
    let s := if !s.packLine.isEmpty && s.packP != p then { s with packLine := [], flags := s.flags ||| flNV } else s
    let states := (s.sr.drop (8 * g)).take 8
    let after := if float && sr then states.map srStep else states
    let (ig, fl) := packIngot ((b.take 8).map (tyRead t s.ftz)) p float sr (after.map (·.toNat))
    let line := s.packLine ++ [ig.image p]
    let full := line.length == s.lg
    let s := { s with sr := s.sr.take (8 * g) ++ after ++ s.sr.drop (8 * g + 8), flags := s.flags ||| fl, packP := p
                      packLine := if full then [] else line }
    packGroups t p float sr n (b.drop 8) s (if full then out ++ lineBytes p line else out)

/-- `x.pack` (10 R229). -/
def execXPack (sr k : BitVec 1) (p : BitVec 4) (t : BitVec 3) (a : BitVec 4) (g : BitVec 1) (s : State) :
    Host.Outcome State Fault Refusal :=
  runWord s [a] none (14 + g.zeroExtend 4) (fun st _ src =>
    if g = 0 then { st := st }
    else
      let (st, out) := packGroups t (p.toNat + 1) (k == 0) (sr == 1) 24 (src a) st []
      { st := st, bytes := out })

/-- The element values of the 24 images of a beat, and which images are poisoned. -/
def unpackAll (p : Nat) (float : Bool) : Nat → List Byte → List (List Ext × Bool)
  | 0, _ => []
  | n + 1, l =>
    let e := (l.headD 0).toNat
    let g : Ingot := ⟨e, planesToInts p ((l.drop 1).take p)⟩
    (match g.values float with
     | none => (List.replicate 8 (.nan false), true)
     | some v => (v, false)) :: unpackAll p float n (l.drop (p + 1))

/-- `x.unpk` (10 R230, 07 R156). -/
def execXUnpk (k : BitVec 1) (p : BitVec 4) (t : BitVec 3) (a d g : BitVec 4) (s : State) : Host.Outcome State Fault Refusal :=
  runWord s [a] (some d) g (fun st mask src =>
    let images := unpackAll (p.toNat + 1) (k == 0) 24 (beatToBytes (src a))
    laneWord false [] [] [] mask st (fun l _ _ _ _ =>
      let (xs, bad) := images.getD (l / 8) ([], false)
      let (v, fl) := cvtLane t st.ftz 0 0 (xs.getD (l % 8) (.zero false))
      (v, fl ||| flIf bad flNV)))

/-! ## Transcendental and division (10 R231) -/

def rcpExt (x : Ext) : Option (Ext × Flg) :=
  match x with
  | .fin n m e _ => if m = 0 then some (.inf n, flDZ) else some (divFin n 1 0 m e, 0)
  | .inf n => some (.zero n, 0)
  | x => some (x, 0)

def rsqExt (x : Ext) : Option (Ext × Flg) :=
  match x with
  | .fin n m e _ => if m = 0 then some (.inf n, flDZ) else if n then none else some (rsqFin m e, 0)
  | .inf n => if n then none else some (.zero false, 0)
  | x => some (x, 0)

def sqrtExt (x : Ext) : Option (Ext × Flg) :=
  match x with
  | .fin n m e _ => if m = 0 then some (.zero n, 0) else if n then none else some (sqrtFin m e, 0)
  | .inf n => if n then none else some (.inf false, 0)
  | x => some (x, 0)

def exp2Ext (x : Ext) : Option (Ext × Flg) :=
  match x with
  | .fin n m e _ => if m = 0 then some (.ofInt 1, 0) else some (exp2Fin n m e, 0)
  | .inf n => some (if n then .zero false else .inf false, 0)
  | x => some (x, 0)

def log2Ext (x : Ext) : Option (Ext × Flg) :=
  match x with
  | .fin n m e _ => if m = 0 then some (.inf true, flDZ) else if n then none else some (log2Fin m e, 0)
  | .inf n => if n then none else some (.inf false, 0)
  | x => some (x, 0)

def divExt (x y : Ext) : Option (Ext × Flg) :=
  match x, y with
  | .fin n m e _, .fin n' m' e' _ =>
    if m' = 0 then (if m = 0 then none else some (.inf (n != n'), flDZ))
    else if m = 0 then some (.zero (n != n'), 0)
    else some (divFin (n != n') m e m' e', 0)
  | .fin n _ _ _, .inf n' => some (.zero (n != n'), 0)
  | .inf n, .fin n' _ _ _ => some (.inf (n != n'), 0)
  | .inf _, .inf _ => none
  | x, _ => some (x, 0)

/-- A one-source word of the function strip. -/
def funcWord (r t : BitVec 3) (a d g : BitVec 4) (fl : Ext → Option (Ext × Flg)) (s : State) : Host.Outcome State Fault Refusal :=
  runWord s [a] (some d) g (fun st mask src =>
    laneWord (r == 4) (src a) [] [] mask st (fun _ x _ _ dr =>
      let v := tyRead t st.ftz x
      floatRes t ((laneFmt t).getD fFP32) st.ftz r.toNat dr [v] false (fl v)))

/-- `x.rcp` (10 R231). -/
def execXRcp (r t : BitVec 3) (a d g : BitVec 4) (s : State) : Host.Outcome State Fault Refusal := funcWord r t a d g rcpExt s

/-- `x.rsq` (10 R231). -/
def execXRsq (r t : BitVec 3) (a d g : BitVec 4) (s : State) : Host.Outcome State Fault Refusal := funcWord r t a d g rsqExt s

/-- `x.sqrt` (10 R231). -/
def execXSqrt (r t : BitVec 3) (a d g : BitVec 4) (s : State) : Host.Outcome State Fault Refusal := funcWord r t a d g sqrtExt s

/-- `x.exp2` (10 R231). -/
def execXExp2 (r t : BitVec 3) (a d g : BitVec 4) (s : State) : Host.Outcome State Fault Refusal := funcWord r t a d g exp2Ext s

/-- `x.log2` (10 R231). -/
def execXLog2 (r t : BitVec 3) (a d g : BitVec 4) (s : State) : Host.Outcome State Fault Refusal := funcWord r t a d g log2Ext s

/-- `x.div` (10 R231). -/
def execXDiv (r t : BitVec 3) (b a d g : BitVec 4) (s : State) : Host.Outcome State Fault Refusal :=
  runWord s [a, b] (some d) g (fun st mask src =>
    laneWord (r == 4) (src a) (src b) [] mask st (fun _ x y _ dr =>
      let v := tyRead t st.ftz x
      let w := tyRead t st.ftz y
      floatRes t ((laneFmt t).getD fFP32) st.ftz r.toNat dr [v, w] false (divExt v w)))

/-! ## Compare, select and predicates (10 R232, R233) -/

/-- A comparison: true with no NaN when `fl` or `int` holds, `un` with a NaN, which raises NV when `nv`. -/
def cmpWord (t : BitVec 3) (b a d g : BitVec 4) (fl : Ext → Ext → Bool) (int : Int → Int → Bool) (un nv : Bool) (s : State) :
    Host.Outcome State Fault Refusal :=
  runWord s [a, b] none g (fun st mask src =>
    let r := laneWord false (src a) (src b) [] mask st (fun _ x y _ _ =>
      match laneFmt t with
      | some _ =>
        let v := tyRead t st.ftz x
        let w := tyRead t st.ftz y
        if v.isNan || w.isNan then (if un then 1 else 0, flIf nv flNV) else (if fl v w then 1 else 0, 0)
      | none => (if int (tyVal t x) (tyVal t y) then 1 else 0, 0))
    { st := r.st.setPair d.toNat mask (BitVec.ofNat 192 (laneBits (fun v => v != 0) 0 (r.out.getD []))) })

/-- `x.ceq` (10 R232). -/
def execXCeq (t : BitVec 3) (b a d g : BitVec 4) (s : State) : Host.Outcome State Fault Refusal :=
  cmpWord t b a d g eqExt (fun x y => x == y) false false s

/-- `x.clt` (10 R232). -/
def execXClt (t : BitVec 3) (b a d g : BitVec 4) (s : State) : Host.Outcome State Fault Refusal :=
  cmpWord t b a d g ltExt (fun x y => x < y) false true s

/-- `x.cle` (10 R232). -/
def execXCle (t : BitVec 3) (b a d g : BitVec 4) (s : State) : Host.Outcome State Fault Refusal :=
  cmpWord t b a d g (fun x y => ltExt x y || eqExt x y) (fun x y => x ≤ y) false true s

/-- `x.cun` (10 R232). -/
def execXCun (t : BitVec 3) (b a d g : BitVec 4) (s : State) : Host.Outcome State Fault Refusal :=
  cmpWord t b a d g (fun _ _ => false) (fun _ _ => false) true false s

/-- `x.sel` (10 R233). -/
def execXSel (sp b a d g : BitVec 4) (s : State) : Host.Outcome State Fault Refusal :=
  rawWord [a, b] d g (fun st src => mergeLanes (st.pred sp.toNat) 0 (src a) (src b)) s

/-- `x.pand` (10 R233). -/
def execXPand (o : BitVec 2) (b a d g : BitVec 4) (s : State) : Host.Outcome State Fault Refusal :=
  runWord s [] none g (fun st mask _ =>
    let x := st.pred a.toNat
    let y := st.pred b.toNat
    { st := st.setPred d.toNat mask
        (match o.toNat with
         | 0 => x &&& y
         | 1 => x ||| y
         | 2 => x ^^^ y
         | _ => x &&& ~~~y) })

/-- `x.pmov p2k, vA` (10 R233): a lane of a 16-bit TYPE is its low half (10 R207). -/
def execXPmovToP (t : BitVec 3) (a d g : BitVec 4) (s : State) : Host.Outcome State Fault Refusal :=
  runWord s [a] none g (fun st mask src =>
    { st := st.setPair d.toNat mask (BitVec.ofNat 192 (laneBits (fun v => v.toNat % 2 ^ tyWidth t != 0) 0 (src a))) })

/-- `x.pmov vD, pS` (10 R233). -/
def execXPmovToV (_ : BitVec 3) (a d g : BitVec 4) (s : State) : Host.Outcome State Fault Refusal :=
  rawWord [] d g (fun st _ => (List.range 192).map (fun l => if (st.pred a.toNat).getLsbD l then 1 else 0)) s

/-! ## Reductions and movement (10 R234, R235) -/

/-- Rows of the shape (10 R209); columns are 192 over it. -/
def shpRows (c : Nat) : Nat := [1, 2, 3, 4, 6, 8, 12, 16, 24, 32, 48, 64, 96, 192].getD c 1

/-- The rows of a beat of `nc` columns. -/
def rowsOf (nr nc : Nat) (b : Beat) : List Beat := (List.range nr).map (fun r => (b.drop (nc * r)).take nc)

/-- The columns of a beat. -/
def colsOf (nr nc : Nat) (b : Beat) : List Beat := (List.range nc).map (fun c => (List.range nr).map (fun r => b.getD (nc * r + c) 0))

/-- Reduce each row or column; the flags of one with a guarded lane are set. -/
def reduceWord (rows : Bool) (f : Bool → Beat → Lane × Flg) (a d g : BitVec 4) (s : State) : Host.Outcome State Fault Refusal :=
  runWord s [a] (some d) g (fun st mask src =>
    let nr := shpRows st.shp
    let nc := 192 / nr
    let rs := (if rows then rowsOf nr nc (src a) else colsOf nr nc (src a)).map (f st.ftz)
    let ix (l : Nat) : Nat := if rows then l / nc else l % nc
    let fl := (List.range 192).foldl (fun fl l => if mask.getLsbD l then fl ||| (rs.getD (ix l) (0, 0)).2 else fl) st.flags
    { st := { st with flags := fl }
      out := some ((List.range 192).map (fun l => (rs.getD (ix l) (0, 0)).1)) })

/-- The sum of a row or column. -/
def sumLanes (m : BitVec 6) (t : BitVec 3) (ftz : Bool) (l : Beat) : Lane × Flg :=
  match laneFmt t with
  | some f =>
    let xs := l.map (tyRead t ftz)
    floatRes t f ftz (modRm m) 0 xs false (noFlags (sumExt (modRm m) xs))
  | none => intRes t (modSat m) ((l.map (tyVal t)).foldl (· + ·) 0)

/-- The fold of a minimum or maximum. -/
def foldLanes (t : BitVec 3) (fl : Ext → Ext → Ext) (int : Int → Int → Int) (ftz : Bool) (l : Beat) : Lane × Flg :=
  match laneFmt t with
  | some f =>
    match l.map (tyRead t ftz) with
    | [] => (0, 0)
    | x :: xs => exactLane t f (xs.foldl fl x)
  | none =>
    match l.map (tyVal t) with
    | [] => (0, 0)
    | x :: xs => intRes t false (xs.foldl int x)

/-- `x.rsum` (10 R234). -/
def execXRsum (m : BitVec 6) (t : BitVec 3) (a d g : BitVec 4) (s : State) : Host.Outcome State Fault Refusal :=
  reduceWord true (sumLanes m t) a d g s

/-- `x.csum` (10 R234). -/
def execXCsum (m : BitVec 6) (t : BitVec 3) (a d g : BitVec 4) (s : State) : Host.Outcome State Fault Refusal :=
  reduceWord false (sumLanes m t) a d g s

/-- `x.rmax` (10 R234). -/
def execXRmax (t : BitVec 3) (a d g : BitVec 4) (s : State) : Host.Outcome State Fault Refusal :=
  reduceWord true (foldLanes t maxExt max) a d g s

/-- `x.cmax` (10 R234). -/
def execXCmax (t : BitVec 3) (a d g : BitVec 4) (s : State) : Host.Outcome State Fault Refusal :=
  reduceWord false (foldLanes t maxExt max) a d g s

/-- `x.rmin` (10 R234). -/
def execXRmin (t : BitVec 3) (a d g : BitVec 4) (s : State) : Host.Outcome State Fault Refusal :=
  reduceWord true (foldLanes t minExt min) a d g s

/-- `x.cmin` (10 R234). -/
def execXCmin (t : BitVec 3) (a d g : BitVec 4) (s : State) : Host.Outcome State Fault Refusal :=
  reduceWord false (foldLanes t minExt min) a d g s

/-- A movement under SHP: lane (r, c) takes the lane that `f nr nc r c` names. -/
def moveLanes (shp : Nat) (a : Beat) (f : Nat → Nat → Nat → Nat → Nat) : Beat :=
  let nr := shpRows shp
  let nc := 192 / nr
  (List.range 192).map (fun l => a.getD (f nr nc (l / nc) (l % nc)) 0)

def lane0 (b : Beat) : Nat := (b.headD 0).toNat

/-- `x.bcr` (10 R235). -/
def execXBcr (b a d g : BitVec 4) (s : State) : Host.Outcome State Fault Refusal :=
  rawWord [a, b] d g (fun st src => moveLanes st.shp (src a) (fun nr nc _ c => lane0 (src b) % nr * nc + c)) s

/-- `x.bcc` (10 R235). -/
def execXBcc (b a d g : BitVec 4) (s : State) : Host.Outcome State Fault Refusal :=
  rawWord [a, b] d g (fun st src => moveLanes st.shp (src a) (fun _ nc r _ => r * nc + lane0 (src b) % nc)) s

/-- `x.tr`: lane c·nr + r takes lane r·nc + c (10 R235). -/
def execXTr (a d g : BitVec 4) (s : State) : Host.Outcome State Fault Refusal :=
  rawWord [a] d g (fun st src =>
    moveLanes st.shp (src a) (fun nr nc r c => let l := r * nc + c; (l % nr) * nc + l / nr)) s

/-- `x.rot.r` (10 R235). -/
def execXRotR (b a d g : BitVec 4) (s : State) : Host.Outcome State Fault Refusal :=
  rawWord [a, b] d g (fun st src => moveLanes st.shp (src a) (fun _ nc r c => r * nc + (c + lane0 (src b)) % nc)) s

/-- `x.rot.c` (10 R235). -/
def execXRotC (b a d g : BitVec 4) (s : State) : Host.Outcome State Fault Refusal :=
  rawWord [a, b] d g (fun st src => moveLanes st.shp (src a) (fun nr nc r c => (r + lane0 (src b)) % nr * nc + c)) s

/-- `x.perm` (10 R235). -/
def execXPerm (b a d g : BitVec 4) (s : State) : Host.Outcome State Fault Refusal :=
  rawWord [a, b] d g (fun _ src => (src b).map (fun v => (src a).getD (v.toNat % 192) 0)) s

/-! ## Shape, idle, posting, flags and mode (10 R235 to R239) -/

/-- A word with no register that changes the strip, under guard 15 only. -/
def plainWord (g : BitVec 1) (f : Strip → Strip) (s : State) : Host.Outcome State Fault Refusal :=
  runWord s [] none (14 + g.zeroExtend 4) (fun st _ _ => { st := if g = 1 then f st else st })

/-- `x.shp` (10 R235). -/
def execXShp (n : BitVec 4) (g : BitVec 1) (s : State) : Host.Outcome State Fault Refusal :=
  plainWord g (fun st => { st with shp := n.toNat }) s

/-- `x.idle` paces the strip and changes no state (10 R236). -/
def execXIdle (_ : BitVec 6) (g : BitVec 1) (s : State) : Host.Outcome State Fault Refusal := plainWord g id s

/-- `x.post`: the record is lanes 0 to 31, held until the group retires (10 R237). -/
def execXPost (a : BitVec 4) (g : BitVec 1) (s : State) : Host.Outcome State Fault Refusal :=
  runWord s [a] none (14 + g.zeroExtend 4) (fun st _ src =>
    { st := if g = 1 then { st with posts := st.posts ++ [BitVec.ofNat 1024 (leNat ((beatToBytes (src a)).take 128))] } else st })

/-- `x.flg` (10 R238). -/
def execXFlg (c : BitVec 1) (d g : BitVec 4) (s : State) : Host.Outcome State Fault Refusal :=
  runWord s [] (some d) g (fun st mask _ =>
    { st := if c = 1 && mask != 0 then { st with flags := 0 } else st
      out := some (List.replicate 192 (st.flags.zeroExtend 32)) })

/-- `x.mode`: FTZ, and LG on the convert strip (10 R239). -/
def setMode (h : BitVec 3) (f : BitVec 1) (st : Strip) : Strip :=
  let st := { st with ftz := f == 1 }
  if h = 0 || st.lg = 192 * h.toNat then st
  else if st.packLine.isEmpty then { st with lg := 192 * h.toNat }
  else { st with lg := 192 * h.toNat, packLine := [], flags := st.flags ||| flNV }

def execXMode (h : BitVec 3) (f : BitVec 1) (g : BitVec 1) (s : State) : Host.Outcome State Fault Refusal :=
  plainWord g (setMode h f) s

/-- A strip that forwards moves one beat from its in-port A to its out-port (10 R217). -/
def forwardStep (k : Nat) (h : Chain) : Chain :=
  let s := h.strip k
  if !(h.running && s.busy) || (h.port (inA k)).isEmpty || !h.room k then h
  else
    let b := (h.port (inA k)).headD zeroBeat
    ((h.pop (inA k)).setStrip k
      (if s.iter + 1 < s.prog.nr then { s with iter := s.iter + 1 } else { s with iter := 0, busy := false })).emit k b

end Sys2Proof.Machine
end

