-- ==== Sys2Proof/Machine/Matrix.lean ====
section
/-! DEFINITION. What a matrix entry does when it executes: the accumulator space, the stationary B, the sums in their fixed order,
and the drains, fills, clears, routings and links (08 R160 to R178, 09 R185 to R196). -/

namespace Sys2Proof.Machine

/-! ## Accumulator rows (08 R174) -/

/-- An accumulator element: its word and its PZ bit. -/
abbrev AccElem := Lane × Bool

/-- Row `row` of bank `b`, or nothing when it is dead. -/
def Die.bankRow? (v : Die) (b row : Nat) : Option BankRow := mget? (mgetD v.banks b []) row

def Die.setBankRow (v : Die) (b row : Nat) (r : BankRow) : Die :=
  { v with banks := mset v.banks b (mset (mgetD v.banks b []) row r) }

def Die.killBankRow (v : Die) (b row : Nat) : Die :=
  { v with banks := mset v.banks b (merase (mgetD v.banks b []) row) }

/-- The bank of block column `j` that holds row `row` of a fragment. -/
def Ctx.bankOf (c : Ctx) (row j : Nat) : Nat := c.blocks.getD (row / 256 * c.w + j) c.lead

/-- One row of the accumulator space as each bank holds it: the elements of a dead bank row are `none`. -/
def accRow (v : Die) (c : Ctx) (row : Nat) : List (Option AccElem) :=
  (List.range c.w).flatMap (fun j =>
    match v.bankRow? (c.bankOf row j) (row % 256) with
    | none => List.replicate 192 none
    | some r => (List.range 192).map (fun k => some (r.vals.getD k 0, r.pz.getLsbD k)))

/-- The elements of a row with dead ones reading as +0. -/
def accVals (v : Die) (c : Ctx) (row : Nat) : List AccElem := (accRow v c row).map (·.getD (0, false))

/-- PZ bits as a bit vector. -/
def pzBits : Nat → List AccElem → Nat
  | _, [] => 0
  | k, a :: t => (if a.2 then 2 ^ k else 0) + pzBits (k + 1) t

def bankRowOf (l : List AccElem) : BankRow := { vals := l.map (·.1), pz := BitVec.ofNat 192 (pzBits 0 l) }

/-- Write a whole row, which becomes live. -/
def setAccRow (c : Ctx) (row : Nat) (l : List AccElem) (v : Die) : Die :=
  (List.range c.w).foldl (fun v j => v.setBankRow (c.bankOf row j) (row % 256) (bankRowOf ((l.drop (192 * j)).take 192))) v

/-- The element of a row at a column is poisoned by an uncorrectable error (08 R172, 20 R403). -/
def accBad (v : Die) (c : Ctx) (row col : Nat) : Bool :=
  ((v.bankRow? (c.bankOf row (col / 192)) (row % 256)).map (fun r => r.ecc.getLsbD (col % 192))).getD false

/-- Some element of a row is poisoned. -/
def rowBad (v : Die) (c : Ctx) (row : Nat) : Bool :=
  (List.range c.w).any (fun j => ((v.bankRow? (c.bankOf row j) (row % 256)).map (fun r => r.ecc != 0)).getD false)

/-- The poison of a row's elements stays when a run adds to them: `old` holds the row as it was. -/
def keepBad (old : Die) (c : Ctx) (row : Nat) (v : Die) : Die :=
  if rowBad old c row then
    (List.range c.w).foldl (fun v j =>
      match v.bankRow? (c.bankOf row j) (row % 256), old.bankRow? (c.bankOf row j) (row % 256) with
      | some r, some o => v.setBankRow (c.bankOf row j) (row % 256) { r with ecc := o.ecc }
      | _, _ => v) v
  else v

/-- A row becomes dead. -/
def killRow (c : Ctx) (row : Nat) (v : Die) : Die :=
  (List.range c.w).foldl (fun v j => v.killBankRow (c.bankOf row j) (row % 256)) v

/-- The rows of a row command: DROWS rows from `row0`, or all of them. -/
def rowsOfCmd (c : Ctx) (p : Params) (all : Bool) (row0 : Nat) : List Nat :=
  if all then List.range (256 * c.h) else (List.range p.drows).map (row0 + ·)

/-! ## Stationary B (08 R161, R165, R178) -/

/-- A group whose bytes are uncorrectable is a poisoned group: its exponent bytes are 0xFF (09 R183). The bytes of a panel line in
the layout of 08 R165. -/
def settleLine (bw sp : Nat) (l : List (Byte × Bool)) : List Byte :=
  let gpr := gprOf sp
  let cols := panelCols bw
  let masks := if sp = 0 then 0 else 192 * gpr
  let bytes := l.map (·.1)
  if l.all (fun b => !b.2) then bytes
  else
    (List.range bytes.length).map (fun k =>
      let x := k % cols
      let t := k / cols
      let bad (i : Nat) : Bool := (l.getD i (0, false)).2
      if k < gpr * cols &&
        (bad k || (sp != 0 && bad (gpr * cols + t * 192 + x % 192)) ||
          (List.range (bBits bw)).any (fun j => bad (gpr * cols + masks + j * cols + x)))
      then 0xFF else bytes.getD k 0)

/-- The lines of a block of the fragment from the panels at `base` (09 R187). -/
def loadBlock (v : Die) (c : Ctx) (bw sp base a j : Nat) : BBlock :=
  let len := bLine bw sp
  { bw := bw, sp := sp
    lines := (List.range 192).map (fun r =>
      (r, settleLine bw sp (winRead v c (base + (192 * c.h * j + 192 * a + r) * len) len))) }

/-- `mx.ldb` of one repetition: the blocks of the fragment. -/
def loadB (c : Ctx) (bw sp base : Nat) (v : Die) : Die :=
  (List.range (c.h * c.w)).foldl (fun v' k =>
    { v' with bmat := mset v'.bmat (c.blocks.getD k c.lead) (loadBlock v c bw sp base (k / c.w) (k % c.w)) }) v

/-- Some byte of a range is uncorrectable. -/
def winBad (v : Die) (c : Ctx) (off n : Nat) : Bool := (winRead v c off n).any (·.2)

/-- The positions of the set bits of a mask byte, in ascending order. -/
def keptOfMask (m : Byte) : List Nat := (List.range 8).filter (fun k => m.getLsbD k)

/-- The value of lane `l` of column `x` of a line, as the pass reads it: two's complement of 4 or 8 bits; of a 16-bit B the high
byte signed and scaled in the high pass, the low byte in the low pass (08 R162). -/
def laneVal (bw sp pass : Nat) (line : List Byte) (x l : Nat) : Int :=
  let pb := bBits bw
  let base := maskLo bw sp + (if sp = 0 then 0 else 192 * gprOf sp)
  let bits := (List.range pb).foldl (fun acc j =>
    acc + (if (line.getD (base + j * panelCols bw + x) 0).getLsbD l then 2 ^ (pb - 1 - j) else 0)) 0
  if bw = 2 then (if pass = 0 then (⟨8, true⟩ : IFmt).value (bits / 256) * 256 else bits % 256)
  else (⟨pb, true⟩ : IFmt).value bits

/-- A group of A: its exponent byte, whether it is poisoned, and its significands. -/
structure AGroup where
  e : Nat
  bad : Bool
  a : List Int

/-- Group `g` of an A line (08 R164). -/
def aGroup (ng pa : Nat) (line : List (Byte × Bool)) (g : Nat) : AGroup :=
  let at_ (i : Nat) : Byte × Bool := line.getD i (0, false)
  let planes := (List.range pa).map (fun j => at_ (ng * (1 + j) + g))
  { e := (at_ g).1.toNat, bad := (at_ g).2 || planes.any (·.2), a := planesToInts pa (planes.map (·.1)) }

/-- What group `g` gives column `x` of a line: the group product, the sum of the exponent bytes, and whether it is poisoned
(08 R162, R167, R172). An unlisted line is the zero ingot. A mask that no longer has N bits, because a write changed it between the
checks at issue and the load, gives element 0 for a kept position it lacks and drops what it has above N (log entry 97). -/
def groupOut (bw sp pass : Nat) (line : List Byte) (x t : Nat) (a : AGroup) : Int × Nat × Bool :=
  let eb := (line.getD (t * panelCols bw + x) 0).toNat
  let n := keptOf sp
  let kept := if sp = 0 then List.range 8 else keptOfMask (line.getD (maskLo bw sp + t * 192 + x % 192) 0)
  let g := (List.range n).foldl (fun (acc : Int) j =>
    acc + a.a.getD (kept.getD j 0) 0 * laneVal bw sp pass line x (t * n + j)) 0
  (g, a.e + eb, a.bad || a.e == 0xFF || eb == 0xFF)

/-- The line of PE row `r` and panel column `x` of block column `j`. -/
def bLineOf (v : Die) (c : Ctx) (j r : Nat) : List Byte :=
  mgetD (mgetD v.bmat (c.blocks.getD (r / 192 * c.w + j) c.lead) {}).lines (r % 192) []

/-- A block of column `j` that holds a B of another width or sparsity, as a fuse may leave one: the spec states no result (log
entry 11). -/
def columnMixed (v : Die) (c : Ctx) (bw sp j : Nat) : Bool :=
  (List.range c.h).any (fun a =>
    let b := mgetD v.bmat (c.blocks.getD (a * c.w + j) c.lead) {}
    b.bw != bw || b.sp != sp)

/-! ## Sums (08 R168, R171, R172) -/

/-- ColSum and the rounding of a column step. -/
def colStep (c : Lane) (y : Ext) : Lane :=
  rne32 ((addExt 0 (fFP32.read false c.toNat) y).getD (.nan false) |> fun x => if x.isNan then .nan false else x)

/-- The column sum of float mode, in increasing group order. -/
def floatCol (gs : List (Int × Nat × Bool)) : Lane :=
  gs.foldl (fun c g =>
    colStep c (if g.2.2 then .nan false else if g.1 = 0 then .zero false else (Ext.ofInt g.1).scale ((g.2.1 : Int) - 254))) 0

/-- Step32: wrap or saturate. -/
def step32 (sat : Bool) (x : Int) : Int :=
  if sat then (⟨32, true⟩ : IFmt).clamp x |>.1 else (BitVec.ofInt 32 x).toInt

def intCol (sat : Bool) (gs : List (Int × Nat × Bool)) : Int := gs.foldl (fun c g => step32 sat (c + g.1)) 0

/-- The update of one accumulator element by one pass. -/
def accUpdate (mode : Nat) (gs : List (Int × Nat × Bool)) (a : AccElem) : AccElem :=
  if mode = 0 then
    if a.2 then a else (colStep a.1 (fFP32.read false (floatCol gs).toNat), false)
  else if gs.any (·.2.2) then (a.1, true)
  else if a.2 then a
  else (BitVec.ofInt 32 (step32 (mode == 2) (a.1.toInt + intCol (mode == 2) gs)), false)

/-- The groups of output column `n` for an A line. -/
def columnGroups (v : Die) (c : Ctx) (bw sp pass : Nat) (as : List AGroup) (n : Nat) : List (Int × Nat × Bool) :=
  let cols := panelCols bw
  let gpr := gprOf sp
  (List.range (192 * c.h)).flatMap (fun r =>
    let line := bLineOf v c (n / cols) r
    (List.range gpr).map (fun t => groupOut bw sp pass line (n % cols) t (as.getD (r * gpr + t) ⟨0, false, []⟩)))

/-- An exponent byte of 0xFF stands in the B lines of column `col` of block column `j`, each block in the layout of its own B (08 R165,
R172); `h` is the half of a 4-bit row. -/
def blockPoison (v : Die) (c : Ctx) (j h col : Nat) : Bool :=
  (List.range c.h).any (fun a =>
    let b := mgetD v.bmat (c.blocks.getD (a * c.w + j) c.lead) {}
    let x := if b.bw = 0 then 192 * h + col else col
    b.lines.any (fun l => l.1 < 192 && (List.range (gprOf b.sp)).any (fun t => l.2.getD (t * panelCols b.bw + x) 0 == 0xFF)))

/-- The update of an element of a mixed column: poison and PZ act as 08 R172 gives, and the value is free (log entry 11). -/
def mixedUpdate (mode : Nat) (poisoned : Bool) (free : Lane) (a : AccElem) : AccElem :=
  if mode = 0 then
    if a.2 then a else (if poisoned then 0x7FC0_0000 else free, false)
  else if poisoned then (a.1, true)
  else if a.2 then a
  else (free, false)

/-- The first output column that a row's element (col) takes from an A row: with 4-bit B, half `h` of its block column (08 R175). -/
def outColumn (bw h col : Nat) : Nat := if bw = 0 then 384 * (col / 192) + 192 * h + col % 192 else col

/-- Apply one A line to one accumulator row, in one pass; `free` numbers the free values of mixed columns. -/
def runRow (v : Die) (c : Ctx) (bw sp pass mode : Nat) (as : List AGroup) (row h free : Nat) : Die :=
  let old := accVals v c row
  keepBad v c row (setAccRow c row ((List.range (192 * c.w)).map (fun col =>
    let a := old.getD col (0, false)
    if columnMixed v c bw sp (col / 192) then
      mixedUpdate mode (as.any (fun g => g.bad || g.e == 0xFF) || blockPoison v c (col / 192) h (col % 192))
        ((Config.freeWord (free + col)).truncate 32) a
    else accUpdate mode (columnGroups v c bw sp pass as (outColumn bw h col)) a)) v)

/-- Free values that an A line of a run may take: one for each element it updates. -/
def lineFree (c : Ctx) (bw : Nat) : Nat := runRows bw 1 * (192 * c.w)

/-- One A line of a run: one accumulator row, or two with 4-bit B. -/
def runLine (c : Ctx) (bw sp pass mode pa : Nat) (line : List (Byte × Bool)) (row0 m free : Nat) (v : Die) : Die :=
  let ng := c.ng sp
  let as := (List.range ng).map (aGroup ng pa line)
  if bw = 0 then runRow (runRow v c bw sp pass mode as (row0 + 2 * m) 0 free) c bw sp pass mode as (row0 + 2 * m + 1) 1
    (free + 192 * c.w)
  else runRow v c bw sp pass mode as (row0 + m) 0 free

/-! ## Progress of a matrix entry -/

/-- Where a matrix entry stands after it has gone as far as it can. -/
structure MatRes where
  y : Sys
  e : Entry
  done : Bool

/-- Bytes a link or the bypass buffer holds at most (09 R194). -/
def linkCap : Nat := 12288

/-- The sibling to the left by position, retired or not, whose link the fragment reads (09 R195). -/
def leftEver (y : Sys) (d : Nat) (c : Ctx) : Nat :=
  ((List.range c.grove.length).find? (fun n => n != c.piece &&
    ((y.piece? d c n).map (fun a => a.lead / 6 == c.lead / 6 && a.h == c.h && c.lead % 6 == a.lead % 6 + a.w)).getD false)).getD 0

/-- The bytes waiting for a run from a link or from the bypass buffer. -/
def runSource (y : Sys) (d : Nat) (c : Ctx) (link : Bool) : List Byte :=
  if link then mgetD c.links (leftEver y d c) [] else c.bypass

def dropSource (y : Sys) (d l n : Nat) (link : Bool) : Sys :=
  let k := leftEver y d (y.ctx d l)
  y.modCtx d l (fun c =>
    if link then { c with links := mset c.links k ((mgetD c.links k []).drop n) } else { c with bypass := c.bypass.drop n })

/-- One repetition of a run from the window. -/
def runRep (d : Nat) (c : Ctx) (bw sp pa mode : Nat) (p : Params) (x : Nat × Nat) (y : Sys) : Sys :=
  let la := c.aLine sp pa
  let st := aStride p la
  let passes := if bw = 2 then [0, 1] else [0]
  passes.foldl (fun y pass =>
    (List.range p.mrows).foldl (fun y m =>
      let free := y.used
      let y := { y with used := y.used + lineFree c bw }
      y.modDie d (fun v => runLine c bw sp pass mode pa (winRead v c (x.1 + m * st) la) x.2 m free v)) y) y

/-- Some accumulator element that a run of `m` A rows updates is poisoned. -/
def rowsBad (v : Die) (c : Ctx) (bw row0 m : Nat) : Bool := (List.range (runRows bw m)).any (fun t => rowBad v c (row0 + t))

/-- A line of the fragment's stationary B is uncorrectable. -/
def statBad (v : Die) (c : Ctx) : Bool := c.blocks.any (fun b => !(mgetD v.bmat b {}).ecc.isEmpty)

/-- Some A byte that a run reads is uncorrectable, or some line of B, or some element it adds to (09 R183). -/
def runBad (v : Die) (c : Ctx) (bw sp pa : Nat) (p : Params) (x : Nat × Nat) : Bool :=
  let la := c.aLine sp pa
  (List.range p.mrows).any (fun m => winBad v c (x.1 + m * aStride p la) la) || statBad v c || rowsBad v c bw x.2 p.mrows

/-- Bytes of a link or bypass buffer that are taken for a line of which `n` bytes are missing: as many as complete it, and fewer only when the
buffer can take no further beat (09 R190, R194; log entry 127). -/
def takeable (held n : Nat) : Nat := if n ≤ held then n else if linkCap < held + beatBytes then held else 0

/-- A run from a link or the bypass, line by line while whole lines have come; a line longer than the buffer is taken in parts, which the
entry keeps (09 R190). -/
def runStream (d l : Nat) (link : Bool) (pm : BitVec 4) (mode : Nat) : Nat → Sys → Entry → MatRes
  | 0, y, e => ⟨y, e, false⟩
  | fuel + 1, y, e =>
    let c := y.ctxFor d l e
    let la := c.aLine e.eB.2 (pm.toNat + 1)
    if e.reps.length ≤ e.rep then ⟨y, e, true⟩
    else
      let have_ := runSource y d c link
      let take := takeable have_.length (la - e.buf.length)
      let buf := e.buf ++ have_.take take
      let y := dropSource y d l take link
      if buf.length < la then ⟨y, { e with buf := buf }, false⟩
      else
        let free := y.used
        let y := { y with used := y.used + lineFree c e.eB.1 }
        let row0 := ((e.reps[e.rep]?).getD (0, 0)).2
        let bad := statBad (y.die d) c || rowsBad (y.die d) c e.eB.1 (row0 + runRows e.eB.1 e.pos) 1
        let y := y.modDie d (runLine c e.eB.1 e.eB.2 0 mode (pm.toNat + 1) (clean buf) row0 e.pos free)
        let e := { e with buf := [], bad := e.bad || bad }
        runStream d l link pm mode fuel (countEvent y c.part 1 1)
          (if e.pos + 1 < e.params.mrows then { e with pos := e.pos + 1 } else { e with pos := 0, rep := e.rep + 1 })

/-- The words a drain presents for a row, and whether an element's PZ was 1 (09 R191). -/
def drainWords (v : Die) (c : Ctx) (row : Nat) : List Lane × Bool :=
  let l := accRow v c row
  (l.map (fun a => match a with | none => 0 | some (x, pz) => if pz then 0x80000000 else x), l.any (fun a => (a.map (·.2)).getD false))

/-- The bytes that a drain writes for a row: the words, those of poisoned elements with their poison (20 R403). -/
def drainBytes (v : Die) (c : Ctx) (row : Nat) : List (Byte × Bool) :=
  ((drainWords v c row).1.mapIdx (fun col w => (leSplit 4 w.toNat).map (fun b => (b, accBad v c row col)))).flatten

/-- One row of `mx.drn`. -/
def drainRow (d l : Nat) (c : Ctx) (clr : Bool) (row dst : Nat) (y : Sys) : Sys :=
  let pzd := (drainWords (y.die d) c row).2
  let y := y.modDie d (fun v =>
    let v := winWrite v c dst (drainBytes v c row)
    if clr then killRow c row v else v)
  y.modCtx d l (fun c => { c with pzd := c.pzd || pzd })

/-- One row of `mx.fill`. -/
def fillRow (d : Nat) (c : Ctx) (row src : Nat) (y : Sys) : Sys :=
  y.modDie d (fun v => setAccRow c row ((lanesOf (192 * c.w) ((winRead v c src (768 * c.w)).map (·.1))).map (fun w => (w, false))) v)

/-- `mx.drnx`: one row, when each of its in-ports has room; `pos` counts the rows of the repetition (09 R192; log entry 116). The words of
elements with an uncorrectable error are those stored (log entry 38). A turn moves one row and no more, so that beats of `mx.drnx` and of
a feed to a0 may come in any order (10 R205). -/
def drainBeat (d l : Nat) (clr : Bool) (y : Sys) (e : Entry) : MatRes :=
  let c := y.ctxFor d l e
  let row := ((e.reps[e.rep]?).getD (0, 0)).1 + e.pos
  if (List.range c.w).any (fun j => portDepth ≤ (((c.chains[j]?).map (fun h => (h.port 0).length)).getD 0)) then ⟨y, e, false⟩
  else
    let (ws, pzd) := drainWords (y.die d) c row
    let bad := rowBad (y.die d) c row
    let y := (List.range c.w).foldl (fun y j => y.modChain d l j (fun h => h.push 0 ((ws.drop (192 * j)).take 192))) y
    let y := y.modCtx d l (fun c => { c with pzd := c.pzd || pzd })
    let y := if clr then y.modDie d (killRow c row) else y
    let e := { (if e.pos + 1 < e.params.drows then { e with pos := e.pos + 1 } else { e with pos := 0, rep := e.rep + 1 }) with
      bad := e.bad || bad }
    ⟨y, e, e.reps.length ≤ e.rep⟩

/-- A routing takes effect (09 R193, R194): a link or bypass routing has a number of its own, and its turn starts at chain 0. -/
def routeTo (d l : Nat) (r : Routing) (y : Sys) : Sys :=
  y.modCtx d l (fun c =>
    let n := if r = .dflt then c.routeNo else c.routeNo + 1
    { c with routing := r, routeNo := n, chains := c.chains.map (fun h => { h with route := r, routeNo := n }) })

/-- For every repetition with its rows, in order. -/
def eachRow (e : Entry) (f : Nat → Nat → Sys → Sys) (n st : Nat) (y : Sys) : Sys :=
  e.reps.foldl (fun y x => (List.range n).foldl (fun y t => f (x.1 + t) (x.2 + t * st) y) y) y

/-- Fuel that is enough for a stream: no more lines than these can move in one turn. -/
def streamFuel : Nat := 4096

/-- An entry of the matrix queue goes as far as it can. -/
def matrixStep (d l : Nat) (y : Sys) (e : Entry) : MatRes :=
  let c := y.ctxFor d l e
  let v := y.die d
  let p := e.params
  match e.cmd with
  | .mxLdb _ bw sp _ =>
    let y' := e.reps.foldl (fun y x => y.modDie d (loadB c bw.toNat sp.toNat x.1)) y
    ⟨y', { e with bad := e.reps.any (fun x => winBad v c x.1 (c.bLines * bLine bw.toNat sp.toNat)) }, true⟩
  | .mxRun _ _ pm mode src _ =>
    if src = 0 then
      let y' := e.reps.foldl (fun y x => runRep d c e.eB.1 e.eB.2 (pm.toNat + 1) mode.toNat p x y) y
      ⟨countEvent y' c.part 1 (e.reps.length * p.mrows),
        { e with bad := e.reps.any (runBad v c e.eB.1 e.eB.2 (pm.toNat + 1) p) }, true⟩
    else runStream d l (src == 1) pm mode.toNat streamFuel y e
  | .mxDrn _ _ clr _ =>
    ⟨eachRow e (drainRow d l c clr) p.drows (rowStride p c.rowBytes) y,
      { e with bad := e.reps.any (fun x => (List.range p.drows).any (fun t => rowBad v c (x.1 + t))) }, true⟩
  | .mxDrnx _ clr _ => drainBeat d l clr y e
  | .mxFill _ _ _ =>
    let st := rowStride p c.rowBytes
    ⟨eachRow e (fillRow d c) p.drows st y,
      { e with bad := e.reps.any (fun x => (List.range p.drows).any (fun t => winBad v c (x.2 + t * st) c.rowBytes)) }, true⟩
  | .mxClr _ all _ =>
    ⟨e.reps.foldl (fun y x => (rowsOfCmd c p all x.1).foldl (fun y row =>
      y.modDie d (setAccRow c row (List.replicate (192 * c.w) (0, false)))) y) y, e, true⟩
  | .mxDead _ all _ =>
    ⟨e.reps.foldl (fun y x => (rowsOfCmd c p all x.1).foldl (fun y row => y.modDie d (killRow c row)) y) y, e, true⟩
  | .mxChn h en _ => ⟨routeTo d l (if en then .link h.toNat else .dflt) y, e, true⟩
  | .mxByp en _ => ⟨routeTo d l (if en then .bypass else .dflt) y, e, true⟩
  | _ => ⟨y, e, true⟩

end Sys2Proof.Machine
end

