-- ==== Sys2Proof/Machine/StripIssue.lean ====
section
/-! DEFINITION. The strip commands at issue (10 R214 to R222): their checks, the descriptor and the words that `xb.prog` loads, and
their entries. -/

namespace Sys2Proof.Machine

/-! ## Checks that every strip command makes -/

/-- Queue code of chain `ch`. -/
def stripQueue (ch : BitVec 3) : Nat := 1 + ch.toNat

/-- Codes 0x10 and 0x11: the chain is held; it is bound, or for `xb.bind` unbound, when the repetition comes. -/
def checkChain (c : Ctx) (ch : BitVec 3) (bound : Bool) (want : Bool) (rep : Nat) : Iss Unit := do
  codeIf (c.chains.length ≤ ch.toNat) 0x10 rep
  codeIf (bound != want) 0x11 rep

def Ctx.boundAtIssue (c : Ctx) (ch : BitVec 3) : Bool := ((c.chains[ch.toNat]?).map (·.iBound)).getD false

def Ctx.openOf (c : Ctx) (ch : BitVec 3) : List Entry := (c.queue (stripQueue ch)).openEntries

/-- Codes 0x13 and 0x14 of an element or seed range. -/
def checkBeat (c : Ctx) (off n rep : Nat) : Iss Unit := do
  codeIf (off % 16 != 0) 0x13 rep
  codeIf (c.wsz < off + n) 0x14 rep

/-! ## `xb.bind`, `xb.free`, `xb.seed` -/

/-- A command that binds or frees: every repetition toggles the binding of the next. -/
def bindPlan (ch : BitVec 3) (c : Common) (bind : Bool) (r : SeqRef) (y : Sys) : Iss Plan := do
  let ctx := y.ctxOf r
  let _ ← eachRep (fun i => do
    checkChain ctx ch (if i = 0 then ctx.boundAtIssue ch else bind) (!bind) i
    codeIf (!(ctx.openOf ch).isEmpty) 0x12 i) (repsOf c) 0
  pure { e := { num := 0, cmd := .nop, reps := List.replicate (repsOf c) (0, 0), weight := 1 }
         st := fun ctx => { ctx with chains := lmod ctx.chains ch.toNat (fun h => { h with iBound := bind }) } }

/-- `xb.bind` (10 R211, R214). -/
def execXbBind (ch : BitVec 3) (c : Common) (s : State) : Host.Outcome State Fault Refusal :=
  runIssue s (.xbBind ch c) c .strip (stripQueue ch) (bindPlan ch c true)

/-- `xb.free` (10 R211, R214). -/
def execXbFree (ch : BitVec 3) (c : Common) (s : State) : Host.Outcome State Fault Refusal :=
  runIssue s (.xbFree ch c) c .strip (stripQueue ch) (bindPlan ch c false)

def seedPlan (ch : BitVec 3) (ws : BitVec 3) (c : Common) (r : SeqRef) (y : Sys) : Iss Plan := do
  let ctx := y.ctxOf r
  let reps ← eachRep (fun i => do
    let a ← repAddr ((y.seq r).wk ws) c i
    checkChain ctx ch (ctx.boundAtIssue ch) true i
    codeIf (!(ctx.openOf ch).isEmpty) 0x12 i
    checkBeat ctx a beatBytes i
    pure (a, 0)) (repsOf c) 0
  pure { e := { num := 0, cmd := .nop, reps := reps, rd := reps.map (fun x => ⟨x.1, x.1 + beatBytes⟩), weight := 1 } }

/-- `xb.seed` (10 R219). -/
def execXbSeed (ch : BitVec 3) (ws k : BitVec 3) (c : Common) (s : State) : Host.Outcome State Fault Refusal :=
  runIssue s (.xbSeed ch ws k c) c .strip (stripQueue ch) (seedPlan ch ws c)

/-! ## `xb.feed` and `xb.take` (10 R218) -/

/-- Element bits of a format, and whether it carries scales. -/
def fmtBits (f : Nat) : Nat :=
  match f with
  | 0 => 32
  | 1 => 16
  | 2 => 8
  | 3 => 6
  | 4 => 4
  | 5 => 8
  | 6 => 6
  | _ => 4

def fmtMx (f : Nat) : Bool := 5 ≤ f

/-- Element bytes of a beat. -/
def fmtBytes (f : Nat) : Nat := 24 * fmtBits f

def scaleBytes : Nat := 6

/-- The window ranges of one repetition. -/
def streamSpans (f : Nat) (x : Nat × Nat) : List Span :=
  ⟨x.1, x.1 + fmtBytes f⟩ :: (if fmtMx f then [⟨x.2, x.2 + scaleBytes⟩] else [])

/-- Code 0x18: a feed range and a take range of the open groups of the context conflict. -/
def openClash (c : Ctx) (take : Bool) (spans : List Span) : Bool :=
  c.entries.any (fun qe => c.isOpen qe.1 qe.2 && (isTake qe.2.cmd != take) && spansMeet spans (qe.2.rd ++ qe.2.wr))

def streamPlan (ch : BitVec 3) (we ws : BitVec 3) (f : Nat) (take : Bool) (c : Common) (r : SeqRef) (y : Sys) : Iss Plan := do
  let ctx := y.ctxOf r
  let q := y.seq r
  let reps ← eachRep (fun i => do
    let a ← repAddr (q.wk we) c i
    let b ← if fmtMx f then repAddr (q.wk ws) c i else pure 0
    checkChain ctx ch (ctx.boundAtIssue ch) true i
    codeIf (15 ≤ (ctx.openOf ch).length) 0x12 i
    codeIf (a % 16 != 0) 0x13 i
    codeIf ((streamSpans f (a, b)).any (fun s => ctx.wsz < s.hi)) 0x14 i
    codeIf (take && ctx.iRouting != .dflt) 0x15 i
    codeIf (openClash ctx take (streamSpans f (a, b))) 0x18 i
    pure (a, b)) (repsOf c) 0
  let spans := reps.flatMap (streamSpans f)
  pure { e := { num := 0, cmd := .nop, reps := reps, rd := if take then [] else spans, wr := if take then spans else [], weight := 1 } }

/-- `xb.feed` (10 R218). -/
def execXbFeed (ch we ws f tgt : BitVec 3) (c : Common) (s : State) : Host.Outcome State Fault Refusal :=
  runIssue s (.xbFeed ch we ws f tgt c) c .strip (stripQueue ch) (streamPlan ch we ws f.toNat false c)

/-- `xb.take` (10 R218). -/
def execXbTake (ch we ws f : BitVec 3) (c : Common) (s : State) : Host.Outcome State Fault Refusal :=
  runIssue s (.xbTake ch we ws f c) c .strip (stripQueue ch) (streamPlan ch we ws f.toNat true c)

/-! ## `xb.prog` (10 R217, R222) -/

/-- One strip's part of the descriptor: NR, NW and OFF. -/
structure DescPart where
  nr : Nat
  nw : Nat
  off : Nat

def descParts (v : Nat) : List DescPart :=
  (List.range 5).map (fun k => ⟨bitsOf v (64 * k + 40) 24, bitsOf v (64 * k + 32) 7, bitsOf v (64 * k) 32⟩)

/-- A reserved bit, or an offset without a program. -/
def descReserved (v : Nat) : Bool :=
  v / 2 ^ 320 != 0 || (List.range 5).any (fun k => bitOf v (64 * k + 39)) || (descParts v).any (fun p => p.nw == 0 && p.off != 0)

/-- The strip that executes an opcode; none for the words of every strip (10 R204). -/
def stripOfOpc (op : Nat) : Option Nat :=
  if op = 0x0D || op = 0x2E || (0x40 ≤ op && op ≤ 0x43) then none
  else if op < 0x10 then some 0
  else if op < 0x18 then some 1
  else if op < 0x20 then some 4
  else if op < 0x28 then some 2
  else if op < 0x30 then some 0
  else some 3

/-- `x.mode` with a line group count off the convert strip is RESERVED_FIELD (10 R239). -/
def modeReserved (w k : Nat) : Bool :=
  fld w 0 7 == 0x43 && fld w 27 3 != 0 && k != 4 && fld w 7 4 != 12 && fld w 7 4 != 13

/-- The cause of a word on strip `k` (04 R102, 10 R222). -/
def wordCause (w k : Nat) : Option Nat :=
  if modeReserved w k then some cReserved
  else match decodeStrip w with
    | .error .reserved => some cReserved
    | .error _ => some cStripFault
    | .ok _ => if (stripOfOpc (fld w 0 7)).getD k != k then some cStripFault else none

/-- The first failing word of a program whose first word is at `off`. -/
def wordsCheck (k : Nat) : List Nat → Nat → Iss Unit
  | [], _ => .ok ()
  | w :: t, off =>
    match wordCause w k with
    | some code => fails { code := code, addr1 := BitVec.ofNat 64 off }
    | none => wordsCheck k t (off + 4)

/-- The programs strip by strip. -/
def progsCheck : List (Nat × DescPart × List Nat) → Iss Unit
  | [] => .ok ()
  | (k, p, ws) :: t =>
    match wordsCheck k ws p.off with
    | .error e => .error e
    | .ok _ => progsCheck t

/-- 32-bit words of a byte string. -/
def wordsOf : Nat → List Byte → List Nat
  | 0, _ => []
  | n + 1, l => leNat (l.take 4) :: wordsOf n (l.drop 4)

/-- The words of each program, read at issue, each with the offset of its uncorrectable bytes. -/
def readPrograms (y : Sys) (r : SeqRef) : List DescPart → Iss (List (List Nat × Option Nat))
  | [] => .ok []
  | p :: t => do
    let ws ← if p.nw = 0 then pure ([], none) else do
      let (bs, ecc) ← readAtIssue .strip y r p.off (4 * p.nw)
      pure (wordsOf p.nw bs, ecc)
    let rest ← readPrograms y r t
    pure (ws :: rest)

/-- Posts of a program: each guard-15 `x.post` once per repetition (10 R237). -/
def postCount (p : DescPart) (ws : List Nat) : Nat :=
  p.nr * (ws.filter (fun w => fld w 0 7 == 0x41 && fld w 7 4 == 15)).length

/-- The strip a feed to bk needs a program on. -/
def feedStrip : Instr → Option Nat
  | .xbFeed _ _ _ _ t _ => if t = 0 then none else some (t.toNat - 1)
  | _ => none

/-- Code 0x17. -/
def groupBad (open_ : List Entry) (ps : List DescPart) (ws : List (List Nat)) : Bool :=
  open_.any (fun e => (feedStrip e.cmd).any (fun k => ((ps[k]?).map (fun p => p.nw == 0)).getD true)) ||
    16 < ((ps.zip ws).map (fun x => postCount x.1 x.2)).foldl (· + ·) 0

/-- Weight of a group's programs (10 R221). -/
def progWeight (ps : List DescPart) : Nat :=
  ((ps.zip [1, 3, 2, 1, 2]).filter (fun x => x.1.nw != 0)).foldl (fun n x => n + x.2) 2

def progPlan (ch wp : BitVec 3) (r : SeqRef) (y : Sys) : Iss Plan := do
  let ctx := y.ctxOf r
  checkChain ctx ch (ctx.boundAtIssue ch) true 0
  let off := ((y.seq r).wk wp).base.toNat
  codeIf (off % 64 != 0) 0x13 0
  codeIf (ctx.wsz < off + 64) 0x14 0
  let (bs, ecc) ← readAtIssue .strip y r off 64
  let v := leNat bs
  let ps := descParts v
  trapIf (descReserved v) { code := cReserved }
  codeIf (ps.any (fun p => p.nw != 0 && ctx.wsz < p.off + 4 * p.nw)) 0x14 0
  codeIf (ps.any (fun p => 64 < p.nw || p.off % 4 != 0)) 0x16 0
  let rs ← readPrograms y r ps
  let ws := rs.map (·.1)
  codeIf (groupBad (ctx.openOf ch) ps ws) 0x17 0
  progsCheck ((List.range 5).zip (ps.zip ws))
  pure { e := { num := 0, cmd := .nop, weight := progWeight ps
                reps := (List.range ctx.copies.length).map (fun k => (8 + k, (ctx.queue (8 + k)).iss))
                progs := (ps.zip ws).map (fun x => { nr := x.1.nr, words := x.2.map (BitVec.ofNat 32) }) }
         bad := firstBad (ecc :: rs.map (·.2)) }

/-- `xb.prog` (10 R217). -/
def execXbProg (ch wp : BitVec 3) (c : Common) (s : State) : Host.Outcome State Fault Refusal :=
  runIssue s (.xbProg ch wp c) c .strip (stripQueue ch) (progPlan ch wp)

end Sys2Proof.Machine
end

