-- ==== Sys2Proof/Machine/Engine.lean ====
section
/-! DEFINITION. The events of the engine queues: an entry starts, executes and retires; a strip group starts, its streams move beats,
and it retires (03 R66, R67, 09 R193 to R201, 10 R205, R216 to R219, 15 R340). -/

namespace Sys2Proof.Machine

/-- The engines of a context act: it holds a claim whose entries run, and it is not stopped (20 R408, R416, 23 R441). -/
def Ctx.engines (c : Ctx) : Bool := !c.stopped && [CtxPhase.run, .trap, .parked, .saving, .ending].contains c.st

/-- The opcode of an engine command (03 R61). -/
def opcodeOf (i : Instr) : Nat := (encode i).getD 0 / 4 % 256

/-! ## Entries -/

/-- Change the entry with number `n` of a queue. -/
def EQueue.modEntry (q : EQueue) (n : Nat) (f : Entry → Entry) : EQueue :=
  { q with ents := q.ents.map (fun e => if e.num = n then f e else e) }

def Sys.modEntry (y : Sys) (d l q n : Nat) (f : Entry → Entry) : Sys :=
  y.modCtx d l (fun c => c.modQueue q (fun u => u.modEntry n f))

/-- The WAIT, ESTART and ERET records, and a release, of an entry. -/
def logEntry (y : Sys) (d l q kind : Nat) (e : Entry) : Sys :=
  let c := y.ctx d l
  debugLog y d c.part kind q c.ctag e.num (BitVec.ofNat 64 (opcodeOf e.cmd)) 0

/-- The signal of a completed entry, once (03 R67). -/
def applySignal (d l q : Nat) (e : Entry) (y : Sys) : Sys :=
  if e.signalled then y
  else
    let c := y.ctx d l
    let y := y.modEntry d l q e.num (fun e => { e with signalled := true })
    match e.signal with
    | none => y
    | some (ps, inc, _) => semSignal y d c.part ps inc c.ctag q e.num

/-- An entry completes: every repetition is done, and its signal follows. -/
def complete (d l q : Nat) (e : Entry) (y : Sys) : Sys :=
  applySignal d l q e (y.modEntry d l q e.num (fun e => { e with done := true }))

/-- Uncorrectable data met by an entry: MACHINE_CHECK becomes pending with the number to report; a matrix entry sets MX_STAT
(09 R183, R203, 10 R222). -/
def entryMachineCheck (d l q n : Nat) (y : Sys) : Sys :=
  let y := if q = 0 then y.modCtx d l (fun c => { c with mce := true, mcent := BitVec.ofNat 32 n }) else y
  addPend y d l (.machineCheck q n)

/-- The head entry retires (02 R51, 09 R201). -/
def retireHead (d l q : Nat) (e : Entry) (y : Sys) : Sys :=
  let y := logEntry (complete d l q e y) d l q 5 e
  let y := y.modCtx d l (fun c => { c.modQueue q (fun u => { u with ret := e.num, ents := u.ents.drop 1 }) with wdCycles := 0 })
  if e.bad then entryMachineCheck d l q e.num y else y

/-! ## Waits and weight (03 R66, 12 R303, 15 R340) -/

/-- Satisfy the wait field of an entry: subtract when the count meets it, else begin to wait. -/
def tryWait (d l q : Nat) (e : Entry) (y : Sys) : Sys × Bool :=
  let c := y.ctx d l
  if e.waited then (y, true)
  else match e.wait with
    | none => (y.modEntry d l q e.num (fun e => { e with waited := true }), true)
    | some (ps, thr) =>
      if ((y.die d).sem ps).met l q e.num thr then
        let y := y.modSem d ps (fun m => m.take l q e.num thr)
        let y := logWait y d c.part ps e.wvirt thr e.cyc c.ctag q e.num
        (y.modEntry d l q e.num (fun e => { e with waited := true }), true)
      else
        let y := if ((y.die d).sem ps).waiters.any (isWaiter l q e.num) then y else noteSem y d c.part ps c.ctag q e.num true
        (y.modSem d ps (fun m => m.wait l q e.num thr), false)

/-- Satisfy the wait fields of a unit in entry order, as far as they are met. -/
def tryWaits (d l q : Nat) : List Entry → Sys → Sys × Bool
  | [], y => (y, true)
  | e :: t, y =>
    match tryWait d l q e y with
    | (y, true) => tryWaits d l q t y
    | (y, false) => (y, false)

def sumWeight (l : List Entry) : Nat := (l.map (·.weight)).foldl (· + ·) 0

/-- The request of an entry stands for entries that still wait for weight. -/
def entryWaits (y : Sys) (d l q : Nat) : Bool := !((y.ctx d l).queue q).waiting.isEmpty

/-- An earlier request of the same context still waits: ballast goes to the oldest first (15 R340). -/
def olderWaits (y : Sys) (d l q : Nat) : Bool :=
  (y.gov.open_.takeWhile (fun r => r != .entry d l q)).any (fun r =>
    match r with
    | .entry d' l' q' => d' == d && l' == l && q' != q && entryWaits y d l q'
    | _ => false)

/-- The unit at the head of a queue starts when its waits are met and its weight fits in ballast; otherwise it asks for weight. -/
def startUnit (d l q : Nat) (start : Sys → Sys) (y : Sys) : Sys :=
  match tryWaits d l q ((y.ctx d l).queue q).unit y with
  | (y, false) => y
  | (y, true) =>
    let unit := ((y.ctx d l).queue q).unit
    if sumWeight unit ≤ (y.ctx d l).ballast && !olderWaits y d l q then
      let y := { y with gov := { y.gov with open_ := y.gov.open_.filter (fun r => r != .entry d l q) } }
      start (unit.foldl (fun y e => logEntry (y.modEntry d l q e.num (fun e => { e with started := true })) d l q 4 e) y)
    else { y with gov := y.gov.openReq (.entry d l q) }

/-- The head of a queue is one whole entry, or a whole group, that has not started. -/
def headReady (c : Ctx) (q : Nat) (group : Bool) : Bool :=
  let u := (c.queue q).unit
  c.engines && c.queueCodes.contains q && !u.isEmpty && unitWhole u && !(u.any (·.started)) &&
    ((u.any (fun e => isProg e.cmd)) == group)

/-- A copy entry does not start behind a stopped one (12 R298). -/
def copyStopped (c : Ctx) (q : Nat) : Bool := 8 ≤ q && ((c.copies[q - 8]?).map (·.stop)).getD true

/-- ENTRY_START (03 R66, 15 R340). -/
def entryStartStep (d l q : Nat) (y : Sys) : Sys :=
  let c := y.ctx d l
  if headReady c q false && !copyStopped c q && !entryHeld y d l q (c.queue q).unit then startUnit d l q id y else y

def execEntryStart (die ctx q : Nat) (s : State) : Host.Outcome State Fault Refusal := runEv s (entryStartStep die ctx q)

/-! ## Streams (10 R218) -/

/-- Element `c` of a packed array of `bits`-wide elements: two 4-bit elements to a byte, four 6-bit ones to three (07 R140, R157). -/
def unpackElem (bits n c : Nat) : Nat := bitsOf n (bits * c) bits

/-- The beat that a feed makes from its bytes. -/
def feedBeat (f : Nat) (els scales : List Byte) : Beat :=
  let n := leNat els
  (List.range 192).map (fun c =>
    BitVec.ofNat 32 (unpackElem (fmtBits f) n c + (if fmtMx f then (scales.getD (c / 32) 0).toNat * 256 else 0)))

/-- Lanes packed as elements. -/
def packLanes (bits : Nat) : Beat → Nat
  | [] => 0
  | v :: t => v.toNat % 2 ^ bits + 2 ^ bits * packLanes bits t

/-- The element and scale bytes that a take writes. -/
def takeBytes (f : Nat) (b : Beat) : List Byte × List Byte :=
  (leSplit (fmtBytes f) (packLanes (fmtBits f) b),
    if fmtMx f then (List.range 6).map (fun k => BitVec.ofNat 8 ((b.getD (32 * k) 0).toNat / 256)) else [])

/-- Format and port of a stream entry. -/
def streamFmt : Instr → Nat
  | .xbFeed _ _ _ f _ _ => f.toNat
  | .xbTake _ _ _ f _ => f.toNat
  | _ => 0

def feedPort : Instr → Nat
  | .xbFeed _ _ _ _ t _ => t.toNat
  | _ => 0

/-- A feed pushes one beat when its port has room. -/
def feedOne (d l ch : Nat) (e : Entry) (y : Sys) : Sys :=
  let c := y.ctxFor d l e
  let v := y.die d
  let f := streamFmt e.cmd
  let x := (e.reps[e.rep]?).getD (0, 0)
  let els := winRead v c x.1 (fmtBytes f)
  let sc := if fmtMx f then winRead v c x.2 scaleBytes else []
  let bad := (els ++ sc).any (·.2)
  let y := y.modChain d l ch (fun h => h.push (feedPort e.cmd) (feedBeat f (els.map (·.1)) (sc.map (·.1))))
  y.modEntry d l (1 + ch) e.num (fun e => { e with rep := e.rep + 1, bad := e.bad || bad })

/-- A take consumes one push of the default routing. -/
def takeOne (d l ch : Nat) (e : Entry) (y : Sys) : Sys :=
  let c := y.ctxFor d l e
  let f := streamFmt e.cmd
  let x := (e.reps[e.rep]?).getD (0, 0)
  let b := ((c.chains[ch]?).map (fun h => (h.port 10).headD zeroBeat)).getD zeroBeat
  let (els, sc) := takeBytes f b
  let y := y.modDie d (fun v => winWrite (winWrite v c x.1 (clean els)) c x.2 (clean sc))
  let y := y.modChain d l ch (fun h => { h.pop 10 with outTo := h.outTo.drop 1 })
  y.modEntry d l (1 + ch) e.num (fun e => { e with rep := e.rep + 1 })

/-- The stream entry of a running group that moves next on a port, if the port lets it: the first not done of its port. -/
def streamReady (h : Chain) (group : List Entry) (e : Entry) : Bool :=
  let mine := group.find? (fun x => x.rep < x.reps.length && isStream x.cmd && isTake x.cmd == isTake e.cmd &&
    feedPort x.cmd == feedPort e.cmd)
  e.rep < e.reps.length && (mine.map (·.num)) == some e.num &&
    (if isTake e.cmd then (h.outTo.head?.map (·.1)) == some .dflt && !(h.port 10).isEmpty
     else (h.port (feedPort e.cmd)).length < portDepth)

/-- The entries of the running group of a chain. -/
def Sys.group (y : Sys) (d l ch : Nat) : List Entry := ((y.ctx d l).queue (1 + ch)).unit

/-- Every stream entry of the running group that can move as the turn begins moves one beat: a port takes one beat a turn at most, so that
beats of another writer may come between any two (10 R205, R216). -/
def moveStreams (d l ch : Nat) (y : Sys) : Sys :=
  match (y.ctx d l).chains[ch]? with
  | none => y
  | some h =>
    let g := y.group d l ch
    (g.filter (fun e => isStream e.cmd && streamReady h g e)).foldl (fun y e =>
      (if isTake e.cmd then takeOne d l ch e y else feedOne d l ch e y).modCtx d l (fun c => { c with wdCycles := 0 })) y

/-- Every strip of the chain has finished its share. -/
def Chain.idle (h : Chain) : Bool := (List.range 5).all (fun k => !(h.strip k).busy)

/-- An entry of a running group has completed. -/
def groupEntryDone (h : Chain) (e : Entry) : Bool := if isProg e.cmd then h.idle else e.reps.length ≤ e.rep

/-- The signals of the completed entries of the running group, in entry order (10 R216). -/
def completeStreams (d l ch : Nat) (y : Sys) : Sys :=
  (y.group d l ch).foldl (fun y e =>
    match (y.ctx d l).chains[ch]? with
    | some h => if !e.done && groupEntryDone h e then complete d l (1 + ch) e y else y
    | none => y) y

/-! ## Links and bypass (09 R194 to R196) -/

/-- The chain that pushes next under routing number `n`: the one whose turn it is, and once that routing is no longer in force the next
one in turn that still holds a push of it (09 R194; log entry 95). -/
def turnOf (c : Ctx) (n : Nat) : Nat :=
  let t := mgetD c.turns n 0
  if c.routing != .dflt && c.routeNo = n then t
  else ((List.range c.chains.length).map (fun k => (t + k) % c.chains.length)).find? (fun ch =>
    ((c.chains[ch]?).map (fun h => h.outTo.any (fun x => x.1 != .dflt && x.2 == n))).getD false) |>.getD t

/-- The push at the head of a chain's out-port leaves, and the turn of its routing passes on. -/
def passPush (d l ch n : Nat) (y : Sys) : Sys :=
  (y.modChain d l ch (fun h => { h.pop 10 with outTo := h.outTo.drop 1 })).modCtx d l
    (fun c => { c with turns := mset c.turns n ((ch + 1) % c.chains.length) })

/-- The consumer of a link has retired, or is no longer there. -/
def linkGone (c t : Ctx) : Bool := t.retired || t.inst != c.inst || t.node != c.node

/-- A link can take a beat: its consumer is not saved, and there is room. -/
def linkOpen (c t : Ctx) : Bool := !t.away && (mgetD t.links c.piece []).length + beatBytes ≤ linkCap

/-- One push of chain `ch` into its link or the bypass, when it has one, its turn has come, and the buffer has room. -/
def pushOne (d l ch : Nat) (y : Sys) : Option Sys :=
  let c := y.ctx d l
  match c.chains[ch]? with
  | none => none
  | some h =>
    match h.outTo, h.port 10 with
    | (r, n) :: _, b :: _ =>
      if r = .dflt || turnOf c n != ch then none
      else match r with
        | .dflt => none
        | .bypass =>
          if linkCap < c.bypass.length + beatBytes then none
          else some ((passPush d l ch n y).modCtx d l (fun c => { c with bypass := c.bypass ++ beatToBytes b }))
        | .link k =>
          match c.grove[k]? with
          | none => some (passPush d l ch n y)
          | some dst =>
            if linkGone c (y.ctx d dst) then some (passPush d l ch n y)
            else if !linkOpen c (y.ctx d dst) then none
            else some ((passPush d l ch n y).modCtx d dst (fun t =>
              { t with links := mset t.links c.piece (mgetD t.links c.piece [] ++ beatToBytes b) }))
    | _, _ => none

/-- The pushes of a fragment enter its links and its bypass as far as they can. -/
def moveLink (d l : Nat) : Nat → Sys → Sys
  | 0, y => y
  | fuel + 1, y =>
    match (List.range (y.ctx d l).chains.length).findSome? (fun ch => pushOne d l ch y) with
    | none => y
    | some y' => moveLink d l fuel y'

/-- The links between the fragments of a grove, and their bypass buffers, take what has room, whichever fragment made the room. -/
def moveLinks (d l : Nat) (y : Sys) : Sys :=
  (l :: (y.ctx d l).grove.filter (· != l)).foldl (fun y m =>
    if (y.ctx d m).engines && !(y.ctx d m).retired then moveLink d m 96 y else y) y

/-- What moves by itself in a chain and behind it: the streams of its running group, then links and bypass. -/
def pump (d l ch : Nat) (y : Sys) : Sys :=
  let go := (((y.ctx d l).chains[ch]?).map (·.running)).getD false
  moveLinks d l (if go then completeStreams d l ch (moveStreams d l ch y) else y)

/-! ## Strip groups (10 R216) -/

/-- The strips take their programs. -/
def startStrips (ps : List StripProg) (h : Chain) : Chain :=
  { h with
    running := true
    strips := Vector.ofFn (fun (k : Fin 5) =>
      let p := ps.getD k.val {}
      { h.strip k.val with prog := p, ip := 0, iter := 0, busy := p.nr != 0, posts := [] }) }

/-- STRIP_GROUP_START: the waits of the group's entries in entry order, then all of it together. -/
def groupStartStep (d l ch : Nat) (y : Sys) : Sys :=
  let c := y.ctx d l
  if headReady c (1 + ch) true && !entryHeld y d l (1 + ch) (c.queue (1 + ch)).unit then
    startUnit d l (1 + ch) (fun y =>
      let ps := ((y.group d l ch).getLast?.map (·.progs)).getD []
      y.modChain d l ch (startStrips ps)) y
  else y

def execStripGroupStart (die ctx ch : Nat) (s : State) : Host.Outcome State Fault Refusal := runEv s (groupStartStep die ctx ch)

/-- The records that a group posted go to the hub, in strip order and execution order (10 R237). -/
def handPosts (d l ch : Nat) (prog : Entry) (y : Sys) : Sys :=
  let c := y.ctx d l
  let n := mget? y.hub.nodes c.node
  let posts := ((c.chains[ch]?).map (fun h => (List.range 5).flatMap (fun k => (h.strip k).posts))).getD []
  let ps : List Posted := posts.map (fun r =>
    { die := d, ctx := l, record := r, fn := c.fn, part := c.part
      oFn := (n.map (·.oFn)).getD c.fn, oQ := (n.map (·.oQ)).getD 0, need := prog.reps })
  y.modHub (fun h => { h with posted := h.posted ++ ps })

/-- Every entry of a group retires, in entry order. -/
def retireGroup (d l ch : Nat) (g : List Entry) (y : Sys) : Sys :=
  let q := 1 + ch
  let last := (g.getLast?.map (·.num)).getD 0
  let y := g.foldl (fun y e => logEntry y d l q 5 e) y
  let y := y.modCtx d l (fun c =>
    { c.modQueue q (fun u => { u with ret := last, ents := u.ents.drop g.length }) with
      wdCycles := 0
      chains := lmod c.chains ch (fun h => { h with running := false }) })
  if g.any (·.bad) then entryMachineCheck d l q last y else y

/-- STRIP_GROUP_RETIRE: the streams move on; when every entry has completed, the group retires as one. -/
def groupRetireStep (d l ch : Nat) (y : Sys) : Sys :=
  let c := y.ctx d l
  if !(c.engines && ((c.chains[ch]?).map (·.running)).getD false) then y
  else
    let y := pump d l ch y
    let g := y.group d l ch
    match (y.ctx d l).chains[ch]?, g.getLast? with
    | some h, some prog =>
      if g.all (groupEntryDone h) then retireGroup d l ch g (handPosts d l ch prog (completeStreams d l ch y)) else y
    | _, _ => y

def execStripGroupRetire (die ctx ch : Nat) (s : State) : Host.Outcome State Fault Refusal := runEv s (fun y => noteExcess (groupRetireStep die ctx ch y))

/-! ## Single strip entries (10 R211, R219) -/

/-- Seed0 (10 R211). -/
def seed0 (k c : Nat) : Lane := BitVec.ofNat 32 (0x9E3779B9 * (192 * k + c + 1))

/-- The state of a strip at `xb.bind`. -/
def boundStrip (k : Nat) : Strip := { sr := (List.range 192).map (seed0 k) }

def bindChain (h : Chain) : Chain := { h with bound := true, strips := Vector.ofFn (fun (k : Fin 5) => boundStrip k.val) }

/-- `xb.free` discards the strip state, the port contents and the stream. -/
def freeChain (h : Chain) : Chain :=
  { phys := h.phys, bound := false, route := h.route, routeNo := h.routeNo, iBound := h.iBound }

/-- An entry of a strip queue outside any group. -/
def stripSingle (d l ch : Nat) (e : Entry) (y : Sys) : Sys × Entry :=
  let c := y.ctxFor d l e
  let v := y.die d
  match e.cmd with
  | .xbBind _ _ => (y.modChain d l ch bindChain, e)
  | .xbFree _ _ => (y.modChain d l ch freeChain, e)
  | .xbSeed _ _ k _ =>
    (e.reps.foldl (fun y x =>
      y.modChain d l ch (fun h => h.setStrip k.toNat { h.strip k.toNat with sr := bytesToBeat ((winRead v c x.1 beatBytes).map (·.1)) })) y,
      { e with bad := e.reps.any (fun x => winBad v c x.1 beatBytes) })
  | _ => (y, e)

/-! ## Retirement -/

/-- The head entry of a queue, when it has started. -/
def startedHead (c : Ctx) (q : Nat) : Option Entry :=
  match (c.queue q).ents with
  | e :: _ => if e.started then some e else none
  | [] => none

/-- The matrix entry executes as far as it can and retires when it is done; what its turn makes room for in links and bypass follows. -/
def matrixRetire (d l : Nat) (e : Entry) (y : Sys) : Sys :=
  let r := matrixStep d l (moveLinks d l y) e
  let y := r.y.modEntry d l 0 e.num (fun _ => { r.e with started := true })
  let y := if r.e.rep != e.rep then y.modCtx d l (fun c => { c with wdCycles := 0 }) else y
  moveLinks d l (if r.done then retireHead d l 0 { r.e with started := true } y else y)

/-- ENTRY_RETIRE: the started head entry of a queue completes and retires; of a running group, the streams move on. -/
def entryRetireStep (d l q : Nat) (y : Sys) : Sys :=
  let c := y.ctx d l
  if !c.engines then y
  else match startedHead c q with
    | none => y
    | some e =>
      if q = 0 then matrixRetire d l e y
      else if 8 ≤ q then (if e.done then retireHead d l q e y else y)
      else if isStream e.cmd || isProg e.cmd then pump d l (q - 1) y
      else
        let (y, e') := stripSingle d l (q - 1) e y
        moveLinks d l (retireHead d l q e' y)

def execEntryRetire (die ctx q : Nat) (s : State) : Host.Outcome State Fault Refusal := runEv s (fun y => noteExcess (entryRetireStep die ctx q y))

end Sys2Proof.Machine
end

