-- ==== Sys2Proof/Machine/Order.lean ====
section
/-! DEFINITION. The order logs of a partition, and a replay that forces the logged choices (23 R451, R452). -/

namespace Sys2Proof.Machine

/-- A stop of a partition with ALL, whose cut will be sealed (23 R441). -/
def stopAllOf (y : Sys) (part : Nat) : Sys :=
  y.contexts.foldl (fun y x => if x.2.2.part = part then y.modCtx x.1 x.2.1 (fun c => { c with dbgStop := true, cut := true }) else y)
    (y.modPart part (fun p => { p with stopGo := true, stopAll := true, stopTag := 0 }))

/-- The log does not predict an event: the partition stops, and RP_STAT.DIV is set (23 R452). -/
def diverge (y : Sys) (part : Nat) : Sys :=
  (stopAllOf y part).modPart part (fun p =>
    { p with replay := none, rpStat := p.rpStat ||| 0x8000_0000_0000_0000, rpCtl := p.rpCtl &&& 0x7FFF_FFFF_FFFF_FFFF })

/-- What the log says of a choice about to be made. -/
inductive Gate where
  | go (y : Sys)
  | hold
  | diverged (y : Sys)

/-- Make a choice: recorded in a live run; in a replay made when it is the next logged one of its place, held while another is,
and a divergence when the log holds none. -/
def gate (y : Sys) (part : Nat) (c : Choice) : Gate :=
  let p := y.part part
  match p.replay with
  | none => .go (recordChoice y part c)
  | some _ =>
    match p.logged c with
    | some c' => if asLogged c c' then .go (y.modPart part (fun p => p.consume c')) else .hold
    | none => if p.unforeseen c then .diverged (diverge y part) else .hold

/-- Run an action behind a gate. -/
def gated (y : Sys) (part : Nat) (c : Choice) (f : Sys → Sys) : Sys :=
  match gate y part c with
  | .go y => f y
  | .hold => y
  | .diverged y => y

/-- Make several choices at once. -/
def gateAll (part : Nat) : List Choice → Sys → Gate
  | [], y => .go y
  | c :: t, y =>
    match gate y part c with
    | .go y => gateAll part t y
    | .hold => .hold
    | .diverged y => .diverged y

def gatedAll (y : Sys) (part : Nat) (l : List Choice) (f : Sys → Sys) : Sys :=
  match gateAll part l y with
  | .go y => f y
  | .hold => y
  | .diverged y => y

/-- Bytes that a HOST read returns: those of the log in a replay (23 R452). -/
def hostBytes (y : Sys) (part ctag k : Nat) (bytes : List Byte) : List Byte :=
  match (y.part part).logged (.hostRead ctag k []) with
  | some (.hostRead _ _ b) => b
  | _ => bytes

/-- An arriving row: in a replay, the one that the log has next for its landing, which no sender waits for (23 R452). -/
def loggedArrival (y : Sys) (part : Nat) (x : Arrival) : Arrival :=
  match (y.part part).logged (.arrive x) with
  | some (.arrive x') => x'
  | _ => x

/-- Whose bytes the slices of a place were left with (02 R49, 23 R451). -/
def provenance (y : Sys) (d : Nat) (bs : List Nat) : List (Option (Nat × Nat)) := bs.map (fun b => ((y.die d).slice b).last)

/-- Whose bytes the log says that a grant's slices have. -/
def loggedProv (y : Sys) (part node inst : Nat) : List (Option (Nat × Nat)) :=
  ((((y.part part).replay.getD []).filterMap (fun c => match c with
    | .grant n i _ _ l => if n = node && i = inst then some l else none
    | _ => none)).head?).getD []

/-- Exchange the contents of two slices. -/
def swapSlices (d b e k : Nat) (y : Sys) : Sys :=
  let s := (y.die d).slice b
  let t := (y.die e).slice k
  (y.modDie d (fun v => { v with slices := mset v.slices b t })).modDie e (fun v => { v with slices := mset v.slices k s })

/-- An idle slice of the partition, in no claim and owned by no slot, that a claim left with these bytes; the place itself first. -/
def idleSlice (y : Sys) (part d b : Nat) (idle : Nat → Nat → Bool) (id : Option (Nat × Nat)) : Option (Nat × Nat) :=
  let p := y.part part
  ((d, b) :: (List.range Config.computeDies).flatMap (fun e => (List.range 36).map (fun k => (e, k)))).find? (fun x =>
    p.ownsBlock x.1 x.2 && (x == (d, b) || idle x.1 x.2) && ((y.die x.1).slice x.2).owner.isNone && ((y.die x.1).slice x.2).last == id)

/-- In a replay, the slices of a grant take the bytes that the log names, as far as the partition still has them (02 R49, 23 R451). -/
def adoptSlices (part d : Nat) (idle : Nat → Nat → Bool) : List (Nat × Option (Nat × Nat)) → Sys → Sys
  | [], y => y
  | (b, id) :: t, y =>
    adoptSlices part d idle t (match idleSlice y part d b idle id with
      | some (e, k) => if (e, k) = (d, b) then y else swapSlices d b e k y
      | none => y)

/-- A landing token: the logged one in a replay. -/
def loggedToken (y : Sys) (part ctag t : Nat) : Nat :=
  match (y.part part).logged (.token ctag 0) with
  | some (.token _ t') => t'
  | _ => t

end Sys2Proof.Machine
end

