-- ==== Sys2Proof/Machine/Copy.lean ====
section
/-! DEFINITION. The copy engines (12 R273, R281 to R301, 18 R377 to R382): where the next bytes or elements lie, the turn of a copy
context, the requests it sends, and how it stops. -/

namespace Sys2Proof.Machine

/-! ## The command and its cursor -/

/-- The kind of a copy command. -/
def cpKind : Instr → Option CpKind
  | .cpBlk _ _ _ => some .blk
  | .cpWalk _ _ _ _ _ => some .walk
  | .cpFill _ _ _ => some .fill
  | .cpTrn _ _ _ => some .trn
  | .cpGat _ _ _ => some .gat
  | .cpSca _ _ _ => some .sca
  | .cpRed _ _ ix _ => some (.red ix)
  | .cpAmo _ _ _ => some .amo
  | .cpAmor _ _ _ => some .amor
  | .cpSig _ _ _ _ => some .sig
  | .cpSigw _ _ _ => some .sigw
  | .cpSigr _ _ _ => some .sigr
  | .cpRw _ _ _ red _ => some (.rw red.toNat)
  | .cpLand _ _ _ => some .land
  | .cpLrev _ _ _ => some .lrev
  | _ => none

/-- LS of a `cp.rw`. -/
def rwSignals : Instr → Bool
  | .cpRw _ _ _ ls _ => ls
  | _ => false

/-- The record of the repetition in progress. -/
def Entry.record (e : Entry) : BitVec 512 := (e.recs[e.rep]?).getD 0

/-- The entry of index list element `r`: a nat32 of the window (12 R281). -/
def listIndex (v : Die) (c : Ctx) (x : BitVec 512) (r : Nat) : Nat := winNat v c (rAuxv x + 4 * r) 4

/-- `base + r × stride` modulo 2^64. -/
def rowAddr (base r : Nat) (stride : Int) : Word := BitVec.ofInt 64 (base + r * stride)

/-- k(r): fixed once for a row in progress (12 R281; log entry 105). -/
def Entry.index (e : Entry) (v : Die) (c : Ctx) (r : Nat) : Nat := (mget? e.ix r).getD (listIndex v c e.record r)

/-- SrcRow and DstRow (12 R281). -/
def srcRow (v : Die) (c : Ctx) (k : CpKind) (e : Entry) (r : Nat) : Word :=
  let x := e.record
  match k with
  | .walk => e.walkB.addr r
  | .gat => rowAddr (rSaddr x) (e.index v c r) (rSstr x)
  | _ => rowAddr (rSaddr x) r (rSstr x)

def dstRow (v : Die) (c : Ctx) (k : CpKind) (e : Entry) (r : Nat) : Word :=
  let x := e.record
  match k with
  | .walk => e.walkA.addr r
  | .sca => rowAddr (rDaddr x) (e.index v c r) (rDstr x)
  | _ => rowAddr (rDaddr x) r (rDstr x)

/-- Rows of a repetition. -/
def rowCount (k : CpKind) (e : Entry) : Nat :=
  match k with
  | .walk => e.walkA.count
  | _ => rNrow e.record

/-- Bytes that a byte-moving repetition moves in all, in the units of PROG (12 R301). -/
def moveTotal (k : CpKind) (e : Entry) : Nat := rowCount k e * rLen e.record

/-- The number of the source byte of a `cp.trn` at progress `pos`: row by row of the source (12 R282). -/
def trnSource (x : BitVec 512) (pos : Nat) : Nat :=
  let es := elemBytes x
  let row := rNrow x * es
  pos % row / es * rLen x + pos / row * es + pos % es

/-- The address of source byte `n` of a `cp.trn`. -/
def trnAddr (x : BitVec 512) (n : Nat) : Word := rowAddr (rSaddr x) (n / rLen x) (rSstr x) + BitVec.ofNat 64 (n % rLen x)

/-- Bytes of a row of the destination, which of a `cp.trn` is a column of the source (12 R282). -/
def rowBytes (k : CpKind) (e : Entry) : Nat := if k == .trn then rNrow e.record * elemBytes e.record else rLen e.record

/-- Source and destination address at progress `pos` (12 R281, R282). -/
def srcAt (v : Die) (c : Ctx) (k : CpKind) (e : Entry) (pos : Nat) : Word :=
  if k == .trn then trnAddr e.record (trnSource e.record pos)
  else srcRow v c k e (pos / rLen e.record) + BitVec.ofNat 64 (pos % rLen e.record)

def dstAt (v : Die) (c : Ctx) (k : CpKind) (e : Entry) (pos : Nat) : Word :=
  dstRow v c k e (pos / rowBytes k e) + BitVec.ofNat 64 (pos % rowBytes k e)

/-- Bytes that lie without a break in both operands, and how many such runs a repetition has (12 R281, R282). -/
def runBytes (k : CpKind) (e : Entry) : Nat := if k == .trn then elemBytes e.record else rLen e.record

def runCount (k : CpKind) (e : Entry) : Nat := moveTotal k e / runBytes k e

/-- Units of PROG in a repetition: bytes, elements, or one (12 R301). -/
def repTotal (k : CpKind) (e : Entry) : Nat :=
  if k.isMove then moveTotal k e else if k.isAtomic then rNrow e.record else 1

/-- The rows from that of the next byte to be written up to that of progress `upto` take their indices, once; those of rows that are over go
(12 R281; log entry 105). -/
def Entry.fixIndex (e : Entry) (v : Die) (c : Ctx) (k : CpKind) (upto : Nat) : Entry :=
  if k == .gat || k == .sca then
    let lo := (e.pos + e.pass) / rLen e.record
    { e with ix := ((List.range (upto / rLen e.record + 1 - lo)).map (fun i => (lo + i, e.index v c (lo + i)))) }
  else e

/-- The fill pattern from byte `b` of a row (12 R281). -/
def fillBytes (x : BitVec 512) (b n : Nat) : List Byte :=
  (List.range n).map (fun i => BitVec.ofNat 8 (rVal x / 2 ^ (8 * ((b + i) % 8))))

/-! ## Windows -/

/-- The window that a WIN or PEER operand names: the leading sequencer of the fragment. -/
def windowOf (l : Nat) (c : Ctx) (space hnd : Nat) : Nat := if space = spPeer then c.grove.getD hnd l else l

def nearSpace (s : Nat) : Bool := s == spWin || s == spPeer

/-- The fragment whose window a WIN or PEER operand of the entry names: the fragment or the piece as it was at issue, its bytes in place,
wherever a fuse has put them since (09 R182, 11 R242; log entry 106). -/
def nearCtx (c : Ctx) (e : Entry) (space hnd : Nat) : Ctx :=
  c.asIssued (if space = spPeer then (match e.peers[hnd]? with | some p => some p | none => e.geo) else e.geo)

def nearRead (y : Sys) (d l : Nat) (e : Entry) (space hnd : Nat) (a : Word) (n : Nat) : List (Byte × Bool) :=
  winRead (y.die d) (nearCtx (y.ctx d l) e space hnd) a.toNat n

/-- How far each queue of a context has come: the entries retired, then the place of each entry that has started. -/
def Ctx.queueProgress (c : Ctx) : List (Nat × List Nat) :=
  c.queues.map (fun q => (q.1, q.2.ret :: (q.2.ents.filter (·.started)).flatMap (fun e => [e.rep, e.pos + e.pass])))

/-- A PEER access to the window of another piece is a choice of the order logs, placed by that piece's progress (11 R242, 23 R451). -/
def notePeer (d l k space hnd : Nat) (y : Sys) : Sys :=
  let c := y.ctx d l
  let w := windowOf l c space hnd
  if space = spPeer && w != l then
    note y c.part (.peer c.ctag k (y.ctx d w).ctag (y.ctx d w).steps (y.ctx d w).queueProgress)
  else y

def nearWrite (d l : Nat) (e : Entry) (space hnd : Nat) (a : Word) (bs : List (Byte × Bool)) (y : Sys) : Sys :=
  let w := nearCtx (y.ctx d l) e space hnd
  y.modDie d (fun v => winWrite v w a.toNat bs)

/-! ## Progress and stops -/

/-- Change the head entry of copy context `k`. -/
def Sys.modHead (y : Sys) (d l k : Nat) (f : Entry → Entry) : Sys :=
  y.modCtx d l (fun c => c.modQueue (8 + k) (fun q => { q with ents := lmod q.ents 0 f }))

def Sys.modCopy (y : Sys) (d l k : Nat) (f : CopyCtx → CopyCtx) : Sys :=
  y.modCtx d l (fun c => { c with copies := lmod c.copies k f })

/-- A repetition ends, and with the last one the entry is done. -/
def Entry.nextRep (e : Entry) : Entry :=
  { e with rep := e.rep + 1, pos := 0, pass := 0, carry := [], ix := [], kept := [], parked := false, done := e.recs.length ≤ e.rep + 1 }

/-- Progress grows by `n` bytes or elements of `total`. -/
def Entry.advance (e : Entry) (n total : Nat) : Entry :=
  if total ≤ e.pos + n then e.nextRep else { e with pos := e.pos + n }

/-- The first `n` bytes carried, or elements, are done. -/
def Entry.forward (e : Entry) (n total : Nat) : Entry := { e with carry := e.carry.drop n }.advance n total

/-- Progress of a copy context, which clears the watchdog (14 R332). -/
def copyMoved (d l k n total : Nat) (y : Sys) : Sys :=
  (y.modHead d l k (fun e => e.forward n total)).modCtx d l (fun c => { c with wdCycles := 0 })

/-- Bytes moved, counted for the profiling session. -/
def bytesMoved (d l k n total : Nat) (y : Sys) : Sys := countEvent (copyMoved d l k n total y) (y.ctx d l).part 3 n

/-- A cause becomes pending on a die's steward, once per source (20 R394, R402). -/
def addDiePend (y : Sys) (d : Nat) (p : DieCause) : Sys :=
  y.modDie d (fun v => if v.pend.contains p then v else { v with pend := v.pend ++ [p] })

/-- Why a byte of device memory cannot be written through a set of ranges, if it cannot. -/
def writeFault (y : Sys) (part : Nat) (rs : Ranges) (a : Word) : Option Nat :=
  match virtXlate y part rs a .wr with
  | .error r => some r
  | .ok _ => none

/-- The copy context stops at its head entry, with the record of 12 R299, and the steward receives COPY_FAULT (12 R298, 20 R402).
In a context that ends, the entry ends instead (20 R416). -/
def copyStop (d l k reason : Nat) (addr : Word) (y : Sys) : Sys :=
  let c := y.ctx d l
  match (c.queue (8 + k)).ents with
  | [] => y
  | e :: _ =>
    if c.endBy then y.modCopy d l k (fun p => { p with req := none, host := none, ack := false })
    else
      let y := y.modCopy d l k (fun p =>
        { p with stop := true, reason := reason, repix := e.rep, cfEntry := e.num, prog := BitVec.ofNat 64 e.pos, faddr := addr
                 req := none, host := none, ack := false })
      let y := y.modHead d l k (fun e => { e with carry := [], ix := [], kept := [], pass := 0, parked := false })
      addDiePend y d (.copyFault l k)

/-- The first failing address in the order of 12 R301, with its reason: the destination of a byte that has been read comes before the address
at which the copy has failed to read. -/
def firstFail (y : Sys) (d l : Nat) (e : Entry) (reason : Nat) (addr : Word) : Nat × Word :=
  match cpKind e.cmd with
  | none => (reason, addr)
  | some kind =>
    if kind.isMove && rDsp e.record == spDev then
      ((List.range e.carry.length).findSome? (fun i =>
        let a := dstAt (y.die d) (y.ctxFor d l e) kind e (e.pos + e.pass + i)
        (writeFault y (y.ctx d l).part e.ranges a).map (fun r => (r, a)))).getD (reason, addr)
    else (reason, addr)

/-- The copy context stops because it cannot read at an address. -/
def readStop (d l k reason : Nat) (addr : Word) (y : Sys) : Sys :=
  match ((y.ctx d l).queue (8 + k)).ents with
  | [] => y
  | e :: _ => let f := firstFail y d l e reason addr; copyStop d l k f.1 f.2 y

/-- So does an access of a request, which reads or writes. -/
def accessStop (d l k : Nat) (rk : ReqKind) (reason : Nat) (addr : Word) (y : Sys) : Sys :=
  match rk with
  | .read _ => readStop d l k reason addr y
  | _ => copyStop d l k reason addr y

/-! ## Copy resumption (20 R415) -/

/-- The stopped entry restarts at REPIX and PROG; a repetition whose PROG counts all of it is over (12 R301). -/
def Entry.restart (e : Entry) (rep pos : Nat) : Entry :=
  let e := { e with rep := rep, pos := pos, pass := 0, carry := [], ix := [], kept := [], parked := false, done := e.recs.length ≤ rep }
  match cpKind e.cmd with
  | none => e
  | some kind => if repTotal kind e ≤ pos then e.nextRep else e

/-- Resume a copy context: its issued entries take the ranges anew, and the stopped one restarts. -/
def resumeCopy (c : Ctx) (k : Nat) : Ctx :=
  match c.copies[k]? with
  | none => c
  | some p =>
    let c := c.modQueue (8 + k) (fun q => { q with ents := q.ents.mapIdx (fun j e =>
      let e := { e with ranges := c.ranges }
      if j = 0 then e.restart p.repix p.prog.toNat else e) })
    { c with copies := lmod c.copies k (fun p => { p with stop := false }) }

def cpresStep (n : BitVec 8) (a : BitVec 5) (r : SeqRef) (y : Sys) : Res :=
  stewardStep a r y (fun _ g =>
    withCtx y r n.toNat false (fun c => !inPhase [.free, .ready] c) (fun l c =>
      if ((c.copies[g.toNat]?).map (·.stop)).getD false then
        .ok (y.modCtx r.die l (fun c => resumeCopy c g.toNat)) none
      else .trap (operandCode 0x46)))

/-- `cpres` (20 R415). -/
def execCpres (n : BitVec 8) (a : BitVec 5) (s : State) : Host.Outcome State Fault Refusal := runSeq s 4 (cpresStep n a)

/-! ## Requests to device memory (18 R377 to R382) -/

def kindNeed : ReqKind → Need
  | .read _ => .rd
  | .write _ => .wr
  | .ask => .rd
  | .sigw _ => .rw
  | _ => .rw

/-- A span of `n` bytes at `a` touches one of the spans of addresses. -/
def touches (ss : List Span) (a n : Nat) : Bool := ss.any (fun s => a < s.hi && s.lo < a + n)

/-- The part from progress `done` on of a run that begins at progress `p` touches one of the spans. -/
def runTouches (ss : List Span) (p len done : Nat) (a : Word) : Bool :=
  let b := max p done - p
  b < len && touches ss (a.toNat % 2 ^ 57 + b) (len - b)

/-- The virtual addresses, without their sign bits, that a set of ranges translates into a page of `n` bytes at intermediate address `ia`:
those of each range that holds the page, unless a range of a lower number decides there (11 R247). -/
def pageSpans (g : Ranges) (ia n : Nat) : List Span :=
  let base (k : Nat) : Nat := bitsOf (vgetD g.vmb k 0).toNat 21 36 * 2 ^ 21
  let size (k : Nat) : Nat := (bitsOf (vgetD g.vmi k 0).toNat 37 27 + 1) * 2 ^ 21
  let to_ (k : Nat) : Nat := bitsOf (vgetD g.vmi k 0).toNat 0 27 * 2 ^ 21
  let has (k u : Nat) : Bool := bitOf (vgetD g.vmb k 0).toNat 3 && base k ≤ u && u < base k + size k
  ((List.range 8).filter (fun k => bitOf (vgetD g.vmb k 0).toNat 3 && to_ k ≤ ia && ia < to_ k + size k)).filterMap (fun k =>
    let u := base k + (ia - to_ k)
    if (List.range k).any (fun j => has j u) then none else some ⟨u, u + n⟩)

/-- A byte-moving repetition has bytes to read from progress `s` on, or to write from `t` on, in one of the spans. -/
def movesLater (v : Die) (c : Ctx) (k : CpKind) (e : Entry) (ss : List Span) (s t : Nat) : Bool :=
  let n := runBytes k e
  (List.range (runCount k e)).any (fun i =>
    (k != .fill && rSsp e.record == spDev && runTouches ss (i * n) n s (srcAt v c k e (i * n))) ||
      (rDsp e.record == spDev && runTouches ss (i * n) n t (dstAt v c k e (i * n))))

/-- The entry has work left in the spans, once it has read up to progress `s` and written up to `t` of the repetition in progress
(18 R379). -/
def laterWork (v : Die) (c : Ctx) (k : CpKind) (e : Entry) (ss : List Span) (s t : Nat) : Bool :=
  (List.range e.recs.length).any (fun i =>
    let e' := if i = e.rep then e else { e with rep := i, ix := [] }
    let x := e'.record
    let upto (n : Nat) := if i = e.rep then n else 0
    e.rep ≤ i &&
      if k.isMove then movesLater v c k e' ss (upto s) (upto t)
      else (List.range (repTotal k e')).any (fun r => upto t ≤ r && touches ss
        ((rowAddr (rDaddr x) (if k.indexed then listIndex v c x r else r) (rDstr x)).toNat % 2 ^ 57) 1))

/-- The renewal ask that goes beside a request (18 R379). -/
def renewIfDue (d l k : Nat) (kind : CpKind) (e : Entry) (va : Word) (ia s w : Nat) (t : Route) (y : Sys) : Sys :=
  let c := y.ctx d l
  let off := ia % 2 ^ 44
  let page := ia - (off - t.key.off)
  if t.due && !(c.holder k).asking (ia / 2 ^ 44) off &&
      laterWork (y.die d) (y.ctxFor d l e) kind e (pageSpans e.ranges page (pageBytes t.key.big)) s w
  then sendAskReq y d l k c.part va ia true
  else y

/-- Put a request into the hub's list and mark it as the one the copy context awaits. -/
def pushReq (d l k : Nat) (q : Req) (y : Sys) : Sys :=
  (y.modHub (fun h => { h with reqNext := h.reqNext + 1, reqs := h.reqs ++ [q] })).modCopy d l k (fun p => { p with req := some q.id })

/-- Send a request for device memory: direct under a valid entry, else home, with an ask when the holder has no entry for the page and
its unit may ask (18 R377, R380). The entry will then have read up to progress `s` and written up to `w`. The access begins `back` bytes
before the address that it reports. -/
def sendReq (d l k : Nat) (kind : CpKind) (e : Entry) (va : Word) (rk : ReqKind) (s w : Nat) (y : Sys) (back : Nat := 0) : Sys :=
  let c := y.ctx d l
  match virtToInt e.ranges va (kindNeed rk) with
  | .error r => accessStop d l k rk r va y
  | .ok ia =>
    let ia := ia - back
    let vdie := ia / 2 ^ 44
    let off := ia % 2 ^ 44
    match (y.part c.part).vdie vdie with
    | none => accessStop d l k rk xfDie va y
    | some _ =>
      let skew := (y.die d).skewed.contains (c.holderUnit k)
      let q : Req := { id := y.hub.reqNext, die := d, ctx := l, k := k, part := c.part, va := va, ia := ia, kind := rk }
      match (if skew then none else (c.holder k).find c.part vdie off) with
      | some t =>
        if (kindNeed rk).writes && !t.w then
          let y := renewIfDue d l k kind e va ia s w t (y.modCtx d l (fun c => c.bump lcHome))
          pushReq d l k { q with id := y.hub.reqNext } y
        else
          let y := y.modCtx d l (fun c => (c.setHolder k ((c.holder k).touch t)).bump lcDirect)
          let y := renewIfDue d l k kind e va ia s w t y
          pushReq d l k { q with id := y.hub.reqNext, direct := some (t.fdie, t.frame + (off - t.key.off)) } y
      | none =>
        if skew || (c.holder k).asking vdie off then pushReq d l k q (y.modCtx d l (fun c => c.bump lcHome))
        else
          pushReq d l k { q with ask := true } (y.modCtx d l (fun c =>
            (c.setHolder k ((c.holder k).sendAsk (holderCap k) q.id vdie off (y.pageBig c.part ia) false)).bump lcHome |>.bump lcAsk))

/-! ## Puts -/

/-- Send bytes to a Canopy port: a piece of a row of `cp.rw` (12 R293); with the row's last byte the context awaits the
acknowledgement. A port that carries no traffic stops the entry with XK_LINK (24 R463). -/
def sendRow (d l k : Nat) (e : Entry) (red : Nat) (dst : Word) (bs : List (Byte × Bool)) (y : Sys) : Sys :=
  let x := e.record
  let sent := e.pos % rLen x + e.pass + bs.length
  let lastRow := rLen x * rNrow x ≤ e.pos - e.pos % rLen x + rLen x && e.recs.length ≤ e.rep + 1
  if !y.hub.ports.getLsbD (rDhnd x) then copyStop d l k 0x13 (rowAddr (rDaddr x) (e.pos / rLen x) (rDstr x)) y
  else
    let w : XpkWrite := { port := rDhnd x, token := rToken x, off := dst.toNat, bytes := bs.map (·.1), poisoned := bs.any (·.2)
                          signal := rwSignals e.cmd && lastRow && rLen x ≤ sent, red := red }
    let y := y.modHub (fun h => { h with xpkOut := h.xpkOut ++ [w] })
    let y := y.modHead d l k (fun e => { e with pass := e.pass + bs.length, carry := e.carry.drop bs.length })
    if rLen x ≤ sent then y.modCopy d l k (fun p => { p with ack := true }) else y

/-- HOST writes are performed except in a replay without HOSTW (23 R452). -/
def hostWrites (p : Part) : Bool := p.replay.isNone || bitOf p.rpCtl.toNat 62

/-- Write bytes at the destination of the cursor; no HOST write of a function is sent after its reset (17 R366). -/
def putBytes (d l k : Nat) (kind : CpKind) (e : Entry) (dst : Word) (bs : List (Byte × Bool)) (y : Sys) : Sys :=
  let x := e.record
  let c := y.ctx d l
  let n := bs.length
  let total := moveTotal kind e
  if nearSpace (rDsp x) then
    bytesMoved d l k n total (nearWrite d l e (rDsp x) (rDhnd x) dst bs (notePeer d l k (rDsp x) (rDhnd x) y))
  else if rDsp x = spHost then
    let w : HostWrite := { fn := c.fn, addr := dst, bytes := bs.map (·.1), poisoned := bs.any (·.2) }
    bytesMoved d l k n total
      (if hostWrites (y.part c.part) && !(y.fn c.fn).flr then y.modHub (fun h => { h with hostOut := h.hostOut ++ [w] }) else y)
  else match kind with
    | .rw red => sendRow d l k e red dst bs y
    | _ => sendReq d l k kind e dst (.write bs) (e.pos + e.pass + e.carry.length) (e.pos + e.pass + n) y

/-- Bytes that one access to a space can take at an address: what is left of a 64-byte line of device memory, or of 4 KiB. -/
def spaceLimit (space : Nat) (a : Word) : Nat := if space = spDev then 64 - a.toNat % 64 else 4096 - a.toNat % 4096

/-- How many of `b` bytes that have been read may be written at `a`, with `left` bytes of the run to come: up to the end of an aligned
8-byte unit, which is written whole, or to the end of the run (11 R266; log entry 105). HOST accesses are under the host's own rules. -/
def writable (space : Nat) (a : Word) (b left : Nat) : Nat :=
  let n := min (min b left) (spaceLimit space a)
  if n = left || space = spHost then n else (a.toNat + n) / 8 * 8 - a.toNat

/-- Bytes of the rows after row `r` that follow it without a break, when it ends at address `a`, up to the end of the aligned 8-byte unit in
which it ends: they are of one access with its end (11 R266). -/
def joinedAfter (addr : Nat → Word) (may : Nat → Bool) (len rows : Nat) : Nat → Nat → Word → Nat
  | 0, _, _ => 0
  | fuel + 1, r, a =>
    if a.toNat % 8 = 0 || rows ≤ r + 1 || !may (r + 1) || addr (r + 1) != a then 0
    else if 8 - a.toNat % 8 ≤ len then 8 - a.toNat % 8
    else len + joinedAfter addr may len rows fuel (r + 1) (a + BitVec.ofNat 64 len)

/-- The window bytes of the index of row `r` lie among `n` bytes at `a` of a window operand (12 R283). -/
def indexAmong (c w : Ctx) (x : BitVec 512) (r : Nat) (a : Word) (n : Nat) : Bool :=
  (List.range 4).any (fun i =>
    let p := c.place (rAuxv x + 4 * r + i)
    match findIx (· == p.1) w.blocks with
    | none => false
    | some b => decide (a.toNat ≤ b * Config.sliceBytes + p.2) && decide (b * Config.sliceBytes + p.2 < a.toNat + n))

/-- A row's index may be read before the row in progress is written whole: no byte of it is among those still to be written. -/
def indexFree (y : Sys) (d l : Nat) (k : CpKind) (e : Entry) (r : Nat) : Bool :=
  let c := y.ctxFor d l e
  let p := e.pos + e.pass
  !((k == .gat || k == .sca) && nearSpace (rDsp e.record) &&
    (List.range (r - p / rLen e.record)).any (fun i =>
      let q := if i = 0 then p else (p / rLen e.record + i) * rLen e.record
      indexAmong c (nearCtx (y.ctx d l) e (rDsp e.record) (rDhnd e.record)) e.record r (dstAt (y.die d) c k e q) (rLen e.record - q % rLen e.record)))

/-- Bytes that an access may take at progress `p`, of a row and what is joined to it: source rows. -/
def srcRun (y : Sys) (d l : Nat) (k : CpKind) (e : Entry) (p : Nat) : Nat :=
  let c := y.ctxFor d l e
  let n := rLen e.record - p % rLen e.record
  n + joinedAfter (srcRow (y.die d) c k e) (indexFree y d l k e) (rLen e.record) (rowCount k e) 8 (p / rLen e.record)
    (srcAt (y.die d) c k e p + BitVec.ofNat 64 n)

/-- Rows of the destination. -/
def dstRows (k : CpKind) (e : Entry) : Nat := moveTotal k e / rowBytes k e

/-- Where the next byte is written, and the bytes of its row and what is joined to it from there on; a row for a Canopy port goes alone. -/
def nextDst (y : Sys) (d l : Nat) (kind : CpKind) (e : Entry) : Word := dstAt (y.die d) (y.ctxFor d l e) kind e (e.pos + e.pass)

def dstRun (y : Sys) (d l : Nat) (k : CpKind) (e : Entry) : Nat :=
  let c := y.ctxFor d l e
  let p := e.pos + e.pass
  let len := rowBytes k e
  let n := len - p % len
  if rDsp e.record == spDev || nearSpace (rDsp e.record) then
    n + joinedAfter (dstRow (y.die d) c k e) (indexFree y d l k e) len (dstRows k e) 8 (p / len) (nextDst y d l k e + BitVec.ofNat 64 n)
  else n

/-! ## The turn (12 R273) -/

/-- Source and destination may overlap: both lie in device memory, or in HOST, or in windows that two operands name (12 R283); within the
window that one operand names the checks at issue forbid it. -/
def mayOverlap (x : BitVec 512) (k : CpKind) : Bool :=
  k != .fill && ((rSsp x == rDsp x && (rSsp x == spDev || rSsp x == spHost)) ||
    (nearSpace (rSsp x) && nearSpace (rDsp x) && (rSsp x != rDsp x || rShnd x != rDhnd x)))

/-- The location of a byte: its intermediate address in device memory, whatever range names it, its place in a slice, or its host address. -/
def spotOf (c : Ctx) (e : Entry) (space hnd : Nat) (n : Need) (a : Word) : Option (Nat × Nat) :=
  if space = spDev then ((virtToInt e.ranges a n).toOption).map (fun ia => (0, ia))
  else if nearSpace space then some ((nearCtx c e space hnd).place a.toNat)
  else some (0, a.toNat)

/-- What bytes read ahead become when destination bytes before them in the order are at their locations: the bytes written there
(12 R283). `wr` is what has been written so far, latest first. -/
def asWritten : List (Option (Nat × Nat) × (Byte × Bool)) → List (Option (Nat × Nat)) → List ((Nat × Nat) × (Byte × Bool)) → List (Byte × Bool)
  | [], _, _ => []
  | (s, b) :: t, ds, wr =>
    let v := (s.bind (fun a => (wr.find? (fun p => p.1 == a)).map (·.2))).getD b
    v :: asWritten t ds.tail (match ds.head? with
      | some (some a) => (a, v) :: wr
      | _ => wr)

/-- The locations of the next `w` destination bytes. -/
def dstSpots (y : Sys) (d l : Nat) (kind : CpKind) (e : Entry) (w : Nat) : List (Option (Nat × Nat)) :=
  (List.range w).map (fun i => spotOf (y.ctx d l) e (rDsp e.record) (rDhnd e.record) .wr
    (dstAt (y.die d) (y.ctxFor d l e) kind e (e.pos + e.pass + i)))

/-- The bytes read ahead when the first `w` of them are written. -/
def settled (y : Sys) (d l : Nat) (kind : CpKind) (e : Entry) (bs : List (Byte × Bool)) (w : Nat) : List (Byte × Bool) :=
  let x := e.record
  if mayOverlap x kind then
    asWritten (bs.mapIdx (fun i b => (spotOf (y.ctx d l) e (rSsp x) (rShnd x) .rd
      (srcAt (y.die d) (y.ctxFor d l e) kind e (e.pos + e.pass + i)), b))) (dstSpots y d l kind e w) []
  else bs

/-- So do the bytes of a `cp.trn` that have been read with their units, when `bs` is written. -/
def settledKept (y : Sys) (d l : Nat) (kind : CpKind) (e : Entry) (bs : List (Byte × Bool)) : Map (Byte × Bool) :=
  let x := e.record
  if mayOverlap x kind && !e.kept.isEmpty then
    let wr := ((dstSpots y d l kind e bs.length).zip bs).reverse
    e.kept.map (fun s => (s.1,
      ((spotOf (y.ctx d l) e (rSsp x) (rShnd x) .rd (trnAddr x s.1)).bind (fun a => (wr.find? (fun p => p.1 == some a)).map (·.2))).getD s.2))
  else e.kept

/-- Bytes that have been read: as many as make whole units are written, the rest is kept. -/
def putAhead (d l k : Nat) (kind : CpKind) (e : Entry) (bs : List (Byte × Bool)) (y : Sys) : Sys :=
  let dst := nextDst y d l kind e
  let w := writable (rDsp e.record) dst bs.length (dstRun y d l kind e)
  let bs := settled y d l kind e bs w
  let e := { e with carry := bs, kept := settledKept y d l kind e (bs.take w) }
  let y := (y.modHead d l k (fun h => { h with carry := e.carry, kept := e.kept })).modCtx d l (fun c => { c with wdCycles := 0 })
  if w = 0 then y else putBytes d l k kind e dst (bs.take w) y

/-- A `cp.trn` reads each aligned 8-byte unit of its source once; HOST accesses are under the host's own rules (11 R266). -/
def keepsUnits (k : CpKind) (e : Entry) : Bool := k == .trn && rSsp e.record != spHost

/-- The source bytes of a `cp.trn` that lie in the 8 bytes at `u`, with what was read there. -/
def Entry.absorb (e : Entry) (u : Word) (bs : List (Byte × Bool)) : Entry :=
  let x := e.record
  { e with kept := (List.range (rNrow x)).foldl (fun m i =>
      bs.zipIdx.foldl (fun m b =>
        let o := (u + BitVec.ofNat 64 b.2 - rowAddr (rSaddr x) i (rSstr x)).toNat
        if o < rLen x then mset m (i * rLen x + o) b.1 else m) m) e.kept }

/-- The bytes read with their units that come next in the order go to those carried. -/
def Entry.gather (e : Entry) : Entry :=
  let x := e.record
  let p := e.pos + e.pass + e.carry.length
  let at_ (i : Nat) : Nat := trnSource x (p + i)
  let got := ((List.range (min e.kept.length (rNrow x * rLen x - p))).map (fun i => mget? e.kept (at_ i))).takeWhile Option.isSome
  { e with carry := e.carry ++ got.filterMap id, kept := (List.range got.length).foldl (fun m i => merase m (at_ i)) e.kept }

/-- Bytes that have been read at `a` join those carried; those of a `cp.trn` come with their unit. -/
def Entry.take (e : Entry) (k : CpKind) (a : Word) (bs : List (Byte × Bool)) : Entry :=
  if keepsUnits k e then (e.absorb (a - BitVec.ofNat 64 (a.toNat % 8)) bs).gather else { e with carry := e.carry ++ bs }

/-- What a byte-moving command reads next: the address, how many bytes, and how many bytes before the address the access begins. -/
def nextRead (y : Sys) (d l : Nat) (kind : CpKind) (e : Entry) : Word × Nat × Nat :=
  let x := e.record
  let p := e.pos + e.pass + e.carry.length
  let a := srcAt (y.die d) (y.ctxFor d l e) kind e p
  if keepsUnits kind e then (a, 8, a.toNat % 8)
  else if kind == .trn then (a, elemBytes x - p % elemBytes x, 0)
  else (a, min (srcRun y d l kind e p) (spaceLimit (rSsp x) a), 0)

/-- A byte-moving command takes a turn: it writes what it has read ahead, or reads on. -/
def moveTurn (d l k : Nat) (kind : CpKind) (e : Entry) (y : Sys) : Sys :=
  let x := e.record
  let p := e.pos + e.pass + e.carry.length
  let e := e.fixIndex (y.die d) (y.ctxFor d l e) kind p
  let y := y.modHead d l k (fun h => { h with ix := e.ix })
  if 0 < writable (rDsp x) (nextDst y d l kind e) e.carry.length (dstRun y d l kind e) then putAhead d l k kind e e.carry y
  else if kind == .fill then
    let a := dstAt (y.die d) (y.ctxFor d l e) kind e p
    putAhead d l k kind e (e.carry ++ clean (fillBytes x (p % rLen x) (min (rLen x - p % rLen x) (spaceLimit (rDsp x) a)))) y
  else
    let (a, n, back) := nextRead y d l kind e
    let e := if keepsUnits kind e then e else e.fixIndex (y.die d) (y.ctxFor d l e) kind (p + n - 1)
    let y := y.modHead d l k (fun h => { h with ix := e.ix })
    if nearSpace (rSsp x) then
      let e' := e.take kind a (nearRead y d l e (rSsp x) (rShnd x) (a - BitVec.ofNat 64 back) n)
      putAhead d l k kind e' e'.carry (notePeer d l k (rSsp x) (rShnd x) y)
    else if rSsp x = spHost then y.modCopy d l k (fun p => { p with host := some (a, n), hostNs := 0 })
    else sendReq d l k kind e a (.read n) (p + n - back) (e.pos + e.pass) y back

/-- The element of an atomic or reduction at the cursor: its address, operand and comparand (12 R285). -/
def atomTurn (d l k : Nat) (kind : CpKind) (e : Entry) (y : Sys) : Sys :=
  let v := y.die d
  let c := y.ctxFor d l e
  let x := e.record
  let w := unitSize (rAty x)
  let a := rowAddr (rDaddr x) (if kind.indexed then listIndex v c x e.pos else e.pos) (rDstr x)
  let o := (rowAddr (rSaddr x) e.pos (rSstr x)).toNat
  let ret := match kind with
    | .red _ => false
    | _ => true
  sendReq d l k kind e a (.atomic (rAop x) (rAty x) (winNat v c o w) (if rAop x = 7 then winNat v c (o + w) w else 0) ret) (e.pos + 1) (e.pos + 1) y

/-- A token that is not 0 and that no open landing of the package has: the hub chooses it (12 R291). -/
def freshToken (y : Sys) : Nat :=
  let used := y.contexts.flatMap (fun x => x.2.2.landings.map (·.token))
  let t := 1 + Config.choose y.used (2 ^ 32 - 1) % (2 ^ 32 - 1)
  if used.contains t then ((List.range (used.length + 1)).map (· + 1)).find? (fun n => !used.contains n) |>.getD 1 else t

/-- `cp.land`: the landing opens, and its token is written to the window (12 R291). -/
def landTurn (d l k : Nat) (e : Entry) (y : Sys) : Sys :=
  let c := y.ctx d l
  let x := e.record
  let t := loggedToken y c.part c.ctag (freshToken y)
  gated { y with used := y.used + 1 } c.part (.token c.ctag t) (fun y =>
    let ld : Landing := { token := t, lo := rDaddr x, len := rLen x, ports := BitVec.ofNat 16 (rVal x)
                          sem := (c.semMap[rAuxv x]?).getD 0, geo := e.geo }
    let y := y.modDie d (fun v => winWrite v (y.ctxFor d l e) (rSaddr x) (clean (leSplit 8 t)))
    copyMoved d l k 1 1 (y.modCtx d l (fun c => { c with landings := c.landings ++ [ld] })))

/-- `cp.lrev`: the landing of the token closes (12 R292). -/
def lrevTurn (d l k : Nat) (e : Entry) (y : Sys) : Sys :=
  copyMoved d l k 1 1 (y.modCtx d l (fun c => { c with landings := c.landings.filter (fun a => a.token != rToken e.record) }))

/-- The turn of an entry that awaits nothing. -/
def entryTurn (d l k : Nat) (e : Entry) (y : Sys) : Sys :=
  let x := e.record
  match cpKind e.cmd with
  | none => y
  | some .land => landTurn d l k e y
  | some .lrev => lrevTurn d l k e y
  | some .sig => sendReq d l k .sig e (BitVec.ofNat 64 (rDaddr x)) (.sig (BitVec.ofNat 64 (rVal x))) 1 1 y
  | some .sigw => sendReq d l k .sigw e (BitVec.ofNat 64 (rDaddr x)) (.sigw (BitVec.ofNat 64 (rVal x))) 1 1 y
  | some .sigr => sendReq d l k .sigr e (BitVec.ofNat 64 (rDaddr x)) (.sigr (BitVec.ofNat 64 (rVal x))) 1 1 y
  | some kind => if kind.isAtomic then atomTurn d l k kind e y else moveTurn d l k kind e y

/-- The head entry of a copy context that can take a turn: started, not done, awaiting nothing, in a context that does not end. -/
def turnEntry (c : Ctx) (k : Nat) : Option Entry :=
  match c.copies[k]?, startedHead c (8 + k) with
  | some p, some e =>
    if !c.engines || c.endBy || p.stop || e.done || p.req.isSome || p.host.isSome || p.ack then none else some e
  | _, _ => none

/-- A request of the copy context that was given up when it stopped has not completed: the next one waits for it (18 R382). -/
def Sys.outstanding (y : Sys) (d l k : Nat) : Bool :=
  y.hub.reqs.any (fun q => q.die == d && q.ctx == l && q.k == k && q.kind != .ask)

/-- COPY_TURN. -/
def copyTurnStep (d l k : Nat) (y : Sys) : Sys :=
  match turnEntry (y.ctx d l) k with
  | none => y
  | some e => if y.outstanding d l k then y else entryTurn d l k e y

def execCopyTurn (die ctx k : Nat) (s : State) : Host.Outcome State Fault Refusal := runEv s (copyTurnStep die ctx k)

/-! ## Completions from outside -/

/-- The head entry that awaits an answer. -/
def awaiting (y : Sys) (d l k : Nat) (p : CopyCtx → Bool) : Option (Entry × CopyCtx) :=
  let c := y.ctx d l
  match c.copies[k]?, startedHead c (8 + k) with
  | some q, some e => if p q then some (e, q) else none
  | _, _ => none

/-- Bytes read reach the copy context: written at once as far as the destination is a window, else kept for the next turn. -/
def gotBytes (d l k : Nat) (e : Entry) (bs : List (Byte × Bool)) (y : Sys) : Sys :=
  match cpKind e.cmd with
  | none => y
  | some kind =>
    let e := e.take kind (srcAt (y.die d) (y.ctxFor d l e) kind e (e.pos + e.pass + e.carry.length)) bs
    if nearSpace (rDsp e.record) then putAhead d l k kind e e.carry y
    else (y.modHead d l k (fun h => { h with carry := e.carry, kept := e.kept })).modCtx d l (fun c => { c with wdCycles := 0 })

/-- HOST_COMPLETION: status 0 returns the bytes asked for, 8 is an unsupported request or completer abort, 9 a poisoned completion
(11 R243, 12 R300). -/
def hostCompletionStep (d l k status : Nat) (bytes : List Byte) (y : Sys) : Sys :=
  match awaiting y d l k (fun p => p.host.isSome) with
  | none => y
  | some (e, p) =>
    let (a, n) := p.host.getD (0, 0)
    let c := y.ctx d l
    if status = 0 then
      let bs := hostBytes y c.part c.ctag k bytes
      if bs.length = n then
        gated y c.part (.hostRead c.ctag k bs) (fun y => gotBytes d l k e (clean bs) (y.modCopy d l k (fun p => { p with host := none })))
      else y
    else if status = 8 || status = 9 then readStop d l k status a y
    else y

def execHostCompletion (die ctx k status : Nat) (bytes : List Byte) (s : State) : Host.Outcome State Fault Refusal :=
  runEv s (hostCompletionStep die ctx k status bytes)

/-- A HOST read that gets no completion in 64 ms has timed out (24 R457). -/
def hostLimitNs : Nat := 64000000

/-- HOST_COMPLETION_TIMEOUT (24 R457). -/
def hostTimeoutStep (d l k : Nat) (y : Sys) : Sys :=
  match awaiting y d l k (fun p => p.host.isSome) with
  | none => y
  | some (_, p) => if p.hostNs < hostLimitNs then y else readStop d l k 0x0A ((p.host.getD (0, 0)).1) y

def execHostCompletionTimeout (die ctx k : Nat) (s : State) : Host.Outcome State Fault Refusal := runEv s (hostTimeoutStep die ctx k)

/-- RW_ACK: status 0 acknowledges the row; a reason of 12 R300 from 0x10 to 0x13 refuses it (12 R293). -/
def rwAckStep (d l k status : Nat) (y : Sys) : Sys :=
  match awaiting y d l k (fun p => p.ack) with
  | none => y
  | some (e, _) =>
    let x := e.record
    if status = 0 then
      let n := rLen x - e.pos % rLen x
      let y := (y.modCopy d l k (fun p => { p with ack := false })).modHead d l k (fun e => { e with pass := 0 }.advance n (rLen x * rNrow x))
      countEvent (y.modCtx d l (fun c => { c with wdCycles := 0 })) (y.ctx d l).part 3 n
    else if 0x10 ≤ status && status ≤ 0x13 then copyStop d l k status (rowAddr (rDaddr x) (e.pos / rLen x) (rDstr x)) y
    else y

def execRwAck (die ctx k status : Nat) (s : State) : Host.Outcome State Fault Refusal := runEv s (rwAckStep die ctx k status)

/-- The head entry of a copy context is a `cp.rw` to a port with rows sent and not acknowledged. -/
def rwPending (c : Ctx) (k port : Nat) : Bool :=
  match c.copies[k]?, startedHead c (8 + k) with
  | some p, some e =>
    (match cpKind e.cmd with
     | some (.rw _) => rDhnd e.record == port && !e.done && (p.ack || 0 < e.pass)
     | _ => false)
  | _, _ => false

/-- CANOPY_PORT_DOWN: every `cp.rw` with unacknowledged rows on the port stops with XK_LINK (24 R463). -/
def portDownStep (port : Nat) (y : Sys) : Sys :=
  let y := y.modHub (fun h => { h with ports := h.ports &&& ~~~(BitVec.ofNat 16 (2 ^ port)) })
  y.contexts.foldl (fun y x =>
    (List.range x.2.2.copies.length).foldl (fun y k =>
      let c := y.ctx x.1 x.2.1
      if rwPending c k port then
        let e := (startedHead c (8 + k)).getD default
        copyStop x.1 x.2.1 k 0x13 (rowAddr (rDaddr e.record) (e.pos / rLen e.record) (rDstr e.record)) y
      else y) y) y

def execCanopyPortDown (port : Nat) (s : State) : Host.Outcome State Fault Refusal := runEv s (portDownStep port)

/-- CANOPY_PORT_TRAINED: the port carries traffic again (24 R463). -/
def execCanopyPortTrained (port : Nat) (s : State) : Host.Outcome State Fault Refusal :=
  runEv s (fun y => y.modHub (fun h => { h with ports := h.ports ||| BitVec.ofNat 16 (2 ^ port) }))

/-! ## Landings (12 R291, 24 R464) -/

/-- The context that holds an open landing of a token. -/
def landingOf (y : Sys) (token : Nat) : Option (Nat × Nat × Ctx × Landing) :=
  (y.contexts.filterMap (fun x => (x.2.2.landings.find? (fun a => a.token == token)).map (fun a => (x.1, x.2.1, x.2.2, a)))).head?

/-- The check of an arriving row; `none` accepts it (24 R464). -/
def arrivalBad (a : Landing) (x : Arrival) : Option Nat :=
  if a.len < x.rowOff + x.rowLen then some 0x11
  else if !a.ports.getLsbD x.port then some 0x12
  else none

/-- The piece has the row's last byte. -/
def lastPiece (x : Arrival) : Bool := x.off + x.bytes.length == x.rowOff + x.rowLen

/-- Answer the sender of an arriving row. -/
def answerRow (token status : Nat) (y : Sys) : Sys := y.modHub (fun h => { h with xpkAcks := h.xpkAcks ++ [(token, status)] })

/-- A piece of a row ends where the row ends, or between two units of 11 R266: of a row that is cut off, each unit is whole or absent
(24 R463). -/
def pieceWhole (a : Landing) (x : Arrival) : Bool :=
  let lo := a.lo + x.off
  let hi := lo + x.bytes.length
  decide (x.rowOff ≤ x.off) && decide (x.off + x.bytes.length ≤ x.rowOff + x.rowLen) && (x.off == x.rowOff || lo % 8 == 0) &&
    (lastPiece x || hi % 8 == 0)

/-- LANDING_ARRIVAL, through a port that carries traffic: a refused row writes nothing; an accepted piece is written, and the entry's last byte signals the landing's
semaphore as a release of the remote package (RQUE 13, 23 R447). -/
def arrivalStep (x : Arrival) (y : Sys) : Sys :=
  match landingOf y x.token with
  | none => if y.hub.ports.getLsbD x.port then answerRow x.token 0x10 y else y
  | some (d, _, c, a) =>
    let x := loggedArrival y c.part x
    let live := (y.part c.part).replay.isNone
    let answer (n : Nat) (y : Sys) : Sys := if live then answerRow x.token n y else y
    if live && !y.hub.ports.getLsbD x.port then y
    else match arrivalBad a x with
      | some r => answer r y
      | none =>
        if !pieceWhole a x then y
        else gated y c.part (.arrive x) (fun y =>
          let y := y.modDie d (fun v => winWrite v (c.asIssued a.geo) (a.lo + x.off) (x.bytes.map (fun b => (b, x.poisoned))))
          if lastPiece x then
            let y := answer 0 y
            if x.signal then semSignal y d c.part a.sem 1 0 13 0 else y
          else y)

def execLandingArrival (x : Arrival) (s : State) : Host.Outcome State Fault Refusal := runEv s (arrivalStep x)

end Sys2Proof.Machine
end

