-- ==== Sys2Proof/Machine/Memory.lean ====
section
/-! DEFINITION. The memory dies' side of a request: its arrival at a walker or a write queue, what it does there, and its completion
(11 R262, R269 to R271, 12 R285 to R290, 18 R373 to R384); and the leases' own events. -/

namespace Sys2Proof.Machine

/-! ## Operations of the write queue (11 R269) -/

/-- Two's complement of a value of `w` bytes. -/
def asSigned (w v : Nat) : Int := (⟨8 * w, true⟩ : IFmt).value v

/-- The floating-point sum of a reduction, with the canonical NaN of sign 0. -/
def faddBits (f : Fmt) (old v : Nat) : Nat :=
  let x := (addExt 0 (f.read false old) (f.read false v)).getD (.nan false)
  (f.put (if x.isNan then .nan false else x) 0 0 false false).bits

/-- The new value of an atomic unit of `w` bytes. -/
def atomicNew (aop aty w old v c : Nat) : Nat :=
  let less := if aty = 0 || aty = 1 then decide (asSigned w v < asSigned w old) else decide (v < old)
  match aop with
  | 0 => (old + v) % 2 ^ (8 * w)
  | 1 => if less then v else old
  | 2 => if less || v = old then old else v
  | 3 => Nat.land old v
  | 4 => Nat.lor old v
  | 5 => Nat.xor old v
  | 6 => v
  | 7 => if old = c then v else old
  | _ => if aty = 4 then faddBits fFP32 old v else faddBits fBF16 old v

/-- Perform an operation on an aligned unit: uncorrectable data stays and nothing is performed, the old bytes going back marked
(12 R287). -/
def performUnit (y : Sys) (md pa w : Nat) (ret : Bool) (f : Nat → Nat) : Sys × List (Byte × Bool) :=
  let old := devRead y md pa w
  let back := if ret then old else []
  if old.any (·.2) then (y, back.map (fun b => (b.1, true)))
  else (devWrite y md pa (clean (leSplit w (f (leNat (old.map (·.1)))))), back)

/-- What a request does where it arrives, and how it stands then: done with bytes, or held at the object's write queue. -/
def performReq (y : Sys) (k : ReqKind) (md pa : Nat) : Sys × Option (List (Byte × Bool)) :=
  match k with
  | .read n => (y, some (devRead y md pa n))
  | .write bs => (devWrite y md pa bs, some [])
  | .atomic aop aty v c ret =>
    let (y, bs) := performUnit y md pa (unitSize aty) ret (fun old => atomicNew aop aty (unitSize aty) old v c)
    (y, some bs)
  | .sig v =>
    let (y, _) := performUnit y md pa 8 false (fun old => (old + 2 ^ 64 - v.toNat) % 2 ^ 64)
    (y, some [])
  | .sigr v =>
    let (y, bs) := performUnit y md pa 8 true (fun _ => v.toNat)
    (y, some bs)
  | .sigw t => if atMost (objValue y md pa) t then (y, some []) else (y, none)
  | .ask => (y, some [])

/-! ## Arrival -/

def Hub.req? (h : Hub) (id : Nat) : Option Req := h.reqs.find? (fun q => q.id == id)

def Sys.modReq (y : Sys) (id : Nat) (f : Req → Req) : Sys :=
  y.modHub (fun h => { h with reqs := h.reqs.map (fun q => if q.id = id then f q else q) })

/-- The context tag a request belongs to. -/
def reqTag (y : Sys) (q : Req) : Nat := (y.ctx q.die q.ctx).ctag

/-- Refused by the walker (18 R373). -/
def refuseReq (q : Req) (stale : Bool) (y : Sys) : Sys := y.modReq q.id (fun q => { q with st := .refused xfWalk, stale := stale })

/-- The access is performed at its place. -/
def performAt (q : Req) (md pa : Nat) (stale : Bool) (grant : Option Route) (y : Sys) : Sys :=
  let (y, r) := performReq y q.kind md pa
  y.modReq q.id (fun q => { q with
    st := match r with
      | some bs => .done bs
      | none => .sent
    waiting := r.isNone, at_ := some (md, pa), stale := stale, grant := grant })

/-- The arrival at a line, in the order that a replay forces (11 R271, 23 R451); an ask touches no line. -/
def arriveLine (q : Req) (f : Sys → Sys) (y : Sys) : Sys :=
  if q.kind == .ask then f y else gated y q.part (.line (q.ia / 64) (reqTag y q) (8 + q.k)) f

/-- The walker of the home die translates a request and performs it on the frame (18 R373, R377, R383). -/
def homeServe (q : Req) (stale : Bool) (y : Sys) : Sys :=
  match (y.part q.part).vdie (q.ia / 2 ^ 44) with
  | none => refuseReq q stale y
  | some home =>
    match walkerXlate y home q.part (q.ia % 2 ^ 44) (kindNeed q.kind) with
    | none => refuseReq q stale y
    | some leaf =>
      let g := if q.ask then grantOf y home q.part (q.ia / 2 ^ 44) leaf else none
      arriveLine q (fun y =>
        let y := match g with
          | none => y
          | some g => y.modMem home (fun m => noteHold m q.part g.key.off g.cls)
        performAt q leaf.fdie leaf.pa stale g y) y

/-- A request that is on its way, by home routing or direct. -/
def onItsWay (y : Sys) (id : Nat) (direct : Bool) : Option Req :=
  (y.hub.req? id).bind (fun q => if q.st == .sent && !q.waiting && q.direct.isSome == direct then some q else none)

/-- HOME_REQUEST_ARRIVAL. -/
def homeArrivalStep (id : Nat) (y : Sys) : Sys :=
  match onItsWay y id false with
  | none => y
  | some q => homeServe q false y

def execHomeRequestArrival (id : Nat) (s : State) : Host.Outcome State Fault Refusal := runEv s (homeArrivalStep id)

/-- A direct request reaches its frame within 3 µs, or is answered with REROUTE (18 R378). -/
def deliveryNs : Nat := 3000

/-- DIRECT_REQUEST_ARRIVAL: at a quarantined frame the request is forwarded home and completes STALE (18 R383). No request reaches a channel
that is the partition's no more (17 R358; log entry 125). -/
def directArrivalStep (id : Nat) (y : Sys) : Sys :=
  match onItsWay y id true with
  | none => y
  | some q =>
    let (fd, pa) := q.direct.getD (0, 0)
    if deliveryNs < q.age then y
    else if ((y.memDie fd).quarOf pa).isSome then homeServe q true y
    else if !y.ownsChan q.part fd (pa / 2 ^ 31) then refuseReq q false y
    else arriveLine q (performAt q fd pa false none) y

def execDirectRequestArrival (id : Nat) (s : State) : Host.Outcome State Fault Refusal := runEv s (directArrivalStep id)

/-- REROUTE: a direct request that has not reached the frame's die in time (18 R378). -/
def rerouteStep (id : Nat) (y : Sys) : Sys :=
  match onItsWay y id true with
  | none => y
  | some q => if q.age ≤ deliveryNs then y else y.modReq q.id (fun q => { q with st := .reroute })

def execReroute (id : Nat) (s : State) : Host.Outcome State Fault Refusal := runEv s (rerouteStep id)

/-! ## Grants and completions -/

def dropReq (id : Nat) (y : Sys) : Sys := y.modHub (fun h => { h with reqs := h.reqs.filter (fun q => q.id != id) })

/-- The reply's grant reaches the holder (18 R378); a reply without one ends the ask. -/
def cacheGrant (q : Req) (y : Sys) : Sys :=
  if !q.ask then y
  else y.modCtx q.die q.ctx (fun c =>
    match q.grant with
    | none => c.setHolder q.k ((c.holder q.k).endAsk q.id)
    | some t =>
      let r := (c.holder q.k).cacheGrant (holderCap q.k) q.id t
      (c.setHolder q.k r.1).bumpIf lcGrant r.2)

/-- LEASE_GRANT_ARRIVAL: an `ask` of no bytes is over with it. -/
def grantArrivalStep (id : Nat) (y : Sys) : Sys :=
  match y.hub.req? id with
  | none => y
  | some q =>
    if q.grant.isNone then y
    else
      let y := cacheGrant q y
      if q.kind == .ask then dropReq id y else y.modReq id (fun q => { q with grant := none, ask := false })

def execLeaseGrantArrival (id : Nat) (s : State) : Host.Outcome State Fault Refusal := runEv s (grantArrivalStep id)

/-- What the completion of a performed request does at the copy context. -/
def deliver (q : Req) (e : Entry) (bs : List (Byte × Bool)) (y : Sys) : Sys :=
  let d := q.die
  let l := q.ctx
  let x := e.record
  let kind := (cpKind e.cmd).getD .sig
  match q.kind with
  | .read _ => gotBytes d l q.k e bs y
  | .write w => bytesMoved d l q.k w.length (moveTotal kind e) y
  | .atomic _ _ _ _ ret =>
    let y := if ret then y.modDie d (fun v => winWrite v (y.ctxFor d l e) (rowAddr (rSaddr x) e.pos (rSstr x)).toNat bs) else y
    copyMoved d l q.k 1 (rNrow x) y
  | .sigr _ => copyMoved d l q.k 1 1 (y.modDie d (fun v => winWrite v (y.ctxFor d l e) (rSaddr x) bs))
  | _ => copyMoved d l q.k 1 1 y

/-- Send a request again by home routing: the entry has been dropped, so it carries an ask unless one is out or none is allowed
(18 R378). -/
def resendHome (q : Req) (y : Sys) : Sys :=
  let c := y.ctx q.die q.ctx
  let ask := !((y.die q.die).skewed.contains (c.holderUnit q.k) || (c.holder q.k).asking (q.ia / 2 ^ 44) (q.ia % 2 ^ 44))
  let y := y.modCtx q.die q.ctx (fun c =>
    let c := c.bump lcHome
    if ask then (c.setHolder q.k ((c.holder q.k).sendAsk (holderCap q.k) q.id (q.ia / 2 ^ 44) (q.ia % 2 ^ 44) (y.pageBig q.part q.ia) false)).bump lcAsk else c)
  y.modReq q.id (fun q => { q with direct := none, ask := ask, st := .sent, at_ := none, grant := none, age := 0 })

/-- A REROUTE or STALE completion drops the route entry it concerns (18 R381). -/
def dropEntryOf (q : Req) (y : Sys) : Sys :=
  y.modCtx q.die q.ctx (fun c => c.setHolder q.k ((c.holder q.k).dropPage q.part (q.ia / 2 ^ 44) (q.ia % 2 ^ 44)))

/-- A STALE completion is counted (18 R388, 23 R455). -/
def countStale (q : Req) (y : Sys) : Sys :=
  if q.stale then countEvent (dropEntryOf q (y.modCtx q.die q.ctx (fun c => c.bump lcStale))) q.part 7 1 else y

/-- The request is the one its copy context awaits. -/
def awaited (y : Sys) (q : Req) : Option Entry :=
  (awaiting y q.die q.ctx q.k (fun p => p.req == some q.id)).map (·.1)

/-- A `cp.sigw` of a stopped context completes when it resumes: its entry is frozen (23 R441). -/
def frozenWait (y : Sys) (q : Req) : Bool :=
  (y.ctx q.die q.ctx).stopped && (match q.kind with
    | .sigw _ => true
    | _ => false)

/-- DEV_COMPLETION. -/
def devCompletionStep (id : Nat) (y : Sys) : Sys :=
  match y.hub.req? id with
  | none => y
  | some q =>
    if frozenWait y q then y else match q.st with
    | .sent => y
    | .reroute => resendHome q (dropEntryOf q y)
    | .done bs =>
      let y := dropReq id (countStale q (cacheGrant q y))
      match awaited y q with
      | none => y
      | some e => deliver q e bs (y.modCopy q.die q.ctx q.k (fun p => { p with req := none }))
    | .refused r =>
      let y := dropReq id (countStale q (cacheGrant q y))
      match awaited y q with
      | none => y
      | some _ => accessStop q.die q.ctx q.k q.kind r q.va y

def execDevCompletion (id : Nat) (s : State) : Host.Outcome State Fault Refusal := runEv s (devCompletionStep id)

/-! ## The life of leases (18 R376 to R381) -/

/-- LEASE_EXPIRE: the entry whose countdown has reached 0 is gone. -/
def leaseExpireStep (d l h page : Nat) (y : Sys) : Sys :=
  y.modCtx d l (fun c =>
    let o := c.holder h
    c.setHolder h { o with routes := o.routes.filter (fun t => !(t.rem == 0 && t.key.off == page)) })

def execLeaseExpire (die ctx h page : Nat) (s : State) : Host.Outcome State Fault Refusal := runEv s (leaseExpireStep die ctx h page)

/-- Drop the route entries of a holder of a skewed unit, counting them. -/
def dropSkewed (unit : Nat) (c : Ctx) : Ctx :=
  (4 :: List.range c.copies.length).foldl (fun c k =>
    if c.holderUnit k = unit then
      let n := ((c.holder k).routes.filter (fun t => 0 < t.rem)).length
      let c := { c with lsc := c.lsc.setIfInBounds lcSkew (vgetD c.lsc lcSkew 0 + BitVec.ofNat 48 n) }
      c.setHolder k { c.holder k with routes := [] }
    else c) c

/-- LEASE_SKEW_HOLDER (18 R380). -/
def skewHolderStep (d unit : Nat) (y : Sys) : Sys :=
  let y := y.modDie d (fun v => { v with
    skewed := sinsert v.skewed unit
    ctxs := v.ctxs.map (fun c => (c.1, dropSkewed unit c.2)) })
  addDiePend y d (.leaseSkew unit)

def execLeaseSkewHolder (die unit : Nat) (s : State) : Host.Outcome State Fault Refusal := runEv s (skewHolderStep die unit)

/-- The shortest time that holds and quarantines have left after a walker's skew: 1,044 µs (18 R380). -/
def skewHoldNs : Nat := 1044000

/-- LEASE_SKEW_WALKER (18 R380). -/
def skewWalkerStep (md : Nat) (y : Sys) : Sys :=
  fwInterrupt (y.modMem md (fun m => { m with
    skew := true, outTol := true
    holds := m.holds.map (fun h => { h with rem := max h.rem skewHoldNs })
    quar := m.quar.map (fun q => { q with rem := max q.rem skewHoldNs }) })) 1

def execLeaseSkewWalker (md : Nat) (s : State) : Host.Outcome State Fault Refusal := runEv s (skewWalkerStep md)

/-- SKEW_TOLERANCE_RESTORED: the monitor of a holder unit, or with `die` at or above 12 that of the walker of memory die `die` − 12, has
measured 1 ms in tolerance. -/
def toleranceStep (d unit : Nat) (y : Sys) : Sys :=
  if d < Config.computeDies then y.modDie d (fun v => { v with skewed := sremove v.skewed unit })
  else y.modMem (d - Config.computeDies) (fun m => { m with outTol := false })

def execSkewToleranceRestored (die unit : Nat) (s : State) : Host.Outcome State Fault Refusal := runEv s (toleranceStep die unit)

/-- LSK_STAT_CLEAR: a write of 1 to SKEW. -/
def execLskStatClear (md : Nat) (v : Word) (s : State) : Host.Outcome State Fault Refusal :=
  runEv s (fun y => if bitOf v.toNat 0 then y.modMem md (fun m => { m with skew := false }) else y)

/-! ## Errors that ECC meets (20 R403, R404) -/

/-- Numbers become members of a list of marks. -/
def markAll (l : List Nat) (lo n : Nat) : List Nat := (List.range n).foldl (fun l i => sinsert l (lo + i)) l

/-- An element of a live accumulator row is poisoned. -/
def markBank (b row elem : Nat) (v : Die) : Die :=
  match v.bankRow? b row with
  | none => v
  | some r => v.setBankRow b row { r with ecc := r.ecc ||| BitVec.ofNat 192 (2 ^ elem) }

/-- A line of the stationary B is hit: each of its groups is a poisoned group (09 R183). -/
def markLine (b row : Nat) (v : Die) : Die :=
  let x := mgetD v.bmat b {}
  let n := gprOf x.sp * panelCols x.bw
  let line := mgetD x.lines row []
  { v with bmat := mset v.bmat b { x with
      ecc := sinsert x.ecc row
      lines := mset x.lines row (List.replicate n 0xFF ++ (if line.isEmpty then List.replicate (bLine x.bw x.sp - n) 0 else line.drop n)) } }

/-- The program entry of a chain's running group has met uncorrectable data (10 R222). -/
def markGroup (ch : Nat) (c : Ctx) : Ctx :=
  if ((c.chains[ch]?).map (·.running)).getD false then
    c.modQueue (1 + ch) (fun u => { u with ents := u.ents.map (fun e => if e.started && isProg e.cmd then { e with bad := true } else e) })
  else c

/-- UNCORRECTABLE_ERROR: poisoned data waits for its consumer; a line of an instruction cache is dropped; control state quiesces its
context, a steward's own state is a double fault, and a unit without a context tells the die's steward. A corrected error is counted. -/
def eccStep (e : EccEvent) (y : Sys) : Sys :=
  match e with
  | .corrected p => if p < Config.partitions then countEvent y p 8 1 else y
  | .control r => controlStateError r y
  | .window d k off n =>
    if d < Config.computeDies && k < 36 && off + n ≤ Config.sliceBytes then
      y.modDie d (fun v => { v with slices := mset v.slices k { v.slice k with poison := markAll (v.slice k).poison off n } })
    else y
  | .steward d off n =>
    if d < Config.computeDies && off + n ≤ Config.stewardBytes then y.modDie d (fun v => { v with smemBad := markAll v.smemBad off n }) else y
  | .memory m pa n => if m < Config.memDies && pa + n ≤ 2 ^ 36 then y.modMem m (fun v => { v with poison := markAll v.poison pa n }) else y
  | .bank d b row k => if d < Config.computeDies && k < 192 then y.modDie d (markBank b row k) else y
  | .stationary d b row => if d < Config.computeDies && b < 36 && row < 192 then y.modDie d (markLine b row) else y
  | .strip d l ch => if (y.ctx d l).isFree then y else y.modCtx d l (markGroup ch)
  | .cache r line => y.modSeq r (fun q => { q with icache := merase q.icache line })
  | .unit d u => if d < Config.computeDies then addDiePend y d (.machineCheck u) else y

def execUncorrectableError (e : EccEvent) (s : State) : Host.Outcome State Fault Refusal := runEv s (eccStep e)

end Sys2Proof.Machine
end

