-- ==== Sys2Proof/Machine/Walker.lean ====
section
/-! DEFINITION. The commands of a memory die's walker: the page tables, the frame states, quarantine and migration (18 R371 to
R375, R383 to R385). -/

namespace Sys2Proof.Machine

/-! ## Registers and results -/

def rOk : Nat := 0x00
def rMapBusy : Nat := 0x01
def rBadArg : Nat := 0x02
def rNoMap : Nat := 0x03
def rAlready : Nat := 0x04
def rNoTab : Nat := 0x05
def rMoveAbort : Nat := 0x06

/-- The fields of WKC0 to WKC3 (18 R374). -/
structure WkCmd where
  op : Nat
  big : Bool
  w : Bool
  lc : Nat
  part : Nat
  off : Nat
  fdie : Nat
  pa : Nat
  sig : Nat
  /-- A bit that no field names is set. -/
  resv : Bool

def wkc (m : MemDie) (k : Nat) : Nat := (vgetD m.wkc k 0).toNat

def wkCmd (m : MemDie) : WkCmd :=
  let a := wkc m 0
  { op := bitsOf a 60 3, big := bitOf a 59, w := bitOf a 58, lc := bitsOf a 55 3, part := bitsOf a 50 5
    off := bitsOf (wkc m 1) 0 44, fdie := bitsOf (wkc m 2) 36 4, pa := bitsOf (wkc m 2) 0 36, sig := bitsOf (wkc m 3) 0 48
    resv := bitsOf a 0 50 != 0 || wkc m 1 / 2 ^ 44 != 0 || wkc m 2 / 2 ^ 40 != 0 || wkc m 3 / 2 ^ 48 != 0 }

/-- A field that the command does not use is not zero (18 R375). -/
def unusedSet (c : WkCmd) : Bool :=
  match c.op with
  | 1 => c.sig != 0
  | 2 => c.w || c.lc != 0 || c.fdie != 0 || c.pa != 0
  | 3 => c.w || c.lc != 0
  | 4 => c.w || c.fdie != 0 || c.pa != 0 || c.sig != 0
  | _ => c.big || c.w || c.lc != 0 || c.off != 0 || c.sig != 0

/-- The partition is enabled and its die map names this die. -/
def partHere (p : Part) (md : Nat) : Bool := p.en && (List.range p.nvd).any (fun k => p.vdie k == some md)

/-- The frame named by the command cannot be given: its die, its channel, or its alignment. -/
def frameBad (y : Sys) (c : WkCmd) : Bool :=
  c.pa % pageBytes c.big != 0 || 12 ≤ c.fdie || !(y.memDie c.fdie).inSvc || !y.ownsChan c.part c.fdie (c.pa / 2 ^ 31)

/-- BADARG. -/
def badArg (y : Sys) (md : Nat) (c : WkCmd) : Bool :=
  let p := y.part c.part
  c.op == 0 || 6 ≤ c.op || c.resv || unusedSet c || Config.partitions ≤ c.part || !partHere p md ||
    ((c.op == 1 || c.op == 3) && c.off % pageBytes c.big != 0) || (c.sig != 0 && (c.sig % 8 != 0 || p.nvd ≤ c.sig / 2 ^ 44)) ||
    ((c.op == 1 || c.op == 3 || c.op == 5) && frameBad y c) || (c.op == 5 && c.fdie != md)

/-! ## Frames and tables -/

def frameState (m : MemDie) (f : Nat) : FrameSt := mgetD m.frames f .free

def framesBusy (m : MemDie) (pa : Nat) (big : Bool) : Bool := (framesOf pa big).any (fun f => frameState m f != .free)

def setFrames (pa : Nat) (big : Bool) (st : FrameSt) (m : MemDie) : MemDie :=
  { m with frames := (framesOf pa big).foldl (fun fs f => if st = .free then merase fs f else mset fs f st) m.frames }

/-- Some page of the range is mapped. -/
def rangeMapped (m : MemDie) (part off : Nat) (big : Bool) : Bool :=
  (List.range (if big then 32 else 1)).any (fun i => (findLeaf m part (off + i * 2 ^ 16)).isSome)

def put64 (m : MemDie) (a v : Nat) : MemDie := memPut m a (clean (leSplit 8 v))

/-- A table page is taken and cleared. -/
def takeTable (m : MemDie) (part : Nat) : Option (MemDie × Nat) :=
  match mgetD m.tabFree part [] with
  | [] => none
  | a :: t =>
    some ({ m with tabFree := mset m.tabFree part t, mem := clearRange m.mem a (a + 4096)
                   poison := m.poison.filter (fun p => !(a ≤ p && p < a + 4096)) }, a)

/-- The place of the entry for an offset at level `last`, with the tables on the way made as they are missing; `none` when table
memory is exhausted. -/
def makePath (part off last : Nat) : Nat → Nat → Nat → MemDie → Option (MemDie × Nat)
  | 0, _, _, _ => none
  | fuel + 1, lvl, tab, m =>
    let a := tab + 8 * levelIx off lvl
    if lvl = last then some (m, a)
    else if bitOf (dev64 m a) 63 then makePath part off last fuel (lvl + 1) (bitsOf (dev64 m a) 12 24 * 4096) m
    else match takeTable m part with
      | none => none
      | some (m, t) => makePath part off last fuel (lvl + 1) t (put64 m a (2 ^ 63 + t))

/-- The place of a leaf, the root table made when there is none. -/
def leafPlace (m : MemDie) (part off : Nat) (big : Bool) : Option (MemDie × Nat) :=
  let last := if big then 2 else 3
  match mget? m.roots part with
  | some root => makePath part off last 4 0 root m
  | none =>
    match takeTable m part with
    | none => none
    | some (m, root) => makePath part off last 4 0 root { m with roots := mset m.roots part root }

/-- A leaf entry (18 R372). -/
def leafEntry (lc fdie pa : Nat) (w mg : Bool) : Nat :=
  2 ^ 63 + 2 ^ 62 + lc * 2 ^ 59 + w.toNat * 2 ^ 58 + mg.toNat * 2 ^ 57 + fdie * 2 ^ 36 + pa

/-- The leaf of the given size at the offset. -/
def leafAt (m : MemDie) (part off : Nat) (big : Bool) : Option Leaf :=
  match findLeaf m part off with
  | some l => if l.big == big && l.pageOff == off then some l else none
  | none => none

/-- Pages in quarantine that a die holds at most (18 R383). -/
def quarCap : Nat := 512

/-- A page's old frames go into quarantine for what is left of the latest hold (18 R383). -/
def quarantine (md part off sig : Nat) (big : Bool) (fdie pa : Nat) (y : Sys) : Sys :=
  let rem := (((y.memDie md).holds.find? (fun h => h.part == part && h.off == off)).map (·.rem)).getD 0
  let y := y.modMem md (fun m => { m with holds := m.holds.filter (fun h => !(h.part == part && h.off == off)) })
  y.modMem fdie (fun m =>
    { setFrames pa big .quar m with
      quar := m.quar ++ [{ frame := pa, big := big, home := md, off := off, rem := rem, sig := BitVec.ofNat 64 sig, part := part
                           walker := md, left := framesOf pa big }] })

/-! ## Commands -/

/-- A command ends: WKS.RESULT, BUSY and GO. -/
def wkDone (md result : Nat) (y : Sys) : Sys :=
  y.modMem md (fun m => { m with result := result, busy := false, wkc := m.wkc.setIfInBounds 0 (vgetD m.wkc 0 0 &&& 0x7FFF_FFFF_FFFF_FFFF) })

/-- MAP. -/
def doMap (md : Nat) (c : WkCmd) (y : Sys) : Sys :=
  let m := y.memDie md
  if rangeMapped m c.part c.off c.big then wkDone md rAlready y
  else if framesBusy (y.memDie c.fdie) c.pa c.big then wkDone md rMapBusy y
  else match leafPlace m c.part c.off c.big with
    | none => wkDone md rNoTab y
    | some (m, a) =>
      let y := y.setMem md (put64 m a (leafEntry c.lc c.fdie c.pa c.w false))
      wkDone md rOk (y.modMem c.fdie (setFrames c.pa c.big .mapped))

/-- UNMAP; it waits, BUSY, while the frame's die holds 512 quarantined pages. -/
def doUnmap (md : Nat) (c : WkCmd) (y : Sys) : Sys :=
  match leafAt (y.memDie md) c.part c.off c.big with
  | none => wkDone md rNoMap y
  | some l =>
    if quarCap ≤ (y.memDie l.fdie).quar.length then y
    else wkDone md rOk (quarantine md c.part c.off c.sig c.big l.fdie l.pa (y.modMem md (fun m => put64 m l.slot 0)))

/-- SETLC. -/
def doSetlc (md : Nat) (c : WkCmd) (y : Sys) : Sys :=
  match leafAt (y.memDie md) c.part c.off c.big with
  | none => wkDone md rNoMap y
  | some l => wkDone md rOk (y.modMem md (fun m => put64 m l.slot (leafEntry c.lc l.fdie l.pa l.w l.mg)))

/-- ADDT: a frame of 16 table pages. -/
def doAddt (md : Nat) (c : WkCmd) (y : Sys) : Sys :=
  if framesBusy (y.memDie md) c.pa false then wkDone md rMapBusy y
  else wkDone md rOk (y.modMem md (fun m =>
    { setFrames c.pa false (.table c.part) m with
      tabFree := mset m.tabFree c.part (mgetD m.tabFree c.part [] ++ (List.range 16).map (fun i => c.pa + 4096 * i)) }))

/-- MOVE begins: the new frames become MAPPED, and the leaf's MG is set (18 R385). -/
def doMove (md : Nat) (c : WkCmd) (y : Sys) : Sys :=
  match leafAt (y.memDie md) c.part c.off c.big with
  | none => wkDone md rNoMap y
  | some l =>
    if framesBusy (y.memDie c.fdie) c.pa c.big then wkDone md rMapBusy y
    else
      let y := y.modMem c.fdie (setFrames c.pa c.big .mapped)
      y.modMem md (fun m =>
        { put64 m l.slot (leafEntry l.lc l.fdie l.pa l.w true) with
          rounds := 0
          move := some { part := c.part, off := c.off, big := c.big, oldDie := l.fdie, oldPa := l.pa, newDie := c.fdie, newPa := c.pa
                         round := 0, lines := List.range (pageBytes c.big / 256), dirty := [], sig := BitVec.ofNat 64 c.sig } })

/-- Perform the command that the registers hold. -/
def performCmd (md : Nat) (y : Sys) : Sys :=
  let c := wkCmd (y.memDie md)
  if badArg y md c then wkDone md rBadArg y
  else match c.op with
    | 1 => doMap md c y
    | 2 => doUnmap md c y
    | 3 => doMove md c y
    | 4 => doSetlc md c y
    | _ => doAddt md c y

/-- A write of WKC0: ignored while BUSY; with GO the command is issued (18 R374). -/
def writeWkc0 (md : Nat) (v : Word) (y : Sys) : Sys :=
  if (y.memDie md).busy then y
  else
    let go := bitOf v.toNat 63
    let y := y.modMem md (fun m => { m with wkc := m.wkc.setIfInBounds 0 v, busy := go })
    if go then performCmd md y else y

/-- The event of one command: the write of WKC0 that issues it. -/
def walkerEvent (op md : Nat) (v : Word) (y : Sys) : Sys :=
  if bitOf v.toNat 63 && bitsOf v.toNat 60 3 == op && md < Config.memDies then writeWkc0 md v y else y

def execWalkerMap (md : Nat) (v : Word) (s : State) : Host.Outcome State Fault Refusal := runEv s (walkerEvent 1 md v)

def execWalkerUnmap (md : Nat) (v : Word) (s : State) : Host.Outcome State Fault Refusal := runEv s (walkerEvent 2 md v)

def execWalkerMove (md : Nat) (v : Word) (s : State) : Host.Outcome State Fault Refusal := runEv s (walkerEvent 3 md v)

def execWalkerSetlc (md : Nat) (v : Word) (s : State) : Host.Outcome State Fault Refusal := runEv s (walkerEvent 4 md v)

def execWalkerAddt (md : Nat) (v : Word) (s : State) : Host.Outcome State Fault Refusal := runEv s (walkerEvent 5 md v)

/-- WKS_SIGERR_CLEAR: a write of 1. -/
def execWksSigerrClear (md : Nat) (v : Word) (s : State) : Host.Outcome State Fault Refusal :=
  runEv s (fun y => if bitOf v.toNat 62 then y.modMem md (fun m => { m with sigerr := false }) else y)

/-! ## Quarantine (18 R383) -/

/-- The decrement of SIG at the release of one frame. -/
def releaseSig (q : Quar) (y : Sys) : Sys :=
  if q.sig = 0 then y
  else match intXlate y q.part q.sig.toNat .rw with
    | .ok l => (performUnit y l.fdie l.pa 8 false (fun v => (v + 2 ^ 64 - 1) % 2 ^ 64)).1
    | .error _ => fwInterrupt (y.modMem q.walker (fun m => { m with sigerr := true })) 2

/-- An UNMAP that waited for room goes on. -/
def retryCmds (y : Sys) : Sys :=
  (List.range Config.memDies).foldl (fun y md =>
    let m := y.memDie md
    if m.busy && m.move.isNone then performCmd md y else y) y

/-- One frame of a quarantined page is released: it is FREE, and SIG is decremented (18 R383). -/
def releaseFrame (md frame : Nat) (q : Quar) (y : Sys) : Sys :=
  let q' := { q with left := q.left.erase (frame / 2 ^ 16) }
  let y := y.modMem md (fun m =>
    { setFrames frame false .free m with quar := (m.quar.map (fun x => if x = q then q' else x)).filter (fun x => !x.left.isEmpty) })
  retryCmds (releaseSig q y)

/-- QUARANTINE_RELEASE: the time of the page has run out, and the frame at address `frame` is released. The decrement of SIG enters the
order of its line (11 R271). -/
def quarReleaseStep (md frame : Nat) (y : Sys) : Sys :=
  match (y.memDie md).quar.find? (fun q => q.left.contains (frame / 2 ^ 16) && q.rem == 0) with
  | none => y
  | some q =>
    if q.sig = 0 then releaseFrame md frame q y
    else gated y q.part (.line (q.sig.toNat / 64) 0 14) (releaseFrame md frame q)

def execQuarantineRelease (md frame : Nat) (s : State) : Host.Outcome State Fault Refusal := runEv s (quarReleaseStep md frame)

/-! ## Migration (18 R385) -/

/-- Copy 256-byte lines of a page, marks and all, to its new frames. -/
def copyLines (v : Move) (lines : List Nat) (y : Sys) : Sys :=
  lines.foldl (fun y k =>
    let o := y.memDie v.oldDie
    let lo := v.oldPa + 256 * k
    let dst := v.newPa + 256 * k
    let src := sliceOut o.mem lo (lo + 256)
    let marks := (o.poison.filter (fun p => lo ≤ p && p < lo + 256)).map (fun p => p - lo + dst)
    y.modMem v.newDie (fun m => { m with
      mem := copyIn m.mem src dst 256
      poison := marks.foldl sinsert (m.poison.filter (fun p => !(dst ≤ p && p < dst + 256)))
      touched := sinsert m.touched (dst / 2 ^ 16) })) y

/-- Where a place of the old frames lies after the move. -/
def movedPlace (v : Move) (x : Nat × Nat) : Nat × Nat :=
  if x.1 = v.oldDie && v.oldPa ≤ x.2 && x.2 < v.oldPa + pageBytes v.big then (v.newDie, x.2 - v.oldPa + v.newPa) else x

/-- The waiters and watches on objects of the page stand at its new frames. -/
def moveWaiters (v : Move) (h : Hub) : Hub :=
  { h with
    reqs := h.reqs.map (fun q => if q.waiting then { q with at_ := q.at_.map (movedPlace v) } else q)
    fns := h.fns.map (fun f => (f.1, { f.2 with watches := f.2.watches.map (fun w => (w.1, { w.2 with at_ := w.2.at_.map (movedPlace v) })) })) }

/-- The switch: the last lines, the leaf, the old frames in quarantine. -/
def switchMove (md : Nat) (v : Move) (y : Sys) : Sys :=
  match leafAt (y.memDie md) v.part v.off v.big with
  | none => y
  | some l =>
    let y := copyLines v v.lines y
    let y := y.modMem md (fun m => { put64 m l.slot (leafEntry l.lc v.newDie v.newPa l.w false) with move := none, rounds := v.round })
    wkDone md rOk ((quarantine md v.part v.off v.sig.toNat v.big v.oldDie v.oldPa y).modHub (moveWaiters v))

/-- The move is given up after 16 rounds. -/
def abortMove (md : Nat) (v : Move) (y : Sys) : Sys :=
  match leafAt (y.memDie md) v.part v.off v.big with
  | none => y
  | some l =>
    let y := y.modMem v.newDie (setFrames v.newPa v.big .free)
    wkDone md rMoveAbort (y.modMem md (fun m =>
      { put64 m l.slot (leafEntry l.lc l.fdie l.pa l.w false) with move := none, rounds := 16 }))

/-- A round has copied its lines; the lines written meanwhile are the next round's. -/
def endRound (v : Move) : Move := { v with round := v.round + 1, lines := v.dirty, dirty := [] }

/-- MOVE_ROUND_COMPLETE: few lines left freeze and switch the page, the sixteenth round aborts, else the next round begins. A switch waits
for room in quarantine. -/
def moveRoundStep (md : Nat) (y : Sys) : Sys :=
  match (y.memDie md).move with
  | none => y
  | some v =>
    let v' := endRound v
    if v'.lines.length ≤ 64 then
      if quarCap ≤ (y.memDie v.oldDie).quar.length then y else switchMove md v' (copyLines v v.lines y)
    else if v'.round = 16 then abortMove md v' (copyLines v v.lines y)
    else (copyLines v v.lines y).modMem md (fun m => { m with move := some v', rounds := v'.round })

def execMoveRoundComplete (md : Nat) (s : State) : Host.Outcome State Fault Refusal := runEv s (moveRoundStep md)

end Sys2Proof.Machine
end

