-- ==== Sys2Proof/Machine/Nodes.lean ====
section
/-! DEFINITION. Records, nodes and their completion at the hub: the launch record's fields and checks (02 R33, R35), error posting (14 R313),
takes (14 R315), readiness (14 R316, R319), releases and the pending table (14 R317), and the end of a node (02 R32, 14 R331). -/

namespace Sys2Proof.Machine

/-! ## The launch record (02 R33) -/

def recGraph (x : BitVec 1024) : Nat := lfld x 0 32
def recNode (x : BitVec 1024) : Nat := lfld x 32 16
def recShape (x : BitVec 1024) : Nat := lfld x 48 4
def recPrio (x : BitVec 1024) : Nat := lfld x 56 3
def recPin (x : BitVec 1024) : Bool := lfld x 59 1 == 1
def recBar (x : BitVec 1024) : Bool := lfld x 60 1 == 1
def recGng (x : BitVec 1024) : Bool := lfld x 61 1 == 1
def recIci (x : BitVec 1024) : Bool := lfld x 62 1 == 1
def recXreq (x : BitVec 1024) : Bool := lfld x 63 1 == 1
def recCount (x : BitVec 1024) : Nat := lfld x 192 64
def recRemain (x : BitVec 1024) : Nat := lfld x 256 32
def recTokens (x : BitVec 1024) : Nat := lfld x 288 8
def recPreds (x : BitVec 1024) : Nat := lfld x 296 8
def recPolicy (x : BitVec 1024) : Nat := lfld x 304 3
def recNsem (x : BitVec 1024) : Nat := lfld x 307 8
def recGang (x : BitVec 1024) : Nat := lfld x 320 64
def recSigobj (x : BitVec 1024) : Word := BitVec.ofNat 64 (lfld x 384 64)
def recDec (x : BitVec 1024) : Nat := lfld x 448 32
def recSucc (x : BitVec 1024) (k : Nat) : Nat := lfld x (512 + 64 * k) 64
def recOplist (x : BitVec 1024) : Nat := lfld x 896 64
def recOpcount (x : BitVec 1024) : Nat := lfld x 960 8

/-- The successor entries up to the first zero one. -/
def recSuccs (x : BitVec 1024) : List Nat := ((List.range 6).map (recSucc x)).takeWhile (fun a => a != 0)

def gangId (x : BitVec 1024) : Nat := bitsOf (recGang x) 32 32
def gangMidx (x : BitVec 1024) : Nat := bitsOf (recGang x) 19 5
def gangMcnt (x : BitVec 1024) : Nat := bitsOf (recGang x) 14 5
def gangAsm (x : BitVec 1024) : Nat := bitsOf (recGang x) 0 14

/-- The checks of 02 R35. -/
def recordBad (x : BitVec 1024) : Bool :=
  lfld x 968 56 != 0 || lfld x 480 32 != 0 || lfld x 315 5 != 0 || (recGng x && bitsOf (recGang x) 24 8 != 0) ||
    0xA ≤ recShape x ||
    (recEntry x).toNat % 2 == 1 || !canonical (recEntry x) ||
    (recArg x).toNat % 64 != 0 || (recSigobj x).toNat % 8 != 0 || (recOpcount x != 0 && recOplist x % 64 != 0) ||
    (recSuccs x).any (fun a => a % 128 != 0) || (recIci x && recCount x % 8 != 0) ||
    (!recIci x && recCount x / 2 ^ 32 != 0) ||
    64 < recOpcount x ||
    (!recGng x && recGang x != 0) ||
    (recXreq x && recShape x == 7)

/-- A record of 128 bytes. -/
def recordOf (bs : List Byte) : BitVec 1024 := BitVec.ofNat 1024 (leNat bs)

/-! ## Errors (14 R313, 24 R460) -/

def eRefused : Nat := 1
def eEcomp : Nat := 2
def eCount : Nat := 3
def eGang : Nat := 4
def eRamp : Nat := 5
def eStall : Nat := 6
def eNotify : Nat := 7
def eCfg : Nat := 8
def eRing : Nat := 9

/-- QERR and QERRN after an error: the first error's fields stay, a later one sets OVR, and the count saturates. -/
def HQueue.post (u : HQueue) (kind cause node graph : Nat) : HQueue :=
  let e := u.qerr.toNat
  { u with
    qerr := BitVec.ofNat 64
      (if bitOf e 63 then (if bitOf e 62 then e else e + 2 ^ 62)
       else 2 ^ 63 + (bitOf e 62).toNat * 2 ^ 62 + kind * 2 ^ 58 + cause % 64 * 2 ^ 52 + node % 2 ^ 16 * 2 ^ 32 + graph % 2 ^ 32)
    qerrn := min (u.qerrn + 1) (2 ^ 32 - 1) }

/-- Post an error to a queue, and raise QE. -/
def postErr (f q kind cause node graph : Nat) (y : Sys) : Sys :=
  (y.modQueue f q (fun u => u.post kind cause node graph)).modFn f (fun v => raiseIstat v 0)

/-- Post an error about a record to its origin queue. -/
def postNode (n : Node) (kind cause : Nat) (y : Sys) : Sys :=
  postErr n.oFn n.oQ kind cause (recNode n.record) (recGraph n.record) y

/-! ## Reads of the hub (11 R248, R249) -/

/-- A virtual address of a launch record, with the function's range set. -/
def hubXlate (y : Sys) (f part : Nat) (va : Word) (need : Need) : Except Nat Leaf := virtXlate y part (y.fn f).ranges va need

/-- Bytes that lie in one page, by the hub. -/
def hubRead (y : Sys) (f part : Nat) (va : Word) (n : Nat) : Option (List Byte) :=
  match hubXlate y f part va .rd with
  | .error _ => none
  | .ok l => some ((devRead y l.fdie l.pa n).map (·.1))

/-! ## Nodes -/

def Hub.node? (h : Hub) (k : Nat) : Option Node := mget? h.nodes k

def Sys.modNode (y : Sys) (k : Nat) (f : Node → Node) : Sys :=
  y.modHub (fun h => match mget? h.nodes k with
    | none => h
    | some n => { h with nodes := mset h.nodes k (f n) })

def addNode (n : Node) (y : Sys) : Sys :=
  y.modHub (fun h => { h with nodes := mset h.nodes h.nodeNext n, nodeNext := h.nodeNext + 1 })

/-- A node goes, its gang keeping no member of that number. -/
def dropNode (k : Nat) (y : Sys) : Sys :=
  y.modHub (fun h => { h with
    nodes := merase h.nodes k
    gangs := h.gangs.map (fun g => (g.1, { g.2 with members := g.2.members.filter (fun m => m.1 != k) })) })

/-- A start has been opened for every instance, or none will be any more. -/
def Node.allStarted (n : Node) : Bool :=
  n.failed.isSome || (n.ready && n.again.isEmpty && (n.count.map (fun c => decide (c ≤ n.started))).getD false)

/-- Every instance has started, its claim granted and its first fetch issued, or none will any more (14 R318). -/
def Node.allBegun (n : Node) : Bool := n.failed.isSome || (n.ready && (n.count.map (fun c => decide (c ≤ n.begun))).getD false)

/-- The node fails: nothing of it starts any more, and it reserves nothing (14 R331). The first cause stands. -/
def Node.fail (cause kind : Nat) (n : Node) : Node :=
  match n.failed with
  | some _ => { n with rerun := [], again := [] }
  | none => { n with failed := some cause, failKind := kind, rerun := [], again := [], reserving := false, resv := none }

/-- Records of queue `q` of function `f` in the hub. -/
def Hub.ofQueue (h : Hub) (f q : Nat) : List (Nat × Node) := h.nodes.filter (fun m => m.2.came == .queue && m.2.oFn == f && m.2.oQ == q)

/-- The node is a member of a gang that has not committed, and holds its queue's start order (14 R326). -/
def Hub.gangOpen (h : Hub) (n : Node) : Bool := ((n.gang.bind (mget? h.gangs)).map (fun g => !g.committed)).getD false

/-- Taken records of a queue whose instances have not all started (14 R315). -/
def Hub.heldCount (h : Hub) (f q : Nat) : Nat := ((h.ofQueue f q).filter (fun m => !m.2.allBegun)).length

/-- The record of a queue whose turn to open starts it is (14 R318). -/
def Hub.queueHead (h : Hub) (f q : Nat) : Option Nat :=
  let l := (h.ofQueue f q).filter (fun m => !m.2.allStarted || h.gangOpen m.2)
  (l.foldl (fun b m => match b with
    | none => some m
    | some x => if m.2.seqNo < x.2.seqNo then some m else some x) none).map (·.1)

/-- Every record taken earlier from the queue has completed (14 R316). -/
def Hub.barrierOpen (h : Hub) (n : Node) : Bool := (h.ofQueue n.oFn n.oQ).all (fun m => n.seqNo ≤ m.2.seqNo)

/-! ## Completion and release (02 R32, 14 R317, R331) -/

/-- Releases to the successors of a record, in completion order. -/
def pushReleases (part fn : Nat) (x : BitVec 1024) (err : Bool) (oFn oQ : Nat) (y : Sys) : Sys :=
  y.modPart part (fun p => { p with
    held := p.held ++ (recSuccs x).map (fun a => { fn := fn, addr := BitVec.ofNat 64 a, err := err, oFn := oFn, oQ := oQ }) })

/-- A node completes: in error, with the kind and cause posted, or not. A member of a gang that has faulted posts and releases nothing
more (14 R330). -/
def endNode (k : Nat) (err : Option (Nat × Nat)) (y : Sys) : Sys :=
  match y.hub.node? k with
  | none => y
  | some n =>
    let y := dropNode k y
    if n.gangOut then y
    else
      let y := match err with
        | none => y
        | some (kind, cause) => postNode n kind cause y
      pushReleases n.part n.fn n.record err.isSome n.oFn n.oQ y

/-- The count of a record: direct, or one atomic 64-bit read; none when it cannot be read (14 R319). -/
def readCount (y : Sys) (n : Node) : Option Nat :=
  if recIci n.record then (hubRead y n.fn n.part (BitVec.ofNat 64 (recCount n.record)) 8).map leNat else some (recCount n.record)

/-- The line that an indirect count is read from, for the order log. -/
def countChoice (y : Sys) (n : Node) : Option Choice :=
  if !recIci n.record then none
  else match virtToInt (y.fn n.fn).ranges (BitVec.ofNat 64 (recCount n.record)) .rd with
    | .error _ => none
    | .ok ia => some (.line (ia / 64) 0 15)

/-- A record becomes ready, and its count is known. -/
def makeReady (k : Nat) (n : Node) (y : Sys) : Sys :=
  let y := y.modNode k (fun n => { n with ready := true, readyAt := y.hub.now })
  match readCount y n with
  | none => endNode k (some (eCount, 0)) y
  | some c =>
    if 2 ^ 32 ≤ c then endNode k (some (eCount, 0)) y
    else if c = 0 && n.came != .queue then endNode k none y
    else y.modNode k (fun n => { n with count := some c })

/-- A replay holds the read of this record's count back. -/
def countHeld (y : Sys) (n : Node) : Bool :=
  match countChoice y n with
  | none => false
  | some c => match gate y n.part c with
    | .hold => true
    | _ => false

def canReady (y : Sys) (n : Node) : Bool :=
  !n.ready && (n.came != .queue || !recBar n.record || y.hub.barrierOpen n) && !countHeld y n

def readyGated (k : Nat) (n : Node) (y : Sys) : Sys :=
  match countChoice y n with
  | none => makeReady k n y
  | some c => gated y n.part c (makeReady k n)

/-- Every earlier record of the queue has started all its instances, and holds the start order no longer (14 R318, R326). -/
def Hub.atTurn (h : Hub) (n : Node) : Bool :=
  (h.ofQueue n.oFn n.oQ).all (fun m => n.seqNo ≤ m.2.seqNo || (m.2.allBegun && !h.gangOpen m.2))

/-- A node has nothing left to run. -/
def canEnd (h : Hub) (n : Node) : Bool :=
  n.live == 0 && (n.failed.isSome ||
    (n.allStarted && n.rerun.isEmpty && !h.gangOpen n && (n.count != some 0 || n.came != .queue || h.atTurn n)))

/-- A pending entry is the one of a successor. -/
def Pending.isFor (e : Pending) (r : Release) : Bool := e.fn == r.fn && e.addr == r.addr

/-- A release can be applied: its entry exists, or the table has room. -/
def releaseOpen (p : Part) (r : Release) : Bool := p.pendTab.any (fun e => e.isFor r) || p.pendTab.length < 4096

/-- A successor's count has reached 0: it becomes ready, or completes in error. -/
def releasedRecord (part : Nat) (x : BitVec 1024) (r : Release) (err : Bool) (y : Sys) : Sys :=
  if err then pushReleases part r.fn x true r.oFn r.oQ y
  else addNode { fn := r.fn, part := part, record := x, addr := r.addr, oFn := r.oFn, oQ := r.oQ, came := .released } y

/-- The first release of a successor (14 R317). -/
def firstRelease (part : Nat) (r : Release) (y : Sys) : Sys :=
  match hubRead y r.fn part r.addr 128 with
  | none => postErr r.oFn r.oQ eRefused cCopyFault 0 0 y
  | some bs =>
    let x := recordOf bs
    if recordBad x || recPreds x == 0 then postErr r.oFn r.oQ eRefused cOperand (recNode x) (recGraph x) y
    else if recPreds x = 1 then releasedRecord part x r r.err y
    else y.modPart part (fun p => { p with
      pendTab := p.pendTab ++ [{ fn := r.fn, addr := r.addr, left := recPreds x - 1, err := r.err, record := x, oFn := r.oFn, oQ := r.oQ }] })

/-- A later release: one less is outstanding. -/
def laterRelease (part : Nat) (e : Pending) (r : Release) (y : Sys) : Sys :=
  let err := e.err || r.err
  if e.left ≤ 1 then
    releasedRecord part e.record r err (y.modPart part (fun p => { p with pendTab := p.pendTab.filter (fun x => !x.isFor r) }))
  else y.modPart part (fun p => { p with
    pendTab := p.pendTab.map (fun x => if x.isFor r then { x with left := x.left - 1, err := err } else x) })

/-- Apply a release, which leaves the list of those held. -/
def applyRelease (part : Nat) (r : Release) (y : Sys) : Sys :=
  let y := y.modPart part (fun p => { p with held := p.held.erase r })
  match (y.part part).pendTab.find? (fun e => e.isFor r) with
  | some e => laterRelease part e r y
  | none => firstRelease part r y

/-- One thing that follows by itself at the hub: a release that can be applied, a record that becomes ready, or a node that ends. -/
def settleOne (y : Sys) : Option Sys :=
  match (y.hub.parts.filterMap (fun p => (p.2.held.find? (releaseOpen p.2)).map (fun r => (p.1, r)))).head? with
  | some (p, r) => some (applyRelease p r y)
  | none =>
    match y.hub.nodes.find? (fun m => canReady y m.2) with
    | some (k, n) => some (readyGated k n y)
    | none =>
      match y.hub.nodes.find? (fun m => canEnd y.hub m.2) with
      | some (k, n) => some (endNode k (n.failed.map (fun c => (n.failKind, c))) y)
      | none => none

/-- Everything that follows by itself, as far as `fuel` goes; what is left follows at the hub's next event. -/
def settleN : Nat → Sys → Sys
  | 0, y => y
  | n + 1, y =>
    match settleOne y with
    | none => y
    | some y => settleN n y

def settleHub (y : Sys) : Sys := settleN 256 y

/-- HELD_RELEASE_APPLY: a release that found the table full is applied when an entry has been freed (14 R317). -/
def execHeldReleaseApply (p : Nat) (s : State) : Host.Outcome State Fault Refusal :=
  runEv s (fun y => match (y.part p).held.find? (releaseOpen (y.part p)) with
    | some r => settleHub (applyRelease p r y)
    | none => settleHub y)

/-! ## Gangs at the take (14 R325) -/

def Gang.nodes (g : Gang) : List Nat := g.members.map (·.1)

/-- The gang that holds members of a GID and has not committed. -/
def Hub.heldGang (h : Hub) (gid : Nat) : Option (Nat × Gang) := h.gangs.find? (fun g => g.2.gid == gid && !g.2.committed)

/-- Legal leading positions of a class (02 R37). -/
def legalLeads : Nat → List Nat
  | 0 => [0]
  | 1 => [0, 18]
  | 2 => [0, 3]
  | 3 => [0, 3, 18, 21]
  | 4 => (List.range 6).map (6 * ·)
  | 5 => List.range 6
  | 6 => List.range 36
  | _ => List.range 24

/-- The classes that a shape code allows. -/
def classesOf (shape : Nat) : List Nat := if shape = 8 then [1, 2] else if shape = 9 then [4, 5] else [shape]

/-- Compute dies that hold a class. -/
def diesOf (cls : Nat) : List Nat := if cls = 7 then [8, 9, 10, 11] else List.range 8

def placeBlocks (cls lead : Nat) : List Nat := blocksOf cls lead (shapeSize cls).1 (shapeSize cls).2

/-- Chains that a claim holds (02 R37, R38). -/
def placeChains (cls lead : Nat) (xreq : Bool) : List Nat :=
  if cls = 7 then [lead] else if xreq then (List.range (shapeSize cls).2).map (fun j => lead % 6 + j) else []

/-- The partition owns what a place needs. -/
def placeOwned (p : Part) (d cls lead : Nat) (xreq : Bool) : Bool :=
  (placeBlocks cls lead).all (p.ownsBlock d) && (cls == 7 || (placeChains cls lead xreq).all (p.ownsChain d))

def shares (a b : List Nat) : Bool := a.any (fun x => b.contains x)

/-- Places of a class that one die can hold at one time: chains and blocks of two places stay apart. -/
def dieFits (p : Part) (d cls : Nat) (xreq : Bool) : Nat :=
  ((legalLeads cls).foldl (fun (acc : List Nat) l =>
    if placeOwned p d cls l xreq &&
        !(acc.any (fun m => shares (placeBlocks cls m) (placeBlocks cls l) || shares (placeChains cls m xreq) (placeChains cls l xreq)))
    then acc ++ [l] else acc) []).length

/-- Fragments of a shape that a partition's in-service dies hold at one time. -/
def maxFits (y : Sys) (part shape : Nat) (xreq : Bool) : Nat :=
  ((List.range Config.computeDies).map (fun d =>
    if (y.die d).inSvc then
      ((classesOf shape).map (fun c => if (diesOf c).contains d then dieFits (y.part part) d c xreq else 0)).foldl max 0
    else 0)).foldl (· + ·) 0

/-- A gang member is refused (14 R325, 17 R362). -/
def memberBad (y : Sys) (f part : Nat) (x : BitVec 1024) : Bool :=
  let gidh := (y.fn f).gidh
  gangId x == 0 || gidh == 0 || gangId x / 2 ^ 16 != gidh || gangMcnt x < gangMidx x || recIci x ||
    maxFits y part (recShape x) (recXreq x) < recCount x ||
    (match y.hub.heldGang (gangId x) with
     | none => false
     | some (_, g) =>
       g.mcnt != gangMcnt x || g.members.any (fun m => m.2 == gangMidx x ||
         ((y.hub.node? m.1).map (fun n => n.part == part || gangMidx n.record == gangMidx x)).getD false))

/-- A member joins its gang, the first one opening it; the last one assembles it (14 R326). -/
def joinGang (k : Nat) (x : BitVec 1024) (y : Sys) : Sys :=
  let y := match y.hub.heldGang (gangId x) with
    | some (g, v) => (y.modHub (fun h => { h with gangs := mset h.gangs g { v with members := v.members ++ [(k, gangMidx x)] } })).modNode k
        (fun n => { n with gang := some g })
    | none => (y.modHub (fun h => { h with
        gangs := mset h.gangs k { gid := gangId x, mcnt := gangMcnt x, members := [(k, gangMidx x)], asm := gangAsm x } })).modNode k
        (fun n => { n with gang := some k })
  y.modHub (fun h => { h with gangs := h.gangs.map (fun g =>
    (g.1, if g.2.members.length = g.2.mcnt + 1 then { g.2 with assembled := true } else g.2)) })

/-! ## Takes (14 R315) -/

/-- A record may be taken from the queue (14 R311, R315, 17 R363, R364). -/
def takeOpen (y : Sys) (f q : Nat) : Bool :=
  let v := y.fn f
  let u := v.queue q
  let p := y.part v.part
  v.map && !v.flr && p.en && !p.resetting && p.resident == some f && !p.outgoing && u.en && u.head != u.tail &&
    y.hub.heldCount f q < 8

/-- Address of the next slot of a ring. -/
def slotAddr (u : HQueue) : Word := u.qbase + BitVec.ofNat 64 (128 * (u.head.toNat % 2 ^ u.log2n))

/-- The bytes of the slot: a device read, or the host's answer, which is none for an error completion (log entry 35). -/
def ringBytes (y : Sys) (f q : Nat) : Option (List Byte) :=
  let u := (y.fn f).queue q
  if u.host then
    let bs := Config.freeBytes y.used 128
    if bs.length = 128 then some bs else none
  else hubRead y f (y.fn f).part (slotAddr u) 128

/-- The record of a take: the logged one in a replay of host input. -/
def takenRecord (y : Sys) (f q : Nat) (bs : List Byte) : BitVec 1024 :=
  match (y.part (y.fn f).part).logged (.record f q 0) with
  | some (.record _ _ x) => if ((y.fn f).queue q).host then x else recordOf bs
  | _ => recordOf bs

/-- A slot that cannot be read: KIND RING, and the queue stops. -/
def ringError (f q : Nat) (y : Sys) : Sys := postErr f q eRing cCopyFault 0 0 (y.modQueue f q (fun u => { u with en := false }))

/-- A record that has been read is taken: refused, or into the hub. -/
def takeRecord (f q : Nat) (x : BitVec 1024) (y : Sys) : Sys :=
  let u := (y.fn f).queue q
  let part := (y.fn f).part
  let y := y.modQueue f q (fun u => { u with head := u.head + 1, taken := u.taken + 1 })
  if recordBad x || recPreds x != 0 || (recGng x && memberBad y f part x) then
    postErr f q eRefused cOperand (recNode x) (recGraph x) y
  else
    let k := y.hub.nodeNext
    let y := addNode { fn := f, part := part, record := x, oFn := f, oQ := q, came := .queue, seqNo := u.taken } y
    if recGng x then joinGang k x y else y

/-- RECORD_TAKE. -/
def recordTakeStep (f q : Nat) (y : Sys) : Sys :=
  if !takeOpen y f q then y
  else
    match ringBytes y f q with
    | none => ringError f q { y with used := y.used + 1 }
    | some bs =>
      let y := { y with used := y.used + 1 }
      let x := takenRecord y f q bs
      settleHub (gated y (y.fn f).part (.record f q x) (takeRecord f q x))

def execRecordTake (f q : Nat) (s : State) : Host.Outcome State Fault Refusal := runEv s (recordTakeStep f q)

/-! ## Posted records (10 R237) -/

/-- The copies issued before the group have completed. -/
def postedReady (y : Sys) (x : Posted) : Bool := x.need.all (fun n => n.2 ≤ ((y.ctx x.die x.ctx).queue n.1).ret)

/-- A reset is ending the function's work: what an instance still posts is discarded with it (17 R366, 21 R433). -/
def discardsPosts (y : Sys) (x : Posted) : Bool := (y.fn x.fn).flr || (y.part x.part).resetting

/-- A posted record is taken: discarded, refused, or into the ready pool. -/
def takePosted (x : Posted) (y : Sys) : Sys :=
  let y := y.modHub (fun h => { h with posted := h.posted.erase x })
  if discardsPosts y x then y
  else if recordBad x.record || recPreds x.record != 0 || recGng x.record then
    postErr x.oFn x.oQ eRefused cOperand (recNode x.record) (recGraph x.record) y
  else addNode { fn := x.fn, part := x.part, record := x.record, oFn := x.oFn, oQ := x.oQ, came := .posted } y

/-- POSTED_RECORD_TAKE. -/
def execPostedRecordTake (s : State) : Host.Outcome State Fault Refusal :=
  runEv s (fun y => match y.hub.posted.find? (postedReady y) with
    | none => y
    | some x => settleHub (takePosted x y))

/-! ## The queue watchdog (14 R333) -/

/-- QUEUE_WATCHDOG. -/
def queueWatchdogStep (k : Nat) (y : Sys) : Sys :=
  match y.hub.node? k with
  | none => y
  | some n =>
    let u := (y.fn n.oFn).queue n.oQ
    if n.came == .queue && n.ready && n.begun == 0 && n.failed.isNone && !n.stalled && u.qwd != 0 &&
        u.qwd * 1000000 ≤ y.hub.now - n.readyAt then
      postNode n eStall cWatchdog (y.modNode k (fun n => { n with stalled := true }))
    else y

def execQueueWatchdog (node : Nat) (s : State) : Host.Outcome State Fault Refusal := runEv s (queueWatchdogStep node)

end Sys2Proof.Machine
end

