-- ==== Sys2Proof/Machine/Claims.lean ====
section
/-! DEFINITION. The claim allocators: places and glades (02 R37 to R39), the save slots' slices (21 R429), arbitration (14 R320 to R322, 21
R430), the start and the grant of a claim (02 R40, 12 R272, 15 R342 to R347, 17 R365), and victims (21 R419 to R421). -/

namespace Sys2Proof.Machine

/-! ## What is taken on a die -/

/-- The blocks and the chains that a context keeps from others: those of its grove (02 R38, R39). -/
def Ctx.keepsBlocks (c : Ctx) : List Nat :=
  if c.isFree && !c.retired && !c.away then []
  else match c.orig with
    | some (sh, l, h, w) => blocksOf sh l h w
    | none => c.blocks

def Ctx.keepsChains (c : Ctx) : List Nat := if c.isFree && !c.retired && !c.away then [] else c.chains.map (·.phys) ++ c.origChains

/-- Places of the starts that wait on a die, with the chains they hold. -/
def waitingPlaces (y : Sys) (d : Nat) : List (Nat × Nat × Bool) :=
  (y.hub.starts.filter (fun w => w.place.die == d)).map (fun w => (w.place.cls, w.place.lead, w.xreq))

def usedBlocks (y : Sys) (d : Nat) : List Nat :=
  (y.die d).ctxs.flatMap (fun c => c.2.keepsBlocks) ++ (waitingPlaces y d).flatMap (fun x => placeBlocks x.1 x.2.1)

def usedChains (y : Sys) (d : Nat) : List Nat :=
  (y.die d).ctxs.flatMap (fun c => c.2.keepsChains) ++ (waitingPlaces y d).flatMap (fun x => placeChains x.1 x.2.1 x.2.2)

/-- Copy contexts in use on an engine; each engine has 32 (01 R25). -/
def engineUse (y : Sys) (d e : Nat) : Nat :=
  ((y.die d).ctxs.map (fun c => (c.2.copies.filter (fun k => k.engine == e)).length)).foldl (· + ·) 0 +
    ((y.hub.starts.filter (fun w => w.place.die == d)).map (fun w => (w.engines.filter (· == e)).length)).foldl (· + ·) 0

def enginesOn (d : Nat) : Nat := if isArray d then 8 else 16

/-- Engines of a partition on a die with a free copy context, once for each. -/
def freeCopies (y : Sys) (part d : Nat) : List Nat :=
  (List.range (enginesOn d)).flatMap (fun e =>
    if (y.part part).ownsEngine d e then List.replicate (32 - engineUse y d e) e else [])

/-- Physical semaphores of a partition on a die that are mapped into no context (12 R272). -/
def unmappedSems (y : Sys) (part d : Nat) : List Nat :=
  let (lo, n) := (y.part part).semRange d
  let used := (y.die d).ctxs.flatMap (fun c => c.2.semMap)
  ((List.range n).map (lo + ·)).filter (fun s => !used.contains s)

/-- What claims granted and not yet started will map. -/
def owedSems (y : Sys) (part d : Nat) : Nat :=
  ((y.die d).ctxs.map (fun c =>
    if (c.2.st == .ready || c.2.st == .restoring) && c.2.part == part then c.2.needSems - c.2.semMap.length else 0)).foldl (· + ·) 0 +
    ((y.hub.starts.filter (fun w => w.place.die == d && w.part == part)).map (·.sems)).foldl (· + ·) 0

/-- Reserved positions of a partition: of its reserving record or slot, and of reserving gangs, with whose they are (14 R322, R328). -/
inductive Holds where
  | node (k : Nat)
  | slot (s : Nat)
  | gang (g : Nat)
deriving DecidableEq, Repr

def reservedPlaces (y : Sys) (part : Nat) : List (Holds × Place) :=
  (y.hub.nodes.filterMap (fun n => if n.2.part = part then n.2.resv.map (fun p => (Holds.node n.1, p)) else none)) ++
    ((y.part part).slots.filterMap (fun s => s.2.resv.map (fun p => (Holds.slot s.1, p)))) ++
    y.hub.gangs.flatMap (fun g => g.2.resv.filterMap (fun x =>
      if ((y.hub.node? x.1).map (fun n => n.part == part)).getD false then some (Holds.gang g.1, x.2.2) else none))

/-! ## What can be formed -/

/-- What a candidate asks of a place. -/
structure Ask2 where
  part : Nat
  shape : Nat
  xreq : Bool
  sems : Nat
  /-- The die it is bound to (21 R430). -/
  die : Option Nat := none
  /-- The place of a saved piece in its grove (21 R431). -/
  own : Option (Nat × Nat) := none
  who : Option Holds := none
deriving DecidableEq, Repr

/-- The place is the one that waits in its grove for the saved piece. -/
def ownPlace (y : Sys) (o : Nat × Nat) (d cls lead : Nat) : Bool :=
  o == (d, lead) && (y.die d).inSvc && (y.ctx d lead).away && (y.ctx d lead).shape == cls

/-- The blocks of a place are glades of the partition, its chains are free, and no one else has reserved them. A saved piece goes to its own
place in the grove (log entry 82). -/
def placeFree (y : Sys) (a : Ask2) (d cls lead : Nat) : Bool :=
  let bs := placeBlocks cls lead
  if a.own.isSome then a.own.any (fun o => ownPlace y o d cls lead)
  else (y.die d).inSvc && placeOwned (y.part a.part) d cls lead a.xreq &&
    !shares bs (usedBlocks y d) && !shares (placeChains cls lead a.xreq) (usedChains y d) &&
    !((reservedPlaces y a.part).any (fun r => some r.1 != a.who && r.2.die == d && shares bs (placeBlocks r.2.cls r.2.lead)))

/-- The die can serve another claim: a copy context and enough semaphores (12 R272). -/
def dieServes (y : Sys) (a : Ask2) (d : Nat) : Bool :=
  !(freeCopies y a.part d).isEmpty && owedSems y a.part d + a.sems ≤ (unmappedSems y a.part d).length &&
    (a.die.map (fun x => x == d)).getD true

/-- Places on a die that the candidate can be granted. -/
def formable (y : Sys) (a : Ask2) (d : Nat) : List (Nat × Nat) :=
  if dieServes y a d then
    (classesOf a.shape).flatMap (fun c =>
      if (diesOf c).contains d then ((legalLeads c).filter (placeFree y a d c)).map (fun l => (c, l)) else [])
  else []

/-- Slices of a place that save slots own. -/
def ownedSlices (y : Sys) (d cls lead : Nat) : Nat :=
  ((placeBlocks cls lead).filter (fun b => ((y.die d).slice b).owner.isSome)).length

/-- The positions that the hub chooses among: as few owned slices as possible (14 R321). -/
def bestPlaces (y : Sys) (a : Ask2) (d : Nat) : List (Nat × Nat) :=
  let l := formable y a d
  l.filter (fun p => l.all (fun q => ownedSlices y d p.1 p.2 ≤ ownedSlices y d q.1 q.2))

/-! ## Bulk transfers -/

/-- Every waiter and watch evaluates its object again. -/
def recheck (y : Sys) : Sys :=
  let val (x : Nat × Nat) : Option Word := objValue y x.1 x.2
  y.modHub (fun h => { h with
    reqs := h.reqs.map (fun q => match q.at_ with
      | some x => checkSigw x.1 x.2 (val x) q
      | none => q)
    fns := h.fns.map (fun fv => (fv.1, fv.2.watches.foldl (fun v w => match w.2.at_ with
      | some x => checkWatches x.1 x.2 (val x) v
      | none => v) fv.2)) })

/-- Write `n` bytes that lie in one frame: the listed bytes of `src`, with the poisoned offsets. -/
def bulkWrite (md pa n : Nat) (src : Mem) (marks : List Nat) (y : Sys) : Sys :=
  let y := y.modMem md (fun m => { m with
    mem := copyIn m.mem src pa n
    poison := (marks.map (pa + ·)).foldl sinsert (m.poison.filter (fun p => !(pa ≤ p && p < pa + n)))
    touched := sinsert m.touched (pa / 2 ^ 16) })
  recheck { y with mems := y.mems.map (fun mv => (mv.1, { mv.2 with move := mv.2.move.map (fun v => noteDirty v md pa n) })) }

/-- Frames of 64 KiB of an intermediate range, translated for an access; none when the walker refuses one. -/
def bulkFrames (y : Sys) (part ia n : Nat) (need : Need) : Option (List Leaf) :=
  let fs := (List.range (n / 2 ^ 16)).map (fun j => intXlate y part (ia + 2 ^ 16 * j) need)
  if fs.all (fun f => match f with | .ok _ => true | .error _ => false) then
    some (fs.filterMap (fun f => match f with | .ok l => some l | .error _ => none))
  else none

/-- A slice is written in its frames, its lines taking their place in the order of each line (11 R271, 23 R451). -/
def writeSlice (part ia : Nat) (ls : List Leaf) (s : Slice) (y : Sys) : Sys :=
  noteLines (((List.range ls.length).zip ls).foldl (fun y x =>
    let lo := 2 ^ 16 * x.1
    bulkWrite x.2.fdie x.2.pa (2 ^ 16) (sliceOut s.mem lo (lo + 2 ^ 16))
      ((s.poison.filter (fun o => lo ≤ o && o < lo + 2 ^ 16)).map (fun o => o - lo)) y) y) part ia (2 ^ 16 * ls.length)

/-- A save area's slice `k` (21 R425). -/
def sliceArea (p : Part) (slot k : Nat) : Nat := p.slotBase + slot * slotBytes + 0x800000 + 0x200000 * k

/-- Spill a slice into its slot's area (21 R429), unless the walker refuses. -/
def spillSlice (part slot k d blk : Nat) (y : Sys) : Option Sys :=
  match bulkFrames y part (sliceArea (y.part part) slot k) Config.sliceBytes .wr with
  | none => none
  | some ls =>
    let s := (y.die d).slice blk
    let y := writeSlice part (sliceArea (y.part part) slot k) ls s y
    let y := y.modDie d (fun v => { v with slices := mset v.slices blk { s with owner := none } })
    some (y.modPart part (fun p => p.modSlot slot (fun t => { t with owned := t.owned.filter (fun o => o.1 != k) })))

/-- Spill the slices of a list of blocks that slots own, but for the ones that `keep` names: what has been done, and whether all could be
(21 R429). -/
def spillAll (d : Nat) (keep : Nat → Bool) : List Nat → Sys → Sys × Bool
  | [], y => (y, true)
  | b :: t, y =>
    match ((y.die d).slice b).owner with
    | none => spillAll d keep t y
    | some (p, s, k) =>
      if keep b then spillAll d keep t y
      else match spillSlice p s k d b y with
        | some y => spillAll d keep t y
        | none => (y, false)

/-- The slice in place `b` of a place stays for a resumption of `slot` as slice `k` (21 R431). -/
def keepsSlice (y : Sys) (part : Nat) (slot : Option Nat) (d cls lead b : Nat) : Bool :=
  match slot, ((y.die d).slice b).owner, findIx (· == b) (placeBlocks cls lead) with
  | some s, some (p, s', k), some j => p == part && s' == s && k == j
  | _, _, _ => false

/-- The blocks of a place are made ready for a function. Where another function used one of them last, every slice of the claim is set to
zero, and no sequencer keeps anything (17 R365); a slice that its slot keeps for this resumption is the function's own. -/
def scrubSlices (d fn : Nat) (bs : List Nat) (y : Sys) : Sys :=
  y.modDie d (fun v =>
    let other := bs.any (fun b => ((v.slice b).lastFn.map (fun f => f != fn)).getD false)
    let v := bs.foldl (fun v b =>
      let s := v.slice b
      let s := if other && s.owner.isNone then { s with mem := [], poison := [] } else s
      { v with slices := mset v.slices b { s with lastFn := some fn } }) v
    if other then { v with seqs := bs.foldl merase v.seqs } else v)

/-! ## Candidates (14 R320, R321, 21 R423, R430) -/

inductive Cand where
  | fresh
  | rerun (i : Nat)
  | slot (s : Nat)
deriving DecidableEq, Repr

structure Item where
  cand : Cand
  nodeNo : Nat
  node : Node
  inst : Nat
  shape : Nat
  sems : Nat
  die : Option Nat
  own : Option (Nat × Nat) := none
  /-- The time from which it has waited. -/
  since : Nat
  prio : Nat
deriving DecidableEq, Repr

def Item.rank (i : Item) : Nat :=
  match i.cand with
  | .slot _ => 0
  | .rerun _ => 1
  | .fresh => 2

def Item.key (i : Item) : Nat × Nat := (i.node.oFn, i.node.oQ)

/-- Cost in blocks (14 R321). -/
def costOf (shape : Nat) : Nat :=
  match shape with
  | 0 => 36
  | 1 | 2 | 8 => 18
  | 3 => 9
  | 4 | 5 | 9 => 6
  | _ => 1

def Item.holds (i : Item) : Holds :=
  match i.cand with
  | .slot s => .slot s
  | _ => .node i.nodeNo

def Item.ask (i : Item) (part : Nat) : Ask2 :=
  { part := part, shape := i.shape, xreq := recXreq i.node.record, sems := i.sems, die := i.die, own := i.own, who := some i.holds }

/-- Effective priority (14 R320). -/
def effPrio (y : Sys) (n : Node) (since : Nat) : Nat :=
  let age := ((y.fn n.oFn).queue n.oQ).age
  if age = 0 then recPrio n.record else min 7 (recPrio n.record + (y.hub.now - since) / (16000 * age))

/-- The slot has been granted a claim, or waits for one. -/
def slotTaken (y : Sys) (part s : Nat) : Bool :=
  y.hub.starts.any (fun w => w.part == part && w.slot == some s) ||
    y.contexts.any (fun x => x.2.2.part == part && x.2.2.slot == some s && !x.2.2.restored)

def nodeItem (y : Sys) (k : Nat) (n : Node) (c : Cand) (i : Nat) : Item :=
  let t := max n.readyAt n.lastStart
  { cand := c, nodeNo := k, node := n, inst := i, shape := recShape n.record, sems := recNsem n.record + 1, die := none, since := t
    prio := effPrio y n t }

/-- Candidates of a node: a killed instance to run again, and the next fresh one of the record at the head of its queue, which alone may
reserve (log entry 119). -/
def nodeItems (y : Sys) (part k : Nat) (n : Node) : List Item :=
  if n.part = part && n.ready && n.failed.isNone && (y.part part).resident == some n.fn then
    (match n.rerun with
     | [] => []
     | i :: _ => [nodeItem y k n (.rerun i) i]) ++
    (if !n.allStarted && n.gang.isNone && (n.came != .queue || y.hub.queueHead n.oFn n.oQ == some k) then
       [nodeItem y k n .fresh (n.again.headD n.started)] else [])
  else []

/-- The candidate of a suspended slot. -/
def slotItem (y : Sys) (part : Nat) (s : Nat) (v : Slot) : Option Item :=
  match y.hub.node? v.node with
  | none => none
  | some n =>
    if v.st == .suspended && !slotTaken y part s && (y.part part).resident == some v.fn then
      some { cand := .slot s, nodeNo := v.node, node := n, inst := v.inst, shape := v.shape, sems := v.sems + 1, die := v.die, own := v.own
             since := v.since, prio := effPrio y n v.since }
    else none

/-- Every candidate of a partition; none while its function is being switched out or the partition is not to start work. -/
def items (y : Sys) (part : Nat) : List Item :=
  let p := y.part part
  if !p.en || p.resetting || p.outgoing || p.ckBusy then []
  else p.slots.filterMap (fun s => slotItem y part s.1 s.2) ++ y.hub.nodes.flatMap (fun n => nodeItems y part n.1 n.2)

/-- When a candidate became ready: its record, or the slot at its suspension. -/
def Item.readyAt (i : Item) : Nat :=
  match i.cand with
  | .slot _ => i.since
  | _ => i.node.readyAt

/-- The first of two candidates of one origin queue: the oldest ready, behind what is offered ahead of unstarted records (14 R321, 21
R423, R430). -/
def Item.before (a b : Item) : Bool := a.rank < b.rank || (a.rank == b.rank && a.readyAt < b.readyAt)

/-- The candidate that an origin queue offers at a level. -/
def headItem (l : List Item) (key : Nat × Nat) : Option Item :=
  (l.filter (fun i => i.key == key)).foldl (fun b i => match b with
    | none => some i
    | some x => if i.before x then some i else some x) none

def pairLt (a b : Nat × Nat) : Bool := a.1 < b.1 || (a.1 == b.1 && a.2 < b.2)

def insertPair (l : List (Nat × Nat)) (a : Nat × Nat) : List (Nat × Nat) :=
  match l with
  | [] => [a]
  | b :: t => if pairLt a b then a :: b :: t else if a = b then b :: t else b :: insertPair t a

/-- The next queue in the cyclic order: the first one after `at_`, else the first. -/
def nextKey (keys : List (Nat × Nat)) (at_ : Option (Nat × Nat)) : Option (Nat × Nat) :=
  match at_ with
  | none => keys.head?
  | some k => match keys.find? (fun x => pairLt k x) with
    | some x => some x
    | none => keys.head?

/-- A turn begins (14 R321). -/
def beginTurn (part lvl : Nat) (key : Nat × Nat) (y : Sys) : Sys :=
  let y := y.modQueue key.1 key.2 (fun u => { u with dc := min (u.dc + u.wt) (u.wt + 36) })
  y.modPart part (fun p => { p with turn := mset p.turn lvl key })

/-- Deficit round robin at one level, at least one of whose heads can be formed: the candidate whose turn it is. -/
def drr (part lvl : Nat) (keys : List (Nat × Nat)) (head : Nat × Nat → Option Item) (can : Item → Bool) :
    Nat → Sys → Option (Sys × Item)
  | 0, _ => none
  | fuel + 1, y =>
    let cur := mget? (y.part part).turn lvl
    let go : Option (Sys × Item) :=
      match nextKey keys cur with
      | none => none
      | some k => drr part lvl keys head can fuel (beginTurn part lvl k y)
    match cur with
    | none => go
    | some k =>
      if !keys.contains k then go
      else match head k with
        | none => go
        | some i =>
          if can i && costOf i.shape ≤ ((y.fn k.1).queue k.2).dc then
            some (y.modQueue k.1 k.2 (fun u => { u with dc := u.dc - costOf i.shape }), i)
          else go

/-- Levels from the highest down. -/
def levels (part : Nat) (its : List Item) (can : Item → Bool) (y : Sys) : List Nat → Option (Sys × Item)
  | [] => none
  | lvl :: t =>
    let here := its.filter (fun i => i.prio == lvl)
    let keys := here.foldl (fun l i => insertPair l i.key) []
    let head := headItem here
    if keys.any (fun k => ((head k).map can).getD false) then drr part lvl keys head can (40 * (keys.length + 1)) y
    else levels part its can y t

/-- An origin queue has a ready record: one with an instance to start, or a suspended slot. -/
def hasReady (h : Hub) (f q : Nat) : Bool :=
  h.nodes.any (fun n => n.2.oFn == f && n.2.oQ == q && n.2.ready && n.2.failed.isNone && (!n.2.allStarted || !n.2.rerun.isEmpty)) ||
    h.parts.any (fun p => p.2.slots.any (fun s => s.2.st == .suspended &&
      ((mget? h.nodes s.2.node).map (fun n => n.oFn == f && n.oQ == q)).getD false))

/-- Queues without a ready record have no deficit (14 R321). -/
def clearDc (y : Sys) : Sys :=
  y.modHub (fun h => { h with fns := h.fns.map (fun f =>
    (f.1, { f.2 with queues := f.2.queues.map (fun u => (u.1, if hasReady h f.1 u.1 then u.2 else { u.2 with dc := 0 })) })) })

/-- The slots that a world switch puts first, in the order of their suspension (17 R364). -/
def firstSlots (y : Sys) (part : Nat) (its : List Item) : List Item :=
  let ord (i : Item) : Nat :=
    match i.cand with
    | .slot s => ((y.part part).slot s).order
    | _ => 0
  (its.filter (fun i => match i.cand with
    | .slot s => ((y.part part).slot s).first
    | _ => false)).foldl (fun l i => l.takeWhile (fun x => ord x ≤ ord i) ++ [i] ++ l.dropWhile (fun x => ord x ≤ ord i)) []

/-- The identity of a record in the order logs. -/
def recordId (x : BitVec 1024) : Nat := lfld x 0 48

/-- The candidate that the order log names, in a replay (23 R452). -/
def loggedItem (y : Sys) (part : Nat) (its : List Item) : Option Item :=
  match (y.part part).logged (.grant 0 0 0 (0, 0) []) with
  | some (.grant n i _ _ _) => its.find? (fun x => recordId x.node.record == n && x.inst == i)
  | _ => none

/-- The candidate that the allocator of a die is offered, and the hub's state once it starts. -/
def offered (y : Sys) (part d : Nat) : Option (Sys × Item) :=
  let its := items y part
  let can (i : Item) : Bool := !(formable y (i.ask part) d).isEmpty
  if (y.part part).replay.isSome then (loggedItem y part its).map (fun i => (y, i))
  else match (firstSlots y part its).find? can with
    | some i => some (y, i)
    | none => levels part its can y [7, 6, 5, 4, 3, 2, 1, 0]

/-! ## Starts (15 R339, R342, R345, R347) -/

def presOf (cls chains cctx : Nat) (pinned : Bool) : Nat :=
  if !pinned then 0
  else if cls = 7 then 27 + 3 * cctx
  else 28 * ((shapeSize cls).1 * (shapeSize cls).2) + 26 * chains + 3 * cctx

/-- A choice of the device among the elements of a list. -/
def chooseFrom {α : Type} (y : Sys) (l : List α) : Sys × Option α :=
  ({ y with used := y.used + 1 }, l[Config.choose y.used l.length % l.length]?)

/-- Up to `n` elements, each the device's choice among those left. -/
def chooseN (n : Nat) (l : List Nat) (y : Sys) : Sys × List Nat :=
  match n with
  | 0 => (y, [])
  | n + 1 =>
    match chooseFrom y l with
    | (y, none) => (y, [])
    | (y, some a) =>
      let (y, r) := chooseN n (l.erase a) y
      (y, a :: r)

/-- CCN of PC1 (17 R359). -/
def Part.ccn (p : Part) : Nat := p.pc1.toNat % 8

/-- The need of a waiting start: its start weight, plus PRES when pinned, and for a resumption at least its FLOOR (15 R339, R341, R345). -/
def startNeed (cls lead pres floor : Nat) : Nat := max ((placeBlocks cls lead).length + pres) floor

/-- The node's account of an opened start. -/
def openNode (c : Cand) (n : Node) : Node :=
  let n := match c with
    | .fresh =>
      if n.again.isEmpty then { n with started := n.started + 1, live := n.live + 1 }
      else { n with again := n.again.drop 1, live := n.live + 1 }
    | .rerun _ => { n with rerun := n.rerun.drop 1, live := n.live + 1 }
    | .slot _ => n
  if n.allStarted && n.rerun.isEmpty then { n with resv := none } else n

/-- Open a start (PRES is that of a record that is itself pinned, log entry 123): the glades are held, the slices made ready, the engines assigned; the pool gives what it has, and the rest is asked for,
for a member of a gang as one request later. -/
def openStart (part d cls lead : Nat) (i : Item) (gang : Option Nat) (y : Sys) : Sys :=
  let n := i.node
  let x := n.record
  let slot : Option Nat := match i.cand with
    | .slot s => some s
    | _ => none
  let y := scrubSlices d n.fn (placeBlocks cls lead) y
  let (y, engines) := chooseN (y.part part).ccn (freeCopies y part d) y
  let pres := presOf cls (placeChains cls lead (recXreq x)).length engines.length (recPin x)
  let floor := (slot.map (fun s => ((y.part part).slot s).floor)).getD 0
  let want := startNeed cls lead pres floor
  let take := min (y.die d).pool want
  let y := y.modDie d (fun v => { v with pool := v.pool - take })
  let w : Start := { part := part, fn := n.fn, node := i.nodeNo, inst := i.inst, slot := slot, place := ⟨d, lead, cls⟩
                     xreq := recXreq x, engines := engines, sems := i.sems, need := want - take, granted := take, pres := pres
                     pinned := recPin x, gang := gang, bound := i.cand == .fresh }
  let y := y.modHub (fun h => { h with starts := h.starts ++ [w] })
  let y := match slot with
    | none => y.modNode i.nodeNo (openNode i.cand)
    | some s => y.modPart part (fun p => p.modSlot s (fun v => { v with resv := none, reserving := false }))
  if w.need = 0 || gang.isSome then y else { y with gov := y.gov.openReq (.start (64 * d + lead)) }

/-- A context tag that no live context of the partition has (23 R439). -/
def freshTag (y : Sys) (part : Nat) : Nat :=
  let used := (y.contexts.filter (fun x => x.2.2.part == part)).map (fun x => x.2.2.ctag)
  let t := (y.part part).tagNext
  (((List.range (used.length + 1)).map (fun k => (t + k) % 2 ^ 16)).find? (fun a => !used.contains a)).getD t

/-- The banks and the stationary B of a list of blocks: every row dead, every lane a zero ingot (02 R40, 08 R178). -/
def clearBlocks (bs : List Nat) (v : Die) : Die := { v with banks := bs.foldl merase v.banks, bmat := bs.foldl merase v.bmat }

/-- A resumed piece takes its place in its grove again: its number, its siblings, the unsplit fragment and its chains (21 R431). -/
def Ctx.rejoin (c k : Ctx) : Ctx :=
  if k.away then
    { c with piece := k.piece, grove := k.grove, alive := k.alive, orig := k.orig, origChains := k.origChains, chains := k.chains
             groveErr := k.groveErr, groveKill := k.groveKill, fuseBack := k.fuseBack }
  else c

/-- The context of a granted claim (02 R40, R49, 12 R272, 14 R332, 15 R346, 20 R408). Its GWAIT is 0, whatever its start has waited
(log entry 130). -/
def newCtx (y : Sys) (w : Start) (n : Node) : Ctx :=
  let p := y.part w.part
  let cls := w.place.cls
  let c : Ctx :=
    { st := .ready, shape := cls, lead := w.place.lead, h := (shapeSize cls).1, w := (shapeSize cls).2, part := w.part, fn := w.fn
      node := w.node, inst := BitVec.ofNat 32 w.inst, count := BitVec.ofNat 32 (n.count.getD 1), piece := 0
      grove := [w.place.lead], alive := [w.place.lead], record := n.record, slot := w.slot, needSems := w.sems
      copies := w.engines.map (fun e => { engine := e })
      chains := (placeChains cls w.place.lead w.xreq).map (fun j => { phys := j })
      wdLimit := bitsOf p.pc1.toNat 25 24, wdEn := bitOf p.pc1.toNat 49
      load := w.granted, pres := w.pres, rslots := BitVec.ofNat 48 w.rslots
      floor := (w.slot.map (fun s => (p.slot s).floor)).getD 0
      elapsed := (w.slot.map (fun s => (p.slot s).elapsed)).getD 0
      ctag := freshTag y w.part, bound := w.bound }
  c.rejoin (y.ctx w.place.die w.place.lead)

/-- The grant as the order logs record it (23 R451). -/
def grantChoice (y : Sys) (d cls lead : Nat) (node inst : Nat) : Choice :=
  .grant node inst cls (shapeSize cls) (provenance y d (placeBlocks cls lead))

/-- In a replay, the bytes that the log says a grant's slices were left with are brought there. -/
def adoptGrant (part d cls lead node inst : Nat) (y : Sys) : Sys :=
  adoptSlices part d (fun e k => !(usedBlocks y e).contains k) ((placeBlocks cls lead).zip (loggedProv y part node inst)) y

/-- The claim is granted, and GRANT is posted (02 R40, 20 R418). -/
def grantStart (w : Start) (y : Sys) : Sys :=
  let y := y.modHub (fun h => { h with starts := h.starts.erase w })
  match y.hub.node? w.node with
  | none => y.modDie w.place.die (fun v => { v with pool := v.pool + w.granted })
  | some n =>
    let d := w.place.die
    let c := newCtx y w n
    let bs := placeBlocks w.place.cls w.place.lead
    let y := y.modDie d (clearBlocks bs)
    let y := y.modDie d (fun v => { v with slices := (bs.zipIdx).foldl (fun m b => mset m b.1 { mgetD m b.1 {} with last := some (c.ctag, b.2) }) v.slices })
    let y := (y.setCtx d w.place.lead c).modPart w.part (fun p => { p with tagNext := (c.ctag + 1) % 2 ^ 16, ran := true })
    postEvent y d 1 w.place.lead w.place.cls (w.sems - 1) ((w.slot.getD 0xFFFF) * 2 ^ 16 + w.fn)

/-- A context has not issued its first fetch (20 R408, 02 R40). -/
def Ctx.notBegun (c : Ctx) : Bool := c.st == .ready || c.st == .restoring || !c.fresh

/-- The start order lets instance `inst` of a node go on: each earlier one has started, and so has every instance of each earlier record
of its queue; records of other kinds are bound by none (14 R318). -/
def instTurn (h : Hub) (n : Node) (inst : Nat) : Bool := n.came != .queue || (inst == n.begun && h.atTurn n)

/-- The start order lets this start's claim be granted. -/
def orderOpen (y : Sys) (w : Start) : Bool :=
  match y.hub.node? w.node with
  | none => true
  | some n => !w.bound || instTurn y.hub n w.inst

/-- A start whose node has failed or gone is given up: its instance never starts (14 R331). -/
def deadStart (y : Sys) (w : Start) : Bool :=
  match y.hub.node? w.node with
  | none => true
  | some n => n.failed.isSome && w.slot.isNone

def cancelStart (w : Start) (y : Sys) : Sys :=
  let y := y.modHub (fun h => { h with starts := h.starts.erase w })
  (y.modDie w.place.die (fun v => { v with pool := v.pool + w.granted })).modNode w.node (fun n => { n with live := n.live - 1 })

/-- The die of a start has gone out of service (01 R22). -/
def lostStart (y : Sys) (w : Start) : Bool := !(y.die w.place.die).inSvc

/-- The start is given back, its load to the pool of its die, and its candidate is offered again (log entry 92). -/
def reofferStart (w : Start) (y : Sys) : Sys :=
  let y := y.modHub (fun h => { h with starts := h.starts.erase w })
  let y := y.modDie w.place.die (fun v => { v with pool := v.pool + w.granted })
  if w.slot.isSome then y
  else y.modNode w.node (fun n =>
    if w.bound then { n with live := n.live - 1, again := sinsert n.again w.inst }
    else { n with live := n.live - 1, rerun := w.inst :: n.rerun })

/-- A gang that has not committed gives back every claim it holds, and tries again (14 R327, log entry 92). -/
def releaseGang (key : Nat) (y : Sys) : Sys :=
  let y := (y.hub.starts.filter (fun w => w.gang == some key)).foldl (fun y w => reofferStart w y) y
  let y := ((mget? y.hub.gangs key).map (fun g => g.members.map (·.1))).getD [] |>.foldl
    (fun y k => y.modNode k (fun n => { n with started := 0, again := [] })) y
  y.modHub (fun h => match mget? h.gangs key with
    | none => h
    | some g => { h with gangs := mset h.gangs key { g with asked := false, reserving := false, resv := [] } })

/-- A lost start goes back, with all of its gang. -/
def giveBack (w : Start) (y : Sys) : Sys :=
  match w.gang with
  | none => reofferStart w y
  | some g => releaseGang g y

/-- Starts whose needs are met are granted, one after another. -/
def promote : Nat → Sys → Sys
  | 0, y => y
  | fuel + 1, y =>
    match y.hub.starts.find? (fun w => deadStart y w || lostStart y w) with
    | some w => promote fuel (if deadStart y w then cancelStart w y else giveBack w y)
    | none =>
      match y.hub.starts.find? (fun w => w.need == 0 && w.gang.isNone && orderOpen y w && !(y.part w.part).ckBusy) with
      | some w => promote fuel (grantStart w y)
      | none => y

/-! ## Victims (21 R419 to R421) -/

/-- An instance that runs (21 R419). -/
def Ctx.running (c : Ctx) : Bool := [CtxPhase.run, .trap, .parked].contains c.st && c.fresh

/-- The policy of 21 R420, as PREQ's SUB; none posts nothing. -/
def policyOf (tokens : Nat) (c : Ctx) : Option Nat :=
  let pol := recPolicy c.record
  let k := bitOf pol 0
  let ck := bitOf pol 1
  let dr := bitOf pol 2
  let dt := 8000 * (256 - tokens)
  let kt := 16000 * tokens
  let remain := recRemain c.record
  if pol = 0 then none
  else if dr && remain != 2 ^ 32 - 1 && remain * 1000 - c.elapsed ≤ dt then some 4
  else if ck && c.grove.length ≤ 1 then some 2
  else if k && c.elapsed ≤ kt then some 1
  else if dr then some 4
  else if k then some 1
  else none

/-- PREQ for every running piece of a victim's grove, once (21 R420, R421). -/
def postPreq (d l tokens : Nat) (y : Sys) : Sys :=
  let c := y.ctx d l
  match policyOf tokens c with
  | none => y
  | some pol => c.grove.foldl (fun y m =>
      let c := y.ctx d m
      if c.running && c.preq.isNone then postEvent (y.modCtx d m (fun c => { c with preq := some pol })) d 2 m pol 0 0 else y) y

/-- N takes precedence over V. -/
def precedes (prio tokens : Nat) (c : Ctx) : Bool :=
  recPrio c.record < prio || (recPrio c.record == prio && recTokens c.record < tokens)

/-- The blocks that an instance holds, those of its ended pieces among them (02 R46). -/
def instBlocks (v : Die) (c : Ctx) : List Nat := c.grove.flatMap (fun m => (mgetD v.ctxs m {}).keepsBlocks)

/-- Victims of a reserved position. -/
def findVictims (part : Nat) (pl : Place) (prio tokens : Nat) (y : Sys) : Sys :=
  let bs := placeBlocks pl.cls pl.lead
  (y.die pl.die).ctxs.foldl (fun y x =>
    if x.2.running && x.2.part == part && shares bs (instBlocks (y.die pl.die) x.2) && precedes prio tokens x.2 then
      postPreq pl.die x.1 tokens y
    else y) y

/-- The precedence of a gang: effective priority and tokens of its highest member (14 R328, 21 R419). -/
def gangRank (y : Sys) (g : Gang) : Nat × Nat :=
  g.nodes.foldl (fun b k => match y.hub.node? k with
    | none => b
    | some n =>
      let e := (effPrio y n (max n.readyAt n.lastStart), recTokens n.record)
      if pairLt b e then e else b) (0, 0)

/-- What reserves and where: the partition, the position, and the precedence at this time, of reserving records, slots and gangs. -/
def reservers (y : Sys) : List (Nat × Place × Nat × Nat) :=
  y.hub.nodes.filterMap (fun n => n.2.resv.map (fun pl =>
      (n.2.part, pl, effPrio y n.2 (max n.2.readyAt n.2.lastStart), recTokens n.2.record))) ++
    y.hub.parts.flatMap (fun p => p.2.slots.filterMap (fun s => match s.2.resv, y.hub.node? s.2.node with
      | some pl, some n => some (p.1, pl, effPrio y n s.2.since, recTokens n.record)
      | _, _ => none)) ++
    y.hub.gangs.flatMap (fun g => g.2.resv.filterMap (fun x => (y.hub.node? x.1).map (fun n => (n.part, x.2.2, gangRank y g.2))))

/-- What comes to run at a reserved position, or comes to be outranked, is a victim then (21 R419); during the cut of a checkpoint PREQ is held
back (23 R449). -/
def victimsGo (y : Sys) : Sys :=
  (reservers y).foldl (fun y r => if (y.part r.1).ckBusy then y else findVictims r.1 r.2.1 r.2.2.1 r.2.2.2 y) y

/-- What follows by itself at the hub after an event that ends or begins something: releases, completions, starts, victims, and the
accounts of the governor and of the arbiter. -/
def hubGo (y : Sys) : Sys := noteExcess (openDue (clearDc (victimsGo (promote 256 (settleHub y)))))

/-! ## CLAIM_GRANT -/

/-- Slices of a slot that a place does not keep where they are: slice number, die and block (21 R429). -/
def strayed (y : Sys) (part : Nat) (slot : Option Nat) (d cls lead : Nat) : List (Nat × Nat × Nat) :=
  match slot with
  | none => []
  | some s => ((y.part part).slot s).owned.filter (fun o => !(o.2.1 == d && (placeBlocks cls lead)[o.1]? == some o.2.2))

/-- Spill slices of a slot, as far as the walker lets it. -/
def spillOwned (part s : Nat) : List (Nat × Nat × Nat) → Sys → Sys × Bool
  | [], y => (y, true)
  | (k, d, b) :: t, y =>
    match spillSlice part s k d b y with
    | some y => spillOwned part s t y
    | none => (y, false)

/-- The slices that a grant needs are spilled first: those of the place that slots own, and the resumed slot's own that lie elsewhere. A
refused spill holds the grant back, and the firmware hears of it (21 R429). -/
def withSpills (part d cls lead : Nat) (i : Item) (y : Sys) (k : Sys → Sys) : Sys :=
  let slot : Option Nat := match i.cand with
    | .slot s => some s
    | _ => none
  match spillAll d (keepsSlice y part slot d cls lead) (placeBlocks cls lead) y with
  | (y, false) => fwInterrupt y 3
  | (y, true) =>
    match spillOwned part (slot.getD 0) (strayed y part slot d cls lead) y with
    | (y, false) => fwInterrupt y 3
    | (y, true) => k y

/-- The start of a chosen candidate, logged as the allocator's choice. -/
def startItem (part d cls lead : Nat) (i : Item) (after : Sys → Sys) (y : Sys) : Sys :=
  let n := recordId i.node.record
  let y' := adoptGrant part d cls lead n i.inst y
  match gate y part (grantChoice y d cls lead n i.inst) with
  | .hold => y
  | .diverged y => y
  | .go y => hubGo (after (openStart part d cls lead i none { y with dies := y'.dies }))

/-- The reserving candidate of a partition whose reserved position this is. -/
def reservedItem (y : Sys) (part d cls lead : Nat) : Option Item :=
  let its := items y part
  ((reservedPlaces y part).filterMap (fun r =>
    if r.2 = ⟨d, lead, cls⟩ then its.find? (fun i => i.holds == r.1) else none)).head?

/-- A reserving record has taken its claim: the reservation of this position ends. -/
def endReservation (i : Item) (y : Sys) : Sys := y.modNode i.nodeNo (fun n => { n with resv := none })

/-- The positions that the hub chooses among for a candidate: any legal one for a resumption (21 R430, 22 R438 case 9). -/
def grantPlaces (y : Sys) (part d : Nat) (i : Item) : List (Nat × Nat) :=
  match i.cand with
  | .slot _ => formable y (i.ask part) d
  | _ => bestPlaces y (i.ask part) d

/-- CLAIM_GRANT: the allocator of a die can grant a claim; the position and class are the hub's choice among those the rules allow. A start
that a refused spill holds back spends no deficit, and one outside the round robin spends none (log entry 120). -/
def claimGrantStep (p d lead cls : Nat) (y : Sys) : Sys :=
  match reservedItem y p d cls lead with
  | some i =>
    if (formable y (i.ask p) d).contains (cls, lead) then withSpills p d cls lead i y (startItem p d cls lead i (endReservation i)) else y
  | none =>
    match offered y p d with
    | none => y
    | some (_, i) =>
      if (grantPlaces y p d i).contains (cls, lead) then
        withSpills p d cls lead i y (fun y => match offered y p d with
          | none => y
          | some (y, i) => startItem p d cls lead i id y)
      else y

def execClaimGrant (p die lead cls : Nat) (s : State) : Host.Outcome State Fault Refusal := runEv s (claimGrantStep p die lead cls)

/-! ## Reserving (14 R322) -/

/-- RSVI in ns. -/
def Part.reserveNs (p : Part) : Nat := p.pc1.toNat / 2 ^ 50 * 10000

/-- The candidate that a number names: a node, or 2^32 + 2^16 × partition + slot for a suspended slot. -/
def itemOf (y : Sys) (k : Nat) : Option (Nat × Item) :=
  if k < 2 ^ 32 then
    match y.hub.node? k with
    | none => none
    | some n => ((items y n.part).find? (fun i => i.holds == .node k)).map (fun i => (n.part, i))
  else
    let part := (k - 2 ^ 32) / 2 ^ 16
    let s := k % 2 ^ 16
    ((items y part).find? (fun i => i.cand == .slot s)).map (fun i => (part, i))

def isReserving (y : Sys) (part : Nat) (i : Item) : Bool :=
  match i.cand with
  | .slot s => ((y.part part).slot s).reserving
  | _ => i.node.reserving

/-- The position that the hub has fixed for the candidate. -/
def fixedPlace (y : Sys) (part : Nat) (i : Item) : Option Place :=
  match i.cand with
  | .slot s => ((y.part part).slot s).resv
  | _ => i.node.resv

/-- A partition has a reserving record, slot or gang. -/
def partReserving (y : Sys) (part : Nat) : Bool :=
  y.hub.nodes.any (fun n => n.2.part == part && n.2.reserving) || (y.part part).slots.any (fun s => s.2.reserving) ||
    y.hub.gangs.any (fun g => g.2.reserving && !g.2.committed &&
      g.2.members.any (fun m => ((y.hub.node? m.1).map (fun n => n.part == part)).getD false))

/-- The candidate may become reserving: its interval has run out, and no eligible one goes before it. -/
def mayReserve (y : Sys) (part : Nat) (i : Item) : Bool :=
  let due (x : Item) : Bool := (y.part part).reserveNs ≤ y.hub.now - x.since
  due i && !partReserving y part &&
    (items y part).all (fun x => !due x || x.prio < i.prio || (x.prio == i.prio && i.since ≤ x.since))

/-- A legal position on an in-service die of a class of the candidate (14 R322, 21 R430). -/
def legalPlace (y : Sys) (part : Nat) (a : Ask2) (pl : Place) : Bool :=
  (classesOf a.shape).contains pl.cls && (diesOf pl.cls).contains pl.die && (legalLeads pl.cls).contains pl.lead &&
    (y.die pl.die).inSvc && placeOwned (y.part part) pl.die pl.cls pl.lead a.xreq && (a.die.map (fun d => d == pl.die)).getD true &&
    a.own.all (fun o => o == (pl.die, pl.lead))

def setReservation (part : Nat) (i : Item) (pl : Place) (y : Sys) : Sys :=
  match i.cand with
  | .slot s => y.modPart part (fun p => p.modSlot s (fun v => { v with resv := some pl, reserving := true }))
  | _ => y.modNode i.nodeNo (fun n => { n with resv := some pl, reserving := true })

/-- A fixed position stands while it is legal (14 R322, log entry 92). -/
def placeStands (y : Sys) (part : Nat) (i : Item) : Bool :=
  ((fixedPlace y part i).map (legalPlace y part (i.ask part))).getD false

/-- RECORD_RESERVING: the position is the hub's choice, once; the instances in its way are victims (21 R419). -/
def recordReservingStep (k d lead cls : Nat) (y : Sys) : Sys :=
  match itemOf y k with
  | none => y
  | some (part, i) =>
    let pl : Place := ⟨d, lead, cls⟩
    if legalPlace y part (i.ask part) pl && !placeStands y part i && (isReserving y part i || mayReserve y part i) then
      findVictims part pl i.prio (recTokens i.node.record) (setReservation part i pl y)
    else y

def execRecordReserving (node die lead cls : Nat) (s : State) : Host.Outcome State Fault Refusal :=
  runEv s (recordReservingStep node die lead cls)

end Sys2Proof.Machine
end

