-- ==== Sys2Proof/Machine/Ends.lean ====
section
/-! DEFINITION. The life of an instance at the hub and on its die: the argument copy (02 R40), retirement and its decrement (02 R53 to R55),
pieces (02 R43 to R47, 09 R198 to R200), quiescence (20 R416, 21 R423), the watchdog (14 R332), gangs (14 R324 to R330) and the pin
window (15 R348). -/

namespace Sys2Proof.Machine

/-! ## Leaving -/

/-- What stays of a context that has ended, or of a piece that has been saved: its place in its grove. -/
def Ctx.left (c : Ctx) : Ctx :=
  { shape := c.shape, lead := c.lead, h := c.h, w := c.w, part := c.part, fn := c.fn, node := c.node, inst := c.inst
    piece := c.piece, grove := c.grove, alive := c.alive, orig := c.orig, origChains := c.origChains
    chains := c.chains.map (fun (h : Chain) => { phys := h.phys }), groveErr := c.groveErr, groveKill := c.groveKill
    record := c.record, fuseBack := c.fuseBack }

/-- What a context gives back when it ends: its waits, requests, load, copy contexts, semaphore map, landings and leases. The blocks and
chains stay with the grove. A record that it has posted is never taken when a copy issued before it has not completed (10 R237). -/
def givenBack (d l : Nat) (c : Ctx) (y : Sys) : Sys :=
  let y := y.modDie d (fun v => { dropWaiters v l with pool := v.pool + c.load })
  let y := y.modHub (fun h => { h with
    reqs := h.reqs.filter (fun q => !(q.die == d && q.ctx == l))
    posted := (h.posted.filter (fun x => !(x.die == d && x.ctx == l) || postedReady y x)).map (fun x =>
      if x.die = d && x.ctx = l then { x with need := [] } else x) })
  y.setCtx d l c.left

/-- A context ends, and its grove goes on without it. -/
def endCtx (d l : Nat) (y : Sys) : Sys :=
  let c := y.ctx d l
  let y := (givenBack d l c y).modCtx d l (fun k => { k with retired := true })
  c.grove.foldl (fun y m => y.modCtx d m (fun k =>
    { k with alive := k.alive.erase l, fuseBack := if k.piece = 0 && c.piece != 0 then k.fuseBack + c.load else k.fuseBack })) y

/-- Change every piece of a grove. -/
def modGrove (d l : Nat) (f : Ctx → Ctx) (y : Sys) : Sys := (y.ctx d l).grove.foldl (fun y m => y.modCtx d m f) y

/-- The last piece has left: the blocks become glades with their accumulators dead (02 R53). -/
def freeGrove (d l : Nat) (y : Sys) : Sys :=
  let g := (y.ctx d l).grove
  let y := y.modDie d (fun v => g.foldl (fun v m => { v with banks := (mgetD v.ctxs m {}).blocks.foldl merase v.banks }) v)
  y.modDie d (fun v => { v with ctxs := g.foldl merase v.ctxs })

/-- A piece of a split grove that has been saved goes, but for its place; the siblings wait for it as for one that runs (log entry 82). -/
def putAway (d l : Nat) (y : Sys) : Sys := (givenBack d l (y.ctx d l) y).modCtx d l (fun k => { k with away := true })

/-- How an instance ends. -/
inductive Fate where
  | retired
  | error (cause : Nat)
  | killed
deriving DecidableEq, Repr

/-- QREQ to the steward of a context (20 R416, R418). -/
def postQreq (d l cause : Nat) (y : Sys) : Sys :=
  if (y.ctx d l).isFree then y else postEvent (y.modCtx d l (fun c => { c with qreq := some y.hub.now })) d 3 l cause 0 0

/-- QREQ to every context that a test picks. -/
def postQreqs (pick : Ctx → Bool) (cause : Nat) (y : Sys) : Sys :=
  y.contexts.foldl (fun y x => if pick x.2.2 then postQreq x.1 x.2.1 cause y else y) y

/-- The instances of a failed node whose claims are granted and which have not started never start: their stewards are to give the claims
back (14 R331, log entry 91). -/
def recallUnstarted (k cause : Nat) (y : Sys) : Sys :=
  postQreqs (fun c => c.node == k && c.slot.isNone && c.notBegun && c.qreq.isNone && !c.endBy) cause y

/-- The node's account of an instance that has ended (02 R53, 14 R331, 21 R423). -/
def endInstance (k inst : Nat) (f : Fate) (y : Sys) : Sys :=
  match f with
  | .retired => hubGo (y.modNode k (fun n => { n with live := n.live - 1, ended := n.ended + 1 }))
  | .error c => hubGo (recallUnstarted k c (y.modNode k (fun n => { n with live := n.live - 1, ended := n.ended + 1 }.fail c eEcomp)))
  | .killed => hubGo (y.modNode k (fun n => { n with live := n.live - 1, rerun := if n.failed.isSome then [] else n.rerun ++ [inst] }))

/-- The fate of a whole grove: an error of any piece, a kill, else the given one. -/
def groveFate (c : Ctx) (f : Fate) : Fate :=
  match c.groveErr with
  | some e => .error e
  | none => if c.groveKill then .killed else f

/-- The END record (23 R446): 0 retire, 1 save, 2 quiesce, 3 kill. -/
def logEnd (d l how cause : Nat) (y : Sys) : Sys :=
  let c := y.ctx d l
  debugLog y d c.part 2 15 c.ctag 0 (BitVec.ofNat 64 how) (BitVec.ofNat 64 cause)

/-- A context leaves its grove; with the last one the instance ends. -/
def leaveGrove (d l : Nat) (f : Fate) (y : Sys) : Sys :=
  let y := endCtx d l y
  let c := y.ctx d l
  if c.alive.isEmpty then endInstance c.node c.inst.toNat (groveFate c f) (freeGrove d l y) else noteExcess y

/-- A saved piece whose slot is given up never comes back to its grove. -/
def loseAway (f : Fate) (sl : Slot) (y : Sys) : Sys :=
  match sl.own with
  | none => y
  | some (d, l) =>
    if (y.ctx d l).away then
      let mark (k : Ctx) : Ctx := match f with
        | .error e => { k with groveErr := some (k.groveErr.getD e) }
        | _ => k
      leaveGrove d l f ((modGrove d l mark y).modCtx d l (fun k => { k with away := false }))
    else y

/-- A context's entries have all retired (02 R53); a stopped context does not go on. -/
def Ctx.drained (c : Ctx) : Bool := c.entries.isEmpty && !c.stopped

/-! ## The argument copy (02 R40, 20 R414) -/

/-- The 64-byte lines of the argument block, translated; none when one cannot be. -/
def argLines (y : Sys) (c : Ctx) : Option (List Leaf) :=
  let fs := (List.range (recArglen c.record)).map (fun j =>
    hubXlate y c.fn c.part (recArg c.record + BitVec.ofNat 64 (64 * j)) .rd)
  if fs.all (fun f => match f with | .ok _ => true | .error _ => false) then
    some (fs.filterMap (fun f => match f with | .ok l => some l | .error _ => none))
  else none

/-- The choices of arrival that the copy makes, at each of its lines. -/
def argChoices (y : Sys) (c : Ctx) : List Choice :=
  (List.range (recArglen c.record)).filterMap (fun j =>
    match virtToInt (y.fn c.fn).ranges (recArg c.record + BitVec.ofNat 64 (64 * j)) .rd with
    | .ok ia => some (.line (ia / 64) c.ctag 15)
    | .error _ => none)

/-- The node's account of a start: the first of its instance, or one after a kill (14 R318, R320, R322). A reserving record whose instances
have all started reserves nothing more. -/
def beginNode (first : Bool) (now : Nat) (n : Node) : Node :=
  let n := { n with begun := if first then n.begun + 1 else n.begun, lastStart := now }
  if n.allBegun && n.rerun.isEmpty then { n with reserving := false, resv := none } else n

/-- The copy has put the block at window offset 0, poison and all; the first fetch follows. -/
def argCopied (d l : Nat) (ls : List Leaf) (y : Sys) : Sys :=
  let c := y.ctx d l
  let bs := ls.flatMap (fun f => devRead y f.fdie f.pa 64)
  let y := y.modDie d (fun v => winWrite v c 0 bs)
  let y := y.modNode c.node (beginNode c.bound y.hub.now)
  hubGo (logStart (y.modCtx d l (fun c => { c with fresh := true })) d l)

/-- The copy fails: the instance ends in error before it runs. -/
def argFailed (d l : Nat) (y : Sys) : Sys :=
  let y := logEnd d l 2 cCopyFault y
  let y := modGrove d l (fun c => { c with groveErr := some (c.groveErr.getD cCopyFault) }) y
  postEvent (leaveGrove d l (.error cCopyFault) y) d 7 l 1 0 0

/-- The instance may issue its first fetch: its node has not failed, and it is its turn in the start order (14 R318, R330, R331). -/
def beginOpen (y : Sys) (c : Ctx) : Bool :=
  match y.hub.node? c.node with
  | none => true
  | some n => n.failed.isNone && (!c.bound || instTurn y.hub n c.inst.toNat)

/-- ARGUMENT_COPY_DONE. -/
def argumentCopyStep (d l : Nat) (y : Sys) : Sys :=
  let c := y.ctx d l
  if c.st == .run && !c.fresh && !c.stopped && beginOpen y c then
    match argLines y c with
    | none => argFailed d l y
    | some ls => gatedAll y c.part (argChoices y c) (argCopied d l ls)
  else y

def execArgumentCopyDone (die ctx : Nat) (s : State) : Host.Outcome State Fault Refusal := runEv s (argumentCopyStep die ctx)

/-! ## Retirement (02 R53, R54) -/

/-- The decrement of SIGOBJ: the place, none without a decrement, or a failed translation. -/
def decPlace (y : Sys) (c : Ctx) : Except Nat (Option (Leaf × Nat)) :=
  if recDec c.record = 0 || recSigobj c.record = 0 then .ok none
  else match hubXlate y c.fn c.part (recSigobj c.record) .rw, virtToInt (y.fn c.fn).ranges (recSigobj c.record) .rw with
    | .ok l, .ok ia => .ok (some (l, ia))
    | .error e, _ => .error e
    | _, .error e => .error e

/-- The claim goes back and RETIRED is posted. -/
def retireWith (d l : Nat) (f : Fate) (cause : Nat) (y : Sys) : Sys :=
  postEvent (leaveGrove d l f (logEnd d l 0 cause y)) d 8 l 0 0 0

/-- The retirement of an instance: the decrement is applied unless the instance is one that ends in error. -/
def retireInstance (d l : Nat) (y : Sys) : Sys :=
  let c := y.ctx d l
  if c.groveErr.isSome || c.groveKill || ((y.hub.node? c.node).map (·.gangOut)).getD true then retireWith d l .retired 0 y
  else match decPlace y c with
    | .error _ => retireWith d l (.error cCopyFault) cCopyFault y
    | .ok none => retireWith d l .retired 0 y
    | .ok (some (f, ia)) =>
      gated y c.part (.line (ia / 64) c.ctag 15) (fun y =>
        retireWith d l .retired 0 (performReq y (.sig (BitVec.ofNat 64 (recDec c.record))) f.fdie f.pa).1)

/-- INSTANCE_RETIRE: an unsplit context or piece 0 after `tend`, with every entry and every sibling retired. -/
def instanceRetireStep (d l : Nat) (y : Sys) : Sys :=
  let c := y.ctx d l
  if c.st == .ending && c.tended && !c.endBy && c.drained && c.piece == 0 && c.alive == [l] then retireInstance d l y else y

def execInstanceRetire (die ctx : Nat) (s : State) : Host.Outcome State Fault Refusal := runEv s (instanceRetireStep die ctx)

/-- PIECE_RETIRE (02 R47). -/
def pieceRetireStep (d l : Nat) (y : Sys) : Sys :=
  let c := y.ctx d l
  if c.st == .ending && c.tended && !c.endBy && c.drained && c.piece != 0 then retireWith d l .retired 0 y else y

def execPieceRetire (die ctx : Nat) (s : State) : Host.Outcome State Fault Refusal := runEv s (pieceRetireStep die ctx)

/-! ## Quiescence (20 R416, 21 R423) -/

/-- What a quiesced context leaves on its grove. -/
def markGrove (c : Ctx) (k : Ctx) : Ctx :=
  match c.endCause with
  | some e => { k with groveErr := some (k.groveErr.getD e) }
  | none => { k with groveKill := true }

/-- The event that a quiescence posts: QUIESCED, or for a refused save area SAVED with SUB 1 (20 R412). -/
def savedRefused : Nat := 0xFF

/-- A save that the quiescence ends has its slot go to FREE (21 R424, log entry 91). -/
def endSave (c : Ctx) (y : Sys) : Sys :=
  match c.saveSlot with
  | none => y
  | some sl => y.modPart c.part (fun p => { p with slots := merase p.slots sl })

def postQuiesced (d l sub : Nat) (y : Sys) : Sys := if sub = savedRefused then postEvent y d 5 l 1 0 0 else postEvent y d 7 l sub 0 0

/-- QUIESCE_COMPLETE: the started matrix and strip entries have run to completion; copies end where they are. -/
def quiesceCompleteStep (d l : Nat) (y : Sys) : Sys :=
  let c := y.ctx d l
  if c.st == .ending && c.endBy && !c.stopped && !(c.entries.any (fun qe => qe.1 < 8)) then
    let y := logEnd d l (if c.killed then 3 else 2) (c.endCause.getD 0) y
    let y := endSave c y
    let y := modGrove d l (markGrove c) y
    postQuiesced d l c.endSub (leaveGrove d l (groveFate (markGrove c c) .killed) y)
  else y

def execQuiesceComplete (die ctx : Nat) (s : State) : Host.Outcome State Fault Refusal := runEv s (quiesceCompleteStep die ctx)

/-! ## The watchdog (14 R332) -/

/-- WATCHDOG_EXPIRE: to the context, or after `tend` to the die's steward. -/
def watchdogStep (d l : Nat) (y : Sys) : Sys :=
  let c := y.ctx d l
  if c.wdDue && c.wdEn && c.wdLimit != 0 && c.wdLimit ≤ c.wdCycles / 1024 && !c.isFree && !c.stopped then
    let y := y.modCtx d l (fun c => { c with wdDue := false })
    if c.tended then addDiePend y d (.watchdog l) else addPend y d l .watchdog
  else y

def execWatchdogExpire (die ctx : Nat) (s : State) : Host.Outcome State Fault Refusal := runEv s (watchdogStep die ctx)

/-! ## Split (02 R43 to R45, 09 R198) -/

/-- Leading blocks of the pieces of a split, in row-major order. -/
def pieceLeads (c : Ctx) (into : Nat) : List Nat :=
  let (h, w) := shapeSize into
  (List.range (pieceCount c into)).map (fun k => c.lead + 6 * h * (k / (c.w / w)) + w * (k % (c.w / w)))

/-- The chains of the fragment that go to each piece: those under its columns, each to the first such piece (02 R38, R45). -/
def pieceChains (c : Ctx) (into k : Nat) : List Chain :=
  let w := (shapeSize into).2
  let lo := c.lead % 6 + w * k
  if c.w / w ≤ k then [] else c.chains.filter (fun (h : Chain) => lo ≤ h.phys && h.phys < lo + w)

/-- Queues and scoreboard of the fragment are empty (02 R44). -/
def splitDrained (c : Ctx) : Bool := !(c.entries.any (fun qe => qe.1 < 8 || qe.2.scb))

/-- Every piece can have a copy context and its semaphores (02 R44, 12 R272). -/
def splitServes (y : Sys) (d : Nat) (c : Ctx) (n : Nat) : Bool :=
  n - 1 ≤ (freeCopies y c.part d).length &&
    owedSems y c.part d + (n - 1) * (recNsem c.record + 1) ≤ (unmappedSems y c.part d).length

/-- Links and bypass are emptied, routing is the default, landings close and leases go (09 R196, 12 R292, 18 R381). -/
def Ctx.resetLinks (c : Ctx) : Ctx :=
  { c.dropLeases with links := [], bypass := [], routing := Routing.dflt, iRouting := Routing.dflt, landings := []
                      chains := c.chains.map (fun (h : Chain) => { h with route := .dflt }) }

/-- Width and sparsity of the stationary B that a block holds (08 R178). -/
def Die.bOf (v : Die) (b : Nat) : Nat × Nat := let x := mgetD v.bmat b {}; (x.bw, x.sp)

/-- Piece `k`, not 0, with its copy contexts and semaphores. Its B is what its own blocks hold, and its MX_STAT starts at the reset value,
which 09 R203 gives for claim grant alone (log entry 98). -/
def newPiece (y : Sys) (d : Nat) (c : Ctx) (into k lead : Nat) (leads : List Nat) : Sys × Ctx :=
  let p := y.part c.part
  let (h, w) := shapeSize into
  let pool := freeCopies y c.part d
  let (y, engines) := chooseN (max 1 (min p.ccn (pool.length - (leads.length - 1 - k)))) pool y
  let (y, sems) := chooseN (recNsem c.record + 1) (unmappedSems y c.part d) y
  let tag := freshTag y c.part
  let y := y.modDie d (fun v => (sems.zipIdx).foldl (fun v s =>
    v.setSem s.1 { v.sem s.1 with count := 0, ovf := false, rel := none, fn := some c.fn, tag := (tag, s.2) }) v)
  (y, { st := .run, shape := into, lead := lead, h := h, w := w, part := c.part, fn := c.fn, node := c.node, inst := c.inst, count := c.count
        piece := k, grove := leads, alive := leads, record := c.record, copies := engines.map (fun e => { engine := e })
        chains := (pieceChains c into k).map (fun (h : Chain) => { phys := h.phys }), semMap := sems, iB := (y.die d).bOf lead, ranges := c.ranges
        wdLimit := bitsOf p.pc1.toNat 25 24, wdEn := bitOf p.pc1.toNat 49, load := h * w, elapsed := c.elapsed, ctag := tag })

/-- One piece starts at the piece entry (02 R45). -/
def startPiece (d : Nat) (c : Ctx) (into : Nat) (live pentry : Word) (leads : List Nat) (k : Nat) (y : Sys) : Sys :=
  let lead := leads.getD k 0
  let (y, p) := newPiece y d c into k lead leads
  let y := (y.setCtx d lead p).modPart c.part (fun t => { t with tagNext := (p.ctag + 1) % 2 ^ 16 })
  let y := if live.getLsbD k then y else y.modDie d (fun v => { v with banks := p.blocks.foldl merase v.banks })
  logStart (y.modSeq ⟨d, some lead⟩ (fun q => q.start p pentry)) d lead

/-- Piece 0 goes on with what is left to it; `b` is the B of its blocks. -/
def shrinkTo (c : Ctx) (b : Nat × Nat) (into : Nat) (leads : List Nat) : Ctx :=
  let (h, w) := shapeSize into
  let own := pieceChains c into 0
  let c := { c.resetLinks with
    shape := into, h := h, w := w, grove := leads, alive := leads, orig := some (c.shape, c.lead, c.h, c.w)
    origChains := c.chains.map Chain.phys, reshape := .none, load := c.load - (c.blocks.length - h * w), wdCycles := 0, fuseBack := 0
    iB := b
    queues := c.queues.filter (fun q => q.1 == 0 || q.1 ≤ own.length || 8 ≤ q.1) }
  { c with chains := c.chains.filter (fun (h : Chain) => own.any (fun o => o.phys == h.phys)) }

/-- The split takes effect. -/
def splitEffect (d l into : Nat) (live pentry : Word) (y : Sys) : Sys :=
  let c := y.ctx d l
  let leads := pieceLeads c into
  let y := y.setCtx d l (shrinkTo c ((y.die d).bOf c.lead) into leads)
  let y := if live.getLsbD 0 then y else y.modDie d (fun v => { v with banks := (y.ctx d l).blocks.foldl merase v.banks })
  let y := govGo (((List.range leads.length).drop 1).foldl (fun y k => startPiece d c into live pentry leads k y) y)
  y.modSeq ⟨d, some l⟩ (fun q => q.advance 8 none)

/-- SPLIT_TAKE_EFFECT. -/
def splitStep (d l : Nat) (y : Sys) : Sys :=
  let c := y.ctx d l
  match c.reshape with
  | .split into live pentry =>
    if (c.st == .run || c.st == .trap) && !c.stopped && splitDrained c && splitServes y d c (pieceCount c into) &&
        decide (c.realWeight ≤ c.load) then
      splitEffect d l into live pentry y
    else govGo y
  | _ => y

def execSplitTakeEffect (die ctx : Nat) (s : State) : Host.Outcome State Fault Refusal := runEv s (splitStep die ctx)

/-! ## Fuse (02 R46, 09 R199) -/

/-- A window range of entries in the numbering of one list of blocks, in that of another that holds them too: slice by slice (02 R42). -/
def moveSpan (old new : List Nat) (s : Span) : List Span :=
  ((List.range (s.hi / Config.sliceBytes + 1)).drop (s.lo / Config.sliceBytes)).filterMap (fun i =>
    let lo := max s.lo (i * Config.sliceBytes) - i * Config.sliceBytes
    let hi := min s.hi ((i + 1) * Config.sliceBytes) - i * Config.sliceBytes
    match (old[i]?).bind (fun b => findIx (· == b) new) with
    | some j => if lo < hi then some ⟨j * Config.sliceBytes + lo, j * Config.sliceBytes + hi⟩ else none
    | none => none)

/-- The ranges of a queue's entries, by which new commands are held back, in the numbering of the fused fragment. -/
def moveRanges (old new : List Nat) (q : EQueue) : EQueue :=
  { q with ents := q.ents.map (fun e => { e with rd := e.rd.flatMap (moveSpan old new), wr := e.wr.flatMap (moveSpan old new) }) }

/-- The restored fragment: the original shape and chains, with piece 0's map, timelines and B width and N (log entry 11). -/
def fuseCtx (c : Ctx) : Ctx :=
  match c.orig with
  | none => c
  | some (sh, l, h, w) =>
    let c' := c.resetLinks
    let chains := c.origChains.map (fun j => (c'.chains.find? (fun x => x.phys == j)).getD { phys := j })
    { c' with shape := sh, lead := l, h := h, w := w, grove := [l], alive := [l], orig := none, origChains := []
              chains := chains, reshape := .none, wdCycles := 0
              queues := c'.queues.map (fun q => (q.1, moveRanges c.blocks (blocksOf sh l h w) q.2)) }

/-- FUSE_TAKE_EFFECT: every sibling has retired, none in error. The siblings' load comes back from the pool, as far as it has not fallen;
what their start weight lacks is asked of the governor (02 R46, 15 R345; log entry 122). -/
def fuseStep (d l : Nat) (y : Sys) : Sys :=
  let c := y.ctx d l
  if c.reshape == .fuse && c.alive == [l] && c.groveErr.isNone && !c.groveKill && (c.st == .run || c.st == .trap) && !c.stopped then
    let take := min (y.die d).pool (max c.fuseBack (c.fuseNeed - c.ballast))
    let y := govGo ((y.modDie d (fun v => { v with pool := v.pool - take })).modCtx d l (fun c => { c with load := c.load + take, fuseBack := 0 }))
    if (y.ctx d l).ballast < c.fuseNeed then { y with gov := y.gov.openReq (.fuse d l) }
    else
      let y := y.modDie d (fun v => { v with ctxs := (c.grove.filter (· != l)).foldl merase v.ctxs })
      (y.modCtx d l fuseCtx).modSeq ⟨d, some l⟩ (fun q => q.advance 8 none)
  else y

def execFuseTakeEffect (die ctx : Nat) (s : State) : Host.Outcome State Fault Refusal := runEv s (fuseStep die ctx)

/-! ## Gangs (14 R326 to R330) -/

/-- Waiting starts that a test picks are given up, their load going to the pools. -/
def dropStarts (pick : Start → Bool) (y : Sys) : Sys :=
  (y.hub.starts.filter pick).foldl (fun y w => cancelStart w y) y

/-- A member of a gang that faults: nothing of it starts any more, it releases nothing, and it is gone once its instances have ended. -/
def outMember (cause kind : Nat) (n : Node) : Node := { (n.fail cause kind) with gangOut := true, gang := none }

/-- A gang faults (14 R330): its instances are quiesced, no other starts, and each member's queue receives the error; no member applies a
decrement or releases anything. Of a partition or function that is being reset, `tell` picks neither members nor instances: the reset ends
those itself (17 R366, 21 R433). -/
def gangFault (key : Nat) (kind cause : Nat) (tell : Nat → Bool) (y : Sys) : Sys :=
  match mget? y.hub.gangs key with
  | none => y
  | some g =>
    let y := dropStarts (fun w => w.gang == some key) y
    let y := postQreqs (fun c => g.nodes.contains c.node && tell c.part) 0 y
    let y := g.nodes.foldl (fun y k =>
      match y.hub.node? k with
      | none => y
      | some n =>
        let y := y.modNode k (outMember cause kind)
        if tell n.part then postNode n kind cause y else y) y
    y.modHub (fun h => { h with gangs := merase h.gangs key })

/-- GANG_ASSEMBLY_TIMEOUT. -/
def gangTimeoutStep (gid : Nat) (y : Sys) : Sys :=
  match y.hub.heldGang gid with
  | none => y
  | some (k, g) =>
    if !g.assembled && g.asm != 0 && g.asm * 100000 ≤ g.age then hubGo (gangFault k eGang 0 (fun _ => true) y) else y

def execGangAssemblyTimeout (gid : Nat) (s : State) : Host.Outcome State Fault Refusal := runEv s (gangTimeoutStep gid)

/-- Every member may join a reservation: ready, at its queue's turn, its function resident and not being switched out; a switch waits for a
gang that is reserving already (17 R364). -/
def gangReady (y : Sys) (g : Gang) : Bool :=
  g.assembled && !g.committed && g.nodes.all (fun k =>
    match y.hub.node? k with
    | none => false
    | some n =>
      let p := y.part n.part
      n.ready && n.failed.isNone && p.en && !p.resetting && (!p.outgoing || g.reserving) && !p.ckBusy && p.resident == some n.fn &&
        y.hub.queueHead n.oFn n.oQ == some k)

/-- The instance of a member that the `j`-th of its places is for, as a candidate. -/
def memberItem (y : Sys) (k : Nat) (n : Node) (i : Nat) : Item := nodeItem y k n .fresh i

/-- The places of a reservation: (MIDX, die, leading block, class), the instances of a member in their order. -/
def gangPlaces (y : Sys) (g : Gang) (l : List (Nat × Nat × Nat × Nat)) : Option (List (Nat × Nat × Place)) :=
  let one (m : Nat × Nat) : List (Nat × Nat × Place) :=
    ((l.filter (fun x => x.1 == m.2)).mapIdx (fun i x => (m.1, i, (⟨x.2.1, x.2.2.1, x.2.2.2⟩ : Place))))
  let all := g.members.flatMap one
  let good := g.members.all (fun m => ((y.hub.node? m.1).map (fun n => n.count == some (one m).length)).getD false)
  if good && all.length = l.length then some all else none

/-- Hold one reserved place of a gang, when it can be formed and no slot owns a slice of it; in a replay with the leftover bytes that the log
names for its grant (02 R49). -/
def holdPlace (key : Nat) (x : Nat × Nat × Place) (y : Sys) : Option Sys :=
  match y.hub.node? x.1 with
  | none => none
  | some n =>
    let pl := x.2.2
    let i := memberItem y x.1 n x.2.1
    let a : Ask2 := { i.ask n.part with who := some (.gang key) }
    if (formable y a pl.die).contains (pl.cls, pl.lead) then
      if ownedSlices y pl.die pl.cls pl.lead = 0 then
        some (openStart n.part pl.die pl.cls pl.lead i (some key) (adoptGrant n.part pl.die pl.cls pl.lead (recordId n.record) x.2.1 y))
      else none
    else none

/-- The places of a gang that can be formed now. -/
def gangFormable (key : Nat) (l : List (Nat × Nat × Place)) (y : Sys) : List (Nat × Nat × Place) :=
  l.filter (fun x => match y.hub.node? x.1 with
    | none => false
    | some n =>
      (formable y { (memberItem y x.1 n x.2.1).ask n.part with who := some (.gang key) } x.2.2.die).contains (x.2.2.cls, x.2.2.lead))

/-- The slices that slots own of the places that a gang is to hold are spilled; a refused spill keeps its place back, and the firmware hears
of it (21 R429). -/
def spillPlaces (l : List (Nat × Nat × Place)) (y : Sys) : Sys :=
  l.foldl (fun y x =>
    match spillAll x.2.2.die (fun _ => false) (placeBlocks x.2.2.cls x.2.2.lead) y with
    | (y, true) => y
    | (y, false) => fwInterrupt y 3) y

/-- All the places at once, or none (14 R327). -/
def holdAll (key : Nat) : List (Nat × Nat × Place) → Sys → Option Sys
  | [], y => some y
  | x :: t, y =>
    match holdPlace key x y with
    | none => none
    | some y => holdAll key t y

/-- Those of the places that have formed (14 R328). -/
def holdSome (key : Nat) (l : List (Nat × Nat × Place)) (y : Sys) : Sys :=
  l.foldl (fun y x =>
    if y.hub.starts.any (fun w => w.gang == some key && w.node == x.1 && w.inst == x.2.1) then y
    else (holdPlace key x y).getD y) y

/-- Every claim is reserved: the ramp slots are asked for as one request (15 R349). -/
def askGang (key : Nat) (g : Gang) (total : Nat) (y : Sys) : Sys :=
  if (y.hub.starts.filter (fun w => w.gang == some key)).length = total then
    let pinned := g.nodes.any (fun k => ((y.hub.node? k).map (fun n => recPin n.record)).getD false)
    let y := y.modHub (fun h => { h with
      gangs := mset h.gangs key { mgetD h.gangs key g with asked := true, resv := [] }
      starts := h.starts.map (fun w => if w.gang = some key then { w with pinned := pinned, age := 0 } else w) })
    { y with gov := y.gov.openReq (.gang key) }
  else y

/-- The gang has waited for the interval in every member partition, from its assembly on (log entry 121), and none of them has a reserving record (14 R328). -/
def gangDue (y : Sys) (g : Gang) : Bool :=
  g.nodes.all (fun k => ((y.hub.node? k).map (fun n => decide ((y.part n.part).reserveNs ≤ g.waited) && !partReserving y n.part)).getD false)

/-- It goes before every other gang that competes for a partition of its own. -/
def gangFirst (y : Sys) (key : Nat) (g : Gang) : Bool :=
  let parts (g : Gang) : List Nat := g.nodes.filterMap (fun k => (y.hub.node? k).map (·.part))
  y.hub.gangs.all (fun o => o.1 == key || !gangReady y o.2 || !gangDue y o.2 || !shares (parts g) (parts o.2) ||
    (gangRank y o.2).1 < (gangRank y g).1 || ((gangRank y o.2).1 == (gangRank y g).1 && o.2.waited ≤ g.waited))

/-- Its reserved positions are fixed, and what runs there is a victim. -/
def gangBecomes (key : Nat) (g : Gang) (l : List (Nat × Nat × Place)) (y : Sys) : Sys :=
  let y := y.modHub (fun h => { h with gangs := mset h.gangs key { g with reserving := true, resv := l } })
  let r := gangRank y g
  l.foldl (fun y x => match y.hub.node? x.1 with
    | none => y
    | some n => findVictims n.part x.2.2 r.1 r.2 y) y

/-- Positions that may be reserved: legal for their members, and apart from each other. -/
def gangLegal (y : Sys) : List (Nat × Nat × Place) → Bool
  | [] => true
  | x :: t =>
    ((y.hub.node? x.1).map (fun n => legalPlace y n.part ((memberItem y x.1 n x.2.1).ask n.part) x.2.2)).getD false &&
      t.all (fun z => z.2.2.die != x.2.2.die || !shares (placeBlocks z.2.2.cls z.2.2.lead) (placeBlocks x.2.2.cls x.2.2.lead)) &&
      gangLegal y t

/-- GANG_RESERVE: all claims in one step; or, once it is due, the gang becomes reserving at these places; a reserving gang holds what has
formed. -/
def gangReserveStep (gid : Nat) (l : List (Nat × Nat × Nat × Nat)) (y : Sys) : Sys :=
  match y.hub.heldGang gid with
  | none => y
  | some (key, g) =>
    if !gangReady y g || g.asked then y
    else if g.reserving && !gangLegal y g.resv then releaseGang key y
    else if g.reserving then
      let y := holdSome key g.resv (spillPlaces (gangFormable key g.resv y) y)
      govGo (askGang key g g.resv.length y)
    else match gangPlaces y g l with
      | none => y
      | some places =>
        let y := if (gangFormable key places y).length = places.length then spillPlaces places y else y
        match holdAll key places y with
        | some y => govGo (askGang key g places.length y)
        | none => if gangDue y g && gangFirst y key g && gangLegal y places then gangBecomes key g places y else y

def execGangReserve (gid : Nat) (places : List (Nat × Nat × Nat × Nat)) (s : State) : Host.Outcome State Fault Refusal :=
  runEv s (gangReserveStep gid places)

/-- The commit of a gang, each grant a choice of its partition's log. -/
def commitGang (key : Nat) (g : Gang) (y : Sys) : Sys :=
  let ws := y.hub.starts.filter (fun w => w.gang == some key)
  let y := ws.foldl (fun y w =>
    grantStart w (match y.hub.node? w.node with
      | none => y
      | some n =>
        let m := recordId n.record
        note y w.part (grantChoice y w.place.die w.place.cls w.place.lead m w.inst))) y
  let y := y.modHub (fun h => { h with gangs := mset h.gangs key { g with committed := true, sinceCommit := 0, reserving := false } })
  { y with gov := { y.gov with open_ := y.gov.open_.filter (fun r => r != .gang key) } }

/-- A held start can be granted with its gang: its need is 0, its partition is not being cut for a checkpoint, its die is in service, and every
instance of each earlier record of its queue has started (01 R22, 14 R318, 15 R349, 23 R449). -/
def commitOpen (y : Sys) (w : Start) : Bool :=
  w.need == 0 && !(y.part w.part).ckBusy && (y.die w.place.die).inSvc && ((y.hub.node? w.node).map (y.hub.atTurn)).getD true

/-- GANG_COMMIT: every claim is held and its need is 0. -/
def gangCommitStep (gid : Nat) (y : Sys) : Sys :=
  match y.hub.heldGang gid with
  | none => y
  | some (key, g) =>
    if g.asked && !g.committed && (y.hub.starts.filter (fun w => w.gang == some key)).all (commitOpen y) then
      hubGo (commitGang key g y)
    else y

def execGangCommit (gid : Nat) (s : State) : Host.Outcome State Fault Refusal := runEv s (gangCommitStep gid)

/-- Some instance of a committed gang has not issued its first fetch. -/
def gangUnbegun (y : Sys) (g : Gang) : Bool := y.contexts.any (fun x => g.nodes.contains x.2.2.node && x.2.2.notBegun)

/-- GANG_START_TIMEOUT: the 2 µs bound (14 R329, R330). -/
def gangStartStep (gid : Nat) (y : Sys) : Sys :=
  match y.hub.gangs.find? (fun g => g.2.gid == gid && g.2.committed) with
  | none => y
  | some (k, g) =>
    if gangUnbegun y g then (if 2000 < g.sinceCommit then hubGo (gangFault k eGang 0 (fun _ => true) y) else y)
    else y.modHub (fun h => { h with gangs := merase h.gangs k })

def execGangStartTimeout (gid : Nat) (s : State) : Host.Outcome State Fault Refusal := runEv s (gangStartStep gid)

/-! ## The pin window (15 R348, R349) -/

/-- The slot of a resumption that never runs: FREE, its slices unspilled (15 R348, 21 R424). -/
def dropSlot (part s : Nat) (y : Sys) : Sys :=
  let sl := (y.part part).slot s
  loseAway (.error cRamp) sl ((freeOwned y sl).modPart part (fun p => { p with slots := merase p.slots s }))

/-- An instance takes RAMP_VIOLATION before its first fetch. -/
def rampViolation (w : Start) (y : Sys) : Sys :=
  let y := cancelStart w y
  let y := recallUnstarted w.node cRamp (y.modNode w.node (Node.fail cRamp eRamp))
  match w.slot with
  | none => y
  | some s => dropSlot w.part s y

/-- PIN_WINDOW_EXPIRE. -/
def pinExpireStep (d l : Nat) (y : Sys) : Sys :=
  match y.hub.starts.find? (fun w => w.place.die == d && w.place.lead == l) with
  | none => y
  | some w =>
    if w.pinned && y.gov.pinNow * 1000 ≤ w.age then
      match w.gang with
      | none => if w.need = 0 then y else hubGo (rampViolation w y)
      | some g =>
        if y.hub.starts.any (fun x => x.gang == some g && x.need != 0) then hubGo (gangFault g eRamp cRamp (fun _ => true) y) else y
    else y

def execPinWindowExpire (die ctx : Nat) (s : State) : Host.Outcome State Fault Refusal := runEv s (pinExpireStep die ctx)

end Sys2Proof.Machine
end

