-- ==== Sys2Proof/Machine/Image.lean ====
section
/-! DEFINITION. The image of a saved context (21 R425 to R428) and what the context-save engine does with it: a save (20 R412, 21 R424,
R429) and a restore (20 R413, 21 R430, R431). -/

namespace Sys2Proof.Machine

/-! ## Runs of bytes in an area -/

/-- Cut a run of fewer than 64 KiB at the end of its 64 KiB page. -/
def splitRun (x : Nat × List Byte) : List (Nat × List Byte) :=
  let room := 2 ^ 16 - x.1 % 2 ^ 16
  if x.2.length ≤ room then [x] else [(x.1, x.2.take room), (x.1 + room, x.2.drop room)]

/-- Every run can be written at its place in the area. -/
def runsOpen (y : Sys) (part base : Nat) (l : List (Nat × List Byte)) : Bool :=
  l.all (fun x => match intXlate y part (base + x.1) .wr with
    | .ok _ => true
    | .error _ => false)

/-- Write the runs, unless the walker refuses one of them. -/
def writeRuns (y : Sys) (part base : Nat) (l : List (Nat × List Byte)) : Option Sys :=
  let l := l.flatMap splitRun
  if runsOpen y part base l then some (l.foldl (fun y x => (intWrite y part (base + x.1) (clean x.2)).getD y) y) else none

/-- Read fewer than 64 KiB of the area, with its poison. -/
def readMarked (y : Sys) (part base off n : Nat) : Option (List (Byte × Bool)) :=
  let room := 2 ^ 16 - off % 2 ^ 16
  match intRead y part (base + off) (min n room), intRead y part (base + off + room) (n - room) with
  | some a, some b => some (a ++ b)
  | some a, none => if n ≤ room then some a else none
  | none, _ => none

def readRun (y : Sys) (part base off n : Nat) : Option (List Byte) := (readMarked y part base off n).map (fun l => l.map (·.1))

/-! ## The header (21 R426, R427) -/

/-- The parameter state as its 64-byte record (09 R185). -/
def paramWord (p : Params) (k : Nat) : Nat :=
  match k with
  | 0 => p.mrows % 2 ^ 32 + p.astr % 2 ^ 32 * 2 ^ 32
  | 1 => p.drows % 2 ^ 32 + p.dstr % 2 ^ 32 * 2 ^ 32
  | _ => 0

/-- Header word 0x000 of version `ver`. -/
def headWord (c : Ctx) (ver : Nat) : Nat :=
  let xbnd := (List.range c.chains.length).foldl (fun a k => a + (((c.chains[k]?).map (·.bound)).getD false).toNat * 2 ^ k) 0
  (c.semMap.length - 1) % 256 * 2 ^ 48 + c.blocks.length * 2 ^ 42 + c.copies.length * 2 ^ 39 + c.chains.length * 2 ^ 36 + xbnd * 2 ^ 30 +
    c.shape * 2 ^ 20 + ver * 2 ^ 8

/-- Header word `j`, at offset 8j. -/
def imgWord (v : Die) (q : SeqSt) (c : Ctx) (ver j : Nat) : Nat :=
  if j = 0 then headWord c ver
  else if j = 1 then (taskInfo c).toNat
  else if j = 2 then q.trapPc0.toNat
  else if j = 3 then q.trapPc1.toNat
  else if j = 4 then q.trapPc2.toNat
  else if j = 5 then q.trapAnn.toNat
  else if j = 6 then q.trapNstat.toNat
  else if j = 7 then q.trapNtop.toNat
  else if j = 8 then q.tags.toNat
  else if j = 9 then (mxStat v c).toNat
  else if j = 10 then (xflag c).toNat
  else if j = 11 then (wdog c).toNat
  else if j = 12 then c.floor
  else if j = 13 then c.rslots.toNat
  else if j = 14 then c.bcyc.toNat
  else if j = 15 then c.gwait.toNat
  else if j < 24 then (if j = 22 then 0 else (vgetD c.lsc (j - 16) 0).toNat)
  else if j < 32 then paramWord c.params (j - 24)
  else if j < 63 then (vgetD q.g (j - 31) 0).toNat
  else if j = 63 then 0
  else if j < 128 then leNat (((walkDesc (vgetD q.walks ((j - 64) / 8) {})).drop (8 * ((j - 64) % 8))).take 8)
  else if j < 136 then (vgetD c.ranges.vmb (j - 128) 0).toNat
  else if j < 144 then (vgetD c.ranges.vmi (j - 136) 0).toNat
  else if j = 144 then (c.queue 0).ret
  else if j < 151 then (c.queue (j - 144)).ret
  else if j < 155 then (c.queue (j - 143)).ret
  else 0

def imgHeader (v : Die) (q : SeqSt) (c : Ctx) (ver : Nat) : List Byte :=
  (List.range 512).flatMap (fun j => leSplit 8 (imgWord v q c ver j))

/-! ## Semaphores, banks, strips and ports (21 R425, R428) -/

/-- The physical semaphore is mapped into another context of the die. -/
def semShared (v : Die) (l ps : Nat) : Bool := v.ctxs.any (fun c => c.1 != l && c.2.semMap.contains ps)

/-- The semaphore entry of virtual number `n`: SH and PS in place of the count for a shared one (21 R428). -/
def semEntry (v : Die) (l : Nat) (c : Ctx) (n : Nat) : Nat :=
  match c.semMap[n]? with
  | none => 0
  | some ps => (v.sem ps).ovf.toNat * 2 ^ 16 + (if semShared v l ps then 2 ^ 63 + ps * 2 ^ 48 else (v.sem ps).count)

/-- The live-row map of a bank. -/
def liveMap (b : Map BankRow) : Nat := b.foldl (fun a r => if r.1 < 256 then a ||| 2 ^ r.1 else a) 0

/-- Fragment-relative bank `b` of a context. -/
def bankAt (v : Die) (c : Ctx) (b : Nat) : Map BankRow := mgetD v.banks (c.blocks.getD b c.lead) []

def bankRuns (v : Die) (c : Ctx) (b : Nat) : List (Nat × List Byte) :=
  (0x1800 + 32 * b, leSplit 32 (liveMap (bankAt v c b))) ::
    (bankAt v c b).flatMap (fun r =>
      [(0x8_0000 + 0x1800 * b + 24 * r.1, leSplit 24 r.2.pz.toNat), (0x10_0000 + 0x3_0000 * b + 768 * r.1, beatToBytes r.2.vals)])

/-- A strip's flags as the image keeps them: a pack line in progress is lost, and sets NV. -/
def Strip.savedFlags (s : Strip) : BitVec 5 := if s.packLine.isEmpty then s.flags else s.flags ||| flNV

/-- The mode word. -/
def modeWord (s : Strip) : Nat := s.ftz.toNat + s.shp % 16 * 2 ^ 4 + s.lg / 192 * 2 ^ 8 + s.savedFlags.toNat * 2 ^ 16

def stripRuns (s : Strip) (base : Nat) : List (Nat × List Byte) :=
  (List.range 14).map (fun i => (base + 768 * i, beatToBytes (s.reg i))) ++
    (List.range 12).map (fun i => (base + 0x2A00 + 24 * i, leSplit 24 (s.pred i).toNat)) ++
    [(base + 0x2B20, beatToBytes (s.sr ++ List.replicate (192 - s.sr.length) 0)), (base + 0x2E20, leSplit 8 (modeWord s))]

def portRuns (h : Chain) (base : Nat) : List (Nat × List Byte) :=
  (List.range 11).flatMap (fun p => (h.port p).mapIdx (fun i b => (base + 0xC00 * p + 768 * i, beatToBytes b))) ++
    (List.range 11).map (fun p => (base + 0x8400 + p, leSplit 1 (h.port p).length)) ++
    [(base + 0x8410, leSplit 8 h.stream.length), (base + 0x8420, h.stream)]

/-- The runs of held chain `k`, when it is bound. -/
def chainRuns (c : Ctx) (k : Nat) : List (Nat × List Byte) :=
  match c.chains[k]? with
  | none => []
  | some h =>
    if h.bound then
      (List.range 5).flatMap (fun i => stripRuns (h.strip i) (0x1_0000 + 0x1_0000 * k + 0x3000 * i)) ++ portRuns h (0x7C_0000 + 0x9000 * k)
    else []

/-- Everything that the context-save engine writes. -/
def imageRuns (v : Die) (q : SeqSt) (l : Nat) (c : Ctx) (ver : Nat) : List (Nat × List Byte) :=
  (0, imgHeader v q c ver) :: (0x1000, (List.range 256).flatMap (fun n => leSplit 8 (semEntry v l c n))) ::
    ((if c.shape = 7 then [] else (List.range c.blocks.length).flatMap (bankRuns v c)) ++
      (List.range c.chains.length).flatMap (chainRuns c))

/-- The poisoned elements of the live rows of a fragment, as the runs that hold them in the image (20 R403). -/
def badRuns (v : Die) (c : Ctx) : List (Nat × List (Byte × Bool)) :=
  if c.shape = 7 then []
  else (List.range c.blocks.length).flatMap (fun b => (bankAt v c b).flatMap (fun r =>
    ((List.range 192).filter (fun k => r.2.ecc.getLsbD k)).map (fun k =>
      (0x10_0000 + 0x3_0000 * b + 768 * r.1 + 4 * k, (leSplit 4 (r.2.vals.getD k 0).toNat).map (fun x => (x, true))))))

/-- The image in its area, poisoned elements with their poison; nothing when the walker refuses a page. -/
def saveImage (y : Sys) (part base : Nat) (v : Die) (c : Ctx) (runs : List (Nat × List Byte)) : Option Sys :=
  (writeRuns y part base runs).map (fun y => (badRuns v c).foldl (fun y x => (intWrite y part (base + x.1) x.2).getD y) y)

/-! ## SAVE_COMPLETE (20 R412, 21 R424, R429) -/

/-- The slot of a context that has been saved; it is SAVING until SAVED is posted. -/
def savedSlot (y : Sys) (d l : Nat) (c : Ctx) : Slot :=
  let v := y.die d
  { st := .saving, fn := c.fn, node := c.node, inst := c.inst.toNat, shape := c.shape, sems := c.semMap.length - 1
    elapsed := c.elapsed, since := y.hub.now, order := (y.part c.part).suspended
    die := if c.semMap.any (semShared v l) then some d else none
    owned := c.blocks.mapIdx (fun k b => (k, d, b)), floor := c.floor, wdPart := c.wdCycles % 1024
    own := if c.grove.length ≤ 1 then none else some (d, l) }

/-- The links between a fragment and its sibling `n`, which is saved, are emptied, and a routing into it is the default again (09 R196). -/
def Ctx.unlinked (n : Nat) (k : Ctx) : Ctx :=
  let r (x : Routing) : Routing := if x = .link n then .dflt else x
  { k with links := merase k.links n, routing := r k.routing, iRouting := r k.iRouting
           chains := k.chains.map (fun (h : Chain) => { h with route := r h.route }) }

/-- The image is in the area: the slot owns the slices, and the claim goes back; SAVED follows (20 R412 steps 4 and 5). -/
def saved (d l sl : Nat) (y : Sys) : Sys :=
  let c := y.ctx d l
  let t := savedSlot y d l c
  let y := y.modPart c.part (fun p => { p with slots := mset p.slots sl t, suspended := p.suspended + 1 })
  let y := y.modDie d (fun v => { v with lateSaved := v.lateSaved ++ [(l, c.part, sl)] })
  let y := y.modDie d (fun v => (c.blocks.mapIdx (fun k b => (k, b))).foldl (fun v x =>
    { v with slices := mset v.slices x.2 { v.slice x.2 with owner := some (c.part, sl, x.1) } }) v)
  let y := modGrove d l (fun k => k.unlinked c.piece) (logEnd d l 1 0 y)
  if c.grove.length ≤ 1 then hubGo (freeGrove d l (endCtx d l y)) else hubGo (putAway d l y)

/-- SAVED with SUB 0 is posted, and the slot is SUSPENDED (21 R424); a slot that a reset has discarded posts nothing (21 R434). -/
def postSaved (d l part sl : Nat) (y : Sys) : Sys :=
  let y := y.modDie d (fun v => { v with lateSaved := v.lateSaved.erase (l, part, sl) })
  if ((y.part part).slot sl).st != .saving then y
  else
    hubGo (postEvent (y.modPart part (fun p => p.modSlot sl (fun t => { t with st := .suspended, since := y.hub.now }))) d 5 l 0 0 0)

/-- The walker refuses the area: the instance ends in error, and the slot stays SAVING until SAVED with SUB 1 is posted (21 R424). -/
def saveRefused (d l : Nat) (y : Sys) : Sys := quiesce y d l cCopyFault savedRefused

/-- SAVE_COMPLETE: every issued entry has retired, and the claim goes back; then SAVED is posted. A save whose slot a reset has discarded is
abandoned (21 R434). -/
def saveStep (d l : Nat) (y : Sys) : Sys :=
  let c := y.ctx d l
  match (y.die d).lateSaved.find? (fun x => x.1 == l) with
  | some x => postSaved d l x.2.1 x.2.2 y
  | none =>
  if c.st == .saving && c.entries.isEmpty && !(y.part c.part).resetting then
    match (y.part c.part).slotAt c.area.toNat with
    | none => y
    | some sl =>
      if ((y.part c.part).slot sl).st != .saving then y
      else match saveImage y c.part c.area.toNat (y.die d) c (imageRuns (y.die d) (y.seq ⟨d, some l⟩) l c 1) with
      | some y => saved d l sl y
      | none => saveRefused d l y
  else y

def execSaveComplete (die ctx : Nat) (s : State) : Host.Outcome State Fault Refusal := runEv s (saveStep die ctx)

/-! ## The checks of a restore (20 R413, 21 R431) -/

/-- Word `j` of a header. -/
def wordAt (bs : List Byte) (j : Nat) : Nat := leNat ((bs.drop (8 * j)).take 8)

/-- Reserved bits of header word `j`, outside the walks. -/
def headReserved (j : Nat) : Nat :=
  if j = 0 then maskBits 56 64 + maskBits 24 30 + maskBits 16 20 + maskBits 0 8
  else if j = 1 then maskBits 19 24 + maskBits 15 16 + maskBits 4 6
  else if j = 5 then (crInfo 0x14).rsv
  else if j = 6 then (crInfo 0x17).rsv
  else if j = 8 then (crInfo 0x03).rsv
  else if j = 9 then (crInfo 0x06).rsv
  else if j = 10 then (crInfo 0x07).rsv
  else if j = 11 then (crInfo 0x09).rsv
  else if 26 ≤ j && j < 32 then maskBits 0 64
  else if 128 ≤ j && j < 136 then (crInfo 0x30).rsv
  else if 136 ≤ j && j < 144 then (crInfo 0x38).rsv
  else 0

/-- The walk of register `n` in a header. -/
def walkAt (bs : List Byte) (n : Nat) : Option Walk := walkOf ((bs.drop (0x200 + 64 * n)).take 64)

/-- The header fits the claim, and no reserved bit is set. -/
def headGood (c : Ctx) (bs : List Byte) : Bool :=
  let w := wordAt bs 0
  bitsOf w 8 8 == 1 && bitsOf w 20 4 == c.shape && bitsOf w 36 3 == c.chains.length && bitsOf w 39 3 == c.copies.length &&
    decide (bitsOf w 48 8 + 1 ≤ c.semMap.length) &&
    (List.range 144).all (fun j => wordAt bs j &&& headReserved j == 0) &&
    (List.range 8).all (fun n => (walkAt bs n).isSome)

/-- Reserved bits of a semaphore entry, and of a mode word. -/
def semGood (w : Nat) : Bool := bitsOf w 61 2 == 0 && bitsOf w 17 31 == 0
def modeGood (w : Nat) : Bool := bitsOf w 1 3 == 0 && bitsOf w 11 5 == 0 && w / 2 ^ 21 == 0

/-! ## What a restore reads -/

/-- Every element, or none when one is missing. -/
def allSome {α β : Type} (f : α → Option β) : List α → Option (List β)
  | [] => some []
  | a :: t =>
    match f a, allSome f t with
    | some b, some r => some (b :: r)
    | _, _ => none

/-- The elements of a row that hold a poisoned byte. -/
def eccOf (x : List (Byte × Bool)) : BitVec 192 :=
  BitVec.ofNat 192 (((List.range 192).filter (fun k => ((x.drop (4 * k)).take 4).any (·.2))).foldl (fun n k => n + 2 ^ k) 0)

/-- A bank, read back. -/
def readBank (y : Sys) (part base b : Nat) : Option (Map BankRow) :=
  match readRun y part base (0x1800 + 32 * b) 32 with
  | none => none
  | some m =>
    allSome (fun r =>
      match readRun y part base (0x8_0000 + 0x1800 * b + 24 * r) 24, readMarked y part base (0x10_0000 + 0x3_0000 * b + 768 * r) 768 with
      | some z, some x => some (r, ({ vals := bytesToBeat (x.map (·.1)), pz := BitVec.ofNat 192 (leNat z), ecc := eccOf x } : BankRow))
      | _, _ => none) ((List.range 256).filter (fun r => bitOf (leNat m) r))

/-- A strip, from its bytes. -/
def stripOf (bs : List Byte) : Strip :=
  let at_ (o n : Nat) : List Byte := (bs.drop o).take n
  let m := leNat (at_ 0x2E20 8)
  { v := (List.range 14).map (fun i => (i, bytesToBeat (at_ (768 * i) 768)))
    p := (List.range 12).map (fun i => (i, BitVec.ofNat 192 (leNat (at_ (0x2A00 + 24 * i) 24))))
    shp := bitsOf m 4 4, ftz := bitOf m 0, lg := 192 * bitsOf m 8 3, sr := bytesToBeat (at_ 0x2B20 768)
    flags := BitVec.ofNat 5 (m / 2 ^ 16) }

/-- A bound chain, read back on physical chain `phys`; every routing is the default (09 R196). -/
def readChain (y : Sys) (part base k phys : Nat) : Option (Bool × Chain) :=
  let pb := 0x7C_0000 + 0x9000 * k
  match allSome (fun i => readRun y part base (0x1_0000 + 0x1_0000 * k + 0x3000 * i) 0x2E28) (List.range 5),
      readRun y part base (pb + 0x8400) 0x20 with
  | some ss, some t =>
    let count (p : Nat) : Nat := min portDepth (leNat ((t.drop p).take 1))
    let n := min 767 (leNat ((t.drop 0x10).take 8))
    match allSome (fun p => (readRun y part base (pb + 0xC00 * p) (768 * count p)).map (fun bs =>
        (List.range (count p)).map (fun i => bytesToBeat ((bs.drop (768 * i)).take 768)))) (List.range 11),
        readRun y part base (pb + 0x8420) n with
    | some ports, some stream =>
      some (ss.all (fun s => modeGood (leNat (s.drop 0x2E20))),
        { phys := phys, bound := true, iBound := true, stream := stream
          strips := Vector.ofFn (fun i : Fin 5 => stripOf (ss.getD i.val []))
          ports := Vector.ofFn (fun i : Fin 11 => ports.getD i.val [])
          outTo := (ports.getD 10 []).map (fun _ => (Routing.dflt, 0)) })
    | _, _ => none
  | _, _ => none

/-- Slice `k` of a slot's area. -/
def readSlice (y : Sys) (part sl k : Nat) : Option Slice :=
  match bulkFrames y part (sliceArea (y.part part) sl k) Config.sliceBytes .rd with
  | none => none
  | some ls => some (((List.range ls.length).zip ls).foldl (fun s x =>
      let m := y.memDie x.2.fdie
      { s with mem := copyIn s.mem (sliceOut m.mem x.2.pa (x.2.pa + 2 ^ 16)) (2 ^ 16 * x.1) (2 ^ 16)
               poison := ((m.poison.filter (fun p => x.2.pa ≤ p && p < x.2.pa + 2 ^ 16)).map (fun p => p - x.2.pa + 2 ^ 16 * x.1)).foldl
                 sinsert s.poison }) {})

/-- Slice `k` of the resumption goes to its block: what the slot still owns there stays, a spilled one is read (21 R431). -/
def restoreSlice (d part sl : Nat) (x : Nat × Nat) (y : Sys) : Option Sys :=
  if ((y.part part).slot sl).owned.any (fun o => o.1 == x.1) then
    some ((y.modDie d (fun v => { v with slices := mset v.slices x.2 { v.slice x.2 with owner := none } })).modPart part
      (fun p => p.modSlot sl (fun t => { t with owned := t.owned.filter (fun o => o.1 != x.1) })))
  else (readSlice y part sl x.1).map (fun s => y.modDie d (fun v =>
    { v with slices := mset v.slices x.2 { s with lastFn := (v.slice x.2).lastFn, last := (v.slice x.2).last } }))

def restoreSlices (d part sl : Nat) : List (Nat × Nat) → Sys → Option Sys
  | [], y => some y
  | x :: t, y =>
    match restoreSlice d part sl x y with
    | none => none
    | some y => restoreSlices d part sl t y

/-! ## RESTORE_COMPLETE -/

/-- The slot at a context's area is the one it was granted for, and its `crest` has moved it to RESTORING. -/
def restoresSlot (y : Sys) (c : Ctx) (sl : Nat) : Bool :=
  (y.part c.part).slotAt c.area.toNat == some sl && ((y.part c.part).slot sl).st == .restoring && slotIsFor c ((y.part c.part).slot sl)

/-- A restore that fails: the context stays READY, the granted slot SUSPENDED. -/
def restoreFailed (d l sub : Nat) (y : Sys) : Sys :=
  let c := y.ctx d l
  let y := match c.slot with
    | some sl => if restoresSlot y c sl then y.modPart c.part (fun p => p.modSlot sl (fun t => { t with st := .suspended })) else y
    | none => y
  postEvent (y.modCtx d l (fun c => { c with st := .ready })) d 6 l sub 0 0

/-- The sequencer's registers from a header. -/
def restoreSeq (bs : List Byte) (q : SeqSt) : SeqSt :=
  let w (j : Nat) : Word := BitVec.ofNat 64 (wordAt bs j)
  { q with
    g := Vector.ofFn (fun k : Fin 32 => if k.val = 0 then 0 else w (31 + k.val))
    tags := BitVec.ofNat 32 (wordAt bs 8) &&& ~~~1
    walks := Vector.ofFn (fun n : Fin 8 => (walkAt bs n.val).getD {})
    trapPc0 := w 2, trapPc1 := w 3, trapPc2 := w 4, trapAnn := w 5, trapNstat := w 6, trapNtop := w 7 }

/-- The timelines of a header. -/
def restoreQueues (bs : List Byte) (c : Ctx) : Map EQueue :=
  let one (q : Nat) : Nat × EQueue :=
    let t := wordAt bs (if q < 8 then 144 + q else 143 + q)
    (q, { iss := t, ret := t })
  c.queueCodes.map one

/-- The context's registers from a header; the partial unit of ELAPSED comes with the slot (14 R332). -/
def restoreRegs (bs : List Byte) (wd : Nat) (c : Ctx) : Ctx :=
  let w (j : Nat) : Nat := wordAt bs j
  let c := setCtxCr c 0x06 (BitVec.ofNat 64 (w 9))
  let p : Params := { mrows := bitsOf (w 24) 0 32, astr := bitsOf (w 24) 32 32, drows := bitsOf (w 25) 0 32, dstr := bitsOf (w 25) 32 32 }
  let r : Ranges := { vmb := Vector.ofFn (fun n : Fin 8 => BitVec.ofNat 64 (w (128 + n.val)))
                      vmi := Vector.ofFn (fun n : Fin 8 => BitVec.ofNat 64 (w (136 + n.val))) }
  { c with
    wdLimit := bitsOf (w 11) 8 24, wdEn := bitOf (w 11) 0, wdCycles := 1024 * bitsOf (w 11) 32 24 + wd, floor := w 12
    rslots := BitVec.ofNat 48 (w 13), bcyc := BitVec.ofNat 48 (w 14), gwait := BitVec.ofNat 48 (w 15)
    lsc := Vector.ofFn (fun n : Fin 8 => BitVec.ofNat 48 (w (16 + n.val))), params := p, ranges := r
    queues := restoreQueues bs c, restored := true, st := .ready, needSems := bitsOf (w 0) 48 8 + 1 }

/-- Counts of the private semaphores go into those that are mapped. -/
def restoreSems (bs : List Byte) (c : Ctx) (v : Die) : Die :=
  ((List.range 256).zip c.semMap).foldl (fun v x =>
    let e := leNat ((bs.drop (8 * x.1)).take 8)
    if bitOf e 63 then v
    else v.setSem x.2 { v.sem x.2 with count := bitsOf e 0 16, ovf := bitOf e 16, rel := some (0, 14, 0), tag := (c.ctag, x.1) }) v

/-- Everything read and in place: the state of the context, RESTORED, and the slot FREE. -/
def restored (d l sl : Nat) (hd se : List Byte) (banks : List (Map BankRow)) (chains : List Chain) (y : Sys) : Sys :=
  let c := y.ctx d l
  let wd := ((y.part c.part).slot sl).wdPart
  let n := bitsOf (wordAt hd 0) 48 8 + 1
  let y := y.modSeq ⟨d, some l⟩ (restoreSeq hd)
  let y := y.modDie d (fun v =>
    let v := restoreSems se { c with semMap := c.semMap.take n } v
    (c.blocks.zip banks).foldl (fun v x => { v with banks := mset v.banks x.1 x.2 }) v)
  let y := y.modCtx d l (fun c => { restoreRegs hd wd c with chains := chains })
  let y := y.modPart c.part (fun p => { p with slots := merase p.slots sl })
  let c := y.ctx d l
  let y := if c.load < c.floor then { y with gov := y.gov.openReq (.floor d l) } else y
  postEvent y d 6 l 0 0 0

/-- The chains of a restored context, with whether every mode word is well formed. -/
def readChains (y : Sys) (part base : Nat) (c : Ctx) (hd : List Byte) : Option (List (Bool × Chain)) :=
  allSome (fun k =>
    let phys := ((c.chains[k]?).map Chain.phys).getD 0
    if bitOf (wordAt hd 0) (30 + k) then readChain y part base k phys else some (true, { phys := phys })) (List.range c.chains.length)

/-- The restore of the granted slot's image; a refused spill of a slice that it owns elsewhere holds it (21 R429, R431). -/
def restoreFrom (d l sl : Nat) (y : Sys) : Sys :=
  let c := y.ctx d l
  let base := c.area.toNat
  match readRun y c.part base 0 4096, readRun y c.part base 0x1000 2048 with
  | some hd, some se =>
    if !headGood c hd || !(List.range 256).all (fun n => semGood (leNat ((se.drop (8 * n)).take 8))) then restoreFailed d l 2 y
    else
      match allSome (readBank y c.part base) (if c.shape = 7 then [] else List.range c.blocks.length), readChains y c.part base c hd with
      | some banks, some cs =>
        if !cs.all (·.1) then restoreFailed d l 2 y
        else match spillOwned c.part sl (strayed y c.part (some sl) d c.shape c.lead) y with
          | (y, false) => fwInterrupt y 3
          | (y, true) =>
            match restoreSlices d c.part sl (c.blocks.mapIdx (fun k b => (k, b))) y with
            | some y => restored d l sl hd se banks (cs.map (·.2)) y
            | none => restoreFailed d l 1 y
      | _, _ => restoreFailed d l 1 y
  | _, _ => restoreFailed d l 1 y

/-- RESTORE_COMPLETE: an area that is not the granted slot's is a mismatch; a restore whose slot a reset has discarded is abandoned
(21 R434). -/
def restoreStep (d l : Nat) (y : Sys) : Sys :=
  let c := y.ctx d l
  if c.st != .restoring || (y.part c.part).resetting then y
  else match c.slot with
    | none => restoreFailed d l 2 y
    | some sl =>
      if restoresSlot y c sl then restoreFrom d l sl y
      else if ((y.part c.part).slot sl).st == .free && (y.part c.part).slotAt c.area.toNat == some sl then y
      else restoreFailed d l 2 y

def execRestoreComplete (die ctx : Nat) (s : State) : Host.Outcome State Fault Refusal := runEv s (restoreStep die ctx)

end Sys2Proof.Machine
end

