-- ==== Sys2Proof/Machine/Queues.lean ====
section
/-! DEFINITION. What the host does to a function: its queues and notifies (14 R310 to R313, 17 R367), its interrupt status (24 R460) and its
watches (24 R461). -/

namespace Sys2Proof.Machine

/-- An event of the hub that depends on the platform. -/
def runPlat (s : State) (f : Platform → Sys → Sys) : Host.Outcome State Fault Refusal := .next { s with sys := f s.plat s.sys }

/-- An event of the platform: it changes both. -/
def runPlatState (s : State) (f : Platform → Sys → Platform × Sys) : Host.Outcome State Fault Refusal :=
  .next { s with plat := (f s.plat s.sys).1, sys := (f s.plat s.sys).2 }

/-- The function and queue exist (14 R310, 24 R457). -/
def queueExists (f q : Nat) : Bool := f < Config.functions && q < Config.queuesPerFn

/-! ## QCFG (14 R311) -/

/-- QCFG as the host reads it. -/
def qcfgWord (u : HQueue) : Word :=
  BitVec.ofNat 64 (u.en.toNat * 2 ^ 63 + u.host.toNat * 2 ^ 57 + u.log2n % 32 * 2 ^ 52 + u.wt % 256 * 2 ^ 44 + u.age % 256 * 2 ^ 32 +
    u.qwd % 256 * 2 ^ 24)

/-- The KIND CFG error. -/
def cfgError (f q : Nat) (y : Sys) : Sys := postErr f q eCfg 0 0 0 y

/-- EN goes from 0 to 1 with these host fields: the ring starts empty. -/
def enableQueue (f q : Nat) (host : Bool) (n : Nat) (y : Sys) : Sys :=
  (y.modQueue f q (fun u => { u with host := host, log2n := n, en := true, head := u.tail })).modFn f (fun v => { v with afterReset := false })

/-- A host write of QCFG. A queue is enabled only while READY (24 R458), and never in the safe state (24 R471). -/
def writeQcfg (pl : Platform) (f q : Nat) (v : Word) (y : Sys) : Sys :=
  let u := (y.fn f).queue q
  let en := v.getLsbD 63
  let host := v.getLsbD 57
  let n := bitsOf v.toNat 52 5
  if !queueExists f q || (y.fn f).flr then y
  else if u.en then
    if host != u.host || n != u.log2n then cfgError f q y else y.modQueue f q (fun u => { u with en := en })
  else if n = 0 || 16 < n then cfgError f q y
  else if !en then y.modQueue f q (fun u => { u with host := host, log2n := n })
  else if !pl.ready || pl.safe then cfgError f q y
  else enableQueue f q host n y

/-- The write when it takes EN from `was` to `now`. -/
def qcfgEvent (was now : Bool) (f q : Nat) (v : Word) (pl : Platform) (y : Sys) : Sys :=
  if ((y.fn f).queue q).en = was && v.getLsbD 63 = now then writeQcfg pl f q v y else y

/-- QUEUE_ENABLE. -/
def execQueueEnable (f q : Nat) (v : Word) (s : State) : Host.Outcome State Fault Refusal := runPlat s (qcfgEvent false true f q v)

/-- QUEUE_DISABLE. -/
def execQueueDisable (f q : Nat) (v : Word) (s : State) : Host.Outcome State Fault Refusal := runPlat s (qcfgEvent true false f q v)

/-- QCFG_WRITE: a write that leaves EN as it is. -/
def execQcfgWrite (f q : Nat) (v : Word) (s : State) : Host.Outcome State Fault Refusal :=
  runPlat s (fun pl y => if ((y.fn f).queue q).en = v.getLsbD 63 then writeQcfg pl f q v y else y)

/-- A host write of QBASE (14 R311). -/
def writeQbase (f q : Nat) (v : Word) (y : Sys) : Sys :=
  let u := (y.fn f).queue q
  if (y.fn f).flr then y
  else if bitsOf v.toNat 0 12 != 0 || (u.en && v != u.qbase) then cfgError f q y
  else y.modQueue f q (fun u => { u with qbase := v })

/-! ## NOTIFY (14 R312, 17 R367) -/

/-- A notify is dropped and counted. -/
def dropNotify (f : Nat) (y : Sys) : Sys :=
  y.modFn f (fun v => { v with drop := if v.drop = BitVec.allOnes 48 then v.drop else v.drop + 1 })

/-- The new tail: the logged one in a replay of host input (23 R452). -/
def notifyTail (y : Sys) (f q : Nat) (v : Word) : BitVec 32 :=
  match (if (y.fn f).map then (y.part (y.fn f).part).logged (.notify f q 0) else none) with
  | some (.notify _ _ t) => BitVec.ofNat 32 t
  | _ => v.truncate 32

/-- The queue takes the new tail; a tail too far ahead is an error and clears EN. -/
def takeTail (f q : Nat) (t : BitVec 32) (y : Sys) : Sys :=
  let y := y.modQueue f q (fun u => { u with tail := t })
  let u := (y.fn f).queue q
  if 2 ^ u.log2n < (t - u.head).toNat then postErr f q eNotify 0 0 0 (y.modQueue f q (fun u => { u with en := false })) else y

def notifyStep (f q : Nat) (v : Word) (y : Sys) : Sys :=
  if !queueExists f q then y
  else if !((y.fn f).queue q).en then dropNotify f y
  else
    let t := notifyTail y f q v
    if (y.fn f).map then gated y (y.fn f).part (.notify f q t.toNat) (takeTail f q t) else takeTail f q t y

/-- NOTIFY. -/
def execNotify (f q : Nat) (v : Word) (s : State) : Host.Outcome State Fault Refusal := runEv s (notifyStep f q v)

/-! ## Clears (14 R313, 17 R367, 24 R460) -/

/-- A write to QERR clears ERR and OVR where it holds 1. -/
def qerrClearStep (f q : Nat) (v : Word) (y : Sys) : Sys :=
  if !queueExists f q || (y.fn f).flr then y
  else y.modQueue f q (fun u => { u with qerr := u.qerr &&& ~~~(v &&& 0xC000_0000_0000_0000) })

/-- QERR_CLEAR. -/
def execQerrClear (f q : Nat) (v : Word) (s : State) : Host.Outcome State Fault Refusal := runEv s (qerrClearStep f q v)

def qerrnClearStep (f q : Nat) (y : Sys) : Sys :=
  if !queueExists f q || (y.fn f).flr then y else y.modQueue f q (fun u => { u with qerrn := 0 })

/-- QERRN_CLEAR: any write. -/
def execQerrnClear (f q : Nat) (_ : Word) (s : State) : Host.Outcome State Fault Refusal := runEv s (qerrnClearStep f q)

def dropClearStep (f : Nat) (y : Sys) : Sys := if f < Config.functions then y.modFn f (fun v => { v with drop := 0 }) else y

/-- VF_DROP_CLEAR: any write. -/
def execVfDropClear (f : Nat) (_ : Word) (s : State) : Host.Outcome State Fault Refusal := runEv s (dropClearStep f)

/-- A message still pending for a cleared bit is not sent any more (log entry 109). -/
def istatClearStep (f : Nat) (v : Word) (y : Sys) : Sys :=
  if f < Config.functions then
    y.modFn f (fun g => { g with istat := g.istat &&& ~~~(v.truncate 5), msix := { g.msix with pend := g.msix.pend &&& ~~~(v.truncate 5) } })
  else y

/-- ISTAT_CLEAR. -/
def execIstatClear (f : Nat) (v : Word) (s : State) : Host.Outcome State Fault Refusal := runEv s (istatClearStep f v)

/-! ## Watches (24 R461) -/

def Fn.watch (v : Fn) (k : Nat) : Watch := mgetD v.watches k {}
def Fn.setWatch (v : Fn) (k : Nat) (w : Watch) : Fn := { v with watches := mset v.watches k w }

/-- Arming: the object's place, and the first evaluation. -/
def armWatch (f k : Nat) (y : Sys) : Sys :=
  let g := y.fn f
  let w := { g.watch k with fired := false, xerr := false }
  match (if g.map then hubXlate y f g.part w.a .rd else .error xfRange) with
  | .error _ => y.modFn f (fun g => g.setWatch k { w with xerr := true, en := false })
  | .ok l =>
    let y := y.modFn f (fun g => g.setWatch k { w with en := true, at_ := some (l.fdie, l.pa) })
    if atMost (objValue y l.fdie l.pa) w.t then y.modFn f (fun g => fireWatch g k) else y

def watchArmStep (f k : Nat) (v : Word) (y : Sys) : Sys :=
  if f < Config.functions && k < 4 && v.getLsbD 0 && !((y.fn f).watch k).en then armWatch f k y else y

/-- WATCH_ARM. -/
def execWatchArm (f k : Nat) (v : Word) (s : State) : Host.Outcome State Fault Refusal := runEv s (watchArmStep f k v)

def watchDisarmStep (f k : Nat) (v : Word) (y : Sys) : Sys :=
  if f < Config.functions && k < 4 && !v.getLsbD 0 then y.modFn f (fun g => g.setWatch k { g.watch k with en := false }) else y

/-- WATCH_DISARM. -/
def execWatchDisarm (f k : Nat) (v : Word) (s : State) : Host.Outcome State Fault Refusal := runEv s (watchDisarmStep f k v)

/-- A write of WATCHk_A or WATCHk_T, ignored while EN = 1. -/
def writeWatchA (f k : Nat) (v : Word) (y : Sys) : Sys :=
  y.modFn f (fun g => if (g.watch k).en then g else g.setWatch k { g.watch k with a := v &&& 0xFFFF_FFFF_FFFF_FFF8 })

def writeWatchT (f k : Nat) (v : Word) (y : Sys) : Sys :=
  y.modFn f (fun g => if (g.watch k).en then g else g.setWatch k { g.watch k with t := v })

end Sys2Proof.Machine
end

