-- ==== Sys2Proof/Machine/Mailbox.lean ====
section
/-! DEFINITION. The management mailbox (24 R462), DEVSTAT (24 R458), the answers of the firmware (24 R473, R474), and the placing of an image
(03 R85, R86). -/

namespace Sys2Proof.Machine

/-! ## DEVSTAT (24 R458) -/

def servingArrays (y : Sys) : Nat := ((List.range 8).filter (fun d => (y.die d).inSvc)).length
def servingStreams (y : Sys) : Nat := ((List.range 4).filter (fun d => (y.die (8 + d)).inSvc)).length
def servingMems (y : Sys) : Nat := ((List.range 12).filter (fun m => (y.memDie m).inSvc)).length

def devstat (pl : Platform) (y : Sys) : Word :=
  BitVec.ofNat 64 (pl.phase % 16 * 2 ^ 60 + pl.safe.toNat * 2 ^ 59 + pl.ready.toNat * 2 ^ 58 + servingArrays y * 2 ^ 44 +
    servingStreams y * 2 ^ 40 + servingMems y * 2 ^ 36)

/-- The service bits of DIES: array [7:0], stream [11:8] and memory [23:12]. -/
def serviceBits (y : Sys) : Nat :=
  (List.range 12).foldl (fun a d => a + (y.die d).inSvc.toNat * 2 ^ d + (y.memDie d).inSvc.toNat * 2 ^ (12 + d)) 0

/-! ## Commands -/

/-- Size of MB_DATA. -/
def mbBytes : Nat := 3840

/-- A write of MB_CMD: with bit 63 the command is passed to the firmware; ignored while BUSY. -/
def mbCommand (v : Word) (y : Sys) : Sys :=
  if y.hub.mbBusy then y
  else y.modHub (fun h => { h with mbCmd := v, mbBusy := v.getLsbD 63 })

/-- Bytes of a request, written before the command. -/
def mbRequest (bs : List Byte) (y : Sys) : Sys :=
  if y.hub.mbBusy then y else y.modHub (fun h => { h with mbData := wrBytes h.mbData 0 (bs.take mbBytes) })

def mbSend (code : Nat) (bs : List Byte) (y : Sys) : Sys := mbCommand (BitVec.ofNat 64 (2 ^ 63 + code)) (mbRequest bs y)

/-- DIES. -/
def execDies (s : State) : Host.Outcome State Fault Refusal := runEv s (mbSend 1 [])

/-- SELFTEST. -/
def execSelftest (s : State) : Host.Outcome State Fault Refusal := runEv s (mbSend 2 [])

/-- ATTEST, with its 48-byte nonce. -/
def execAttest (nonce : List Byte) (s : State) : Host.Outcome State Fault Refusal := runEv s (mbSend 3 (nonce.take 48))

/-- WEAR. -/
def execWear (s : State) : Host.Outcome State Fault Refusal := runEv s (mbSend 4 [])

/-- LOADIMG: function number, host address and length. -/
def execLoadimg (f addr len : Word) (s : State) : Host.Outcome State Fault Refusal :=
  runEv s (mbSend 5 (leSplit 8 f.toNat ++ leSplit 8 addr.toNat ++ leSplit 8 len.toNat))

/-! ## Wear and attestation (24 R473, R474) -/

/-- The wear counters in the order of the table: five bins of each of the four die classes (01 R10), power-ups, ramps. -/
def wearWords (pl : Platform) : List Nat :=
  (List.range 20).map (fun k => (mgetD pl.thermal k 0).toNat) ++ [pl.powerUps.toNat, pl.ramps.toNat]

def wearBytes (pl : Platform) : List Byte := (wearWords pl).flatMap (leSplit 8)

/-- LMS indices of the device attestation key. -/
def lmsIndices : Nat := 2 ^ 20

/-- The free words that stand for the measurements and the security version where no bundle has been accepted. -/
def measureWords : Nat := 19

/-- The measurements and the security version: those of the bundle accepted; free without one, since the spec gives the monitor that answers
in the safe state then no other bundle to measure (log entry 110). -/
def measured (pl : Platform) (used : Nat) : List Byte :=
  match pl.bundle with
  | some b => leSplit 48 b.monitorSha.toNat ++ leSplit 48 b.schedulerSha.toNat ++ leSplit 48 b.stewardSha.toNat ++ leSplit 8 b.secver
  | none => (List.range measureWords).flatMap (fun i => leSplit 8 (Config.freeWord (used + i)).toNat)

/-- The report's fields before its two signatures. -/
def reportFields (pl : Platform) (y : Sys) : List Byte :=
  rdBytes y.hub.mbData 0 48 ++ measured pl y.used ++ leSplit 8 (serviceBits y) ++ wearBytes pl ++ leSplit 8 pl.lmsUsed

/-- Bytes of an ECDSA P-384 signature. -/
def ecdsaBytes : Nat := 96

/-- The bytes hold both signatures: an ECDSA one, and an LMS one after it. -/
def bothSigned (bytes : List Byte) : Bool := decide (ecdsaBytes < bytes.length)

/-! ## Self-test (24 R462, R471) -/

/-- The 16-byte entry of a failing unit: class, index, unit and test code, four bytes each (log entry 110). -/
def testEntry (u : Nat × Nat × Nat × Nat) : List Byte := leSplit 4 u.1 ++ leSplit 4 u.2.1 ++ leSplit 4 u.2.2.1 ++ leSplit 4 u.2.2.2

/-- The entries, as many as MB_DATA holds. -/
def testEntries (pl : Platform) : List Byte := (pl.failedTests.take (mbBytes / 16)).flatMap testEntry

/-! ## Images (03 R85, R86) -/

/-- A field of `n` bytes at `o`. -/
def elfFld (bs : List Byte) (o n : Nat) : Nat := leNat ((bs.drop o).take n)

/-- The checks of 03 R85 on the header, with an ELF64 header and program headers. -/
def elfGood (bs : List Byte) : Bool :=
  64 ≤ bs.length && elfFld bs 0 4 == 0x464C457F && elfFld bs 4 1 == 2 && elfFld bs 5 1 == 1 && elfFld bs 16 2 == 2 &&
    elfFld bs 18 2 == 0xC7A2 && elfFld bs 48 4 == 1 && elfFld bs 54 2 == 56 &&
    elfFld bs 32 8 + 56 * elfFld bs 56 2 ≤ bs.length

/-- A segment to place: virtual address, size in memory, bytes, X and W. -/
structure Load where
  addr : Nat
  size : Nat
  bytes : List Byte
  x : Bool
  w : Bool

/-- The PT_LOAD segments of an image. -/
def elfLoads (bs : List Byte) : List Load :=
  (List.range (elfFld bs 56 2)).filterMap (fun k =>
    let o := elfFld bs 32 8 + 56 * k
    if elfFld bs o 4 = 1 then
      some { addr := elfFld bs (o + 16) 8, size := elfFld bs (o + 40) 8, bytes := (bs.drop (elfFld bs (o + 8) 8)).take (elfFld bs (o + 32) 8)
             x := bitOf (elfFld bs (o + 4) 4) 0, w := bitOf (elfFld bs (o + 4) 4) 1 }
    else none)

/-- Every segment lies in the file and in the address space. -/
def loadsGood (bs : List Byte) : Bool :=
  (List.range (elfFld bs 56 2)).all (fun k =>
    let o := elfFld bs 32 8 + 56 * k
    elfFld bs o 4 != 1 ||
      (elfFld bs (o + 8) 8 + elfFld bs (o + 32) 8 ≤ bs.length && elfFld bs (o + 32) 8 ≤ elfFld bs (o + 40) 8 &&
        elfFld bs (o + 16) 8 + elfFld bs (o + 40) 8 ≤ 2 ^ 56))

/-- Channels of a partition on the dies of its map, by memory die and channel, that have a free frame. -/
def frameChans (y : Sys) (part : Nat) : List (Nat × Nat) :=
  let p := y.part part
  ((List.range p.nvd).filterMap p.vdie).flatMap (fun m =>
    ((List.range 32).filter (fun c => (y.memDie m).inSvc && y.ownsChan part m c &&
      ((y.memDie m).frames.filter (fun f => f.1 / 2 ^ 15 == c)).length < 2 ^ 15)).map (fun c => (m, c)))

/-- A free frame of one of these channels: the firmware's choice. -/
def pickFrame (l : List (Nat × Nat)) (y : Sys) : Option (Sys × Nat × Nat) :=
  match chooseFrom y l with
  | (_, none) => none
  | (y, some (m, c)) =>
    match chooseFrom y ((List.range (2 ^ 15)).filter (fun k => frameState (y.memDie m) (2 ^ 15 * c + k) == .free)) with
    | (_, none) => none
    | (y, some k) => some (y, m, 2 ^ 16 * (2 ^ 15 * c + k))

/-- Give the partition's table memory on a die another frame, as ADDT does. -/
def addTable (part md : Nat) (y : Sys) : Option Sys :=
  (pickFrame ((frameChans y part).filter (fun x => x.1 == md)) y).map (fun r => r.1.modMem md (fun m =>
    { setFrames r.2.2 false (.table part) m with
      tabFree := mset m.tabFree part (mgetD m.tabFree part [] ++ (List.range 16).map (fun i => r.2.2 + 4096 * i)) }))

/-- The place of a page's leaf, with table memory added when it is short. -/
def loadPlace (part md off : Nat) (y : Sys) : Option (Sys × Nat) :=
  match leafPlace (y.memDie md) part off false with
  | some (m, a) => some (y.setMem md m, a)
  | none =>
    match addTable part md y with
    | none => none
    | some y => (leafPlace (y.memDie md) part off false).map (fun r => (y.setMem md r.1, r.2))

/-- Map one page at `ia`, its bytes in place; the lease class is the firmware's choice. -/
def placePage (part ia : Nat) (w : Bool) (bs : List (Nat × Byte)) (y : Sys) : Option Sys :=
  match (y.part part).vdie (ia / 2 ^ 44) with
  | none => none
  | some md =>
    match pickFrame (frameChans y part) y with
    | none => none
    | some (y, fd, pa) =>
      let y := y.modMem fd (setFrames pa false .mapped)
      match loadPlace part md (ia % 2 ^ 44) y with
      | none => none
      | some (y, a) =>
        let lc := Config.choose y.used 8 % 8
        let y := { y with used := y.used + 1 }
        let y := y.modMem md (fun m => put64 m a (leafEntry lc fd pa w false))
        some (bs.foldl (fun y b => y.modMem fd (fun m => memPut m (pa + b.1) [(b.2, false)])) y)

/-- The bytes of a segment that lie in the page that begins at virtual address `va`, zeros after the file's bytes. -/
def pageOf (s : Load) (va : Nat) : List (Nat × Byte) :=
  (List.range (2 ^ 16)).filterMap (fun i =>
    if s.addr ≤ va + i && va + i < s.addr + s.size then some (i, s.bytes.getD (va + i - s.addr) 0) else none)

/-- Pages `k` and on of a segment, `n` of them. -/
def placePages (part lo ia : Nat) (s : Load) : Nat → Nat → Sys → Option Sys
  | 0, _, y => some y
  | n + 1, k, y =>
    let va := lo + 2 ^ 16 * k
    let here := va < s.addr + s.size && s.addr < va + 2 ^ 16
    match (if here then placePage part (ia + 2 ^ 16 * k) s.w (pageOf s va) y else some y) with
    | none => none
    | some y => placePages part lo ia s n (k + 1) y

/-- `n` pages of 2 MiB in a row from page `b` of a memory die's offsets are not mapped. -/
def spaceFree (y : Sys) (part md b n : Nat) : Bool :=
  b + n ≤ 2 ^ 23 && (List.range n).all (fun i => !rangeMapped (y.memDie md) part (2 ^ 21 * (b + i)) true)

/-- Intermediate space for a segment: the firmware's choice. -/
def pickSpace (part n : Nat) (y : Sys) : Option (Sys × Nat) :=
  let p := y.part part
  let all := (List.range p.nvd).filterMap (fun k => (p.vdie k).map (fun md => (k, md)))
  let open_ := all.flatMap (fun x => ((List.range (2 ^ 23)).filter (fun b => spaceFree y part x.2 b n)).map (fun b => 2 ^ 44 * x.1 + 2 ^ 21 * b))
  match chooseFrom y open_ with
  | (_, none) => none
  | (y, some a) => some (y, a)

/-- Free range registers of a function. -/
def freeRanges (v : Fn) : List Nat := (List.range 8).filter (fun k => !bitOf (vgetD v.ranges.vmb k 0).toNat 3)

/-- Place one segment and enter its range (03 R86). -/
def placeLoad (f : Nat) (s : Load) (y : Sys) : Option Sys :=
  let part := (y.fn f).part
  let lo := s.addr / 2 ^ 21 * 2 ^ 21
  let n := max 1 ((s.addr + s.size - lo + (2 ^ 21 - 1)) / 2 ^ 21)
  match chooseFrom y (freeRanges (y.fn f)) with
  | (_, none) => none
  | (y, some r) =>
    match pickSpace part n y with
    | none => none
    | some (y, ia) =>
      let perm := 1 + 2 * s.w.toNat + 4 * s.x.toNat
      (placePages part lo ia s (32 * n) 0 y).map (fun y => y.modFn f (fun v => { v with ranges :=
        { vmb := v.ranges.vmb.setIfInBounds r (BitVec.ofNat 64 (lo + 8 + perm))
          vmi := v.ranges.vmi.setIfInBounds r (BitVec.ofNat 64 ((n - 1) * 2 ^ 37 + ia / 2 ^ 21)) } }))

def placeLoads (f : Nat) : List Load → Sys → Option Sys
  | [], y => some y
  | s :: t, y =>
    match placeLoad f s y with
    | none => none
    | some y => placeLoads f t y

/-- The function, host address and length of a LOADIMG request. -/
def imgFn (y : Sys) : Nat := leNat (rdBytes y.hub.mbData 0 2) % 512
def imgAddr (y : Sys) : Nat := leNat (rdBytes y.hub.mbData 8 8)
def imgLen (y : Sys) : Nat := leNat (rdBytes y.hub.mbData 16 8)

/-- The function is mapped to a partition. -/
def imgMapped (y : Sys) : Bool := imgFn y < Config.functions && (y.fn (imgFn y)).map

/-- LOADIMG at the firmware, with the image's bytes as the host port returned them. -/
def loadImage (bs : List Byte) (y : Sys) : Sys × Nat × List Byte :=
  let loads := elfLoads bs
  if !imgMapped y then (y, 2, [])
  else
    let z := y.modHub (fun h => { h with fwReads := h.fwReads ++ [(imgAddr y, imgLen y)] })
    if !elfGood bs || !loadsGood bs || 8 < loads.length then (z, 2, [])
    else match placeLoads (imgFn y) loads z with
      | none => (z, 4, [])
      | some z => (recheck z, 0, leSplit 8 loads.length)

/-! ## Answers (24 R462) -/

/-- The answer to the command: the state, RESULT and MB_DATA. `bytes` is what comes from outside the model: the signatures of a report, the
image of the length that the request gives; none without them. -/
def mbAnswer (pl : Platform) (bytes : List Byte) (y : Sys) : Option (Platform × Sys × Nat × List Byte) :=
  match bitsOf y.hub.mbCmd.toNat 0 16 with
  | 1 => some (pl, y, 0, leSplit 8 (devstat pl y).toNat ++ leSplit 8 (serviceBits y))
  | 2 => some (pl, y, 0, testEntries pl)
  | 3 =>
    if lmsIndices ≤ pl.lmsUsed then some (pl, y, 3, [])
    else if !bothSigned bytes then none
    else some ({ pl with lmsUsed := pl.lmsUsed + 1 }, { y with used := if pl.bundle.isNone then y.used + measureWords else y.used }, 0,
      reportFields pl y ++ bytes)
  | 4 => if pl.safe then some (pl, y, 1, []) else some (pl, y, 0, wearBytes pl)
  | 5 =>
    if pl.safe then some (pl, y, 1, [])
    else if imgMapped y && bytes.length != imgLen y then none
    else
      let (y, r, a) := loadImage bytes y
      some (pl, y, r, a)
  | _ => some (pl, y, 1, [])

/-- The firmware runs, or the monitor in the safe state. -/
def mbServed (pl : Platform) : Bool := pl.safe || 5 ≤ pl.phase

/-- MAILBOX_ANSWER: RESULT, LEN and MB_DATA, BUSY falls, and PF vector 0 is sent. -/
def execMailboxAnswer (bytes : List Byte) (s : State) : Host.Outcome State Fault Refusal :=
  .next (if !s.sys.hub.mbBusy || !mbServed s.plat then s
    else match mbAnswer s.plat bytes s.sys with
      | none => s
      | some (pl, y, r, a) =>
        if mbBytes < a.length then s
        else { s with plat := pl, sys := sendPf 0 (y.modHub (fun h =>
          { h with mbBusy := false, mbLen := a.length, mbResult := r, mbData := wrBytes h.mbData 0 a })) })

end Sys2Proof.Machine
end

