-- ==== Sys2Proof/Machine/Governor.lean ====
section
/-! DEFINITION. The package governor: its slow tier and cap (15 R337, R338), the grants of a tick (15 R336, R341 to R346), and what passes
with a tick everywhere: cycles and time (14 R332, 15 R335, R346, 18 R376, R378, R383, 23 R447, R455). -/

namespace Sys2Proof.Machine

/-! ## The registers (15 R337, R338) -/

/-- A write of GOV_UP or GOV_DN: the rate and the burst, the tokens refilled. -/
def writeRate (dn : Bool) (v : Word) (g : Gov) : Gov :=
  let rate := bitsOf v.toNat 32 24
  let burst := bitsOf v.toNat 0 16
  if dn then { g with dnRate := rate, dnBurst := burst, dnTok := burst * 2 ^ 32 }
  else { g with upRate := rate, upBurst := burst, upTok := burst * 2 ^ 32 }

/-- GOV_RATE_WRITE. -/
def execGovRateWrite (dn : Bool) (v : Word) (s : State) : Host.Outcome State Fault Refusal :=
  runEv s (fun y => { y with gov := writeRate dn v y.gov })

/-- A write of GOV_LIM; a PINWIN of 0 is ignored. -/
def writeLim (v : Word) (g : Gov) : Gov :=
  let pw := bitsOf v.toNat 16 16
  { g with lcap := bitsOf v.toNat 32 16, pinwin := if pw = 0 then g.pinwin else pw }

/-- GOV_LIM_WRITE. -/
def execGovLimWrite (v : Word) (s : State) : Host.Outcome State Fault Refusal :=
  runEv s (fun y => { y with gov := writeLim v y.gov })

/-- GOV_UP, GOV_DN and GOV_LIM as the host reads them. -/
def rateWord (rate burst : Nat) : Word := BitVec.ofNat 64 (rate % 2 ^ 24 * 2 ^ 32 + burst % 2 ^ 16)
def limWord (g : Gov) : Word := BitVec.ofNat 64 (g.lcap % 2 ^ 16 * 2 ^ 32 + g.pinwin % 2 ^ 16 * 2 ^ 16)

/-! ## Tokens -/

/-- The largest change of one boundary (15 R336). -/
def rampStep : Nat := 32

def addTokens (rate burst tok : Nat) : Nat := min (tok + rate * 2 ^ 32 / 5000000) (burst * 2 ^ 32)

def allowOf (rate tok : Nat) : Nat := if rate = 0 then rampStep else min rampStep (tok / 2 ^ 32)

def spendTokens (rate tok granted : Nat) : Nat := if rate = 0 then tok else tok - granted * 2 ^ 32

/-! ## Needs (15 R341) -/

/-- The die of a start's place code. -/
def startIs (k : Nat) (w : Start) : Bool := 64 * w.place.die + w.place.lead == k

/-- Weight that the entries of a queue wait for. -/
def queueNeed (y : Sys) (d l q : Nat) : Nat := sumWeight ((y.ctx d l).queue q).waiting

/-- Weight that older requests of the same context wait for. -/
def olderNeed (y : Sys) (d l q : Nat) : Nat :=
  ((y.gov.open_.takeWhile (fun r => r != .entry d l q)).map (fun r => match r with
    | .entry d' l' q' => if d' = d && l' = l && q' != q then queueNeed y d l q' else 0
    | _ => 0)).foldl (· + ·) 0

/-- What a request still needs. -/
def needOf (y : Sys) (r : GReq) : Nat :=
  match r with
  | .entry d l q => min (queueNeed y d l q) (olderNeed y d l q + queueNeed y d l q - (y.ctx d l).ballast)
  | .floor d l => if (y.ctx d l).isFree then 0 else (y.ctx d l).base - (y.ctx d l).load
  | .dfloor d => (y.die d).dfloor - (y.die d).pool
  | .start k => ((y.hub.starts.filter (startIs k)).map (·.need)).foldl (· + ·) 0
  | .gang g => ((y.hub.starts.filter (fun w => w.gang == some g)).map (·.need)).foldl (· + ·) 0
  | .fuse d l => (y.ctx d l).fuseNeed - (y.ctx d l).ballast

/-- Pinned starts come first (15 R348, R349). -/
def isPinned (y : Sys) (r : GReq) : Bool :=
  match r with
  | .start k => y.hub.starts.any (fun w => startIs k w && w.pinned)
  | .gang g => y.hub.starts.any (fun w => w.gang == some g && w.pinned)
  | _ => false

/-- The request is answered only within its window: a pinned one whose PINWIN has passed receives nothing more (15 R348, R349). -/
def inWindow (y : Sys) (r : GReq) : Bool :=
  let late (w : Start) : Bool := w.pinned && y.gov.pinNow * 1000 < w.age
  match r with
  | .start k => !y.hub.starts.any (fun w => startIs k w && late w)
  | .gang g => !y.hub.starts.any (fun w => w.gang == some g && late w)
  | _ => true

/-- A request of a die that draws no more (15 R345). -/
def reqDark (y : Sys) (r : GReq) : Bool :=
  match r with
  | .entry d _ _ | .floor d _ | .dfloor d | .fuse d _ => (y.die d).dark
  | .start k => (y.die (k / 64)).dark
  | .gang _ => false

/-- The request stays open: something is needed, or its entries have their weight and have not started, so that no younger entry takes it
(15 R340). -/
def stillOpen (y : Sys) (r : GReq) : Bool :=
  !reqDark y r && (match r with
  | .entry d l q => queueNeed y d l q != 0
  | _ => needOf y r != 0)

/-! ## Grants -/

/-- The state of one boundary: what may still rise, the room under the cap, and the grants by die. -/
structure Rise where
  y : Sys
  up : Nat
  room : Nat
  dies : Map Nat

/-- The largest grant to a die now: none to one that draws no more. -/
def Rise.most (t : Rise) (d need : Nat) : Nat :=
  if (t.y.die d).dark then 0 else min (min need t.up) (min t.room ((t.y.die d).risemax - mgetD t.dies d 0))

/-- Give `g` units to a die's holder. -/
def Rise.give (t : Rise) (d g : Nat) (f : Sys → Sys) : Rise :=
  if g = 0 then t else { y := f t.y, up := t.up - g, room := t.room - g, dies := mset t.dies d (mgetD t.dies d 0 + g) }

/-- A ramp slot of a context (15 R341), an event of its partition (23 R455). -/
def giveCtx (d l g : Nat) (y : Sys) : Sys :=
  countEvent (y.modCtx d l (fun c => { c with load := c.load + g, rslots := c.rslots + 1 })) (y.ctx d l).part 6 1

/-- A grant to one waiting start. -/
def giveStart (w : Start) (g : Nat) (y : Sys) : Sys :=
  countEvent (y.modHub (fun h => { h with
    starts := h.starts.replace w { w with granted := w.granted + g, need := w.need - g, rslots := w.rslots + 1 } })) w.part 6 1

/-- The starts of a request, one after another. -/
def riseStarts (l : List Start) (t : Rise) : Rise :=
  l.foldl (fun t w =>
    let g := t.most w.place.die w.need
    t.give w.place.die g (giveStart w g)) t

/-- The grant of one request. -/
def riseOne (t : Rise) (r : GReq) : Rise :=
  match r with
  | .entry d l _ | .floor d l | .fuse d l =>
    let g := t.most d (needOf t.y r)
    t.give d g (giveCtx d l g)
  | .dfloor d =>
    let g := t.most d (needOf t.y r)
    t.give d g (fun y => y.modDie d (fun v => { v with pool := v.pool + g }))
  | .start k => riseStarts (t.y.hub.starts.filter (startIs k)) t
  | .gang g => riseStarts (t.y.hub.starts.filter (fun w => w.gang == some g)) t

/-- The rises of a boundary: pinned starts first, then in the order of opening. -/
def rises (up : Nat) (y : Sys) : Rise :=
  let l := y.gov.open_.filter (inWindow y)
  (l.filter (isPinned y) ++ l.filter (fun r => !isPinned y r)).foldl riseOne
    { y := y, up := up, room := y.gov.lcap - packageLoad y, dies := [] }

/-- A fall of one holder. -/
def fallOne (t : Sys × Nat) (h : Nat × Option Nat) : Sys × Nat :=
  let f := min (excessOf t.1 h) t.2
  let y := match h.2 with
    | none => t.1.modDie h.1 (fun v => { v with pool := v.pool - f })
    | some l => t.1.modCtx h.1 l (fun c => { c with load := c.load - f })
  (y, t.2 - f)

/-- The grants of a boundary (15 R338, R341). -/
def boundary (y : Sys) : Sys :=
  let g := y.gov
  let y := { y with gov := { g with pinNow := g.pinwin, upTok := addTokens g.upRate g.upBurst g.upTok, dnTok := addTokens g.dnRate g.dnBurst g.dnTok
                                    open_ := g.open_.filter (stillOpen y) } }
  let up := allowOf y.gov.upRate y.gov.upTok
  let dn := allowOf y.gov.dnRate y.gov.dnTok
  let t := rises up y
  let l := excessList t.y
  let (y, left) := l.foldl fallOne (wakeRevived t.y, dn)
  let g := y.gov
  { y with gov := { g with upTok := spendTokens g.upRate g.upTok (up - t.up), dnTok := spendTokens g.dnRate g.dnTok (dn - left)
                           excess := l.filter (fun h => excessOf y h != 0)
                           open_ := g.open_.filter (stillOpen y) } }

/-! ## What passes with a tick -/

def ageRoute (t : Route) : Route := { t with rem := t.rem - Config.tickNs }
def ageHolder (h : Holder) : Holder :=
  { routes := h.routes.map ageRoute, asks := h.asks.map (fun (a : Ask) => { a with age := a.age + Config.tickNs }) }

/-- The context is a resumption that has not been restored: its instance is suspended (20 R413, 21 R431). -/
def Ctx.suspended (c : Ctx) : Bool := c.slot.isSome && !c.restored

/-- The context's ELAPSED counts: its watchdog runs, and it is not suspended, its sequencer is not in steward mode, and no copy context is
stopped (14 R332). In READY the mode is that of no instance, and the span counts. -/
def Ctx.watched (c : Ctx) (steward : Bool) : Bool :=
  c.wdEn && !c.stopped && !c.suspended && !c.copies.any (·.stop) && (c.st == .ready || (!steward && (c.st == .run || c.st == .ending)))

/-- Waiters of a context on the semaphores of its die. -/
def waitersOf (v : Die) (l : Nat) : List Waiter := v.sems.flatMap (fun s => s.2.waiters.filter (fun w => w.ctx == l))

/-- One tick of a context (14 R332, 15 R346, 21 R420, 23 R447). -/
def ageCtx (v : Die) (l : Nat) (c : Ctx) : Ctx :=
  if c.isFree then c
  else
    let ws := if c.stopped then [] else waitersOf v l
    let cyc := if c.watched (mgetD v.seqs l {}).steward then c.wdCycles + Config.tickCycles else c.wdCycles
    let due := c.wdLimit != 0 && c.wdCycles / 1024 < c.wdLimit && c.wdLimit ≤ cyc / 1024
    let gone (q : Nat) (e : Entry) : Bool := ws.any (isWaiter l q e.num)
    { c with
      wdCycles := cyc, wdDue := c.wdDue || due
      bcyc := if c.ballast = 0 then c.bcyc else c.bcyc + BitVec.ofNat 48 Config.tickCycles
      gwait := if c.pending ≤ c.ballast then c.gwait else c.gwait + BitVec.ofNat 48 Config.tickCycles
      elapsed := if c.running && !c.stopped then c.elapsed + Config.tickNs else c.elapsed
      semCyc := if c.semWait.isSome && !c.stopped then c.semCyc + Config.tickCycles else c.semCyc
      fetchHolder := ageHolder c.fetchHolder
      copies := c.copies.map (fun (p : CopyCtx) => { p with
        holder := ageHolder p.holder, hostNs := if p.host.isSome then p.hostNs + Config.tickNs else 0 })
      queues := c.queues.map (fun u => (u.1, { u.2 with ents := u.2.ents.map (fun (e : Entry) =>
        if gone u.1 e then { e with cyc := e.cyc + Config.tickCycles } else e) })) }

/-- One tick of a compute die. -/
def ageDie (v : Die) : Die :=
  { v with cycles := v.cycles + Config.tickCycles, ctxs := v.ctxs.map (fun c => (c.1, ageCtx v c.1 c.2)) }

/-- One tick of a memory die: the holds and the quarantines run down (18 R378, R383). -/
def ageMem (m : MemDie) : MemDie :=
  { m with holds := (m.holds.map (fun (h : Hold) => { h with rem := h.rem - Config.tickNs })).filter (fun h => 0 < h.rem)
           quar := m.quar.map (fun (q : Quar) => { q with rem := q.rem - Config.tickNs }) }

def ageGang (g : Gang) : Gang :=
  { g with age := g.age + Config.tickNs, waited := if g.assembled then g.waited + Config.tickNs else g.waited
           sinceCommit := if g.committed then g.sinceCommit + Config.tickNs else g.sinceCommit }

def agePart (p : Part) : Part :=
  { p with sliceNs := p.sliceNs + Config.tickNs, resetNs := if p.resetting then p.resetNs + Config.tickNs else p.resetNs
           ckNs := p.ckNs + Config.tickNs }

/-- The request of a start is open; a member of a gang asks with it (15 R342, R349). -/
def asks (h : Hub) (w : Start) : Bool := (w.gang.map (fun g => ((mget? h.gangs g).map (·.asked)).getD false)).getD true

/-- Hub cycles of a tick (15 R335). -/
def tickHubCycles : Nat := 80

/-- A plug-in that overruns its budget is stopped, and its proposals are not taken (17 R369). -/
def agePlug (p : Plugin) : Plugin :=
  match p.left with
  | none => p
  | some n => { p with left := if n < tickHubCycles then none else some (n - tickHubCycles) }

def ageHub (h : Hub) : Hub :=
  { h with now := h.now + Config.tickNs
           fns := h.fns.map (fun v => (v.1, { v.2 with plug := agePlug v.2.plug }))
           parts := h.parts.map (fun p => (p.1, agePart p.2))
           reqs := h.reqs.map (fun (q : Req) => { q with age := q.age + Config.tickNs })
           gangs := h.gangs.map (fun g => (g.1, ageGang g.2))
           starts := h.starts.map (fun (w : Start) =>
             if asks h w then { w with age := w.age + Config.tickNs, gwait := if w.need = 0 then w.gwait else w.gwait + Config.tickCycles }
             else w) }

/-- Waits of a partition that are not met (23 R455, event 4). -/
def openWaits (y : Sys) (part : Nat) : Nat :=
  ((y.contexts.filter (fun x => x.2.2.part == part && !x.2.2.stopped)).map (fun x => (waitersOf (y.die x.1) x.2.1).length)).foldl (· + ·) 0

/-- Die pools with ballast on the dies a partition uses (event 5). -/
def openPools (y : Sys) (part : Nat) : Nat :=
  ((List.range Config.computeDies).filter (fun d => (y.part part).dieWord d != 0 && (y.die d).pool != 0)).length

/-- Cycles counted by the sessions of the partitions (events 4, 5 and 9). -/
def countCycles (y : Sys) : Sys :=
  (y.hub.parts.map (·.1)).foldl (fun y p =>
    let y := countEvent y p 4 (Config.tickCycles * openWaits y p)
    let y := countEvent y p 5 (Config.tickCycles * openPools y p)
    if (y.part p).ckBusy then countEvent y p 9 Config.tickCycles else y) y

/-- Time and cycles of the tick that ends. -/
def passTick (y : Sys) : Sys :=
  let y := countCycles y
  { y with dies := y.dies.map (fun v => (v.1, ageDie v.2)), mems := y.mems.map (fun m => (m.1, ageMem m.2)), hub := ageHub y.hub }

/-! ## GOVERNOR_TICK -/

/-- Ramps of the package load (24 R474): from at most 1,000 units to at least 8,000. -/
def countRamp (load : Nat) (pl : Platform) (g : Gov) : Platform × Gov :=
  if load ≤ 1000 then (pl, { g with low := true })
  else if g.low && 8000 ≤ load then
    ({ pl with ramps := if pl.ramps = BitVec.allOnes 48 then pl.ramps else pl.ramps + 1 }, { g with low := false })
  else (pl, g)

/-- The longest time between two writes of the wear counters to flash: 10 minutes in ns (24 R474). -/
def flushLimit : Nat := 600000000000

/-- A tick: the boundary, and the starts it has completed. -/
def tickStep (s : State) : State :=
  let y := boundary (passTick s.sys)
  let (pl, g) := countRamp (packageLoad y) { s.plat with sinceFlush := s.plat.sinceFlush + Config.tickNs } y.gov
  { s with plat := pl, sys := hubGo { y with gov := g } }

/-- GOVERNOR_TICK: the counters are written to flash before ten minutes have passed since they last were (24 R474). -/
def execGovernorTick (s : State) : Host.Outcome State Fault Refusal :=
  .next (if flushLimit < s.plat.sinceFlush + Config.tickNs then s else tickStep s)

end Sys2Proof.Machine
end

