-- ==== Sys2Proof/Machine/Partition.lean ====
section
/-! DEFINITION. Partitions and functions: the commit of a partition record (17 R359, R360), the mapping of functions (17 R362), world switches
(17 R363, R364), function-level resets (17 R366) and partition resets (21 R433, R434). -/

namespace Sys2Proof.Machine

/-! ## The checks of a commit (17 R360) -/

/-- Words 0x10 to 0xD0 of a record, by number. -/
def recordWords : List Nat := (List.range 25).map (· + 2)

/-- Reserved bits of a staging word. -/
def wordReserved (n : Nat) : Nat :=
  if n = 2 then maskBits 52 64
  else if 11 ≤ n && n < 15 then maskBits 40 50
  else if 15 ≤ n then maskBits 32 64
  else 0

/-- The record as it would be with the staged words. -/
def Part.asStaged (p : Part) : Part := { p with words := p.staged }

/-- Semaphore range of a die word in units of 128: first, count. -/
def semField (w : Nat) : Nat × Nat := (bitsOf w 50 7, bitsOf w 57 7)

/-- Blocks or sequencers of a die word. -/
def placeField (d w : Nat) : Nat := if isArray d then w % 2 ^ 36 else w % 2 ^ 24

/-- The bits of a die word that name resources other than semaphores. -/
def unitField (d w : Nat) : Nat := if isArray d then w % 2 ^ 50 else w % 2 ^ 40

def rangesMeet (a b : Nat × Nat) : Bool := a.1 < b.1 + b.2 && b.1 < a.1 + a.2 && a.2 != 0 && b.2 != 0

/-- Code 0x01: the form of the record. -/
def formBad (v : Nat) (p : Part) : Bool :=
  bitsOf v 32 31 != 0 || bitsOf v 0 24 != 0 || recordWords.any (fun n => p.word n &&& wordReserved n != 0) || 12 < p.nvd ||
    (List.range Config.computeDies).any (fun d =>
      let w := p.dieWord d
      64 < (semField w).2 || 64 < (semField w).1 + (semField w).2 || ((semField w).2 == 0 && placeField d w != 0))

/-- Another partition whose resources are its own: enabled, or in the middle of its reset. -/
def holdsResources (o : Part) : Bool := o.en || o.resetting

/-- Blocks of a die that positions reserved for a partition hold (14 R322, R328). -/
def reservedBlocks (y : Sys) (part d : Nat) : List Nat :=
  (reservedPlaces y part).flatMap (fun r => if r.2.die = d then placeBlocks r.2.cls r.2.lead else [])

/-- A physical semaphore of a range is mapped into a context of a partition (17 R358, R360). -/
def semsInUse (y : Sys) (part d : Nat) (r : Nat × Nat) : Bool :=
  (y.die d).ctxs.any (fun c => c.2.part == part && c.2.semMap.any (fun s => decide (128 * r.1 ≤ s ∧ s < 128 * (r.1 + r.2))))

/-- What contexts, waiting starts and reservations of a partition still use on a die: blocks and sequencers, chains and engines, in the bits
of a die word. -/
def unitsInUse (y : Sys) (part d : Nat) : Nat :=
  let chainBit (k : Nat) : Nat := if isArray d then 2 ^ (36 + k) else 2 ^ k
  let engBit (e : Nat) : Nat := if isArray d then 2 ^ (42 + e) else 2 ^ (24 + e)
  let a := ((y.die d).ctxs.filter (fun c => c.2.part == part)).foldl (fun a c =>
    (c.2.keepsBlocks.map (2 ^ ·) ++ c.2.keepsChains.map chainBit ++ c.2.copies.map (fun (k : CopyCtx) => engBit k.engine)).foldl (· ||| ·) a) 0
  let a := (reservedBlocks y part d).foldl (fun a b => a ||| 2 ^ b) a
  (y.hub.starts.filter (fun w => w.part == part && w.place.die == d)).foldl (fun a w =>
    ((placeBlocks w.place.cls w.place.lead).map (2 ^ ·) ++ (placeChains w.place.cls w.place.lead w.xreq).map chainBit ++
      w.engines.map engBit).foldl (· ||| ·) a) a

/-- Code 0x02: a resource of another partition. -/
def conflict (y : Sys) (part : Nat) (p : Part) : Bool :=
  y.hub.parts.any (fun o => o.1 != part &&
    ((holdsResources o.2 &&
      ((List.range Config.computeDies).any (fun d =>
        unitField d (p.dieWord d) &&& unitField d (o.2.dieWord d) != 0 || rangesMeet (semField (p.dieWord d)) (semField (o.2.dieWord d))) ||
      (List.range Config.memDies).any (fun m => (p.word (15 + m) &&& o.2.word (15 + m)) % 2 ^ 32 != 0))) ||
      (List.range Config.computeDies).any (fun d =>
        unitField d (p.dieWord d) &&& unitsInUse y o.1 d != 0 || semsInUse y o.1 d (semField (p.dieWord d))) ||
      (List.range Config.memDies).any (fun m => (List.range 32).any (fun c => p.ownsChan m c && y.ownsChan o.1 m c && !o.2.ownsChan m c))))

/-- The physical dies of the map. -/
def Part.mapDies (p : Part) : List Nat := (List.range p.nvd).filterMap p.vdie

/-- Code 0x03: the die map. -/
def mapBad (y : Sys) (p : Part) : Bool :=
  p.mapDies.any (fun m => !(y.memDie m).inSvc || p.word (15 + m) % 2 ^ 32 == 0) ||
    (List.range p.mapDies.length).any (fun k => (p.mapDies.drop (k + 1)).contains (p.mapDies.getD k 0))

/-- A context of the partition runs or one of its copies is in flight: neither suspended nor not started (17 R360, 21 R432). -/
def partRuns (y : Sys) (part : Nat) : Bool :=
  y.contexts.any (fun x => x.2.2.part == part && x.2.2.st != .ready) || y.hub.reqs.any (fun q => q.part == part)

/-- Code 0x05: a resource out of service. -/
def unserved (y : Sys) (p : Part) : Bool :=
  (List.range Config.computeDies).any (fun d =>
    (unitField d (p.dieWord d) != 0 || (semField (p.dieWord d)).2 != 0) && !(y.die d).inSvc) ||
    (List.range Config.memDies).any (fun m => p.word (15 + m) % 2 ^ 32 != 0 && !(y.memDie m).inSvc)

/-- The code of the first check that fails; 0 when none does. -/
def commitCode (y : Sys) (part v : Nat) : Nat :=
  let o := y.part part
  let p := o.asStaged
  if o.resetting then 4
  else if formBad v p then 1
  else if conflict y part p then 2
  else if mapBad y p then 3
  else if p.word 2 != o.word 2 && partRuns y part then 4
  else if unserved y p then 5
  else 0

/-! ## Residency (17 R363, R364) -/

/-- Functions mapped to a partition, in rising order. -/
def functionsOf (y : Sys) (part : Nat) : List Nat := (y.hub.fns.filter (fun f => f.2.map && f.2.part == part)).map (·.1)

/-- An enabled partition without a resident function takes its lowest-numbered one. -/
def takeResident (part : Nat) (y : Sys) : Sys :=
  let p := y.part part
  if p.en && p.resident.isNone then
    match (functionsOf y part).head? with
    | none => y
    | some f => y.modPart part (fun p => { p with resident := some f, sliceNs := 0, outgoing := false })
  else y

/-- A record in its rings or in the ready pool, or a suspended context. -/
def hasWork (y : Sys) (part f : Nat) : Bool :=
  (y.fn f).queues.any (fun u => u.2.en && u.2.head != u.2.tail) ||
    y.hub.nodes.any (fun n => n.2.fn == f && n.2.ready && (!n.2.allStarted || !n.2.rerun.isEmpty)) ||
    (y.part part).slots.any (fun s => s.2.fn == f && s.2.st == .suspended)

/-- The next mapped function after `f` that has work, with wrap-around. -/
def nextFunction (y : Sys) (part f : Nat) : Option Nat :=
  let l := functionsOf y part
  (l.filter (fun g => f < g) ++ l.filter (fun g => g < f)).find? (hasWork y part)

/-- Every running instance of a function is a victim, with T taken as 0 (21 R419). -/
def stopFunction (f : Nat) (y : Sys) : Sys :=
  y.contexts.foldl (fun y x => if x.2.2.fn == f && (y.ctx x.1 x.2.1).running then postPreq x.1 x.2.1 0 y else y) y

/-- The slice of the resident function has run out. -/
def sliceOver (y : Sys) (p : Part) : Option Nat :=
  match p.resident with
  | none => none
  | some f => if p.en && !p.resetting && !p.outgoing && !p.ckBusy && (y.fn f).slice != 0 && (y.fn f).slice * 10000 ≤ p.sliceNs then some f else none

/-- A gang of the function holds reservations in the partition. -/
def gangHolds (y : Sys) (part f : Nat) : Bool :=
  y.hub.gangs.any (fun g => !g.2.committed && (g.2.asked || g.2.reserving) && g.2.members.any (fun m =>
    ((y.hub.node? m.1).map (fun n => n.part == part && n.fn == f)).getD false))

/-- The running instances are stopped, once no gang of the function holds reservations in the partition (17 R364, steps 2 and 3). -/
def stopUnheld (part f : Nat) (y : Sys) : Sys := if gangHolds y part f then y else stopFunction f y

/-- SLICE_EXPIRE: a world switch begins, or a new slice. -/
def sliceExpireStep (p : Nat) (y : Sys) : Sys :=
  match sliceOver y (y.part p) with
  | none => y
  | some f =>
    match nextFunction y p f with
    | none => y.modPart p (fun v => { v with sliceNs := 0 })
    | some g => stopUnheld p f (y.modPart p (fun v => { v with outgoing := true, incoming := g }))

def execSliceExpire (p : Nat) (s : State) : Host.Outcome State Fault Refusal := runEv s (sliceExpireStep p)

/-- No instance of the function runs, waits for its start, or is held in a gang. -/
def outgoingDone (y : Sys) (part f : Nat) : Bool :=
  !(y.contexts.any (fun x => x.2.2.part == part && x.2.2.fn == f)) && !(y.hub.starts.any (fun w => w.part == part && w.fn == f)) &&
    !(gangHolds y part f)

/-- RES moves to the incoming function; its suspended contexts are offered first. -/
def moveResidency (part g : Nat) (y : Sys) : Sys :=
  hubGo (y.modPart part (fun p => { p with
    resident := some g, outgoing := false, sliceNs := 0
    slots := p.slots.map (fun s => (s.1, { s.2 with first := s.2.fn == g && s.2.st == .suspended })) }))

/-- RESIDENCY_MOVE: once no instance of the outgoing function runs; one that has begun to run meanwhile is stopped as the others were. -/
def residencyMoveStep (part : Nat) (y : Sys) : Sys :=
  let p := y.part part
  match p.resident with
  | none => y
  | some f =>
    if !p.outgoing || p.ckBusy then y
    else if outgoingDone y part f then
      let g := p.incoming
      if (y.fn g).map && (y.fn g).part = part then moveResidency part g y
      else match nextFunction y part f with
        | some g => moveResidency part g y
        | none => hubGo (y.modPart part (fun v => { v with outgoing := false, sliceNs := 0 }))
    else stopUnheld part f y

def execResidencyMove (p : Nat) (s : State) : Host.Outcome State Fault Refusal := runEv s (residencyMoveStep p)

/-! ## VF_CFG (17 R362) -/

/-- A slot of a function, in any state but FREE. -/
def slotOfFn (f : Nat) (s : Slot) : Bool := s.fn == f && s.st != .free

/-- An instance of the function runs, waits for its start, or is suspended. -/
def hasInstance (y : Sys) (f : Nat) : Bool :=
  y.contexts.any (fun x => x.2.2.fn == f) || y.hub.starts.any (fun w => w.fn == f) || y.hub.parts.any (fun p => p.2.slots.any (fun s => slotOfFn f s.2))

/-- A write is refused: a partition that does not exist, or a change of MAP or PART of a function in use. -/
def vfCfgRefused (y : Sys) (f : Nat) (v : Nat) : Bool :=
  let g := y.fn f
  Config.partitions ≤ bitsOf v 58 5 ||
    ((bitOf v 63 != g.map || bitsOf v 58 5 != g.part) && (g.queues.any (fun u => u.2.en) || hasInstance y f))

/-- A function that is no longer mapped to a partition is not resident in it. -/
def leaveResident (f part : Nat) (y : Sys) : Sys :=
  y.modPart part (fun p => if p.resident = some f then { p with resident := none, outgoing := false } else p)

def vfCfgStep (f : Nat) (v : Word) (y : Sys) : Sys :=
  let n := v.toNat
  if Config.functions ≤ f || vfCfgRefused y f n then y
  else
    let g := y.fn f
    let map := bitOf n 63
    let part := bitsOf n 58 5
    let moved := map != g.map || part != g.part
    let y := y.modFn f (fun g => { g with map := map, part := part, slice := bitsOf n 32 16, gidh := bitsOf n 16 16 })
    let y := if moved && g.map then takeResident g.part (leaveResident f g.part y) else y
    hubGo (takeResident part y)

/-- VF_CFG_WRITE. -/
def execVfCfgWrite (f : Nat) (v : Word) (s : State) : Host.Outcome State Fault Refusal := runEv s (vfCfgStep f v)

/-- VF_CFG as the firmware reads it. -/
def vfCfgWord (y : Sys) (f : Nat) : Word :=
  let g := y.fn f
  BitVec.ofNat 64 (g.map.toNat * 2 ^ 63 + g.part % 32 * 2 ^ 58 + (g.map && (y.part g.part).resident == some f).toNat * 2 ^ 57 +
    g.slice % 2 ^ 16 * 2 ^ 32 + g.gidh % 2 ^ 16 * 2 ^ 16)

/-! ## PC1 (17 R359) -/

/-- Reserved bits read 0 (17 R359); a write with a field outside its range changes nothing (log entry 124). -/
def pc1Step (p : Nat) (v : Word) (y : Sys) : Sys :=
  let c := bitsOf v.toNat 0 3
  let i := v.toNat / 2 ^ 50
  if Config.partitions ≤ p || c = 0 || 4 < c || i = 0 || 10000 < i then y
  else y.modPart p (fun q => { q with pc1 := v &&& ~~~(BitVec.ofNat 64 (maskBits 3 25)) })

/-- PC1_WRITE. -/
def execPc1Write (p : Nat) (v : Word) (s : State) : Host.Outcome State Fault Refusal := runEv s (pc1Step p v)

/-! ## What a reset ends (17 R366, 21 R433) -/

/-- Contexts that a reset ends go on, stopped neither by the debugger nor for a checkpoint; one that waits for its load waits on (15 R345). -/
def releaseStops (pick : Ctx → Bool) (y : Sys) : Sys :=
  y.contexts.foldl (fun y x =>
    if pick x.2.2 then y.modCtx x.1 x.2.1 (fun c => { c with dbgStop := false, ckStop := false }) else y) y

/-- Every gang with a member that a test picks faults, telling the members in other partitions. -/
def faultGangs (pick : Node → Bool) (part : Nat) (y : Sys) : Sys :=
  ((y.hub.gangs.filter (fun g => g.2.members.any (fun m => ((y.hub.node? m.1).map pick).getD false))).map (·.1)).foldl
    (fun y k => gangFault k eGang 0 (fun p => p != part) y) y

/-- The work at the hub that a reset discards: records, pending entries, releases, posted records and waiting starts. -/
def discardWork (fn? : Nat → Bool) (part : Nat) (y : Sys) : Sys :=
  let y := dropStarts (fun w => w.part == part && fn? w.fn) y
  let y := ((y.hub.nodes.filter (fun n => n.2.part == part && fn? n.2.fn)).map (·.1)).foldl (fun y k => dropNode k y) y
  let y := y.modHub (fun h => { h with posted := h.posted.filter (fun x => !(x.part == part && fn? x.fn)) })
  y.modPart part (fun p => { p with
    pendTab := p.pendTab.filter (fun e => !fn? e.fn), held := p.held.filter (fun r => !fn? r.fn) })

/-- Save slots of a partition that a test picks are discarded, owned slices freed unspilled (21 R433, R434). -/
def discardSlots (pick : Slot → Bool) (part : Nat) (y : Sys) : Sys :=
  let l := (y.part part).slots.filter (fun s => pick s.2)
  let y := l.foldl (fun y s => loseAway (.error cMachineCheck) s.2 (freeOwned y s.2)) y
  y.modPart part (fun p => { p with slots := p.slots.filter (fun s => !pick s.2) })

/-- Queue registers at reset; the tails that earlier notifies set stand (17 R366). -/
def resetQueues (f : Nat) (y : Sys) : Sys :=
  y.modFn f (fun v => { v with queues := v.queues.map (fun u => (u.1, { tail := u.2.tail })), afterReset := true })

/-! ## Function-level reset (17 R366) -/

/-- A virtual function is reset; a reset that arrives during a checkpoint is applied after it (23 R449). -/
def flrStep (f : Nat) (y : Sys) : Sys :=
  let g := y.fn f
  if Config.functions ≤ f || g.flr || (g.map && (y.part g.part).ckBusy) then y
  else
    let y := resetQueues f (y.modFn f (fun v => { v with flr := true }))
    if !g.map then y
    else
      let p := g.part
      let y := faultGangs (fun n => n.fn == f) p y
      let y := discardWork (fun k => k == f) p y
      let y := discardSlots (slotOfFn f) p y
      let y := releaseStops (fun c => c.part == p && c.fn == f) y
      hubGo (postQreqs (fun c => c.part == p && c.fn == f) cMachineCheck y)

/-- The reset of the physical function resets every virtual function, after the checkpoints in progress (24 R457, log entry 111). -/
def pfReset (y : Sys) : Sys :=
  if y.hub.parts.any (fun p => p.2.ckBusy) then y else (List.range Config.functions).foldl (fun y f => flrStep f y) y

/-- FUNCTION_LEVEL_RESET of a virtual function, or of the physical one as function 384. -/
def execFunctionLevelReset (f : Nat) (s : State) : Host.Outcome State Fault Refusal :=
  runEv s (if f = Config.functions then pfReset else flrStep f)

/-- The records that instances have posted during a reset go with it. -/
def dropPosted (pick : Posted → Bool) (y : Sys) : Sys := y.modHub (fun h => { h with posted := h.posted.filter (fun x => !pick x) })

/-- FLR_COMPLETE: every instance has ended. -/
def flrCompleteStep (f : Nat) (y : Sys) : Sys :=
  if (y.fn f).flr && !hasInstance y f then hubGo ((dropPosted (fun x => x.fn == f) y).modFn f (fun v => { v with flr := false })) else y

def execFlrComplete (f : Nat) (s : State) : Host.Outcome State Fault Refusal := runEv s (flrCompleteStep f)

/-! ## Partition reset (21 R433) -/

/-- Steps 1 and 2: intake stops, and QREQ is posted for every context. -/
def startReset (part : Nat) (next : Map Word) (y : Sys) : Sys :=
  let y := y.modPart part (fun p => { p with en := false, resetting := true, resetNs := 0, nextWords := next, outgoing := false, ckBusy := false
                                             stopGo := false, replay := none, rpCtl := p.rpCtl &&& 0x7FFF_FFFF_FFFF_FFFF })
  let y := faultGangs (fun n => n.part == part) part y
  let y := discardWork (fun _ => true) part y
  let y := releaseStops (fun c => c.part == part) y
  hubGo (postQreqs (fun c => c.part == part) cMachineCheck y)

/-- RESET_QUIESCE_TIMEOUT: after 100 µs, or with a steward out of service, the hub quiesces the context itself. -/
def resetTimeoutStep (d l : Nat) (y : Sys) : Sys :=
  let c := y.ctx d l
  let p := y.part c.part
  let due := (p.resetting && 100000 ≤ p.resetNs) ||
    ((y.fn c.fn).flr && (c.qreq.map (fun t => decide (100000 ≤ y.hub.now - t))).getD false)
  let dead := !(y.die d).inSvc || (y.die d).stw.stopped
  if !c.isFree && (p.resetting || (y.fn c.fn).flr) && (due || dead) then quiesce y d l cMachineCheck 0 else y

def execResetQuiesceTimeout (die ctx : Nat) (s : State) : Host.Outcome State Fault Refusal := runEv s (resetTimeoutStep die ctx)

/-- The frames of owned channels become FREE, the tables and quarantines of the partition go, and a MOVE of its pages ends. -/
def scrubMem (part : Nat) (p : Part) (md : Nat) (m : MemDie) : MemDie :=
  let mine := m.move.any (fun v => v.part == part)
  { m with
    frames := m.frames.filter (fun f => !p.ownsChan md (f.1 / 2 ^ 15)), roots := merase m.roots part, tabFree := merase m.tabFree part
    quar := m.quar.filter (fun q => q.part != part), holds := m.holds.filter (fun h => h.part != part)
    move := if mine then none else m.move, busy := if mine then false else m.busy, result := if mine then rMoveAbort else m.result
    wkc := if mine then m.wkc.setIfInBounds 0 (vgetD m.wkc 0 0 &&& 0x7FFF_FFFF_FFFF_FFFF) else m.wkc }

/-- The partition's slices, banks and stationary B are zeroed, and its semaphores go to 0. -/
def scrubDie (p : Part) (d : Nat) (v : Die) : Die :=
  let mine (k : Nat) : Bool := p.ownsBlock d k
  let (lo, n) := p.semRange d
  { v with slices := v.slices.filter (fun s => !mine s.1), banks := v.banks.filter (fun b => !mine b.1), bmat := v.bmat.filter (fun b => !mine b.1)
           sems := v.sems.filter (fun s => !(lo ≤ s.1 && s.1 < lo + n)) }

/-- Steps 3 to 5: every slot is discarded at the scrub. -/
def finishReset (part : Nat) (y : Sys) : Sys :=
  let p := y.part part
  let y := discardSlots (fun _ => true) part y
  let dies := y.dies.map (fun v => (v.1, scrubDie p v.1 v.2))
  let mems := y.mems.map (fun m => (m.1, scrubMem part p m.1 m.2))
  let y := { y with dies := dies, mems := mems }
  let y := dropPosted (fun x => x.part == part) (y.modHub (fun h => { h with reqs := h.reqs.filter (fun q => q.part != part) }))
  let y := (functionsOf y part).foldl (fun y f => resetQueues f y) y
  let y := retryCmds y
  hubGo (y.modPart part (fun p => { p with resetting := false, ran := false, words := p.nextWords, nextWords := [], oldChan := [] }))

/-- PARTITION_RESET_COMPLETE: every context has ended. -/
def resetCompleteStep (part : Nat) (y : Sys) : Sys :=
  if (y.part part).resetting && !(y.contexts.any (fun x => x.2.2.part == part)) then finishReset part y else y

def execPartitionResetComplete (p : Nat) (s : State) : Host.Outcome State Fault Refusal := runEv s (resetCompleteStep p)

/-! ## Commit (17 R360) -/

def setPtErr (code p : Nat) (y : Sys) : Sys := y.modHub (fun h => { h with ptErr := BitVec.ofNat 64 (code + (if code = 0 then 0 else p * 2 ^ 8)) })

/-- Channels that a commit removes while requests of the partition are pending, by memory die. -/
def removedChans (y : Sys) (part : Nat) (p : Part) : Map Nat :=
  if !y.hub.reqs.any (fun q => q.part == part && q.st == .sent) then []
  else ((List.range Config.memDies).map (fun m =>
    (m, ((List.range 32).filter (fun c => y.ownsChan part m c && !p.ownsChan m c)).foldl (fun a c => a + 2 ^ c) 0))).filter (fun x => x.2 != 0)

/-- The record takes effect with EN. -/
def commitRecord (part : Nat) (en : Bool) (y : Sys) : Sys :=
  let o := y.part part
  let y := y.modPart part (fun p => { p with en := en, words := p.staged, oldChan := removedChans y part o.asStaged, oldUpto := y.hub.reqNext })
  hubGo (takeResident part y)

/-- A monitor write of PC0; no partition is enabled in the safe state (24 R471). -/
def writePc0 (pl : Platform) (p : Nat) (v : Word) (y : Sys) : Sys :=
  let en := v.getLsbD 63
  if Config.partitions ≤ p || (pl.safe && en) then y
  else
    let code := commitCode y p v.toNat
    if code != 0 then setPtErr code p y
    else if (y.part p).en && !en then startReset p (y.part p).staged (setPtErr 0 p y)
    else commitRecord p en (setPtErr 0 p y)

/-- PARTITION_COMMIT. -/
def execPartitionCommit (p : Nat) (v : Word) (s : State) : Host.Outcome State Fault Refusal := runPlat s (fun pl y => writePc0 pl p v y)

/-- PARTITION_RESET: the commit with EN = 0 of an enabled partition. -/
def execPartitionReset (p : Nat) (s : State) : Host.Outcome State Fault Refusal :=
  runPlat s (fun pl y => if (y.part p).en then writePc0 pl p 0 y else y)

/-- PC0 as it reads. -/
def pc0Word (y : Sys) (p : Nat) : Word := BitVec.ofNat 64 ((y.part p).en.toNat * 2 ^ 63 + (functionsOf y p).length % 256 * 2 ^ 24)

end Sys2Proof.Machine
end

