-- ==== Sys2Proof/Machine/Relocate.lean ====
section
/-! DEFINITION. Where a replay puts the state of a checkpoint (23 R452): grants and frames may fall on other dies, positions, engines and
channels of the partition than the logged ones, since results do not depend on them (08 R173). -/

namespace Sys2Proof.Machine

/-- The place of a key in a list of pairs; itself when it is not listed. -/
def relocate (l : List (Nat × Nat)) (a : Nat) : Nat := ((l.find? (fun x => x.1 == a)).map (·.2)).getD a

/-! ## Compute dies -/

/-- A claim of a checkpoint: its class, leading block, size and chains. -/
structure OldClaim where
  cls : Nat
  lead : Nat
  h : Nat
  w : Nat
  xreq : Bool
deriving DecidableEq, Repr, Inhabited

/-- Where a die's state goes: the die, the leading block of each claim, the block of each idle slice, and the engines of each claim. -/
structure DiePlan where
  old : Nat
  new : Nat
  claims : List (OldClaim × Nat)
  idle : List (Nat × Nat)
  engines : List (Nat × List Nat)
deriving DecidableEq, Repr, Inhabited

/-- The old record of a checkpoint's partition. -/
def Checkpoint.oldPart (k : Checkpoint) : Part := { words := k.words }

/-- The claims that a checkpoint has on a die: those of its contexts, a split grove being one, and those of its starts. -/
def Checkpoint.claimsOn (k : Checkpoint) (d : Nat) : List OldClaim :=
  (k.ctxs.filter (fun x => x.die == d && x.ctx.piece == 0)).map (fun x =>
    match x.ctx.orig with
    | some (sh, l, h, w) => ⟨sh, l, h, w, !x.ctx.keepsChains.isEmpty⟩
    | none => ⟨x.ctx.shape, x.ctx.lead, x.ctx.h, x.ctx.w, !x.ctx.keepsChains.isEmpty⟩) ++
  (k.starts.filter (fun w => w.place.die == d)).map (fun w =>
    ⟨w.place.cls, w.place.lead, (shapeSize w.place.cls).1, (shapeSize w.place.cls).2, w.xreq⟩)

def OldClaim.blocks (c : OldClaim) : List Nat := blocksOf c.cls c.lead c.h c.w

/-- Compute dies that a checkpoint has state on. -/
def Checkpoint.dies (k : Checkpoint) : List Nat :=
  ((k.ctxs.map (·.die)) ++ k.slices.map (·.1) ++ k.starts.map (fun w => w.place.die)).foldl (fun l d => if l.contains d then l else l ++ [d]) []

/-- The old record's semaphore range on a die. -/
def Checkpoint.semRange (k : Checkpoint) (d : Nat) : Nat × Nat := k.oldPart.semRange d

/-- A place for each claim on a die, the same one where it serves, and no two that share a block or a chain. -/
def placeClaims (p : Part) (e : Nat) : List OldClaim → List (OldClaim × Nat) → Option (List (OldClaim × Nat))
  | [], done => some done
  | c :: t, done =>
    (c.lead :: legalLeads c.cls).findSome? (fun l =>
      if placeOwned p e c.cls l c.xreq && done.all (fun x =>
          !shares (placeBlocks x.1.cls x.2) (placeBlocks c.cls l) &&
            !shares (placeChains x.1.cls x.2 x.1.xreq) (placeChains c.cls l c.xreq))
      then placeClaims p e t (done ++ [(c, l)]) else none)

/-- Engines for a list of copy contexts, each its own one while it has room. -/
def takeEngines : List Nat → List Nat → Option (List Nat × List Nat)
  | [], pool => some ([], pool)
  | e :: t, pool =>
    match (if pool.contains e then some e else pool.head?) with
    | none => none
    | some n => (takeEngines t (pool.erase n)).map (fun r => (n :: r.1, r.2))

def enginesFor : List (Nat × List Nat) → List Nat → Option (List (Nat × List Nat))
  | [], _ => some []
  | (l, es) :: t, pool =>
    match takeEngines es pool with
    | none => none
    | some (ns, pool) => (enginesFor t pool).map (fun r => (l, ns) :: r)

/-- The copy engines that a checkpoint uses on a die, by leading block. -/
def Checkpoint.enginesOn (k : Checkpoint) (d : Nat) : List (Nat × List Nat) :=
  (k.ctxs.filter (fun x => x.die == d)).map (fun x => (x.lead, x.ctx.copies.map (·.engine))) ++
    (k.starts.filter (fun w => w.place.die == d)).map (fun w => (w.place.lead, w.engines))

/-- The slices of a checkpoint on a die that no claim holds, those that save slots own first. -/
def Checkpoint.idleOn (k : Checkpoint) (d : Nat) : List Nat × List Nat :=
  let held := (k.claimsOn d).flatMap (·.blocks)
  let idle := k.slices.filter (fun s => s.1 == d && !held.contains s.2.1)
  ((idle.filter (fun s => s.2.2.owner.isSome)).map (·.2.1), (idle.filter (fun s => s.2.2.owner.isNone)).map (·.2.1))

/-- Places for idle slices: their own block where it is free, else another one, as long as there are any. -/
def placeIdle : List Nat → List Nat → List (Nat × Nat)
  | [], _ => []
  | b :: t, free =>
    match (if free.contains b then some b else free.head?) with
    | none => []
    | some n => (b, n) :: placeIdle t (free.erase n)

/-- Die `e` takes what the checkpoint has on die `d`. -/
def planDie (y : Sys) (part : Nat) (k : Checkpoint) (d e : Nat) : Option DiePlan :=
  let p := y.part part
  if isArray d != isArray e || !(y.die e).inSvc || p.dieWord e = 0 || (p.semRange e).2 < (k.semRange d).2 then none
  else do
    let claims ← placeClaims p e (k.claimsOn d) []
    let engines ← enginesFor (k.enginesOn d) (freeCopies y part e)
    let held := claims.flatMap (fun x => placeBlocks x.1.cls x.2)
    let free := (List.range 36).filter (fun b => p.ownsBlock e b && !held.contains b)
    let (owned, rest) := k.idleOn d
    if free.length < owned.length then none else pure ⟨d, e, claims, placeIdle (owned ++ rest) free, engines⟩

/-- A die of the partition for each die of the checkpoint, the same one first: none when they do not suffice. -/
def planDies (y : Sys) (part : Nat) (k : Checkpoint) : List Nat → List Nat → Option (List DiePlan)
  | [], _ => some []
  | d :: t, used =>
    ((d :: List.range Config.computeDies).filter (fun e => !used.contains e)).findSome? (fun e =>
      (planDie y part k d e).bind (fun x => (planDies y part k t (e :: used)).map (fun r => x :: r)))

def planOf (l : List DiePlan) (d : Nat) : DiePlan := (l.find? (fun x => x.old == d)).getD ⟨d, d, [], [], []⟩

/-- The new number of a block, of a chain of a claim that begins at `lead`, and of a slice that may not have found a place. -/
def DiePlan.claimOf (x : DiePlan) (b : Nat) : Option (OldClaim × Nat) := x.claims.find? (fun c => c.1.blocks.contains b)

def DiePlan.block (x : DiePlan) (b : Nat) : Nat :=
  match x.claimOf b with
  | some c => b - c.1.lead + c.2
  | none => relocate x.idle b

def DiePlan.chain (x : DiePlan) (lead j : Nat) : Nat :=
  match x.claimOf lead with
  | some c => if c.1.cls = 7 then j - c.1.lead + c.2 else j - c.1.lead % 6 + c.2 % 6
  | none => j

def DiePlan.places (x : DiePlan) (b : Nat) : Bool := (x.claimOf b).isSome || x.idle.any (fun p => p.1 == b)

/-! ## Memory dies -/

/-- Where the channels that a checkpoint's frames lie in go: pairs of die and channel. -/
abbrev MemPlan := List ((Nat × Nat) × (Nat × Nat))

/-- Memory dies by partition-virtual number: the old and the new one. -/
def memPairs (k : Checkpoint) (p : Part) : List (Nat × Nat) :=
  (List.range p.nvd).filterMap (fun n => match k.oldPart.vdie n, p.vdie n with
    | some a, some b => some (a, b)
    | _, _ => none)

/-- The channels of a die that a checkpoint has frames in. -/
def usedChans (s : MemSnap) : List Nat :=
  s.frames.foldl (fun l f => if l.contains (f.1 / 2 ^ 15) then l else l ++ [f.1 / 2 ^ 15]) []

/-- New channels for the old ones of a die, the same where they serve; none when they do not suffice. -/
def planChans (p : Part) (m n : Nat) : List Nat → List Nat → Option MemPlan
  | [], _ => some []
  | c :: t, free =>
    match (if free.contains c then some c else free.head?) with
    | none => none
    | some c' => (planChans p m n t (free.erase c')).map (fun r => ((m, c), (n, c')) :: r)

def planMem (y : Sys) (p : Part) (k : Checkpoint) (m : Nat) (s : MemSnap) : Option MemPlan :=
  let n := relocate (memPairs k p) m
  if s.frames.isEmpty then some []
  else if !(y.memDie n).inSvc then none
  else planChans p m n (usedChans s) ((List.range 32).filter (fun c => p.ownsChan n c))

def planMems (y : Sys) (p : Part) (k : Checkpoint) : List (Nat × MemSnap) → Option MemPlan
  | [] => some []
  | (m, s) :: t => (planMem y p k m s).bind (fun a => (planMems y p k t).map (fun b => a ++ b))

/-- The new place of a byte of memory. -/
def MemPlan.place (l : MemPlan) (m pa : Nat) : Nat × Nat :=
  match l.find? (fun x => x.1 == (m, pa / 2 ^ 31)) with
  | some x => (x.2.1, x.2.2 * 2 ^ 31 + pa % 2 ^ 31)
  | none => (m, pa)

/-- The entries under a table at its old address, changed: what a leaf names, and where the next table is. -/
def relinkTable (l : MemPlan) (md : Nat) : Nat → Nat → Nat → MemDie → MemDie
  | 0, _, _, m => m
  | fuel + 1, lvl, tab, m =>
    (List.range (if lvl = 0 || lvl = 3 then 32 else 512)).foldl (fun m i =>
      let a := (l.place md tab).2 + 8 * i
      let e := dev64 m a
      if !bitOf e 63 then m
      else if bitOf e 62 then
        let t := l.place (bitsOf e 36 4) (bitsOf e 0 36)
        put64 m a (e / 2 ^ 40 * 2 ^ 40 + t.1 * 2 ^ 36 + t.2)
      else
        let next := bitsOf e 12 24 * 4096
        put64 (relinkTable l md fuel (lvl + 1) next m) a (e - next + (l.place md next).2)) m

/-- Restore one memory die's part, of old die `md`, on its new die. -/
def restoreMem (part : Nat) (l : MemPlan) (md : Nat) (s : MemSnap) (m : MemDie) : MemDie :=
  let new (a : Nat) : Nat := (l.place md a).2
  let m := { m with
    mem := s.mem.foldl (fun a c => wrByte a (new c.1) c.2) m.mem
    poison := s.poison.foldl (fun a c => sinsert a (new c)) m.poison
    frames := s.frames.foldl (fun a c => mset a (new (c.1 * 2 ^ 16) / 2 ^ 16) c.2) m.frames
    roots := s.roots.foldl (fun a c => mset a c.1 (new c.2)) m.roots
    tabFree := s.tabFree.foldl (fun a c => mset a c.1 (c.2.map new)) m.tabFree }
  match mget? s.roots part with
  | none => m
  | some root => relinkTable l md 4 0 root m

/-- The channels of a partition, emptied before a restore. -/
def clearChans (p : Part) (md : Nat) (m : MemDie) : MemDie :=
  { m with mem := m.mem.filter (fun c => !p.ownsChan md (c.1 / 2 ^ 31)), poison := m.poison.filter (fun a => !p.ownsChan md (a / 2 ^ 31)) }

end Sys2Proof.Machine
end

