-- ==== Sys2Proof/Machine/Debug.lean ====
section
/-! DEFINITION. Stops and cuts (23 R440 to R443), breakpoints (23 R444), checkpoints (23 R448 to R450), replay (23 R452) and the profiling
session (23 R455, R456). -/

namespace Sys2Proof.Machine

/-! ## Stops (23 R440, R441) -/

/-- The contexts of a partition that a test picks become members of the cut: stopped, and to be recorded. -/
def stopMembers (part : Nat) (pick : Ctx → Bool) (y : Sys) : Sys :=
  y.contexts.foldl (fun y x =>
    if x.2.2.part == part && pick x.2.2 then y.modCtx x.1 x.2.1 (fun c => { c with dbgStop := true, cut := true }) else y) y

/-- A write of DSTOP with GO: the whole partition, or the context with the tag. -/
def debugStopStep (p : Nat) (v : Word) (y : Sys) : Sys :=
  if Config.partitions ≤ p || !v.getLsbD 63 then y
  else
    let all := v.getLsbD 61
    let tag := bitsOf v.toNat 0 16
    stopMembers p (fun c => all || c.ctag == tag) (y.modPart p (fun q => { q with stopGo := true, stopAll := all, stopTag := tag }))

/-- DEBUG_STOP. -/
def execDebugStop (p : Nat) (v : Word) (s : State) : Host.Outcome State Fault Refusal := runEv s (debugStopStep p v)

/-- A write of DSTOP with RES and without GO: every stopped context goes on. -/
def debugResumeStep (p : Nat) (v : Word) (y : Sys) : Sys :=
  if Config.partitions ≤ p || v.getLsbD 63 || !v.getLsbD 62 then y
  else
    let y := y.modPart p (fun q => { q with stopGo := false, stopAll := v.getLsbD 61, stopTag := bitsOf v.toNat 0 16 })
    hubGo (y.contexts.foldl (fun y x =>
      if x.2.2.part == p then y.modCtx x.1 x.2.1 (fun c => { c with dbgStop := false, cut := false }) else y) y)

/-- DEBUG_RESUME. -/
def execDebugResume (p : Nat) (v : Word) (s : State) : Host.Outcome State Fault Refusal := runEv s (debugResumeStep p v)

/-! ## Cut records (23 R442) -/

/-- Queue code of queue number `q` of a cut record: matrix, x0 to x5, c0 to c3. -/
def cutQueue (q : Nat) : Nat := if q < 7 then q else q + 1

/-- FRZ of a queue; a head that waits for weight, of which the table says nothing, gives a free value. -/
def frzWord (q : Nat) (u : EQueue) (free : Word) : Word :=
  match u.ents with
  | [] => 0
  | e :: _ =>
    if e.started then BitVec.ofNat 64 (e.rep % 256 * 2 ^ 56 + (if q = 0 then e.pass % 256 * 2 ^ 48 else 0) + (if q = 0 || 8 ≤ q then e.pos else e.rep) % 2 ^ 48)
    else match e.wait with
      | some (ps, thr) => if e.waited then free else BitVec.ofNat 64 (2 ^ 63 + ps * 2 ^ 48 + thr % 2 ^ 16)
      | none => free

/-- Word `j` of a cut record; a word that the table does not list is free. -/
def cutWord (v : Die) (c : Ctx) (q : SeqSt) (free : Nat → Word) (j : Nat) : Word :=
  if j = 0 then BitVec.ofNat 64 (c.ctag % 2 ^ 16 + c.piece % 64 * 2 ^ 16 + c.shape % 16 * 2 ^ 24 + recNode c.record * 2 ^ 32)
  else if j = 1 then BitVec.ofNat 64 (recGraph c.record + c.inst.toNat * 2 ^ 32)
  else if j = 2 then q.pc
  else if j = 3 then q.npc.getD 0
  else if j = 4 then q.nnpc.getD 0
  else if j = 5 then annWord q
  else if j < 39 then
    let k := cutQueue ((j - 6) / 3)
    let u := c.queue k
    if (j - 6) % 3 = 0 then BitVec.ofNat 64 u.iss
    else if (j - 6) % 3 = 1 then BitVec.ofNat 64 u.ret
    else frzWord k u (free j)
  else if j < 256 then free j
  else smgetValue v c (j - 256)

/-- A cut record. -/
def cutRecord (y : Sys) (d l : Nat) : List Byte :=
  (List.range 512).flatMap (fun j =>
    leSplit 8 (cutWord (y.die d) (y.ctx d l) (y.seq ⟨d, some l⟩) (fun k => Config.freeWord (y.used + k)) j).toNat)

/-- A member of the cut, written at its place when the walker lets it. -/
def writeCut (area d l : Nat) (y : Sys) : Sys :=
  let c := y.ctx d l
  let y' := { y with used := y.used + 512 }
  (intWrite y' c.part (area + 4096 * c.ctag) (clean (cutRecord y d l))).getD y'

/-- A copy context has nothing on its way that its entry would have to take in: it stands at a boundary. -/
def copyFrozen (y : Sys) (p : CopyCtx) : Bool :=
  p.host.isNone && !p.ack && (match p.req with
    | none => true
    | some id => ((y.hub.req? id).map (·.waiting)).getD true)

/-- A context is frozen: the context-save engine is not at work on it, and every copy stands at a boundary (23 R441). -/
def frozen (y : Sys) (c : Ctx) : Bool := c.st != .saving && c.st != .restoring && c.copies.all (copyFrozen y)

/-- The hub's cycle count. -/
def hubCycles (y : Sys) : Nat := y.hub.now * 8 / 5

/-- The records of a cut: one for each member, and a STOP record with the tag that the stop named, 0 for ALL (23 R441, R446). -/
def sealCut (p : Nat) (ms : List (Nat × Nat × Ctx)) (tag : Nat) (y : Sys) : Sys :=
  let y := ms.foldl (fun y x => writeCut (y.part p).dbgArea.toNat x.1 x.2.1 y) y
  writeRecord y p 8 15 tag 0 (BitVec.ofNat 64 (ms.length % 2 ^ 16)) 0 (hubCycles y)

/-- CUT_SEAL: the cut of a stop is complete. -/
def cutSealStep (p : Nat) (y : Sys) : Sys :=
  let v := y.part p
  let ms := y.contexts.filter (fun x => x.2.2.part == p && x.2.2.cut)
  if !v.stopGo || !ms.all (fun x => frozen y x.2.2) then y
  else
    let y := sealCut p ms (if v.stopAll then 0 else v.stopTag) y
    let y := ms.foldl (fun y x => y.modCtx x.1 x.2.1 (fun c => { c with cut := false })) y
    y.modPart p (fun q => { q with stopGo := false })

def execCutSeal (p : Nat) (s : State) : Host.Outcome State Fault Refusal := runEv s (cutSealStep p)

/-! ## Breakpoints (23 R444) -/

/-- KIND 2: a wait on the queue has lasted that long. -/
def bpWait (y : Sys) (d l : Nat) (b : Word × Word) : Bool :=
  let c := y.ctx d l
  bpKind b == 2 && (waitersOf (y.die d) l).any (fun w => w.que == bpQue b && decide (b.2.toNat ≤ c.waitCycles w))

/-- The breakpoint hits at this context now. -/
def bpHits (y : Sys) (d l : Nat) (b : Word × Word) : Bool :=
  let c := y.ctx d l
  let r : SeqRef := ⟨d, some l⟩
  bpFor c b && !c.stopped &&
    ((bpStep y r b && (c.st == .run || c.st == .trap) && c.fresh) || bpEntry c (c.queue (bpQue b)).unit (bpQue b) b || bpWait y d l b)

/-- The breakpoints that hit, lowest first. -/
def hitsAt (y : Sys) (d l : Nat) : List Nat := (List.range 4).filter (fun k => bpHits y d l ((y.part (y.ctx d l).part).bp k))

/-- The BPHIT record: the queue and entry concerned. -/
def logHit (d l k : Nat) (b : Word × Word) (y : Sys) : Sys :=
  let c := y.ctx d l
  let que := if bpKind b = 0 then 15 else bpQue b
  let ent := if bpKind b = 1 then b.2.toNat else ((c.queue que).ents.head?.map (·.num)).getD 0
  debugLog y d c.part 9 que c.ctag ent (BitVec.ofNat 64 k) b.2

/-- BREAKPOINT_HIT: the lowest writes the record, all are cleared, and the context or its partition stops. -/
def breakpointStep (p k d l : Nat) (y : Sys) : Sys :=
  let c := y.ctx d l
  match hitsAt y d l with
  | [] => y
  | k0 :: t =>
    if c.isFree || c.part != p || k0 != k then y
    else
      let b := (y.part p).bp k0
      let y := logHit d l k0 b y
      let y := y.modPart p (fun q => { q with stopGo := true
                                              dbp := (k0 :: t).foldl (fun m j => mset m j ((mgetD m j (0, 0)).1 &&& 0x7FFF_FFFF_FFFF_FFFF, (mgetD m j (0, 0)).2)) q.dbp })
      stopMembers p (fun x => bitOf b.1.toNat 54 || x.ctag == c.ctag) y

def execBreakpointHit (p k die ctx : Nat) (s : State) : Host.Outcome State Fault Refusal := runEv s (breakpointStep p k die ctx)

/-! ## Checkpoints (23 R448 to R450) -/

/-- T in ns and KEEP. -/
def Part.ckInterval (p : Part) : Nat := bitsOf p.ckCfg.toNat 48 14 * 1000000
def Part.ckKeep (p : Part) : Nat := bitsOf p.ckCfg.toNat 40 8

/-- CHECKPOINT_START: every context of the partition stops. -/
def checkpointStartStep (p : Nat) (y : Sys) : Sys :=
  let v := y.part p
  if v.en && !v.resetting && !v.ckBusy && v.replay.isNone && bitOf v.ckCfg.toNat 63 && v.ckInterval ≤ v.ckNs then
    let y := y.modPart p (fun q => { q with ckBusy := true })
    y.contexts.foldl (fun y x => if x.2.2.part == p then y.modCtx x.1 x.2.1 (fun c => { c with ckStop := true }) else y) y
  else y

def execCheckpointStart (p : Nat) (s : State) : Host.Outcome State Fault Refusal := runEv s (checkpointStartStep p)

/-- A memory die's part: the channels that the partition owns, and its tables. -/
def snapMem (part : Nat) (p : Part) (md : Nat) (m : MemDie) : MemSnap :=
  { mem := m.mem.filter (fun c => p.ownsChan md (c.1 / 2 ^ 31)), poison := m.poison.filter (fun a => p.ownsChan md (a / 2 ^ 31))
    frames := m.frames.filter (fun f => p.ownsChan md (f.1 / 2 ^ 15)), roots := m.roots.filter (fun r => r.1 == part)
    tabFree := m.tabFree.filter (fun r => r.1 == part) }

/-- Everything of a die that a test picks, with its die. -/
def eachDie {α : Type} (y : Sys) (f : Nat → Die → List α) : List α := y.dies.flatMap (fun v => f v.1 v.2)

/-- The snapshot of a partition at a cut. -/
def snapshot (part : Nat) (y : Sys) : Checkpoint :=
  let p := y.part part
  let fns := functionsOf y part
  { num := p.ckNext
    mems := y.mems.map (fun m => (m.1, snapMem part p m.1 m.2))
    ctxs := eachDie y (fun d v => (v.ctxs.filter (fun c => c.2.part == part && (!c.2.isFree || c.2.retired || c.2.away))).map (fun c =>
      { die := d, lead := c.1, ctx := c.2, seq := y.seq ⟨d, some c.1⟩ }))
    slices := eachDie y (fun d v => (v.slices.filter (fun s => p.ownsBlock d s.1)).map (fun s => (d, s.1, s.2)))
    banks := eachDie y (fun d v => (v.banks.filter (fun b => p.ownsBlock d b.1)).map (fun b => (d, b.1, b.2)))
    bmats := eachDie y (fun d v => (v.bmat.filter (fun b => p.ownsBlock d b.1)).map (fun b => (d, b.1, b.2)))
    sems := eachDie y (fun d v =>
      let (lo, n) := p.semRange d
      (v.sems.filter (fun s => lo ≤ s.1 && s.1 < lo + n)).map (fun s => (d, s.1, s.2)))
    queues := fns.flatMap (fun f => (y.fn f).queues.map (fun u => (f, u.1, u.2)))
    nodes := y.hub.nodes.filter (fun n => n.2.part == part)
    gangs := y.hub.gangs.filter (fun g => g.2.members.any (fun m => ((y.hub.node? m.1).map (fun n => n.part == part)).getD false))
    pendTab := p.pendTab, held := p.held
    starts := y.hub.starts.filter (fun w => w.part == part)
    posted := y.hub.posted.filter (fun x => x.part == part)
    resident := p.resident
    slots := p.slots, pmsel := p.pmsel, pmc := p.pmc, psid := p.psid, words := p.words, tagNext := p.tagNext
    inSvc := (List.range Config.computeDies).filter (fun d => (y.die d).inSvc) }

/-! ### The images of a checkpoint (23 R450) -/

/-- A section of at most `cap` bytes: its length, then the bytes in order. -/
def lengthAnd (off cap : Nat) (b : List Byte) : Nat × List Byte := (off, leSplit 8 (min cap b.length) ++ b.take cap)

/-- Bytes that the run at the head of the matrix queue has taken from its link, or from the bypass buffer, and not used: they come before the
buffer's own (09 R190; log entry 127). -/
def takenBytes (c : Ctx) (link : Bool) : List Byte :=
  match (c.queue 0).ents.head? with
  | some e => match e.cmd with
    | .mxRun _ _ _ _ src _ => if src != 0 && (src == 1) == link then e.buf else []
    | _ => []
  | none => []

/-- Pack lines, bypass bytes and link bytes; `k` is the sibling whose link the fragment reads. -/
def extraRuns (v : Die) (c : Ctx) (k : Nat) : List (Nat × List Byte) :=
  c.chains.mapIdx (fun k h =>
    let s := h.strip 4
    (0x500_1000 + 0x6000 * k, leSplit 8 (s.packLine.length + s.packP * 2 ^ 16) ++ s.packLine.flatMap id)) ++
    [lengthAnd 0x502_5000 0xAFF8 (takenBytes c false ++ c.bypass)] ++
    (List.range 36).map (fun n =>
      lengthAnd (0x503_0000 + 0x4000 * n) 0x3FF8 ((if n = k then takenBytes c true else []) ++ mgetD c.links n [])) ++
    [(0x50F_0000, leSplit 8 ((mgetD v.bmat c.lead {}).bw + (mgetD v.bmat c.lead {}).sp * 4 +
      (c.blocks.all (fun b => (mget? v.bmat b).isNone)).toNat * 16))]

/-- The panels of the stationary B, absent for the zero ingot: 192h·w lines of as many bytes as the descriptor's width and sparsity give,
zeros for a block without B. -/
def panelRuns (v : Die) (c : Ctx) : List (Nat × List Byte) :=
  if c.shape = 7 || c.blocks.all (fun b => (mget? v.bmat b).isNone) then []
  else
    let n := bLine (mgetD v.bmat c.lead {}).bw (mgetD v.bmat c.lead {}).sp
    (List.range c.w).flatMap (fun j => (List.range (192 * c.h)).map (fun r =>
      (0x510_0000 + (192 * c.h * j + r) * n, (bLineOf v c j r ++ List.replicate n 0).take n)))

/-- A slice, at a place of the ring. -/
def ringSlice (part ia : Nat) (s : Slice) (y : Sys) : Sys :=
  match bulkFrames y part ia Config.sliceBytes .wr with
  | none => y
  | some ls => writeSlice part ia ls s y

/-- The slice as the latest checkpoint has it. -/
def lastSlice (p : Part) (d b : Nat) : Option Slice :=
  (p.ckpts.getLast?).bind (fun k => (k.slices.find? (fun s => s.1 == d && s.2.1 == b)).map (·.2.2))

/-- One member's image, at a place of the ring; `old` is the checkpoint before. -/
def writeImage (part base d l : Nat) (y0 : Sys) (y : Sys) : Sys :=
  let v := y0.die d
  let c := y0.ctx d l
  let q := y0.seq ⟨d, some l⟩
  let runs := imageRuns v q l c 2 ++ [(0x500_0000, cutRecord y0 d l)] ++ extraRuns v c (leftEver y0 d c) ++ panelRuns v c
  let y := (saveImage { y with used := y.used + 512 } part base v c runs).getD y
  (c.blocks.mapIdx (fun k b => (k, b))).foldl (fun y x =>
    if lastSlice (y0.part part) d x.2 == some (v.slice x.2) then y else ringSlice part (base + 0x80_0000 + 0x20_0000 * x.1) (v.slice x.2) y) y

/-- Two units in a row for each of `n` images, and `extra` more: the loggers' choice among the free ones. -/
def pickUnits : Nat → List Nat → Sys → Option (Sys × List Nat × List Nat)
  | 0, free, y => some (y, [], free)
  | n + 1, free, y =>
    match chooseFrom y (free.filter (fun u => free.contains (u + 1))) with
    | (_, none) => none
    | (y, some u) =>
      match pickUnits n (free.filter (fun w => w != u && w != u + 1)) y with
      | none => none
      | some (y, us, free) => some (y, u :: us, free)

/-- Room in the ring, up to `fuel` of the oldest checkpoints discarded as it lacks it: the images' units, the other units, and what is kept. -/
def ringRoom (size n extra : Nat) : Nat → List Checkpoint → Sys → Option (Sys × List Nat × List Nat × List Checkpoint)
  | fuel, ks, y =>
    let used := ks.flatMap (fun (k : Checkpoint) => k.units)
    match pickUnits n ((List.range size).filter (fun u => !used.contains u)) y with
    | some (y, us, free) =>
      if extra ≤ free.length then some (y, us, free.take extra, ks)
      else match fuel, ks with
        | f + 1, _ :: t => ringRoom size n extra f t y
        | _, _ => none
    | none => match fuel, ks with
      | f + 1, _ :: t => ringRoom size n extra f t y
      | _, _ => none

/-- Contexts of the partition go on. -/
def ckResume (p : Nat) (y : Sys) : Sys :=
  y.contexts.foldl (fun y x => if x.2.2.part == p then y.modCtx x.1 x.2.1 (fun c => { c with ckStop := false }) else y) y

/-- The cut is complete: the images are written and the checkpoint is kept, KEEP of them at most, or it does not fit. -/
def sealCheckpoint (p : Nat) (y : Sys) : Sys :=
  let v := y.part p
  let ms := y.contexts.filter (fun x => x.2.2.part == p)
  let size := v.ckSize.toNat
  let extra := Config.choose y.used (size + 1) % (size + 1)
  let y := { y with used := y.used + 1 }
  match ringRoom size ms.length extra (v.ckKeep - 1) v.ckpts y with
  | none => y.modPart p (fun q => { q with ckFail := true })
  | some (y, us, more, ks) =>
    let k := { snapshot p y with units := us ++ us.map (· + 1) ++ more }
    let y := (us.zip ms).foldl (fun y' x => writeImage p (v.ckBase.toNat + 2 ^ 26 * x.1) x.2.1 x.2.2.1 y y') y
    let y := { y with mems := y.mems.map (fun (m : Nat × MemDie) => (m.1, { m.2 with touched := m.2.touched.filter (fun f => !v.ownsChan m.1 (f / 2 ^ 15)) })) }
    y.modPart p (fun q => { q with ckpts := (ks ++ [k]).drop (ks.length + 1 - v.ckKeep), ckNum := k.num, ckNext := k.num + 1 })

/-- A save of the partition has still to post its SAVED. -/
def savesOpen (y : Sys) (p : Nat) : Bool := y.dies.any (fun v => v.2.lateSaved.any (fun x => x.2.1 == p))

/-- CHECKPOINT_SEAL: every member is frozen; the cut is recorded as that of a stop with ALL (log entry 107), the checkpoint is taken, and
the contexts resume. -/
def checkpointSealStep (p : Nat) (y : Sys) : Sys :=
  let ms := y.contexts.filter (fun x => x.2.2.part == p)
  if (y.part p).ckBusy && ms.all (fun x => frozen y x.2.2) && !savesOpen y p then
    hubGo (ckResume p ((sealCheckpoint p (sealCut p ms 0 y)).modPart p (fun q => { q with ckBusy := false, ckNs := 0 })))
  else y

def execCheckpointSeal (p : Nat) (s : State) : Host.Outcome State Fault Refusal := runEv s (checkpointSealStep p)

/-- CK_FAIL_CLEAR. -/
def execCkFailClear (p : Nat) (v : Word) (s : State) : Host.Outcome State Fault Refusal :=
  runEv s (fun y => if p < Config.partitions && v.getLsbD 63 then y.modPart p (fun q => { q with ckFail := false }) else y)

/-! ## Replay (23 R452, R453) -/

/-- Classes of the grants that the log of a replay from checkpoint `n` holds. -/
def loggedClasses (p : Part) (n : Nat) : List Nat :=
  (p.ckpts.filter (fun k => n ≤ k.num)).flatMap (fun k => k.log.filterMap (fun c => match c with
    | .grant _ _ cls _ _ => some cls
    | _ => none))

/-- Fragments of a class that a record's blocks on some dies hold at one time. -/
def classFits (p : Part) (dies : List Nat) (cls : Nat) : Nat :=
  ((dies.filter (diesOf cls).contains).map (fun d => dieFits p d cls false)).foldl (· + ·) 0

/-- The partition has enough in-service dies of each class for the log's grants: as many fragments of the class at one time as the logged run
had room for, or as the log grants (23 R452; log entry 128). -/
def grantsFit (y : Sys) (part : Nat) (k : Checkpoint) (n : Nat) : Bool :=
  let p := y.part part
  let l := loggedClasses p n
  let dies := (List.range Config.computeDies).filter (fun d => (y.die d).inSvc)
  l.all (fun cls => min (l.filter (· == cls)).length (classFits k.oldPart k.inSvc cls) ≤ classFits p dies cls)

/-- A write of GO is refused: the checkpoint is not retained, a context has run, or the partition does not meet 23 R452. -/
def replayBad (y : Sys) (part n : Nat) : Option (Checkpoint × List DiePlan × MemPlan) :=
  let p := y.part part
  match p.ckpts.find? (fun k => k.num == n) with
  | none => none
  | some k =>
    if !p.en || p.ran || k.oldPart.nvd != p.nvd || !grantsFit y part k n then none
    else (planMems y p k k.mems).bind (fun m => (planDies y part k k.dies []).map (fun l => (k, l, m)))

/-- A context of a checkpoint as it goes on: at its place, with its semaphores and engines renumbered, its leases gone, its pending requests
to be sent again, and its load still to be granted (log entry 93). -/
def reviveCtx (x : DiePlan) (sh : Nat → Nat) (c : Ctx) : Ctx :=
  let ent (e : Entry) : Entry :=
    { e with wait := e.wait.map (fun x => (sh x.1, x.2)), signal := e.signal.map (fun x => (sh x.1, x.2.1, x.2.2))
             peers := e.peers.map (fun p => (p.1, x.block p.2.1, p.2.2)), geo := e.geo.map (fun p => (p.1, x.block p.2.1, p.2.2)) }
  let es := ((x.engines.find? (fun e => e.1 == c.lead)).map (·.2)).getD []
  { c with
    lead := x.block c.lead, grove := c.grove.map x.block, alive := c.alive.map x.block
    orig := c.orig.map (fun o => (o.1, x.block o.2.1, o.2.2)), origChains := c.origChains.map (x.chain c.lead)
    chains := c.chains.map (fun (h : Chain) => { h with phys := x.chain c.lead h.phys })
    semMap := c.semMap.map sh, semWait := c.semWait.map (fun x => (sh x.1, x.2)), fetchHolder := {}
    landings := c.landings.map (fun (a : Landing) => { a with sem := sh a.sem })
    copies := c.copies.mapIdx (fun i (u : CopyCtx) =>
      { u with engine := es.getD i u.engine, holder := {}, req := none, host := none, hostNs := 0, ack := false })
    queues := c.queues.map (fun q => (q.1, { q.2 with ents := q.2.ents.map ent }))
    dbgStop := false, ckStop := false, cut := false, load := 0, revived := true }

/-- The waiters of a semaphore stand where their contexts do. -/
def reviveSem (x : DiePlan) (s : Sem) : Sem := { s with waiters := s.waiters.map (fun (w : Waiter) => { w with ctx := x.block w.ctx }) }

/-- A restored context takes what the pool of its die has; the rest is asked of the governor (15 R336, R345). -/
def drawCtx (d l : Nat) (y : Sys) : Sys :=
  let take := min (y.die d).pool (y.ctx d l).base
  (y.modDie d (fun v => { v with pool := v.pool - take })).modCtx d l (fun c => { c with load := c.load + take })

/-- The place of an ended or a saved piece of a checkpoint's grove. -/
def reviveLeft (x : DiePlan) (c : Ctx) : Ctx :=
  { c with
    lead := x.block c.lead, grove := c.grove.map x.block, alive := c.alive.map x.block
    orig := c.orig.map (fun o => (o.1, x.block o.2.1, o.2.2)), origChains := c.origChains.map (x.chain c.lead)
    chains := c.chains.map (fun (h : Chain) => { h with phys := x.chain c.lead h.phys }) }

/-- A context of a checkpoint comes to its place, or the place of an ended piece. -/
def restoreCtx (x : DiePlan) (sh : Nat → Nat) (c : CtxSnap) (y : Sys) : Sys :=
  if c.ctx.isFree then y.setCtx x.new (x.block c.lead) (reviveLeft x c.ctx)
  else drawCtx x.new (x.block c.lead)
    ((y.setCtx x.new (x.block c.lead) (reviveCtx x sh c.ctx)).setSeq ⟨x.new, some (x.block c.lead)⟩ c.seq)

/-- A start of a checkpoint at its place. -/
def reviveStart (x : DiePlan) (w : Start) : Start :=
  { w with place := { w.place with die := x.new, lead := x.block w.place.lead }
           engines := ((x.engines.find? (fun e => e.1 == w.place.lead)).map (·.2)).getD w.engines }

/-- A slot of a checkpoint: the slices that it owns are where they have been put. -/
def reviveSlot (l : List DiePlan) (s : Slot) : Slot :=
  { s with die := s.die.map (fun d => (planOf l d).new), resv := none, reserving := false
           owned := s.owned.map (fun o => (o.1, (planOf l o.2.1).new, (planOf l o.2.1).block o.2.2))
           own := s.own.map (fun o => ((planOf l o.1).new, (planOf l o.1).block o.2)) }

/-- So does a restored start. -/
def drawStart (w : Start) (y : Sys) : Sys :=
  let want := w.need + w.granted
  let take := min (y.die w.place.die).pool want
  (y.modDie w.place.die (fun v => { v with pool := v.pool - take })).modHub (fun h =>
    { h with starts := h.starts ++ [{ w with need := want - take, granted := take, age := 0 }] })

/-- Restore what a die of a checkpoint has: slices, banks, stationary B, semaphores and contexts. -/
def restoreDie (part : Nat) (k : Checkpoint) (x : DiePlan) (y : Sys) : Sys :=
  let d := x.old
  let e := x.new
  let sh (ps : Nat) : Nat := ps - (k.semRange d).1 + ((y.part part).semRange e).1
  let y := (k.slices.filter (fun s => s.1 == d && x.places s.2.1)).foldl (fun y s =>
    y.modDie e (fun v => { v with slices := mset v.slices (x.block s.2.1) s.2.2 })) y
  let y := (k.banks.filter (fun s => s.1 == d)).foldl (fun y s => y.modDie e (fun v => { v with banks := mset v.banks (x.block s.2.1) s.2.2 })) y
  let y := (k.bmats.filter (fun s => s.1 == d)).foldl (fun y s => y.modDie e (fun v => { v with bmat := mset v.bmat (x.block s.2.1) s.2.2 })) y
  let y := (k.sems.filter (fun s => s.1 == d)).foldl (fun y s => y.modDie e (fun v => v.setSem (sh s.2.1) (reviveSem x s.2.2))) y
  (k.ctxs.filter (fun c => c.die == d)).foldl (fun y c => restoreCtx x sh c y) y

/-- Restore a checkpoint: memory, dies, contexts, and the hub's state of the partition. Positions reserved are chosen anew. -/
def restoreCheckpoint (part : Nat) (k : Checkpoint) (l : List DiePlan) (mp : MemPlan) (y : Sys) : Sys :=
  let p := y.part part
  let mm := relocate (memPairs k p)
  let y := { y with mems := y.mems.map (fun m => (m.1, clearChans p m.1 m.2)) }
  let y := k.mems.foldl (fun y m => y.modMem (mm m.1) (restoreMem part mp m.1 m.2)) y
  let y := l.foldl (fun y x => restoreDie part k x y) y
  let y := k.queues.foldl (fun y u => y.modQueue u.1 u.2.1 (fun _ => u.2.2)) y
  let y := y.modHub (fun h => { h with
    nodes := k.nodes.foldl (fun a n => mset a n.1 { n.2 with resv := none, reserving := false }) h.nodes
    gangs := k.gangs.foldl (fun a g => mset a g.1 { g.2 with resv := [], reserving := false, asked := false }) h.gangs
    posted := h.posted ++ k.posted.map (fun (x : Posted) => { x with die := (planOf l x.die).new, ctx := (planOf l x.die).block x.ctx }) })
  let y := wakeRevived (k.starts.foldl (fun y w => drawStart (reviveStart (planOf l w.place.die) w) y) y)
  y.modPart part (fun p => { p with
    pendTab := k.pendTab, held := k.held, resident := k.resident, slots := k.slots.map (fun s => (s.1, reviveSlot l s.2))
    pmsel := k.pmsel, pmc := k.pmc, psid := k.psid, tagNext := k.tagNext, ran := true })

/-- A write of RP_CTL with GO. -/
def replayStartStep (part : Nat) (v : Word) (y : Sys) : Sys :=
  if Config.partitions ≤ part || !v.getLsbD 63 then y
  else
    let n := bitsOf v.toNat 0 32
    match replayBad y part n with
    | none => y.modPart part (fun p => { p with rpStat := p.rpStat ||| 0x2000_0000_0000_0000 })
    | some (k, l, m) =>
      let y := restoreCheckpoint part k l m y
      hubGo (y.modPart part (fun p =>
        { p with rpCtl := v &&& 0xC000_0000_FFFF_FFFF, rpStat := BitVec.ofNat 64 n, rpPos := 0, replay := some k.log }.nextSegment p.ckpts.length))

/-- REPLAY_START. -/
def execReplayStart (p : Nat) (v : Word) (s : State) : Host.Outcome State Fault Refusal := runEv s (replayStartStep p v)

/-- REPLAY_DONE: the last retained segment has been replayed. -/
def replayDoneStep (part : Nat) (y : Sys) : Sys :=
  if (y.part part).spent then
    (stopAllOf y part).modPart part (fun p =>
      { p with replay := none, rpStat := p.rpStat ||| 0x4000_0000_0000_0000, rpCtl := p.rpCtl &&& 0x7FFF_FFFF_FFFF_FFFF })
  else y

def execReplayDone (p : Nat) (s : State) : Host.Outcome State Fault Refusal := runEv s (replayDoneStep p)

/-! ## The profiling session (23 R455, R456) -/

/-- Events that the device implements. -/
def implemented (ev : Nat) : Bool := 1 ≤ ev && ev ≤ 9

/-- A write of PMSELk reprograms PMCk: a counter of an event that is not implemented reads 0. -/
def pmselStep (p k : Nat) (v : Word) (y : Sys) : Sys :=
  if Config.partitions ≤ p || 16 ≤ k then y
  else y.modPart p (fun q => { q with
    pmsel := mset q.pmsel k (v &&& 0x8000_0000_0000_FFFF)
    pmc := if implemented (bitsOf v.toNat 0 16) then q.pmc else mset q.pmc k 0 })

/-- PMSEL_WRITE. -/
def execPmselWrite (p k : Nat) (v : Word) (s : State) : Host.Outcome State Fault Refusal := runEv s (pmselStep p k v)

/-- PMCk as it reads: V, OVF and COUNT. -/
def pmcWord (p : Part) (k : Nat) : Word :=
  (mgetD p.pmc k 0 &&& 0x4000_FFFF_FFFF_FFFF) ||| (if implemented (bitsOf (mgetD p.pmsel k 0).toNat 0 16) then 0x8000_0000_0000_0000 else 0)

end Sys2Proof.Machine
end

