-- ==== Sys2Proof/Machine/LeaseOps.lean ====
section
/-! DEFINITION. The `ls.` instructions (18 R387, R388). -/

namespace Sys2Proof.Machine

/-- The holder that a target names: 4 for the fetch path, else the copy context (18 R387). -/
def lsTarget (n : BitVec 8) : Nat := if n = 0 then 4 else n.toNat - 8

/-- Go on with a target that the context holds; a copy context at or above CCTX is OPERAND_RECORD 0x3C. -/
def withHolder (y : Sys) (r : SeqRef) (n : BitVec 8) (k : Nat → Nat → Res) : Res :=
  let t := lsTarget n
  if n != 0 && (y.ctxOf r).copies.length ≤ t then .trap (operandCode 0x3C) else needsContext r (fun l => k l t)

/-- `ls.ask`: the address translated as it would be for the holder's own accesses; nothing is sent when that fails, when the
entry is young, when an ask for the page is outstanding, or when the unit may send none (18 R379, R380, R387). -/
def lsAskSend (y : Sys) (d l t : Nat) (v : Word) : Sys :=
  let c := y.ctx d l
  match virtToInt c.ranges v (if t = 4 then .ex else .rd) with
  | .error _ => y
  | .ok ia =>
    let vdie := ia / 2 ^ 44
    let off := ia % 2 ^ 44
    let h := c.holder t
    let young := match h.find c.part vdie off with
      | some e => !e.due
      | none => false
    if young || h.asking vdie off || (y.die d).skewed.contains (c.holderUnit t) || ((y.part c.part).vdie vdie).isNone then y
    else sendAskReq y d l t c.part v ia false

def lsAskStep (n : BitVec 8) (a : BitVec 5) (r : SeqRef) (y : Sys) : Res :=
  let q := y.seq r
  unpoisoned q [a] (withHolder y r n (fun l t => .ok (lsAskSend y r.die l t (q.rg a)) none))

def execLsAsk (n : BitVec 8) (a : BitVec 5) (s : State) : Host.Outcome State Fault Refusal := runSeq s 4 (lsAskStep n a)

/-- `ls.drop` (18 R381, R387). -/
def execLsDrop (n : BitVec 8) (s : State) : Host.Outcome State Fault Refusal :=
  runSeq s 4 (fun r y => withHolder y r n (fun l t => .ok (y.modCtx r.die l (fun c => c.setHolder t (c.holder t).dropAll)) none))

/-- The items of 18 R388; `held` is counted, not kept. -/
def lsItem (c : Ctx) (n : Nat) : Nat := if n = 6 then c.held else (vgetD c.lsc n 0).toNat

/-- `ls.stat` (18 R387, R388). -/
def execLsStat (d : BitVec 5) (n : BitVec 8) (s : State) : Host.Outcome State Fault Refusal :=
  runSeq s 4 (fun r y => needsContext r (fun _ => done y r (fun q => q.wg d (BitVec.ofNat 64 (lsItem (y.ctxOf r) n.toNat)))))

end Sys2Proof.Machine
end

