-- ==== Sys2Proof/Machine/Platform.lean ====
section
/-! DEFINITION. The platform: links (24 R465), staggered power-up and boot (24 R467 to R472), dies retired by firmware (01 R22), and the
wear counters (24 R474). -/

namespace Sys2Proof.Machine

/-! ## Wear counters (24 R474) -/

/-- One more, saturating. -/
def satInc (c : BitVec 48) : BitVec 48 := if c = BitVec.allOnes 48 then c else c + 1

/-- The copy of the counters in flash: the thermal bins at 0 to 19, power-ups at 20, ramps at 21. -/
def wearToFlash (pl : Platform) : Platform :=
  { pl with flash := mset (mset pl.thermal 20 pl.powerUps) 21 pl.ramps, sinceFlush := 0 }

/-- WEAR_FLUSH. -/
def execWearFlush (s : State) : Host.Outcome State Fault Refusal := runPlatState s (fun pl y => (if pl.power then wearToFlash pl else pl, y))

/-- The bin of a temperature fall; none below 5 °C. -/
def thermalBin (dt : Nat) : Option Nat :=
  if dt < 5 then none
  else if dt < 10 then some 0
  else if dt < 20 then some 1
  else if dt < 40 then some 2
  else if dt < 60 then some 3
  else some 4

/-- A fall on a die of a class: 0 array, 1 stream, 2 memory, 3 hub. -/
def countFall (cls dt : Nat) (pl : Platform) : Platform :=
  match thermalBin dt with
  | none => pl
  | some b => if 4 ≤ cls || !pl.power then pl else { pl with thermal := mset pl.thermal (5 * cls + b) (satInc (mgetD pl.thermal (5 * cls + b) 0)) }

/-- JUNCTION_TEMPERATURE_FALL. -/
def execJunctionTemperatureFall (cls dt : Nat) (s : State) : Host.Outcome State Fault Refusal :=
  runPlatState s (fun pl y => (countFall cls dt pl, y))

/-! ## Power (24 R468, R474) -/

/-- What stands when power is off: the flash with its training records, the fused minimum, and the LMS indices used. -/
def offPlatform (pl : Platform) : Platform := { flash := pl.flash, minSec := pl.minSec, lmsUsed := pl.lmsUsed, records := pl.records }

/-- Everything but the platform loses its state; the free values go on. -/
def coldSys (y : Sys) : Sys := { used := y.used }

/-- POWER_LOSS. -/
def execPowerLoss (s : State) : Host.Outcome State Fault Refusal :=
  runPlatState s (fun pl y => if pl.power then (offPlatform pl, coldSys y) else (pl, y))

/-- POWER_DOWN. -/
def execPowerDown (s : State) : Host.Outcome State Fault Refusal :=
  runPlatState s (fun pl y => if pl.power then (offPlatform (wearToFlash pl), coldSys y) else (pl, y))

/-- The platform at power-good: phase 0, with the counters that flash holds. -/
def onPlatform (pl : Platform) : Platform :=
  { offPlatform pl with power := true, thermal := pl.flash.filter (fun c => c.1 < 20), powerUps := mgetD pl.flash 20 0, ramps := mgetD pl.flash 21 0 }

/-- POWER_GOOD. -/
def execPowerGood (s : State) : Host.Outcome State Fault Refusal :=
  runPlatState s (fun pl y => if pl.power then (pl, y) else (onPlatform pl, coldSys y))

/-! ## Staggered power-up (24 R467)

Dies by number: compute die d is d, memory die m is 12 + m. -/

/-- The order after the hub: memory, stream and array dies. -/
def stagger : List Nat := (List.range 12).map (12 + ·) ++ (List.range 4).map (8 + ·) ++ List.range 8

def dieTurn (y : Sys) (d : Nat) : Bool := if d < 12 then (y.die d).powered else (y.memDie (d - 12)).powered

/-- The die whose turn it is. -/
def nextDie (y : Sys) : Option Nat := stagger.find? (fun d => !dieTurn y d)

/-- The turn of a die passes, with its supply stable or not. -/
def diePowered (ok : Bool) (d : Nat) (pl : Platform) (y : Sys) : Sys :=
  if !pl.power || pl.safe || pl.phase != 2 || nextDie y != some d then y
  else
    let y := if d < 12 then y.modDie d (fun v => { v with powered := true, inSvc := ok })
             else y.modMem (d - 12) (fun v => { v with powered := true, inSvc := ok })
    if ok then devstatChanged y else y

/-- DIE_POWER_STABLE. -/
def execDiePowerStable (die : Nat) (s : State) : Host.Outcome State Fault Refusal := runPlat s (diePowered true die)

/-- DIE_POWER_UP_FAILURE. -/
def execDiePowerUpFailure (die : Nat) (s : State) : Host.Outcome State Fault Refusal := runPlat s (diePowered false die)

/-- DIE_RETIRED_BY_FIRMWARE. -/
def execDieRetiredByFirmware (die : Nat) (s : State) : Host.Outcome State Fault Refusal :=
  runEv s (fun y => if die < Config.computeDies then computeOut die y else y)

/-! ## Dies in service

The hub is die 24 here. -/

def hubDie : Nat := 24

/-- The die is in service: its links are trained, and it can carry a detour (24 R465). -/
def carries (y : Sys) (d : Nat) : Bool :=
  if d = hubDie then true else if d < 12 then (y.die d).inSvc else decide (d < 24) && (y.memDie (d - 12)).inSvc

/-! ## Boot (24 R468 to R472) -/

/-- A bundle is accepted. -/
def bundleGood (minSec : Nat) (b : Bundle) : Bool := b.ecdsa && b.lms && decide (minSec ≤ b.secver) && b.stwMain.isSome

/-- The bundle that verification accepts. -/
def verified (minSec : Nat) (x : BootInput) : Option Bundle :=
  if bundleGood minSec x.primary then some x.primary else if bundleGood minSec x.secondary then some x.secondary else none

/-- The safe state (24 R471): a partition that has been enabled is so no more. -/
def goSafe (pl : Platform) (y : Sys) : Platform × Sys :=
  ({ pl with safe := true },
    devstatChanged (((y.hub.parts.filter (fun p => p.2.en)).map (·.1)).foldl (fun y p => startReset p (y.part p).words y) y))

/-- The next phase. -/
def toPhase (k : Nat) (pl : Platform) (y : Sys) : Platform × Sys := ({ pl with phase := k }, devstatChanged y)

/-! ### Training (24 R470)

The units by number: memory die m is m, Canopy port k is 12 + k, and the link of dies a < b (the hub is die 24) is 28 + 25a + b. -/

/-- The units that are trained: the memory dies in service, the ports, and the links between dies in service. -/
def trainUnits (y : Sys) : List Nat :=
  (List.range Config.memDies).filter (fun m => (y.memDie m).inSvc) ++ (List.range 16).map (12 + ·) ++
    (((List.range 25).filter (carries y)).flatMap (fun a => ((List.range 25).filter (fun b => a < b && carries y b)).map (fun b => 28 + 25 * a + b)))

/-- The record of a unit is used: its tag verifies, and the restored settings pass the short check. -/
def recordUsed (x : BootInput) (pl : Platform) (u : Nat) : Bool :=
  match mget? pl.records u with
  | none => false
  | some (w, tag) => tag == Config.recordTag u w && !x.badChecks.contains u

/-- A unit is restored from its record, or trained in full: settings that no rule gives, and a new record in flash. -/
def trainUnit (x : BootInput) (r : Platform × Sys) (u : Nat) : Platform × Sys :=
  if recordUsed x r.1 u then ({ r.1 with settings := mset r.1.settings u (mgetD r.1.records u (0, 0)).1 }, r.2)
  else
    let w := Config.freeWord r.2.used
    ({ r.1 with settings := mset r.1.settings u w, records := mset r.1.records u (w, Config.recordTag u w), trained := r.1.trained ++ [u] },
      { r.2 with used := r.2.used + 1 })

/-- Phase 3. -/
def trainAll (x : BootInput) (pl : Platform) (y : Sys) : Platform × Sys := (trainUnits y).foldl (trainUnit x) (pl, y)

/-! ### Self-test (24 R471) -/

/-- The hub, the firmware complex or the host port has failed. -/
def hubFailed (x : BootInput) : Bool := !x.hubOk || x.failed.any (fun u => u.1 == 3)

/-- A unit that fails its self-test: a die goes out of service. -/
def testFailed (y : Sys) (u : Nat × Nat × Nat × Nat) : Sys :=
  if u.1 = 0 && u.2.1 < 8 then computeOut u.2.1 y
  else if u.1 = 1 && u.2.1 < 4 then computeOut (8 + u.2.1) y
  else if u.1 = 2 && u.2.1 < 12 then memoryOut u.2.1 y
  else y

/-- The bytes of an image's segments. -/
def imageBytes (l : List Segment) : Mem := l.foldl (fun m g => wrBytes m g.addr g.bytes) []

/-- The executable segments. -/
def imageSpans (l : List Segment) : List Span := (l.filter (·.x)).map (fun g => ⟨g.addr, g.addr + g.bytes.length⟩)

/-- A steward sequencer starts at `stw_main` (24 R472). -/
def stewardAt (pc : Word) : SeqSt := { steward := true, ae := true, pc := pc }

/-- The monitor loads the image into a die and starts its steward. -/
def startSteward (b : Bundle) (pc : Word) (v : Die) : Die :=
  if v.inSvc then { v with image := imageBytes b.image, imageX := imageSpans b.image, stwVec := 0, stw := stewardAt pc } else v

def startStewards (pl : Platform) (y : Sys) : Sys :=
  match pl.bundle with
  | none => y
  | some b =>
    match b.stwMain with
    | none => y
    | some pc => { y with dies := y.dies.map (fun v => (v.1, startSteward b pc v.2)) }

/-- The end of the phase in progress. -/
def phaseEnds (x : BootInput) (pl : Platform) (y : Sys) : Platform × Sys :=
  if !pl.power || pl.safe then (pl, y)
  else if pl.phase = 0 then toPhase 1 pl y
  else if pl.phase = 1 then
    match verified pl.minSec x with
    | none => goSafe pl y
    | some b => toPhase 2 { pl with bundle := some b, powerUps := satInc pl.powerUps } y
  else if pl.phase = 2 then (if (nextDie y).isSome then (pl, y) else toPhase 3 pl y)
  else if pl.phase = 3 then (let r := trainAll x pl y; toPhase 4 r.1 r.2)
  else if pl.phase = 4 then
    let y := x.failed.foldl testFailed y
    let pl := { pl with failedTests := x.failed }
    if hubFailed x || servingMems y = 0 then goSafe pl y else toPhase 5 pl (startStewards pl y)
  else if pl.phase = 5 then toPhase 6 { pl with ready := true } y
  else (pl, y)

/-- BOOT_PHASE_COMPLETE. -/
def execBootPhaseComplete (x : BootInput) (s : State) : Host.Outcome State Fault Refusal := runPlatState s (phaseEnds x)

/-! ## Links (24 R465) -/

def linkUp (y : Sys) (a b : Nat) : Bool := !y.hub.failedLinks.contains (min a b, max a b)

/-- Two dies reach each other, directly or through a third die. -/
def reaches (y : Sys) (a b : Nat) : Bool :=
  linkUp y a b || (List.range 25).any (fun c => c != a && c != b && carries y c && linkUp y a c && linkUp y c b)

/-- The partition uses a die. -/
def usesDie (p : Part) (d : Nat) : Bool :=
  if d < 12 then p.dieWord d != 0 else p.word (15 + (d - 12)) % 2 ^ 32 != 0 || p.mapDies.contains (d - 12)

/-- A die that has become unreachable goes out of service, and each partition that uses it is reset. -/
def loseDie (y : Sys) (d : Nat) : Sys :=
  if d = hubDie then y
  else
    let y := if d < 12 then stopDrawing d (computeOut d y) else memoryOut (d - 12) y
    ((y.hub.parts.filter (fun p => p.2.en && usesDie p.2 d)).map (·.1)).foldl (fun y p => startReset p (y.part p).words y) y

/-- The pairs of dies in service that no longer reach each other, those with the hub first. -/
def cutPairs (y : Sys) : List (Nat × Nat) :=
  let l := y.hub.failedLinks.filter (fun x => carries y x.1 && carries y x.2 && !reaches y x.1 x.2)
  l.filter (fun x => x.2 == hubDie) ++ l.filter (fun x => x.2 != hubDie)

/-- Working links of a die to dies in service. -/
def linkCount (y : Sys) (d : Nat) : Nat := ((List.range 25).filter (fun c => c != d && carries y c && linkUp y d c)).length

/-- The end that has become unreachable: never the hub; of two dies that both reach the hub, the one with fewer working links, and with as
many the device's choice (log entry 113). -/
def lostEnd (y : Sys) (a b : Nat) : Nat :=
  if b = hubDie then a
  else if linkCount y a < linkCount y b then a
  else if linkCount y b < linkCount y a then b
  else if Config.choose y.used 2 % 2 = 0 then a
  else b

/-- Dies that have become unreachable are lost, until every two in service reach each other. -/
def loseUnreachable : Nat → Sys → Sys
  | 0, y => y
  | n + 1, y =>
    match cutPairs y with
    | [] => y
    | (a, b) :: _ => loseUnreachable n { loseDie y (lostEnd y a b) with used := y.used + 1 }

/-- A link fails: what was on it is sent again through a third die, and the dies that no third die reaches are lost, those whose detour used
the link among them. -/
def linkFailStep (a b : Nat) (y : Sys) : Sys :=
  if a = b || hubDie < a || hubDie < b || !linkUp y a b then y
  else loseUnreachable 25 (y.modHub (fun h => { h with failedLinks := h.failedLinks ++ [(min a b, max a b)] }))

/-- LINK_FAIL. -/
def execLinkFail (x y : Nat) (s : State) : Host.Outcome State Fault Refusal := runEv s (linkFailStep x y)

/-- A module that loses lanes is repaired, or its link goes on at half width. -/
def laneLossStep (a b : Nat) (y : Sys) : Sys :=
  if a = b || hubDie < a || hubDie < b || !linkUp y a b then y
  else
    let half := Config.choose y.used 2 % 2 == 1
    let y := { y with used := y.used + 1 }
    if half && !y.hub.halfLinks.contains (min a b, max a b) then
      y.modHub (fun h => { h with halfLinks := h.halfLinks ++ [(min a b, max a b)] })
    else y

/-- LINK_LANE_LOSS. -/
def execLinkLaneLoss (x y : Nat) (s : State) : Host.Outcome State Fault Refusal := runEv s (laneLossStep x y)

end Sys2Proof.Machine
end

