-- ==== Sys2Proof/Machine/Registers.lean ====
section
/-! DEFINITION. Registers as the host reads them, and writes of registers by the host and by the firmware: sizes (24 R459), places (14 R310,
24 R458) and who may write (17 R359, R368, 18 R374, 21 R424, 23 R440, R453); plug-ins (17 R369). -/

namespace Sys2Proof.Machine

/-! ## What the host reads (14 R310, 24 R458, R459) -/

/-- MB_STAT (24 R462). -/
def mbStat (h : Hub) : Word := BitVec.ofNat 64 (h.mbBusy.toNat * 2 ^ 63 + h.mbLen % 2 ^ 12 * 2 ^ 16 + h.mbResult % 2 ^ 8)

/-- VF_DROP (17 R367). -/
def dropWord (v : Fn) : Word := v.drop.setWidth 64

/-- Registers of PF BAR0, by offset; what is not listed reads 0. -/
def pfBar0Word (pl : Platform) (y : Sys) (off : Nat) : Word :=
  if off = 0 then y.hub.mbCmd
  else if off = 8 then mbStat y.hub
  else if 0x100 ≤ off && off < 0x1000 then BitVec.ofNat 64 (leNat (rdBytes y.hub.mbData (off - 0x100) 8))
  else if off = 0x1000 then rateWord y.gov.upRate y.gov.upBurst
  else if off = 0x1008 then rateWord y.gov.dnRate y.gov.dnBurst
  else if off = 0x1010 then limWord y.gov
  else if off = 0x2000 then devstat pl y
  else if 0x10000 ≤ off && off < 0x10000 + 8 * Config.functions then dropWord (y.fn ((off - 0x10000) / 8))
  else 0

/-- Registers of BAR0 of a virtual function. -/
def vfBar0Word (v : Fn) (off : Nat) : Word :=
  if off = 0 then dropWord v
  else if off = 8 then v.istat.setWidth 64
  else if 0x10 ≤ off && off < 0x90 then
    let w := v.watch ((off - 0x10) / 32)
    match (off - 0x10) % 32 with
    | 0 => w.a
    | 8 => w.t
    | 16 => BitVec.ofNat 64 (w.en.toNat + 2 * w.fired.toNat + 4 * w.xerr.toNat)
    | _ => 0
  else 0

/-- Bytes of one queue page. -/
def queuePage : Nat := 4096

/-- Registers of a queue page: NOTIFY reads 0. -/
def queueWord (u : HQueue) (off : Nat) : Word :=
  if off = 0x8 then u.head.setWidth 64
  else if off = 0x10 then qcfgWord u
  else if off = 0x18 then u.qbase
  else if off = 0x20 then u.qerr
  else if off = 0x28 then BitVec.ofNat 64 u.qerrn
  else 0

/-- The aligned 8 bytes at an offset of a BAR. -/
def barWord (pl : Platform) (y : Sys) (r : RegRef) (off : Nat) : Word :=
  match r with
  | .pfBar0 => pfBar0Word pl y off
  | .vfBar0 f => if f < Config.functions then vfBar0Word (y.fn f) off else 0
  | .vfBar2 f => if queueExists f (off / queuePage) then queueWord ((y.fn f).queue (off / queuePage)) (off % queuePage) else 0
  | _ => 0

/-- A read by the host of `n` bytes: each register's addressed bytes, and no side effect. -/
def hostRead (pl : Platform) (y : Sys) (r : RegRef) (off n : Nat) : List Byte :=
  (List.range n).map (fun i => (leSplit 8 (barWord pl y r ((off + i) / 8 * 8)).toNat).getD ((off + i) % 8) 0)

/-! ## Host registers (14 R310, 24 R458) -/

/-- A whole 8-byte write on the queue page of queue `q`. -/
def writeQueuePage (pl : Platform) (f q o : Nat) (v : Word) (y : Sys) : Sys :=
  if o = 0 then notifyStep f q v y
  else if o = 0x10 then writeQcfg pl f q v y
  else if o = 0x18 then (if (y.fn f).flr then y else writeQbase f q v y)
  else if o = 0x20 then qerrClearStep f q v y
  else if o = 0x28 then qerrnClearStep f q y
  else y

/-- The queues whose registers lie in `n` bytes at `off` of BAR2. -/
def queuesHit (off n : Nat) : List Nat :=
  (List.range ((off % queuePage + n - 1) / queuePage + 1)).filterMap (fun i =>
    let q := off / queuePage + i
    if n != 0 && off < q * queuePage + 0x30 then some q else none)

/-- A partial or misaligned write: a 4-byte write of NOTIFY has its effect or none; any other is an error of each queue whose registers it
touches. -/
def writeQueuePart (f off : Nat) (data : List Byte) (y : Sys) : Sys :=
  let q := off / queuePage
  let n := data.length
  if n = 4 && off % queuePage = 0 then notifyStep f q (BitVec.ofNat 64 (leNat data)) y
  else if n = 4 && off % queuePage = 4 then y
  else (queuesHit off n).foldl (fun y q => if queueExists f q && !(y.fn f).flr then cfgError f q y else y) y

/-- A whole 8-byte write of BAR2. -/
def writeVfBar2 (pl : Platform) (f off : Nat) (v : Word) (y : Sys) : Sys :=
  if queueExists f (off / queuePage) then writeQueuePage pl f (off / queuePage) (off % queuePage) v y else y

def writeVfBar0 (f off : Nat) (v : Word) (y : Sys) : Sys :=
  if Config.functions ≤ f then y
  else if off = 0 then dropClearStep f y
  else if off = 8 then istatClearStep f v y
  else if 0x10 ≤ off && off < 0x90 then
    let k := (off - 0x10) / 32
    match (off - 0x10) % 32 with
    | 0 => writeWatchA f k v y
    | 8 => writeWatchT f k v y
    | 16 => if v.getLsbD 0 then watchArmStep f k v y else watchDisarmStep f k v y
    | _ => y
  else y

/-- A write of MB_DATA: ignored while BUSY. -/
def writeMbData (o : Nat) (v : Word) (y : Sys) : Sys :=
  if y.hub.mbBusy then y else y.modHub (fun h => { h with mbData := wrBytes h.mbData o (leSplit 8 v.toNat) })

def writePfBar0 (off : Nat) (v : Word) (y : Sys) : Sys :=
  if off = 0 then mbCommand v y
  else if 0x100 ≤ off && off < 0x1000 then writeMbData (off - 0x100) v y
  else if 0x10000 ≤ off && off < 0x10000 + 8 * Config.functions then dropClearStep ((off - 0x10000) / 8) y
  else y

/-! ## Registers of the firmware -/

/-- A write of the record of a partition: PC0 commits, PC1 takes effect, the other words are staged (17 R359, R360). -/
def writePtab (pl : Platform) (p n : Nat) (v : Word) (y : Sys) : Sys :=
  if Config.partitions ≤ p then y
  else if n = 1 then pc1Step p v y
  else if n = 0 then writePc0 pl p v y
  else if n < 27 then y.modPart p (fun q => { q with staged := mset q.staged n v })
  else y

/-- A function's range set: VMB0 to VMB7, then VMI0 to VMI7 (11 R245, R246, R249). -/
def writeRangeSet (f n : Nat) (v : Word) (y : Sys) : Sys :=
  if Config.functions ≤ f || 16 ≤ n then y
  else y.modFn f (fun g => { g with ranges :=
    if n < 8 then { g.ranges with vmb := g.ranges.vmb.setIfInBounds n (v &&& 0x01FF_FFFF_FFE0_000F) }
    else { g.ranges with vmi := g.ranges.vmi.setIfInBounds (n - 8) (v &&& 0xFFFF_FFE0_07FF_FFFF) } })

/-- The FW fields of QCFG: WT, AGE and QWD (14 R311). -/
def writeQcfgFw (f q : Nat) (v : Word) (y : Sys) : Sys :=
  let wt := bitsOf v.toNat 44 8
  if !queueExists f q || wt = 0 then y
  else y.modQueue f q (fun u => { u with wt := wt, age := bitsOf v.toNat 32 8, qwd := bitsOf v.toNat 24 8 })

def writePsave (p : Nat) (v : Word) (y : Sys) : Sys :=
  if p < Config.partitions then y.modPart p (fun q => { q with psave := v &&& 0xFFFF_FFFF_FC00_0000 }) else y

/-- DSTOP (23 R440). -/
def writeDstop (p : Nat) (v : Word) (y : Sys) : Sys :=
  if v.getLsbD 63 then debugStopStep p v y
  else if v.getLsbD 62 then debugResumeStep p v y
  else y.modPart p (fun q => { q with stopAll := v.getLsbD 61, stopTag := bitsOf v.toNat 0 16 })

/-- LOG_CFG (23 R445). -/
def writeLogCfg (p : Nat) (v : Word) (y : Sys) : Sys :=
  let n := bitsOf v.toNat 51 5
  if n < 8 || 24 < n then y
  else y.modPart p (fun q =>
    { q with logCfg := v &&& 0x80F8_FF00_0000_0000, logHead := if v.getLsbD 63 && !bitOf q.logCfg.toNat 63 then 0 else q.logHead })

/-- CK_CFG (23 R448). -/
def writeCkCfg (p : Nat) (v : Word) (y : Sys) : Sys :=
  let t := bitsOf v.toNat 48 14
  if t = 0 || 10000 < t || bitsOf v.toNat 40 8 = 0 then y
  else y.modPart p (fun q =>
    { q with ckCfg := v &&& 0xBFFF_FF00_0000_0000, ckNs := if v.getLsbD 63 && !bitOf q.ckCfg.toNat 63 && q.ckNext = 0 then 0 else q.ckNs })

/-- RP_CTL (23 R453). -/
def writeRpCtl (p : Nat) (v : Word) (y : Sys) : Sys :=
  if v.getLsbD 63 then replayStartStep p v y
  else y.modPart p (fun q => { q with rpCtl := (q.rpCtl &&& 0x8000_0000_0000_0000) ||| (v &&& 0x4000_0000_FFFF_FFFF) })

/-- PMCk: OVF and COUNT of a counter whose event is implemented (23 R455, R456). -/
def writePmc (p k : Nat) (v : Word) (y : Sys) : Sys :=
  y.modPart p (fun q => if implemented (bitsOf (mgetD q.pmsel k 0).toNat 0 16) then { q with pmc := mset q.pmc k (v &&& 0x4000_FFFF_FFFF_FFFF) } else q)

/-- The debug registers of a partition, by number: 0 DSTOP, 1 DBG_AREA, 2 LOG_BASE, 3 LOG_CFG, 4 CK_CFG, 5 CK_BASE, 6 CK_SIZE, 7 CK_STAT,
8 RP_CTL, 9 PSID, 16 + k PMSELk, 32 + k PMCk. -/
def writeDbg (p n : Nat) (v : Word) (y : Sys) : Sys :=
  if Config.partitions ≤ p then y
  else if n = 0 then writeDstop p v y
  else if n = 1 then y.modPart p (fun q => { q with dbgArea := v &&& 0x0000_FFFF_FFFF_F000 })
  else if n = 2 then y.modPart p (fun q => { q with logBase := v &&& 0x0000_FFFF_FFFF_F000 })
  else if n = 3 then writeLogCfg p v y
  else if n = 4 then writeCkCfg p v y
  else if n = 5 then y.modPart p (fun q => { q with ckBase := v &&& 0x0000_FFFF_FC00_0000 })
  else if n = 6 then y.modPart p (fun q => if bitOf q.ckCfg.toNat 63 then q else { q with ckSize := v &&& 0xFFFF })
  else if n = 7 then y.modPart p (fun q => if v.getLsbD 63 then { q with ckFail := false } else q)
  else if n = 8 then writeRpCtl p v y
  else if n = 9 then y.modPart p (fun q => { q with psid := (v &&& 0xFFFF_FFFF_0000_0000) ||| (q.psid &&& 0xFFFF_FFFF) })
  else if 16 ≤ n && n < 32 then pmselStep p (n - 16) v y
  else if 32 ≤ n && n < 48 then writePmc p (n - 32) v y
  else y

/-- Registers that the monitor may write as well as the scheduler (23 R453). -/
def monitorToo (n : Nat) : Bool := n == 1 || n == 2 || n == 5 || n == 6 || n == 7 || n == 8

/-- DBPk_C and DBPk_V (23 R444). -/
def writeDbp (p n : Nat) (v : Word) (y : Sys) : Sys :=
  let k := n / 2
  if Config.partitions ≤ p || 4 ≤ k then y
  else if n % 2 = 1 then y.modPart p (fun q => { q with dbp := mset q.dbp k ((q.bp k).1, v) })
  else if 3 ≤ bitsOf v.toNat 60 3 then y
  else y.modPart p (fun q => { q with dbp := mset q.dbp k (v &&& 0xFFC0_0000_0000_FFFF, (q.bp k).2) })

/-- WKC0 to WKC3 (18 R374). -/
def writeWkc (md n : Nat) (v : Word) (y : Sys) : Sys :=
  if Config.memDies ≤ md then y
  else if n = 0 then writeWkc0 md v y
  else y.modMem md (fun m => if m.busy then m else { m with wkc := m.wkc.setIfInBounds n v })

/-! ## MSI-X masks (24 R460) -/

/-- Masks of the vectors in bits [4:0], the function's mask in bit 31 (log entry 109). -/
def Msix.write (m : Msix) (v : Word) (sent : List Nat) : Msix × List Nat := m.setMask (v.truncate 5) (v.getLsbD 31) sent

/-- A configuration write, which a function that is being reset ignores (17 R366). -/
def writeVfMsix (f : Nat) (v : Word) (y : Sys) : Sys :=
  if Config.functions ≤ f || (y.fn f).flr then y
  else y.modFn f (fun g => { g with msix := (g.msix.write v g.msgs).1, msgs := (g.msix.write v g.msgs).2 })

def writePfMsix (v : Word) (y : Sys) : Sys :=
  y.modHub (fun h => { h with pfMsix := (h.pfMsix.write v h.pfMsgs).1, pfMsgs := (h.pfMsix.write v h.pfMsgs).2 })

/-! ## The firmware's layers (17 R359, R368, R369) -/

/-- A layer may write a register or memory of the management space. -/
def mayWrite (who : Priv) (r : RegRef) (n : Nat) : Bool :=
  match r, who with
  | .ptab _, .monitor => true
  | .ptab _, .scheduler => n == 1
  | .ptErr, .monitor => true
  | .pmp, .monitor => true
  | .dbg _, .monitor => monitorToo n
  | .ptab _, _ => false
  | .ptErr, _ => false
  | .pmp, _ => false
  | .plugRegion f, .plugin g => f == g
  | .plugCall f, .plugin g => f == g
  | _, .scheduler => true
  | _, _ => false

/-- A plug-in reads its own region and nothing else; the other layers read the whole management space. -/
def mayRead (who : Priv) (r : RegRef) : Bool :=
  match who, r with
  | .plugin f, .plugRegion g => f == g
  | .plugin _, _ => false
  | .host, _ => false
  | _, _ => true

def modPlug (f : Nat) (u : Plugin → Plugin) (y : Sys) : Sys :=
  if Config.functions ≤ f then y else y.modFn f (fun v => { v with plug := u v.plug })

/-- A plug-in that faults is stopped. -/
def stopPlug (who : Priv) (y : Sys) : Sys :=
  match who with
  | .plugin f => modPlug f (fun p => { p with left := none, done := false }) y
  | _ => y

/-- A write that is refused: a RISC-V access fault of the layer that made it. -/
def accessFault (who : Priv) (r : RegRef) (off : Nat) (y : Sys) : Sys :=
  (stopPlug who y).modHub (fun h => { h with accessFaults := h.accessFaults ++ [(who, r, off)] })

/-- Bytes of a plug-in's region (log entry 112). -/
def regionBytes : Nat := 4096

/-- How many bytes of its region the PMP grants the plug-in of a function: what the monitor has written to the entry of that number, none
before (17 R368; log entry 112). The scheduler's reach in it is the whole region. -/
def granted (who : Priv) (f : Nat) (y : Sys) : Nat :=
  match who with
  | .plugin _ => min regionBytes (mgetD y.hub.pmp f 0).toNat
  | _ => regionBytes

/-- A write into a plug-in's region, as far as the PMP lets the layer reach. -/
def writeRegion (who : Priv) (f off : Nat) (data : List Byte) (y : Sys) : Sys :=
  if granted who f y < off + data.length then accessFault who (.plugRegion f) off y
  else modPlug f (fun p => { p with region := wrBytes p.region off data }) y

/-- The scheduler calls a plug-in on a budget; or the plug-in returns. -/
def callPlug (who : Priv) (f : Nat) (v : Word) (y : Sys) : Sys :=
  modPlug f (fun p => match who with
    | .plugin _ => { p with left := none, done := p.left.isSome }
    | _ => { p with left := some v.toNat, done := false }) y

def clampTo (lo hi v : Nat) : Nat := max lo (min hi v)

/-- A proposal clamped to the scheduler's limits: WT, AGE and QWD at their places in QCFG. -/
def clampProposal (p : Plugin) (v : Nat) : Word :=
  let fld (o : Nat) : Nat := clampTo (bitsOf p.lo.toNat o 8) (bitsOf p.hi.toNat o 8) (bitsOf v o 8) * 2 ^ o
  BitVec.ofNat 64 (fld 44 + fld 32 + fld 24)

/-- The scheduler takes the proposal for a queue that a plug-in which has returned left in its region. -/
def takeProposal (f q : Nat) (y : Sys) : Sys :=
  let p := (y.fn f).plug
  if p.done then writeQcfgFw f q (clampProposal p (leNat (rdBytes p.region (8 * q) 8))) y else y

/-- A write of the steward memory of a die (22 R435). -/
def writeStewardMem (d off : Nat) (data : List Byte) (y : Sys) : Sys :=
  if Config.computeDies ≤ d || Config.stewardBytes < off + data.length then y
  else y.modDie d (fun v => { v with
    smem := wrBytes v.smem off data
    smemBad := v.smemBad.filter (fun a => a < off || off + data.length ≤ a) })

/-- GOV_UP, GOV_DN and GOV_LIM (15 R337). -/
def writeGov (n : Nat) (v : Word) (y : Sys) : Sys :=
  if n < 2 then { y with gov := writeRate (n == 1) v y.gov }
  else if n = 2 then { y with gov := writeLim v y.gov }
  else y

/-! ## REGISTER_WRITE (24 R459) -/

/-- A whole 8-byte write of the host. -/
def hostWord (pl : Platform) (r : RegRef) (off : Nat) (v : Word) (y : Sys) : Sys :=
  match r with
  | .vfBar2 f => writeVfBar2 pl f off v y
  | .vfBar0 f => writeVfBar0 f off v y
  | .pfBar0 => writePfBar0 off v y
  | .vfMsix f => if off = 0 then writeVfMsix f v y else y
  | .pfMsix => if off = 0 then writePfMsix v y else y
  | _ => y

/-- The doublewords of a write, in ascending order. -/
def hostWords (pl : Platform) (r : RegRef) : Nat → Nat → List Byte → Sys → Sys
  | 0, _, _, y => y
  | n + 1, off, data, y => hostWords pl r n (off + 8) (data.drop 8) (hostWord pl r off (BitVec.ofNat 64 (leNat (data.take 8))) y)

/-- A write of the host: whole aligned doublewords one after another (in one step, log entry 108), or a partial write. -/
def hostWrite (pl : Platform) (r : RegRef) (off : Nat) (data : List Byte) (y : Sys) : Sys :=
  if off % 8 = 0 && data.length % 8 = 0 then hostWords pl r (data.length / 8) off data y
  else match r with
    | .vfBar2 f => writeQueuePart f off data y
    | _ => y

/-- A whole 8-byte write of the firmware, to register `n` of a space. -/
def fwWord (who : Priv) (pl : Platform) (r : RegRef) (n : Nat) (v : Word) (y : Sys) : Sys :=
  match r with
  | .ptab p => writePtab pl p n v y
  | .rangeSet f => writeRangeSet f n v y
  | .qcfgFw f q => if n = 0 then writeQcfgFw f q v y else y
  | .psave p => if n = 0 then writePsave p v y else y
  | .dbg p => writeDbg p n v y
  | .dbp p => writeDbp p n v y
  | .wkc md => writeWkc md n v y
  | .vfCfg f => if n = 0 then vfCfgStep f v y else y
  | .gov => writeGov n v y
  | .ptErr => if n = 0 then y.modHub (fun h => { h with ptErr := v &&& 0xFFFF }) else y
  | .pmp => y.modHub (fun h => { h with pmp := mset h.pmp n v })
  | .plugCall f => if n = 0 then callPlug who f v y else y
  | .plugLimits f => modPlug f (fun p => if n = 0 then { p with lo := v } else if n = 1 then { p with hi := v } else p) y
  | .plugTake f q => if n = 0 then takeProposal f q y else y
  | _ => y

/-- A write of the firmware: of memory, any bytes; of a register, all 8. A layer that may not write takes an access fault. -/
def fwWrite (who : Priv) (pl : Platform) (r : RegRef) (off : Nat) (data : List Byte) (y : Sys) : Sys :=
  if !mayWrite who r (off / 8) then accessFault who r off y
  else match r with
    | .stewardMem d => writeStewardMem d off data y
    | .plugRegion f => writeRegion who f off data y
    | _ => if data.length = 8 && off % 8 = 0 then fwWord who pl r (off / 8) (BitVec.ofNat 64 (leNat data)) y else y

/-- The firmware of the layer runs: a plug-in only while its budget lasts. -/
def layerRuns (who : Priv) (y : Sys) : Bool :=
  match who with
  | .plugin f => (y.fn f).plug.left.isSome
  | _ => true

/-- A read by a layer of the firmware: the bytes of a plug-in's region; none is an access fault. -/
def regionRead (who : Priv) (f off n : Nat) (y : Sys) : Option (List Byte) :=
  if mayRead who (.plugRegion f) && off + n ≤ granted who f y then some (rdBytes (y.fn f).plug.region off n) else none

/-- A layer may read `n` bytes of a space: a plug-in within its own region and no other space (17 R369). -/
def readOpen (who : Priv) (r : RegRef) (off n : Nat) (y : Sys) : Bool :=
  match r with
  | .plugRegion f => (regionRead who f off n y).isSome
  | _ => mayRead who r

/-- What a read by a layer of the firmware does: nothing, or when it is refused an access fault, which stops a plug-in (17 R369). -/
def fwRead (who : Priv) (r : RegRef) (off n : Nat) (y : Sys) : Sys := if readOpen who r off n y then y else accessFault who r off y

/-- A write of a register; without bytes, a read of `n` bytes by the firmware (log entry 112). -/
def registerStep (who : Priv) (r : RegRef) (off n : Nat) (data : List Byte) (pl : Platform) (y : Sys) : Sys :=
  if who = .host then hostWrite pl r off data y
  else if !layerRuns who y then y
  else if data.isEmpty then fwRead who r off n y
  else fwWrite who pl r off data y

/-- REGISTER_WRITE: the bytes written are the low `size` bytes of `v`, little-endian. -/
def execRegisterWrite (who : Priv) (r : RegRef) (off size v : Nat) (s : State) : Host.Outcome State Fault Refusal :=
  runPlat s (registerStep who r off v (leSplit size v))

end Sys2Proof.Machine
end

