-- ==== Sys2Proof/Machine/Walk.lean ====
section
/-! DEFINITION. The walk set-up instructions (05 R121). -/

namespace Sys2Proof.Machine

/-- v of 05 R121. -/
def walkOff (a : BitVec 5) (i : BitVec 32) (q : SeqSt) : Word := q.rg a + sx i

/-- The cause of a descriptor's offset (05 R121). -/
def walkTrap (y : Sys) (r : SeqRef) (v : Word) : Option Trap := accessTrap y r v 64

/-- `wld`: a reserved bit is reported before uncorrectable bytes, as 20 R396 ranks the two causes (log entry 31). -/
def wldStep (w : BitVec 3) (a : BitVec 5) (i : BitVec 32) (r : SeqRef) (y : Sys) : Res :=
  let q := y.seq r
  let v := walkOff a i q
  unpoisoned q [a]
    (match walkTrap y r v with
     | some t => .trap t
     | none =>
       if seqBlocked y r (spanAt v 64) [] then .stall y
       else
         let bs := y.seqRead r v.toNat 64
         match walkOf (bs.map (·.1)) with
         | none => .trap { code := cReserved }
         | some k => if bs.any (·.2) then .trap { code := cMachineCheck, addr1 := v } else done y r (fun q => q.setWk w k))

/-- `wld` (05 R121). -/
def execWld (w : BitVec 3) (a : BitVec 5) (i : BitVec 32) (s : State) : Host.Outcome State Fault Refusal :=
  runSeq s 8 (wldStep w a i)

def wstStep (w : BitVec 3) (a : BitVec 5) (i : BitVec 32) (r : SeqRef) (y : Sys) : Res :=
  let q := y.seq r
  let v := walkOff a i q
  unpoisoned q [a]
    (match walkTrap y r v with
     | some t => .trap t
     | none =>
       if seqBlocked y r [] (spanAt v 64) then .stall y
       else .ok (y.seqWrite r v.toNat (walkDesc (q.wk w))) none)

/-- `wst` (05 R121). -/
def execWst (w : BitVec 3) (a : BitVec 5) (i : BitVec 32) (s : State) : Host.Outcome State Fault Refusal :=
  runSeq s 8 (wstStep w a i)

/-- `wbase` (05 R121). -/
def execWbase (w : BitVec 3) (a : BitVec 5) (i : BitVec 32) (s : State) : Host.Outcome State Fault Refusal :=
  runSeq s 8 (fun r y => unpoisoned (y.seq r) [a]
    (done y r (fun q => q.setWk w { q.wk w with base := walkOff a i q })))

/-- `wbnd`: v outside 0 to 65,535 is OPERAND_RECORD (05 R121). -/
def wbndStep (w k : BitVec 3) (a : BitVec 5) (i : BitVec 32) (r : SeqRef) (y : Sys) : Res :=
  let q := y.seq r
  let v := walkOff a i q
  unpoisoned q [a]
    (if 65535 < v.toNat then .trap (operandCode 0)
     else done y r (fun q => q.setWk w { q.wk w with bound := (q.wk w).bound.setIfInBounds k.toNat (v.truncate 16) }))

def execWbnd (w k : BitVec 3) (a : BitVec 5) (i : BitVec 32) (s : State) : Host.Outcome State Fault Refusal :=
  runSeq s 8 (wbndStep w k a i)

/-- `wstr`: v outside -2^31 to 2^31 - 1 is OPERAND_RECORD (05 R121). -/
def wstrStep (w k : BitVec 3) (a : BitVec 5) (i : BitVec 32) (r : SeqRef) (y : Sys) : Res :=
  let q := y.seq r
  let v := walkOff a i q
  unpoisoned q [a]
    (if v.toInt < -(2 ^ 31) || 2 ^ 31 ≤ v.toInt then .trap (operandCode 0)
     else done y r (fun q => q.setWk w { q.wk w with stride := (q.wk w).stride.setIfInBounds k.toNat (v.truncate 32) }))

def execWstr (w k : BitVec 3) (a : BitVec 5) (i : BitVec 32) (s : State) : Host.Outcome State Fault Refusal :=
  runSeq s 8 (wstrStep w k a i)

/-- `wclr` (05 R121). -/
def execWclr (w : BitVec 3) (s : State) : Host.Outcome State Fault Refusal :=
  runSeq s 8 (fun r y => done y r (fun q => q.setWk w {}))

end Sys2Proof.Machine
end

