-- ==== Sys2Proof/Machine/Dispatch.lean ====
section
/-! DEFINITION. The dispatcher: one arm for each instruction, strip word and event. -/

namespace Sys2Proof.Machine

/-- The meaning of an instruction. -/
def exec (i : Instr) (s : State) : Host.Outcome State Fault Refusal :=
  match i with
  | .add x1 x2 x3 => Sys2Proof.Machine.execAdd x1 x2 x3 s
  | .sub x1 x2 x3 => Sys2Proof.Machine.execSub x1 x2 x3 s
  | .and x1 x2 x3 => Sys2Proof.Machine.execAnd x1 x2 x3 s
  | .or x1 x2 x3 => Sys2Proof.Machine.execOr x1 x2 x3 s
  | .xor x1 x2 x3 => Sys2Proof.Machine.execXor x1 x2 x3 s
  | .andn x1 x2 x3 => Sys2Proof.Machine.execAndn x1 x2 x3 s
  | .sll x1 x2 x3 => Sys2Proof.Machine.execSll x1 x2 x3 s
  | .srl x1 x2 x3 => Sys2Proof.Machine.execSrl x1 x2 x3 s
  | .sra x1 x2 x3 => Sys2Proof.Machine.execSra x1 x2 x3 s
  | .rol x1 x2 x3 => Sys2Proof.Machine.execRol x1 x2 x3 s
  | .ror x1 x2 x3 => Sys2Proof.Machine.execRor x1 x2 x3 s
  | .minS64 x1 x2 x3 => Sys2Proof.Machine.execMinS64 x1 x2 x3 s
  | .minN64 x1 x2 x3 => Sys2Proof.Machine.execMinN64 x1 x2 x3 s
  | .maxS64 x1 x2 x3 => Sys2Proof.Machine.execMaxS64 x1 x2 x3 s
  | .maxN64 x1 x2 x3 => Sys2Proof.Machine.execMaxN64 x1 x2 x3 s
  | .sltS64 x1 x2 x3 => Sys2Proof.Machine.execSltS64 x1 x2 x3 s
  | .sltN64 x1 x2 x3 => Sys2Proof.Machine.execSltN64 x1 x2 x3 s
  | .seq x1 x2 x3 => Sys2Proof.Machine.execSeq x1 x2 x3 s
  | .sne x1 x2 x3 => Sys2Proof.Machine.execSne x1 x2 x3 s
  | .mul x1 x2 x3 => Sys2Proof.Machine.execMul x1 x2 x3 s
  | .mulhS64 x1 x2 x3 => Sys2Proof.Machine.execMulhS64 x1 x2 x3 s
  | .mulhN64 x1 x2 x3 => Sys2Proof.Machine.execMulhN64 x1 x2 x3 s
  | .divS64 x1 x2 x3 => Sys2Proof.Machine.execDivS64 x1 x2 x3 s
  | .divN64 x1 x2 x3 => Sys2Proof.Machine.execDivN64 x1 x2 x3 s
  | .remS64 x1 x2 x3 => Sys2Proof.Machine.execRemS64 x1 x2 x3 s
  | .remN64 x1 x2 x3 => Sys2Proof.Machine.execRemN64 x1 x2 x3 s
  | .clz x1 x2 => Sys2Proof.Machine.execClz x1 x2 s
  | .ctz x1 x2 => Sys2Proof.Machine.execCtz x1 x2 s
  | .popc x1 x2 => Sys2Proof.Machine.execPopc x1 x2 s
  | .extS8 x1 x2 => Sys2Proof.Machine.execExtS8 x1 x2 s
  | .extS16 x1 x2 => Sys2Proof.Machine.execExtS16 x1 x2 s
  | .extS32 x1 x2 => Sys2Proof.Machine.execExtS32 x1 x2 s
  | .extN8 x1 x2 => Sys2Proof.Machine.execExtN8 x1 x2 s
  | .extN16 x1 x2 => Sys2Proof.Machine.execExtN16 x1 x2 s
  | .extN32 x1 x2 => Sys2Proof.Machine.execExtN32 x1 x2 s
  | .addi x1 x2 x3 => Sys2Proof.Machine.execAddi x1 x2 x3 s
  | .andi x1 x2 x3 => Sys2Proof.Machine.execAndi x1 x2 x3 s
  | .ori x1 x2 x3 => Sys2Proof.Machine.execOri x1 x2 x3 s
  | .xori x1 x2 x3 => Sys2Proof.Machine.execXori x1 x2 x3 s
  | .slli x1 x2 x3 => Sys2Proof.Machine.execSlli x1 x2 x3 s
  | .srli x1 x2 x3 => Sys2Proof.Machine.execSrli x1 x2 x3 s
  | .srai x1 x2 x3 => Sys2Proof.Machine.execSrai x1 x2 x3 s
  | .sltiS64 x1 x2 x3 => Sys2Proof.Machine.execSltiS64 x1 x2 x3 s
  | .sltiN64 x1 x2 x3 => Sys2Proof.Machine.execSltiN64 x1 x2 x3 s
  | .seqi x1 x2 x3 => Sys2Proof.Machine.execSeqi x1 x2 x3 s
  | .li x1 x2 => Sys2Proof.Machine.execLi x1 x2 s
  | .lhi x1 x2 => Sys2Proof.Machine.execLhi x1 x2 s
  | .addl x1 x2 => Sys2Proof.Machine.execAddl x1 x2 s
  | .ldS8 x1 x2 x3 => Sys2Proof.Machine.execLdS8 x1 x2 x3 s
  | .ldN8 x1 x2 x3 => Sys2Proof.Machine.execLdN8 x1 x2 x3 s
  | .ldS16 x1 x2 x3 => Sys2Proof.Machine.execLdS16 x1 x2 x3 s
  | .ldN16 x1 x2 x3 => Sys2Proof.Machine.execLdN16 x1 x2 x3 s
  | .ldS32 x1 x2 x3 => Sys2Proof.Machine.execLdS32 x1 x2 x3 s
  | .ldN32 x1 x2 x3 => Sys2Proof.Machine.execLdN32 x1 x2 x3 s
  | .ldN64 x1 x2 x3 => Sys2Proof.Machine.execLdN64 x1 x2 x3 s
  | .ldxN64 x1 x2 x3 => Sys2Proof.Machine.execLdxN64 x1 x2 x3 s
  | .stN8 x1 x2 x3 => Sys2Proof.Machine.execStN8 x1 x2 x3 s
  | .stN16 x1 x2 x3 => Sys2Proof.Machine.execStN16 x1 x2 x3 s
  | .stN32 x1 x2 x3 => Sys2Proof.Machine.execStN32 x1 x2 x3 s
  | .stN64 x1 x2 x3 => Sys2Proof.Machine.execStN64 x1 x2 x3 s
  | .stxN64 x1 x2 x3 => Sys2Proof.Machine.execStxN64 x1 x2 x3 s
  | .ldDfr x1 x2 x3 => Sys2Proof.Machine.execLdDfr x1 x2 x3 s
  | .vouch x1 x2 => Sys2Proof.Machine.execVouch x1 x2 s
  | .beq x1 x2 x3 x4 => Sys2Proof.Machine.execBeq x1 x2 x3 x4 s
  | .bne x1 x2 x3 x4 => Sys2Proof.Machine.execBne x1 x2 x3 x4 s
  | .bltS64 x1 x2 x3 x4 => Sys2Proof.Machine.execBltS64 x1 x2 x3 x4 s
  | .bgeS64 x1 x2 x3 x4 => Sys2Proof.Machine.execBgeS64 x1 x2 x3 x4 s
  | .bltN64 x1 x2 x3 x4 => Sys2Proof.Machine.execBltN64 x1 x2 x3 x4 s
  | .bgeN64 x1 x2 x3 x4 => Sys2Proof.Machine.execBgeN64 x1 x2 x3 x4 s
  | .bbs x1 x2 x3 x4 => Sys2Proof.Machine.execBbs x1 x2 x3 x4 s
  | .bbc x1 x2 x3 x4 => Sys2Proof.Machine.execBbc x1 x2 x3 x4 s
  | .dbnz x1 x2 x3 => Sys2Proof.Machine.execDbnz x1 x2 x3 s
  | .j x1 x2 => Sys2Proof.Machine.execJ x1 x2 s
  | .call x1 x2 => Sys2Proof.Machine.execCall x1 x2 s
  | .jf x1 x2 => Sys2Proof.Machine.execJf x1 x2 s
  | .callf x1 x2 => Sys2Proof.Machine.execCallf x1 x2 s
  | .bzf x1 x2 x3 => Sys2Proof.Machine.execBzf x1 x2 x3 s
  | .bnzf x1 x2 x3 => Sys2Proof.Machine.execBnzf x1 x2 x3 s
  | .bltzf x1 x2 x3 => Sys2Proof.Machine.execBltzf x1 x2 x3 s
  | .bgezf x1 x2 x3 => Sys2Proof.Machine.execBgezf x1 x2 x3 s
  | .jr x1 => Sys2Proof.Machine.execJr x1 s
  | .callr x1 => Sys2Proof.Machine.execCallr x1 s
  | .ret => Sys2Proof.Machine.execRet s
  | .nest x1 x2 x3 => Sys2Proof.Machine.execNest x1 x2 x3 s
  | .tret => Sys2Proof.Machine.execTret s
  | .semWait x1 x2 => Sys2Proof.Machine.execSemWait x1 x2 s
  | .semSig x1 x2 x3 => Sys2Proof.Machine.execSemSig x1 x2 x3 s
  | .semGet x1 x2 => Sys2Proof.Machine.execSemGet x1 x2 s
  | .semTry x1 x2 x3 => Sys2Proof.Machine.execSemTry x1 x2 x3 s
  | .tlWait x1 x2 => Sys2Proof.Machine.execTlWait x1 x2 s
  | .tlGet x1 x2 => Sys2Proof.Machine.execTlGet x1 x2 s
  | .tlTry x1 x2 x3 => Sys2Proof.Machine.execTlTry x1 x2 x3 s
  | .fenceF => Sys2Proof.Machine.execFenceF s
  | .fenceD => Sys2Proof.Machine.execFenceD s
  | .fenceP => Sys2Proof.Machine.execFenceP s
  | .fenceS => Sys2Proof.Machine.execFenceS s
  | .gvRsv x1 => Sys2Proof.Machine.execGvRsv x1 s
  | .gvRel x1 => Sys2Proof.Machine.execGvRel x1 s
  | .gvStat x1 x2 => Sys2Proof.Machine.execGvStat x1 x2 s
  | .gvSet x1 x2 => Sys2Proof.Machine.execGvSet x1 x2 s
  | .lsAsk x1 x2 => Sys2Proof.Machine.execLsAsk x1 x2 s
  | .lsDrop x1 => Sys2Proof.Machine.execLsDrop x1 s
  | .lsStat x1 x2 => Sys2Proof.Machine.execLsStat x1 x2 s
  | .mfc x1 x2 => Sys2Proof.Machine.execMfc x1 x2 s
  | .mtc x1 x2 => Sys2Proof.Machine.execMtc x1 x2 s
  | .trap x1 => Sys2Proof.Machine.execTrap x1 s
  | .brk x1 => Sys2Proof.Machine.execBrk x1 s
  | .yield => Sys2Proof.Machine.execYield s
  | .tend => Sys2Proof.Machine.execTend s
  | .nop => Sys2Proof.Machine.execNop s
  | .smap x1 x2 => Sys2Proof.Machine.execSmap x1 x2 s
  | .csave x1 x2 => Sys2Proof.Machine.execCsave x1 x2 s
  | .crest x1 x2 => Sys2Proof.Machine.execCrest x1 x2 s
  | .clmStart x1 x2 => Sys2Proof.Machine.execClmStart x1 x2 s
  | .clmPreq x1 x2 => Sys2Proof.Machine.execClmPreq x1 x2 s
  | .clmPclr x1 x2 => Sys2Proof.Machine.execClmPclr x1 x2 s
  | .clmIntr x1 x2 => Sys2Proof.Machine.execClmIntr x1 x2 s
  | .clmUnpark x1 x2 => Sys2Proof.Machine.execClmUnpark x1 x2 s
  | .cpres x1 x2 => Sys2Proof.Machine.execCpres x1 x2 s
  | .qsc x1 x2 => Sys2Proof.Machine.execQsc x1 x2 s
  | .ewait x1 x2 => Sys2Proof.Machine.execEwait x1 x2 s
  | .halt => Sys2Proof.Machine.execHalt s
  | .smget x1 x2 x3 => Sys2Proof.Machine.execSmget x1 x2 x3 s
  | .wld x1 x2 x3 => Sys2Proof.Machine.execWld x1 x2 x3 s
  | .wst x1 x2 x3 => Sys2Proof.Machine.execWst x1 x2 x3 s
  | .wbase x1 x2 x3 => Sys2Proof.Machine.execWbase x1 x2 x3 s
  | .wbnd x1 x2 x3 x4 => Sys2Proof.Machine.execWbnd x1 x2 x3 x4 s
  | .wstr x1 x2 x3 x4 => Sys2Proof.Machine.execWstr x1 x2 x3 x4 s
  | .wclr x1 => Sys2Proof.Machine.execWclr x1 s
  | .mxLdb x1 x2 x3 x4 => Sys2Proof.Machine.execMxLdb x1 x2 x3 x4 s
  | .mxSpm x1 x2 => Sys2Proof.Machine.execMxSpm x1 x2 s
  | .mxRun x1 x2 x3 x4 x5 x6 => Sys2Proof.Machine.execMxRun x1 x2 x3 x4 x5 x6 s
  | .mxDrn x1 x2 x3 x4 => Sys2Proof.Machine.execMxDrn x1 x2 x3 x4 s
  | .mxDrnx x1 x2 x3 => Sys2Proof.Machine.execMxDrnx x1 x2 x3 s
  | .mxFill x1 x2 x3 => Sys2Proof.Machine.execMxFill x1 x2 x3 s
  | .mxClr x1 x2 x3 => Sys2Proof.Machine.execMxClr x1 x2 x3 s
  | .mxDead x1 x2 x3 => Sys2Proof.Machine.execMxDead x1 x2 x3 s
  | .mxChn x1 x2 x3 => Sys2Proof.Machine.execMxChn x1 x2 x3 s
  | .mxByp x1 x2 => Sys2Proof.Machine.execMxByp x1 x2 s
  | .mxSpl x1 x2 => Sys2Proof.Machine.execMxSpl x1 x2 s
  | .mxFrm x1 => Sys2Proof.Machine.execMxFrm x1 s
  | .cpBlk x1 x2 x3 => Sys2Proof.Machine.execCpBlk x1 x2 x3 s
  | .cpWalk x1 x2 x3 x4 x5 => Sys2Proof.Machine.execCpWalk x1 x2 x3 x4 x5 s
  | .cpFill x1 x2 x3 => Sys2Proof.Machine.execCpFill x1 x2 x3 s
  | .cpTrn x1 x2 x3 => Sys2Proof.Machine.execCpTrn x1 x2 x3 s
  | .cpGat x1 x2 x3 => Sys2Proof.Machine.execCpGat x1 x2 x3 s
  | .cpSca x1 x2 x3 => Sys2Proof.Machine.execCpSca x1 x2 x3 s
  | .cpRed x1 x2 x3 x4 => Sys2Proof.Machine.execCpRed x1 x2 x3 x4 s
  | .cpAmo x1 x2 x3 => Sys2Proof.Machine.execCpAmo x1 x2 x3 s
  | .cpAmor x1 x2 x3 => Sys2Proof.Machine.execCpAmor x1 x2 x3 s
  | .cpSig x1 x2 x3 x4 => Sys2Proof.Machine.execCpSig x1 x2 x3 x4 s
  | .cpSigw x1 x2 x3 => Sys2Proof.Machine.execCpSigw x1 x2 x3 s
  | .cpSigr x1 x2 x3 => Sys2Proof.Machine.execCpSigr x1 x2 x3 s
  | .cpRw x1 x2 x3 x4 x5 => Sys2Proof.Machine.execCpRw x1 x2 x3 x4 x5 s
  | .cpLand x1 x2 x3 => Sys2Proof.Machine.execCpLand x1 x2 x3 s
  | .cpLrev x1 x2 x3 => Sys2Proof.Machine.execCpLrev x1 x2 x3 s
  | .xbBind x1 x2 => Sys2Proof.Machine.execXbBind x1 x2 s
  | .xbFree x1 x2 => Sys2Proof.Machine.execXbFree x1 x2 s
  | .xbProg x1 x2 x3 => Sys2Proof.Machine.execXbProg x1 x2 x3 s
  | .xbFeed x1 x2 x3 x4 x5 x6 => Sys2Proof.Machine.execXbFeed x1 x2 x3 x4 x5 x6 s
  | .xbTake x1 x2 x3 x4 x5 => Sys2Proof.Machine.execXbTake x1 x2 x3 x4 x5 s
  | .xbSeed x1 x2 x3 x4 => Sys2Proof.Machine.execXbSeed x1 x2 x3 x4 s
  | .xAdd x1 x2 x3 x4 x5 x6 => Sys2Proof.Machine.execXAdd x1 x2 x3 x4 x5 x6 s
  | .xSub x1 x2 x3 x4 x5 x6 => Sys2Proof.Machine.execXSub x1 x2 x3 x4 x5 x6 s
  | .xMul x1 x2 x3 x4 x5 x6 => Sys2Proof.Machine.execXMul x1 x2 x3 x4 x5 x6 s
  | .xMin x1 x2 x3 x4 x5 => Sys2Proof.Machine.execXMin x1 x2 x3 x4 x5 s
  | .xMax x1 x2 x3 x4 x5 => Sys2Proof.Machine.execXMax x1 x2 x3 x4 x5 s
  | .xAbs x1 x2 x3 x4 x5 => Sys2Proof.Machine.execXAbs x1 x2 x3 x4 x5 s
  | .xNeg x1 x2 x3 x4 x5 => Sys2Proof.Machine.execXNeg x1 x2 x3 x4 x5 s
  | .xAnd x1 x2 x3 x4 x5 x6 => Sys2Proof.Machine.execXAnd x1 x2 x3 x4 x5 x6 s
  | .xOr x1 x2 x3 x4 x5 x6 => Sys2Proof.Machine.execXOr x1 x2 x3 x4 x5 x6 s
  | .xXor x1 x2 x3 x4 x5 x6 => Sys2Proof.Machine.execXXor x1 x2 x3 x4 x5 x6 s
  | .xShl x1 x2 x3 x4 x5 x6 => Sys2Proof.Machine.execXShl x1 x2 x3 x4 x5 x6 s
  | .xShr x1 x2 x3 x4 x5 x6 => Sys2Proof.Machine.execXShr x1 x2 x3 x4 x5 x6 s
  | .xSra x1 x2 x3 x4 x5 x6 => Sys2Proof.Machine.execXSra x1 x2 x3 x4 x5 x6 s
  | .xMov x1 x2 x3 => Sys2Proof.Machine.execXMov x1 x2 x3 s
  | .xFma x1 x2 x3 x4 x5 x6 => Sys2Proof.Machine.execXFma x1 x2 x3 x4 x5 x6 s
  | .xFms x1 x2 x3 x4 x5 x6 => Sys2Proof.Machine.execXFms x1 x2 x3 x4 x5 x6 s
  | .xFnma x1 x2 x3 x4 x5 x6 => Sys2Proof.Machine.execXFnma x1 x2 x3 x4 x5 x6 s
  | .xFnms x1 x2 x3 x4 x5 x6 => Sys2Proof.Machine.execXFnms x1 x2 x3 x4 x5 x6 s
  | .xCvt x1 x2 x3 x4 x5 x6 => Sys2Proof.Machine.execXCvt x1 x2 x3 x4 x5 x6 s
  | .xCvtn x1 x2 x3 x4 x5 x6 => Sys2Proof.Machine.execXCvtn x1 x2 x3 x4 x5 x6 s
  | .xCvtw x1 x2 x3 x4 x5 x6 => Sys2Proof.Machine.execXCvtw x1 x2 x3 x4 x5 x6 s
  | .xPack x1 x2 x3 x4 x5 x6 => Sys2Proof.Machine.execXPack x1 x2 x3 x4 x5 x6 s
  | .xUnpk x1 x2 x3 x4 x5 x6 => Sys2Proof.Machine.execXUnpk x1 x2 x3 x4 x5 x6 s
  | .xRcp x1 x2 x3 x4 x5 => Sys2Proof.Machine.execXRcp x1 x2 x3 x4 x5 s
  | .xRsq x1 x2 x3 x4 x5 => Sys2Proof.Machine.execXRsq x1 x2 x3 x4 x5 s
  | .xSqrt x1 x2 x3 x4 x5 => Sys2Proof.Machine.execXSqrt x1 x2 x3 x4 x5 s
  | .xExp2 x1 x2 x3 x4 x5 => Sys2Proof.Machine.execXExp2 x1 x2 x3 x4 x5 s
  | .xLog2 x1 x2 x3 x4 x5 => Sys2Proof.Machine.execXLog2 x1 x2 x3 x4 x5 s
  | .xDiv x1 x2 x3 x4 x5 x6 => Sys2Proof.Machine.execXDiv x1 x2 x3 x4 x5 x6 s
  | .xCeq x1 x2 x3 x4 x5 => Sys2Proof.Machine.execXCeq x1 x2 x3 x4 x5 s
  | .xClt x1 x2 x3 x4 x5 => Sys2Proof.Machine.execXClt x1 x2 x3 x4 x5 s
  | .xCle x1 x2 x3 x4 x5 => Sys2Proof.Machine.execXCle x1 x2 x3 x4 x5 s
  | .xCun x1 x2 x3 x4 x5 => Sys2Proof.Machine.execXCun x1 x2 x3 x4 x5 s
  | .xSel x1 x2 x3 x4 x5 => Sys2Proof.Machine.execXSel x1 x2 x3 x4 x5 s
  | .xPand x1 x2 x3 x4 x5 => Sys2Proof.Machine.execXPand x1 x2 x3 x4 x5 s
  | .xPmovToP x1 x2 x3 x4 => Sys2Proof.Machine.execXPmovToP x1 x2 x3 x4 s
  | .xPmovToV x1 x2 x3 x4 => Sys2Proof.Machine.execXPmovToV x1 x2 x3 x4 s
  | .xRsum x1 x2 x3 x4 x5 => Sys2Proof.Machine.execXRsum x1 x2 x3 x4 x5 s
  | .xCsum x1 x2 x3 x4 x5 => Sys2Proof.Machine.execXCsum x1 x2 x3 x4 x5 s
  | .xRmax x1 x2 x3 x4 => Sys2Proof.Machine.execXRmax x1 x2 x3 x4 s
  | .xCmax x1 x2 x3 x4 => Sys2Proof.Machine.execXCmax x1 x2 x3 x4 s
  | .xRmin x1 x2 x3 x4 => Sys2Proof.Machine.execXRmin x1 x2 x3 x4 s
  | .xCmin x1 x2 x3 x4 => Sys2Proof.Machine.execXCmin x1 x2 x3 x4 s
  | .xBcr x1 x2 x3 x4 => Sys2Proof.Machine.execXBcr x1 x2 x3 x4 s
  | .xBcc x1 x2 x3 x4 => Sys2Proof.Machine.execXBcc x1 x2 x3 x4 s
  | .xTr x1 x2 x3 => Sys2Proof.Machine.execXTr x1 x2 x3 s
  | .xRotR x1 x2 x3 x4 => Sys2Proof.Machine.execXRotR x1 x2 x3 x4 s
  | .xRotC x1 x2 x3 x4 => Sys2Proof.Machine.execXRotC x1 x2 x3 x4 s
  | .xPerm x1 x2 x3 x4 => Sys2Proof.Machine.execXPerm x1 x2 x3 x4 s
  | .xShp x1 x2 => Sys2Proof.Machine.execXShp x1 x2 s
  | .xIdle x1 x2 => Sys2Proof.Machine.execXIdle x1 x2 s
  | .xPost x1 x2 => Sys2Proof.Machine.execXPost x1 x2 s
  | .xFlg x1 x2 x3 => Sys2Proof.Machine.execXFlg x1 x2 x3 s
  | .xMode x1 x2 x3 => Sys2Proof.Machine.execXMode x1 x2 x3 s
  | .asyncTrapEntry x1 => Sys2Proof.Machine.execAsyncTrapEntry x1 s
  | .entryStart x1 x2 x3 => Sys2Proof.Machine.execEntryStart x1 x2 x3 s
  | .entryRetire x1 x2 x3 => Sys2Proof.Machine.execEntryRetire x1 x2 x3 s
  | .stripGroupStart x1 x2 x3 => Sys2Proof.Machine.execStripGroupStart x1 x2 x3 s
  | .stripGroupRetire x1 x2 x3 => Sys2Proof.Machine.execStripGroupRetire x1 x2 x3 s
  | .postedRecordTake => Sys2Proof.Machine.execPostedRecordTake s
  | .copyTurn x1 x2 x3 => Sys2Proof.Machine.execCopyTurn x1 x2 x3 s
  | .homeRequestArrival x1 => Sys2Proof.Machine.execHomeRequestArrival x1 s
  | .directRequestArrival x1 => Sys2Proof.Machine.execDirectRequestArrival x1 s
  | .leaseGrantArrival x1 => Sys2Proof.Machine.execLeaseGrantArrival x1 s
  | .leaseExpire x1 x2 x3 x4 => Sys2Proof.Machine.execLeaseExpire x1 x2 x3 x4 s
  | .reroute x1 => Sys2Proof.Machine.execReroute x1 s
  | .leaseSkewHolder x1 x2 => Sys2Proof.Machine.execLeaseSkewHolder x1 x2 s
  | .leaseSkewWalker x1 => Sys2Proof.Machine.execLeaseSkewWalker x1 s
  | .skewToleranceRestored x1 x2 => Sys2Proof.Machine.execSkewToleranceRestored x1 x2 s
  | .quarantineRelease x1 x2 => Sys2Proof.Machine.execQuarantineRelease x1 x2 s
  | .moveRoundComplete x1 => Sys2Proof.Machine.execMoveRoundComplete x1 s
  | .walkerMap x1 x2 => Sys2Proof.Machine.execWalkerMap x1 x2 s
  | .walkerUnmap x1 x2 => Sys2Proof.Machine.execWalkerUnmap x1 x2 s
  | .walkerMove x1 x2 => Sys2Proof.Machine.execWalkerMove x1 x2 s
  | .walkerSetlc x1 x2 => Sys2Proof.Machine.execWalkerSetlc x1 x2 s
  | .walkerAddt x1 x2 => Sys2Proof.Machine.execWalkerAddt x1 x2 s
  | .wksSigerrClear x1 x2 => Sys2Proof.Machine.execWksSigerrClear x1 x2 s
  | .lskStatClear x1 x2 => Sys2Proof.Machine.execLskStatClear x1 x2 s
  | .landingArrival x1 => Sys2Proof.Machine.execLandingArrival x1 s
  | .rwAck x1 x2 x3 x4 => Sys2Proof.Machine.execRwAck x1 x2 x3 x4 s
  | .canopyPortDown x1 => Sys2Proof.Machine.execCanopyPortDown x1 s
  | .hostCompletion x1 x2 x3 x4 x5 => Sys2Proof.Machine.execHostCompletion x1 x2 x3 x4 x5 s
  | .hostCompletionTimeout x1 x2 x3 => Sys2Proof.Machine.execHostCompletionTimeout x1 x2 x3 s
  | .linkFail x1 x2 => Sys2Proof.Machine.execLinkFail x1 x2 s
  | .linkLaneLoss x1 x2 => Sys2Proof.Machine.execLinkLaneLoss x1 x2 s
  | .notify x1 x2 x3 => Sys2Proof.Machine.execNotify x1 x2 x3 s
  | .queueEnable x1 x2 x3 => Sys2Proof.Machine.execQueueEnable x1 x2 x3 s
  | .queueDisable x1 x2 x3 => Sys2Proof.Machine.execQueueDisable x1 x2 x3 s
  | .qcfgWrite x1 x2 x3 => Sys2Proof.Machine.execQcfgWrite x1 x2 x3 s
  | .qerrClear x1 x2 x3 => Sys2Proof.Machine.execQerrClear x1 x2 x3 s
  | .qerrnClear x1 x2 x3 => Sys2Proof.Machine.execQerrnClear x1 x2 x3 s
  | .vfDropClear x1 x2 => Sys2Proof.Machine.execVfDropClear x1 x2 s
  | .istatClear x1 x2 => Sys2Proof.Machine.execIstatClear x1 x2 s
  | .watchArm x1 x2 x3 => Sys2Proof.Machine.execWatchArm x1 x2 x3 s
  | .watchDisarm x1 x2 x3 => Sys2Proof.Machine.execWatchDisarm x1 x2 x3 s
  | .dies => Sys2Proof.Machine.execDies s
  | .selftest => Sys2Proof.Machine.execSelftest s
  | .attest x1 => Sys2Proof.Machine.execAttest x1 s
  | .wear => Sys2Proof.Machine.execWear s
  | .loadimg x1 x2 x3 => Sys2Proof.Machine.execLoadimg x1 x2 x3 s
  | .mailboxAnswer x1 => Sys2Proof.Machine.execMailboxAnswer x1 s
  | .functionLevelReset x1 => Sys2Proof.Machine.execFunctionLevelReset x1 s
  | .flrComplete x1 => Sys2Proof.Machine.execFlrComplete x1 s
  | .registerWrite x1 x2 x3 x4 x5 => Sys2Proof.Machine.execRegisterWrite x1 x2 x3 x4 x5 s
  | .partitionCommit x1 x2 => Sys2Proof.Machine.execPartitionCommit x1 x2 s
  | .partitionReset x1 => Sys2Proof.Machine.execPartitionReset x1 s
  | .resetQuiesceTimeout x1 x2 => Sys2Proof.Machine.execResetQuiesceTimeout x1 x2 s
  | .partitionResetComplete x1 => Sys2Proof.Machine.execPartitionResetComplete x1 s
  | .pc1Write x1 x2 => Sys2Proof.Machine.execPc1Write x1 x2 s
  | .vfCfgWrite x1 x2 => Sys2Proof.Machine.execVfCfgWrite x1 x2 s
  | .residencyMove x1 => Sys2Proof.Machine.execResidencyMove x1 s
  | .sliceExpire x1 => Sys2Proof.Machine.execSliceExpire x1 s
  | .govRateWrite x1 x2 => Sys2Proof.Machine.execGovRateWrite x1 x2 s
  | .govLimWrite x1 => Sys2Proof.Machine.execGovLimWrite x1 s
  | .governorTick => Sys2Proof.Machine.execGovernorTick s
  | .pinWindowExpire x1 x2 => Sys2Proof.Machine.execPinWindowExpire x1 x2 s
  | .recordTake x1 x2 => Sys2Proof.Machine.execRecordTake x1 x2 s
  | .gangAssemblyTimeout x1 => Sys2Proof.Machine.execGangAssemblyTimeout x1 s
  | .gangReserve x1 x2 => Sys2Proof.Machine.execGangReserve x1 x2 s
  | .gangCommit x1 => Sys2Proof.Machine.execGangCommit x1 s
  | .gangStartTimeout x1 => Sys2Proof.Machine.execGangStartTimeout x1 s
  | .recordReserving x1 x2 x3 x4 => Sys2Proof.Machine.execRecordReserving x1 x2 x3 x4 s
  | .claimGrant x1 x2 x3 x4 => Sys2Proof.Machine.execClaimGrant x1 x2 x3 x4 s
  | .argumentCopyDone x1 x2 => Sys2Proof.Machine.execArgumentCopyDone x1 x2 s
  | .instanceRetire x1 x2 => Sys2Proof.Machine.execInstanceRetire x1 x2 s
  | .pieceRetire x1 x2 => Sys2Proof.Machine.execPieceRetire x1 x2 s
  | .heldReleaseApply x1 => Sys2Proof.Machine.execHeldReleaseApply x1 s
  | .queueWatchdog x1 => Sys2Proof.Machine.execQueueWatchdog x1 s
  | .watchdogExpire x1 x2 => Sys2Proof.Machine.execWatchdogExpire x1 x2 s
  | .splitTakeEffect x1 x2 => Sys2Proof.Machine.execSplitTakeEffect x1 x2 s
  | .fuseTakeEffect x1 x2 => Sys2Proof.Machine.execFuseTakeEffect x1 x2 s
  | .saveComplete x1 x2 => Sys2Proof.Machine.execSaveComplete x1 x2 s
  | .restoreComplete x1 x2 => Sys2Proof.Machine.execRestoreComplete x1 x2 s
  | .quiesceComplete x1 x2 => Sys2Proof.Machine.execQuiesceComplete x1 x2 s
  | .heldEventPost x1 => Sys2Proof.Machine.execHeldEventPost x1 s
  | .debugStop x1 x2 => Sys2Proof.Machine.execDebugStop x1 x2 s
  | .cutSeal x1 => Sys2Proof.Machine.execCutSeal x1 s
  | .debugResume x1 x2 => Sys2Proof.Machine.execDebugResume x1 x2 s
  | .breakpointHit x1 x2 x3 x4 => Sys2Proof.Machine.execBreakpointHit x1 x2 x3 x4 s
  | .checkpointStart x1 => Sys2Proof.Machine.execCheckpointStart x1 s
  | .checkpointSeal x1 => Sys2Proof.Machine.execCheckpointSeal x1 s
  | .ckFailClear x1 x2 => Sys2Proof.Machine.execCkFailClear x1 x2 s
  | .replayStart x1 x2 => Sys2Proof.Machine.execReplayStart x1 x2 s
  | .replayDone x1 => Sys2Proof.Machine.execReplayDone x1 s
  | .pmselWrite x1 x2 x3 => Sys2Proof.Machine.execPmselWrite x1 x2 x3 s
  | .diePowerStable x1 => Sys2Proof.Machine.execDiePowerStable x1 s
  | .powerGood => Sys2Proof.Machine.execPowerGood s
  | .bootPhaseComplete x1 => Sys2Proof.Machine.execBootPhaseComplete x1 s
  | .wearFlush => Sys2Proof.Machine.execWearFlush s
  | .powerDown => Sys2Proof.Machine.execPowerDown s
  | .illegalOp x1 => Sys2Proof.Machine.execIllegalOp x1 s
  | .fetchFault x1 => Sys2Proof.Machine.execFetchFault x1 s
  | .devCompletion x1 => Sys2Proof.Machine.execDevCompletion x1 s
  | .uncorrectableError x1 => Sys2Proof.Machine.execUncorrectableError x1 s
  | .dieRetiredByFirmware x1 => Sys2Proof.Machine.execDieRetiredByFirmware x1 s
  | .diePowerUpFailure x1 => Sys2Proof.Machine.execDiePowerUpFailure x1 s
  | .powerLoss => Sys2Proof.Machine.execPowerLoss s
  | .junctionTemperatureFall x1 x2 => Sys2Proof.Machine.execJunctionTemperatureFall x1 x2 s
  | .canopyPortTrained x1 => Sys2Proof.Machine.execCanopyPortTrained x1 s

end Sys2Proof.Machine
end

