-- ==== Sys2Proof/Machine/Turns.lean ====
section
/-! DEFINITION. The turns of the machine: what the next step of a sequencer, of a strip, or of another unit does (00 R9, 20 R396), and the
placing of an instruction where the next step fetches it. -/

namespace Sys2Proof.Machine

/-! ## Whose turn it is -/

/-- The turn of this step: the first one due, or the device's choice. -/
def State.turn (s : State) : Turn :=
  match s.agenda with
  | t :: _ => t
  | [] => Config.pick s.tick

/-- The state with the turn taken. -/
def State.taken (s : State) : State := { s with agenda := s.agenda.drop 1, tick := s.tick + 1 }

/-! ## A sequencer -/

/-- The instruction of a sequencer: it runs at that sequencer. -/
def runAt (r : SeqRef) (i : Instr) (s : State) : Host.Outcome State Fault Refusal := exec i { s with cur := r }

/-- The step of a sequencer. -/
def seqTurn (r : SeqRef) (s : State) : Host.Outcome State Fault Refusal :=
  match nextTodo s.sys r with
  | (_, .idle) => .next s
  | (_, .async) => execAsyncTrapEntry r s
  | (_, .fetchFault _) => execFetchFault r s
  | (_, .illegal) => execIllegalOp r s
  | (_, .reserved) => .next { s with sys := reservedStep r s.sys }
  | (_, .annulled _) => .next { s with sys := annulledStep r s.sys }
  | (y, .run i) => runAt r i { s with sys := y }

/-! ## A strip -/

/-- The next word of a strip; none when it has no word to execute. -/
def Strip.nextWord (p : Strip) : Option Instr :=
  match p.prog.words[p.ip]? with
  | none => none
  | some w => match decodeStrip w.toNat with
    | .ok i => some i
    | .error _ => none

/-- A strip without words forwards a beat. -/
def forwardTurn (t : StripRef) (y : Sys) : Sys :=
  match y.chain? t with
  | none => y
  | some h =>
    let h' := forwardStep t.k h
    if h' = h then y else (y.modChain t.die t.ctx t.chain (fun _ => h')).modCtx t.die t.ctx (fun c => { c with wdCycles := 0 })

/-- The strip is running its share of a group. -/
def stripReady (y : Sys) (t : StripRef) : Bool :=
  (y.ctx t.die t.ctx).engines && (match y.chain? t with
    | none => false
    | some h => h.running && (h.strip t.k).busy)

/-- The step of a strip. -/
def stripTurn (t : StripRef) (s : State) : Host.Outcome State Fault Refusal :=
  if !stripReady s.sys t then .next s
  else match s.sys.chain? t with
    | none => .next s
    | some h =>
      if (h.strip t.k).prog.words.isEmpty then .next { s with sys := forwardTurn t s.sys }
      else match (h.strip t.k).nextWord with
        | none => .next s
        | some i => exec i { s with curStrip := t }

/-! ## Another unit -/

/-- The functions of `clm` that have no encoding of their own (20 R414). -/
def isClm (i : Instr) : Bool :=
  match i with
  | .clmPreq _ _ => true
  | .clmPclr _ _ => true
  | .clmIntr _ _ => true
  | .clmUnpark _ _ => true
  | _ => false

/-- An event: a row without an encoding. -/
def isEvent (i : Instr) : Bool := (encode i).isNone && !isClm i

/-- Without power nothing happens but power-good (24 R468). -/
def evTurn (i : Instr) (s : State) : Host.Outcome State Fault Refusal :=
  if isEvent i && (s.plat.power || i == .powerGood) then exec i s else .next s

/-! ## A replay (23 R452) -/

/-- A step of a task sequencer is counted while its partition keeps an order log or replays one. -/
def countStep (r : SeqRef) (s t : State) : State :=
  match r.idx with
  | none => t
  | some k =>
    let p := t.sys.part (t.sys.ctx r.die k).part
    let q := s.sys.seq r
    let q' := t.sys.seq r
    if (p.ckpts.isEmpty && p.replay.isNone) || (q.pc == q'.pc && q.npc == q'.npc && q.nnpc == q'.nnpc) then t
    else { t with sys := t.sys.modCtx r.die k (fun c => { c with steps := c.steps + 1 }) }

/-- Hold the choices of a turn against the log: consumed, or the turn must wait (`false`), or the log does not predict it (`true`). -/
def checkMade : List Choice → Part → Except Bool Part
  | [], p => .ok { p with made := [] }
  | c :: t, p =>
    match p.logged c with
    | some c' => if asLogged c c' then checkMade t (p.consume c') else .error false
    | none => if ownWrite c then checkMade t p else .error (p.unforeseen c)

/-- A piece would go beyond the place where the log has a PEER access to its window next. -/
def overtakes (p : Part) (c c' : Ctx) : Bool :=
  match p.logged (.peer 0 0 c.ctag 0 []) with
  | some (.peer _ _ _ n qs) =>
    (c.steps == n && c'.steps != n) ||
      qs.any (fun q => queueAt c.queueProgress q.1 == q.2 && queueAt c'.queueProgress q.1 != q.2)
  | _ => false

/-- A turn in a partition that replays is not taken while the log has another choice next. -/
def forced (s t : State) : State :=
  if !t.sys.hub.parts.any (fun p => p.2.replay.isSome) then t
  else if s.sys.contexts.any (fun x => !x.2.2.isFree && overtakes (s.sys.part x.2.2.part) x.2.2 (t.sys.ctx x.1 x.2.1)) then s
  else
    (t.sys.hub.parts.filter (fun p => p.2.replay.isSome && !p.2.made.isEmpty)).foldl (fun u p =>
      match checkMade p.2.made p.2 with
      | .ok p' => { u with sys := u.sys.modPart p.1 (fun _ => p') }
      | .error false => s
      | .error true => { s with sys := diverge s.sys p.1 }) t

/-- Go on with the state that a turn answers. -/
def mapNext (f : State → State) : Host.Outcome State Fault Refusal → Host.Outcome State Fault Refusal
  | .next t => .next (f t)
  | o => o

/-- One turn. -/
def runTurn (t : Turn) (s : State) : Host.Outcome State Fault Refusal :=
  mapNext (forced s) (match t with
    | .seq r => mapNext (countStep r s) (seqTurn r s)
    | .strip r => stripTurn r s
    | .ev i => evTurn i s)

/-! ## Placing an instruction -/

/-- The bytes of an instruction, eight whatever its length: those above its bits are 0. -/
def imageOf (w : Nat) : List Byte := leSplit 8 w

/-- An opcode that only steward mode may execute (04 R94). -/
def stewardOpcode (w : Nat) : Bool :=
  fld w 0 2 == 0 && (fld w 2 8 == 0x71 || fld w 2 8 == 0x8B || (decide (0xB0 ≤ fld w 2 8) && decide (fld w 2 8 ≤ 0xB8)))

/-- The steward of array die 0, at the instruction in its image. -/
def placeSteward (w : Nat) (y : Sys) : Sys :=
  y.modDie 0 (fun v => { v with
    inSvc := true, powered := true, image := wrBytes v.image 0 (imageOf w), imageX := ⟨0, 64⟩ :: v.imageX
    stw := { v.stw with stopped := false, steward := true, pc := 0, npc := none, nnpc := none, an0 := false, nestStat := 0 } })

/-- The partition that owns memory die 0 and maps it as number 0. -/
def placePart (p : Part) : Part :=
  { p with en := true, words := mset (mset p.words 2 0x0001_0000_0000_0000) 15 0xFFFF_FFFF }

/-- Memory die 0: page 0 of partition 0 at frame 1, its tables in frame 0, and the instruction's bytes. -/
def placeMem (w : Nat) (m : MemDie) : MemDie :=
  { m with
    inSvc := true, powered := true, roots := mset m.roots 0 0, frames := mset (mset m.frames 0 (.table 0)) 1 .mapped
    mem := wrBytes (wrBytes (wrBytes (wrBytes m.mem 0 (leSplit 8 (2 ^ 63 + 0x1000))) 0x1000 (leSplit 8 (2 ^ 63 + 0x2000))) 0x2000
      (leSplit 8 (2 ^ 63 + 2 ^ 62 + 2 ^ 58 + 0x20_0000))) 0x20_0000 (imageOf w) }

/-- The range that holds the instruction: 2 MiB at address 0, for fetching. -/
def placeRanges (g : Ranges) : Ranges := { vmb := g.vmb.set 0 0xD, vmi := g.vmi.set 0 0 }

/-- The task sequencer of block 0 of array die 0. -/
def placeSeq (q : SeqSt) : SeqSt :=
  { q with steward := false, pc := 0, npc := none, nnpc := none, an0 := false, nestStat := 0, icache := [], fetch := placeRanges q.fetch }

/-- The context of block 0, running. -/
def placeCtx (c : Ctx) : Ctx :=
  { c with st := .run, shape := 6, lead := 0, part := 0, grove := [0], alive := [0], dbgStop := false, ckStop := false, revived := false, fresh := true
           pend := [], ranges := placeRanges c.ranges }

def placeTask (w : Nat) (y : Sys) : Sys :=
  let y := (y.modMem 0 (placeMem w)).modPart 0 placePart
  let y := y.modDie 0 (fun v => { v with inSvc := true, powered := true })
  (y.modCtx 0 0 placeCtx).modSeq ⟨0, some 0⟩ placeSeq

/-- The strip that executes a word. -/
def placeStrip (w : Nat) : StripRef := ⟨0, 0, 0, (stripOfOpc (fld w 0 7)).getD 0⟩

/-- Chain 0 of block 0 runs a group whose program on that strip is the one word. -/
def placeWord (w : Nat) (y : Sys) : Sys :=
  let t := placeStrip w
  let h : Chain := { phys := 0, bound := true, iBound := true, running := true }
  let h := h.setStrip t.k { (h.strip t.k) with prog := ⟨1, [BitVec.ofNat 32 w]⟩, ip := 0, iter := 0, busy := true }
  (y.modDie 0 (fun v => { v with inSvc := true, powered := true })).modCtx 0 0 (fun c => { placeCtx c with chains := [h] })

/-- The state in which the next step fetches the instruction. -/
def placeInstr (nbits w : Nat) (s : State) : State :=
  if stripSpace nbits w then { s with agenda := [.strip (placeStrip w)], sys := placeWord w s.sys }
  else if stewardOpcode w then { s with agenda := [.seq ⟨0, none⟩], sys := placeSteward w s.sys }
  else { s with agenda := [.seq ⟨0, some 0⟩], sys := placeTask w s.sys }

end Sys2Proof.Machine
end

