-- ==== Sys2Proof/Machine/Step.lean ====
section
/-! DEFINITION. One step of the machine, and the state whose next step fetches a given instruction. -/

namespace Sys2Proof.Machine

/-- One step: the unit whose turn it is acts (00 R9). -/
def step (s : State) : Host.Outcome State Fault Refusal := runTurn s.turn s.taken

/-- The state with an instruction stored where the next step fetches it. -/
def State.withFetchWord (s : State) (nbits w : Nat) : State := placeInstr nbits w s

end Sys2Proof.Machine
end

