-- ==== Sys2Proof/Safety.lean ====
section
/-! DEFINITION. The terms in which the claims are made: what an instruction reads, what its step leaves, and the invariants of the
machine. -/

namespace Sys2Proof.Machine

/-! ## The sequencer whose instruction runs -/

/-- The registers of the current sequencer. -/
def State.now (s : State) : SeqSt := s.sys.seq s.cur

/-- gA as an instruction reads it (05 R103). -/
def State.g (s : State) (a : BitVec 5) : Word := s.now.rg a

/-- The context of the current sequencer. -/
def State.ctxNow (s : State) : Ctx := s.sys.ctxOf s.cur

/-- None of these registers is poisoned (05 R105). -/
def State.sound (s : State) (l : List (BitVec 5)) : Prop := ∀ a ∈ l, s.now.tag a = false

/-- gX is the lowest-numbered of the poisoned registers among these: the one that POISON_CHECK reports (05 R116, R118). -/
def State.lowest (s : State) (l : List (BitVec 5)) (x : BitVec 5) : Prop := x ∈ l ∧ s.now.tag x = true ∧ ∀ z ∈ l, s.now.tag z = true → x.toNat ≤ z.toNat

/-- `exec` answers a next state, and `P` holds of it. -/
def Ends (i : Instr) (s : State) (P : State → Prop) : Prop := ∃ t, exec i s = .next t ∧ P t

/-! ## The end of a step (05 R124, R132) -/

/-- The instruction of `len` bytes at pc is the last one of the active `nest`'s body, and another iteration follows (05 R132). -/
def SeqSt.loopsBack (q : SeqSt) (len : Nat) : Bool :=
  nestAct q.nestStat && q.pc + BitVec.ofNat 64 len == nestEnd q && decide (nestIter q.nestStat + 1 < (q.wk (nestWalk q.nestStat)).count)

/-- The instruction is the last one of the body, and no iteration follows. -/
def SeqSt.leavesNest (q : SeqSt) (len : Nat) : Bool :=
  nestAct q.nestStat && q.pc + BitVec.ofNat 64 len == nestEnd q && !decide (nestIter q.nestStat + 1 < (q.wk (nestWalk q.nestStat)).count)

/-- The address that follows an instruction of `len` bytes (05 R124, R132). -/
def SeqSt.follow (q : SeqSt) (len : Nat) : Word := if q.loopsBack len then q.nestTop else q.pc + BitVec.ofNat 64 len

/-- The three PCs and the annul marks after an instruction of `len` bytes: the first delay slot takes the place of the
instruction, and a taken transfer's target stands two steps ahead (05 R124). -/
structure PcsMoved (q u : SeqSt) (len : Nat) (j : Option Jump) : Prop where
  pc : u.pc = q.npc.getD (q.follow len)
  npc : u.npc = q.nnpc
  nnpc : u.nnpc = j.bind (fun x => if x.taken then some x.tgt else none)
  an0 : u.an0 = (q.an1 || (j.map Jump.annuls).getD false)
  an1 : u.an1 = (j.map Jump.annuls).getD false

/-- The loop state after an instruction of `len` bytes: one more iteration, the end of the nest, or no change (05 R132). -/
structure NestMoved (q u : SeqSt) (len : Nat) : Prop where
  stays : q.loopsBack len = false → q.leavesNest len = false → u.nestStat = q.nestStat ∧ u.nestBuf = q.nestBuf
  ends : q.leavesNest len = true → u.nestStat = 0
  again : q.loopsBack len = true → nestIter q.nestStat + 1 < 2 ^ 40 →
    nestIter u.nestStat = nestIter q.nestStat + 1 ∧ u.nestBuf = q.nestBuf ∧
    (nestDreg q.nestStat ≠ 0 → u.rg (nestDreg q.nestStat) = (q.wk (nestWalk q.nestStat)).addr (nestIter q.nestStat + 1))

/-- The registers of a sequencer that no ordinary instruction writes: mode, masks, the trap registers, scratch, selection, and
what fetching uses. -/
structure SeqKept (q u : SeqSt) : Prop where
  steward : u.steward = q.steward
  ae : u.ae = q.ae
  prq : u.prq = q.prq
  nestTop : u.nestTop = q.nestTop
  trapCause : u.trapCause = q.trapCause
  trapPc0 : u.trapPc0 = q.trapPc0
  trapPc1 : u.trapPc1 = q.trapPc1
  trapPc2 : u.trapPc2 = q.trapPc2
  trapAnn : u.trapAnn = q.trapAnn
  trapAddr0 : u.trapAddr0 = q.trapAddr0
  trapAddr1 : u.trapAddr1 = q.trapAddr1
  trapNstat : u.trapNstat = q.trapNstat
  trapNtop : u.trapNtop = q.trapNtop
  scr : u.scr = q.scr
  csel : u.csel = q.csel
  fetch : u.fetch = q.fetch
  icache : u.icache = q.icache
  stopped : u.stopped = q.stopped

/-- Every general register but those of the list, and the loop's register where the loop goes round, reads as before and has its
tag as before. -/
def RegsKept (q u : SeqSt) (len : Nat) (w : List (BitVec 5)) : Prop :=
  ∀ a, a ∉ w → (q.loopsBack len = true → a ≠ nestDreg q.nestStat) → u.rg a = q.rg a ∧ u.tag a = q.tag a

/-- The registers of a sequencer after the step of an instruction of `len` bytes: of the general registers only those of `w` may
have changed, beside the PCs and the loop state. -/
structure SeqStepped (q u : SeqSt) (len : Nat) (w : List (BitVec 5)) (j : Option Jump) : Prop where
  pcs : PcsMoved q u len j
  nest : NestMoved q u len
  regs : RegsKept q u len w
  walks : u.walks = q.walks
  kept : SeqKept q u

/-! ## What the rest of the machine keeps -/

/-- A byte of a die: of slice `b`, or of the steward memory. -/
structure Cell where
  die : Nat
  slice : Option Nat
  off : Nat

/-- A byte of a die, with its poison mark. -/
def Sys.cell (y : Sys) (x : Cell) : Byte × Bool :=
  match x.slice with
  | none => (rdByte (y.die x.die).smem x.off, (y.die x.die).smemBad.contains x.off)
  | some b => (rdByte ((y.die x.die).slice b).mem x.off, ((y.die x.die).slice b).poison.contains x.off)

/-- Where the byte at a window offset of a sequencer lies (02 R42, 20 R393). -/
def Sys.cellAt (y : Sys) (r : SeqRef) (off : Nat) : Cell :=
  match r.idx with
  | none => ⟨r.die, none, off⟩
  | some k => ⟨r.die, some ((y.ctx r.die k).place off).1, ((y.ctx r.die k).place off).2⟩

/-- Every byte of device memory, of every slice and of every steward memory reads as before, with its poison mark. -/
structure BytesKept (y z : Sys) : Prop where
  dev : ∀ md pa, devByte z md pa = devByte y md pa
  cell : ∀ x, z.cell x = y.cell x

/-- Nothing but the current sequencer's registers differs, and the count of its context's watchdog, which starts again
(14 R332). -/
def OnlySeq (s t : State) : Prop := t = { s with sys := progress (s.sys.setSeq s.cur t.now) s.cur }

/-- The step of an instruction of `len` bytes that changes nothing beyond the registers of its sequencer, and of those only the
general registers `w` beside the PCs and the loop state. -/
structure Stepped (s t : State) (len : Nat) (w : List (BitVec 5)) (j : Option Jump) : Prop where
  seq : SeqStepped s.now t.now len w j
  only : OnlySeq s t
  bytes : BytesKept s.sys t.sys

/-- gD holds `v` with its tag clear (set, when the value is a carried one); a write of g0 is discarded (05 R103, R105, R117), and a
loop that goes round writes its own register last (05 R132). -/
def RegReads (s t : State) (len : Nat) (d : BitVec 5) (v : Word) (poison : Bool) : Prop :=
  t.g 0 = 0 ∧ t.now.tag 0 = false ∧
  (d ≠ 0 → (s.now.loopsBack len = true → d ≠ nestDreg s.now.nestStat) → t.g d = v ∧ t.now.tag d = poison)

/-! ## Counting bits -/

/-- `n` is the number of leading zero bits of `x`. -/
def LeadingZeros (x : Word) (n : Nat) : Prop := n ≤ 64 ∧ (∀ k < n, x.getMsbD k = false) ∧ (n < 64 → x.getMsbD n = true)

/-- `n` is the number of trailing zero bits of `x`. -/
def TrailingZeros (x : Word) (n : Nat) : Prop := n ≤ 64 ∧ (∀ k < n, x.getLsbD k = false) ∧ (n < 64 → x.getLsbD n = true)

/-- 1 where the condition holds, else 0. -/
def truth (p : Prop) [Decidable p] : Word := if p then 1 else 0

/-! ## Ends of an instruction -/

/-- The instruction wrote `v` to gD. -/
def Wrote (s : State) (len : Nat) (d : BitVec 5) (v : Word) (t : State) : Prop := RegReads s t len d v false ∧ Stepped s t len [d] none

/-- The instruction carried the poisoned value `v` to gD. -/
def Carried (s : State) (len : Nat) (d : BitVec 5) (v : Word) (t : State) : Prop := RegReads s t len d v true ∧ Stepped s t len [d] none

/-- The instruction wrote no register and transferred as `j` says. -/
def Jumped (s : State) (len : Nat) (j : Jump) (t : State) : Prop := Stepped s t len [] (some j)

/-- The instruction changed nothing beyond the PCs and the loop. -/
def Passed (s : State) (len : Nat) (t : State) : Prop := Stepped s t len [] none

/-! ## Window accesses (05 R113, R114) -/

/-- An access of `n` bytes at `off` is aligned and lies in the window. -/
def InWindow (s : State) (off : Word) (n : Nat) : Prop := off.toNat % n = 0 ∧ off.toNat + n ≤ s.sys.wsz s.cur

/-- A load of `n` bytes at `off` proceeds: in the window, with no issued entry that still writes these bytes, and without an
uncorrectable byte (05 R113, R114). -/
structure CanLoad (s : State) (off : Word) (n : Nat) : Prop where
  place : InWindow s off n
  free : seqBlocked s.sys s.cur (spanAt off n) [] = false
  clean : ∀ k < n, (s.sys.cell (s.sys.cellAt s.cur (off.toNat + k))).2 = false

/-- A store of `n` bytes at `off` proceeds: in the window, with no issued entry that still reads or writes these bytes. -/
structure CanStore (s : State) (off : Word) (n : Nat) : Prop where
  place : InWindow s off n
  free : seqBlocked s.sys s.cur [] (spanAt off n) = false

/-- The `n` bytes at `off` of the current sequencer's window as a little-endian number. -/
def State.word (s : State) (off : Word) (n : Nat) : Nat :=
  leNat ((List.range n).map (fun k => (s.sys.cell (s.sys.cellAt s.cur (off.toNat + k))).1))

/-- The step stored the bytes `bs` at `off` of the window, unmarked; every other byte of the machine reads as before. -/
structure StoredAt (s t : State) (off : Word) (bs : List Byte) : Prop where
  bytes : ∀ k (h : k < bs.length), t.sys.cell (s.sys.cellAt s.cur (off.toNat + k)) = (bs[k], false)
  others : ∀ x, (∀ k < bs.length, x ≠ s.sys.cellAt s.cur (off.toNat + k)) → t.sys.cell x = s.sys.cell x
  dev : ∀ md pa, devByte t.sys md pa = devByte s.sys md pa

/-- A store of `bs` at `off` by an instruction of `len` bytes: the bytes, the PCs and the loop, and nothing else. -/
structure Stored (s : State) (len : Nat) (off : Word) (bs : List Byte) (t : State) : Prop where
  at_ : StoredAt s t off bs
  seq : SeqStepped s.now t.now len [] none
  rest : t = { s with sys := progress ((s.sys.seqWrite s.cur off.toNat bs).setSeq s.cur t.now) s.cur }

/-! ## Traps (20 R393 to R398) -/

/-- The control state before a step, saved as a trap saves it, and the handler entered (05 R134, 20 R393). -/
structure TrapSaved (q u : SeqSt) (vec : Word) (cause addr0 addr1 : Word) : Prop where
  cause : u.trapCause = cause
  addr0 : u.trapAddr0 = addr0
  addr1 : u.trapAddr1 = addr1
  pc0 : u.trapPc0 = q.pc
  pc1 : u.trapPc1 = q.npc.getD 0
  pc2 : u.trapPc2 = q.nnpc.getD 0
  ann : u.trapAnn.toNat = q.an0.toNat + 2 * q.an1.toNat + 4 * q.steward.toNat + 8 * q.npc.isNone.toNat + 16 * q.nnpc.isNone.toNat
  nstat : u.trapNstat = q.nestStat
  ntop : u.trapNtop = q.nestTop
  steward : u.steward = true
  ae : u.ae = false
  nest : u.nestStat = 0
  pc : u.pc = vec
  npc : u.npc = none
  nnpc : u.nnpc = none
  annul : u.an0 = false ∧ u.an1 = false
  g : u.g = q.g
  tags : u.tags = q.tags
  walks : u.walks = q.walks
  scr : u.scr = q.scr

/-- The sequencer may take a synchronous trap: it is in task mode, or asynchronous entry is allowed (20 R395). -/
def State.traps (s : State) : Prop := s.now.steward = false ∨ s.now.ae = true

/-- The instruction raised the synchronous cause `code` with TRAP_ADDR1 `addr1`: the state before it is saved, and every window and
steward byte stays. -/
structure Trapped (s : State) (code : Nat) (addr1 : Word) (t : State) : Prop where
  saved : TrapSaved s.now t.now (s.sys.die s.cur.die).stwVec (BitVec.ofNat 64 code) s.now.pc addr1
  cell : ∀ x, t.sys.cell x = s.sys.cell x

/-! ## Walk registers and calls -/

/-- The instruction, 8 bytes long, wrote walk register `w` and nothing else; the loop that it may end reads its walk anew
(05 R121, R132). -/
structure WroteWalk (s : State) (w : BitVec 3) (x : Walk) (t : State) : Prop where
  walks : t.now.walks = s.now.walks.set w.toNat x w.isLt
  pcs : PcsMoved (s.now.setWk w x) t.now 8 none
  nest : NestMoved (s.now.setWk w x) t.now 8
  regs : RegsKept (s.now.setWk w x) t.now 8 []
  kept : SeqKept s.now t.now
  only : OnlySeq s t
  bytes : BytesKept s.sys t.sys

/-- The instruction of `len` bytes wrote `v` to g31 and transferred as `j` says. What it read of the code may leave lines in the
sequencer's instruction cache and leases in its fetch path. -/
structure Called (s : State) (len : Nat) (v : Word) (j : Jump) (t : State) : Prop where
  link : (s.now.loopsBack len = true → nestDreg s.now.nestStat ≠ 31) → t.g 31 = v ∧ t.now.tag 31 = false
  pcs : PcsMoved s.now t.now len (some j)
  nest : NestMoved s.now t.now len
  regs : RegsKept s.now t.now len [31]
  walks : t.now.walks = s.now.walks
  kept : SeqKept { s.now with icache := t.now.icache } t.now
  bytes : BytesKept s.sys t.sys

/-! ## Semaphores, contexts and the hub -/

/-- Physical semaphore `ps` of the current sequencer's die. -/
def State.sem (s : State) (ps : Nat) : Sem := (s.sys.die s.cur.die).sem ps

/-- Virtual semaphore `n` of the current context stands for physical semaphore `ps` (20 R410). -/
def State.mapped (s : State) (n : BitVec 8) (ps : Nat) : Prop := s.ctxNow.semMap[n.toNat]? = some ps

/-- Every window and steward byte reads as before. -/
def CellsKept (s t : State) : Prop := ∀ x, t.sys.cell x = s.sys.cell x

/-- No semaphore but `ps` of the current die differs, and no window or steward byte. -/
def OnlySem (s t : State) (ps : Nat) : Prop :=
  (∀ d p, (d = s.cur.die → p ≠ ps) → (t.sys.die d).sem p = (s.sys.die d).sem p) ∧ CellsKept s t

/-- The step of the sequencer, 4 bytes long, that changes context `l` of its die to `c`, clears the watchdog count of its own
context, and changes nothing else. -/
def OnlyCtx (s : State) (l : Nat) (c : Ctx) (t : State) : Prop :=
  SeqStepped s.now t.now 4 [] none ∧ t = { s with sys := progress ((s.sys.setCtx s.cur.die l c).setSeq s.cur t.now) s.cur }

/-- The steward of a die, or the steward mode of a task sequencer, names context `l` by the operand `n` (20 R409). -/
def Names (s : State) (n : Nat) (l : Nat) : Prop :=
  (s.cur.idx = some l ∧ n = 0xFF) ∨
  (s.cur.idx = none ∧ n = 0xFE ∧ l = s.now.csel.toNat % 256 ∧ l < seqsOf s.cur.die) ∨
  (s.cur.idx = none ∧ n = l ∧ n < 36 ∧ n < seqsOf s.cur.die)

/-- The context whose registers `mfc` and `mtc` reach: a task sequencer's own; from a steward sequencer the one that CSEL names, which holds a claim (20 R405). -/
def Reaches (s : State) (l : Nat) : Prop :=
  s.cur.idx = some l ∨ (s.cur.idx = none ∧ s.now.steward = true ∧ l = s.now.csel.toNat % 256 ∧ l < seqsOf s.cur.die ∧ (s.sys.ctx s.cur.die l).st ≠ .free)

/-- The instruction stalls: the sequencer is as before. -/
def Stalls (s t : State) : Prop := t.now = s.now ∧ CellsKept s t

/-- The step, 4 bytes long, whose effect is on the registers of its sequencer beside the general ones: `q` is what they hold before the
PCs move. -/
def SysWrote (s : State) (q : SeqSt) (t : State) : Prop := SeqStepped q t.now 4 [] none ∧ OnlySeq s t ∧ BytesKept s.sys t.sys

/-! ## What differs between two states -/

/-- Nothing differs but compute die `d`. -/
def OnlyDie (s : State) (d : Nat) (t : State) : Prop :=
  t = { s with sys := { s.sys with dies := t.sys.dies } } ∧ ∀ e, e ≠ d → t.sys.die e = s.sys.die e

/-- Nothing differs but memory die `m`. -/
def OnlyMem (s : State) (m : Nat) (t : State) : Prop :=
  t = { s with sys := { s.sys with mems := t.sys.mems } } ∧ ∀ n, n ≠ m → t.sys.memDie n = s.sys.memDie n

/-- Nothing differs but the hub. -/
def OnlyHub (s t : State) : Prop := t = { s with sys := { s.sys with hub := t.sys.hub } }

/-- Nothing differs but partition `p`. -/
def OnlyPart (s : State) (p : Nat) (t : State) : Prop :=
  t = { s with sys := { s.sys with hub := { s.sys.hub with parts := t.sys.hub.parts } } } ∧ ∀ q, q ≠ p → t.sys.part q = s.sys.part q

/-- Nothing differs but function `f`. -/
def OnlyFn (s : State) (f : Nat) (t : State) : Prop :=
  t = { s with sys := { s.sys with hub := { s.sys.hub with fns := t.sys.hub.fns } } } ∧ ∀ g, g ≠ f → t.sys.fn g = s.sys.fn g

/-- Nothing differs but the platform. -/
def OnlyPlat (s t : State) : Prop := t = { s with plat := t.plat }

/-- Nothing differs but the governor. -/
def OnlyGov (s t : State) : Prop := t = { s with sys := { s.sys with gov := t.sys.gov } }

/-- Nothing that can be read differs. -/
structure Same (s t : State) : Prop where
  ctx : ∀ d l, t.sys.ctx d l = s.sys.ctx d l
  seq : ∀ r, t.sys.seq r = s.sys.seq r
  sem : ∀ d p, (t.sys.die d).sem p = (s.sys.die d).sem p
  cells : CellsKept s t
  rest : t = { s with sys := { s.sys with dies := t.sys.dies } }

/-- The stall of an instruction that has had no effect: the state is as before (20 R396). -/
def Unmoved (s t : State) : Prop := t = s

/-! ## Engine commands (03 R66 to R69, 02 R51) -/

/-- Walk `w` has as many repetitions as the command (03 R69). -/
def Walks (s : State) (w : BitVec 3) (c : Common) : Prop := stepShort (s.now.wk w) c.step.toNat c.rep.toNat = false

/-- The address that walk `w` gives repetition `i`. -/
def State.place (s : State) (w : BitVec 3) (c : Common) (i : Nat) : Word := stepAddr (s.now.wk w) c.step.toNat i

/-- The repetitions of a command. -/
def repetitions (c : Common) : List Nat := List.range (c.rep.toNat + 1)

/-- `n` window bytes at `off` lie in the window, at a multiple of 64. -/
def Fits (s : State) (off n : Nat) : Prop := off % 64 = 0 ∧ off + n ≤ s.ctxNow.wsz

/-- Window bytes that a command of a unit reads at issue: no entry that it heeds, and for a matrix command none of the matrix queue
either, still writes them, and none is uncorrectable (09 R184, 10 R220, 20 R396). -/
structure Readable (s : State) (u : Unit3) (off : Word) (n : Nat) : Prop where
  free : s.ctxNow.stallsOn (if u = .strip then .strip else .copy) [⟨off.toNat, off.toNat + n⟩] [] = false
  clean : ∀ k < n, (s.sys.cell (s.sys.cellAt s.cur (off.toNat + k))).2 = false

/-- A command of a task sequencer whose semaphores are mapped. -/
structure Accepts (s : State) (c : Common) : Prop where
  task : s.cur.idx.isSome = true
  wsem : c.wth ≠ 0 → c.wsem.toNat < s.ctxNow.semMap.length
  ssem : c.sinc ≠ 0 → c.ssem.toNat < s.ctxNow.semMap.length

/-- The unit whose commands queue `qc` holds. -/
def unitOf (qc : Nat) : Unit3 := if qc = 0 then .matrix else if qc < 8 then .strip else .copy

/-- Nothing holds the entry back: no entry conflicts with the window ranges it reads and writes, the scoreboard has an entry when it takes one, and its queue has
room (02 R51, 09 R184, 10 R220, 11 R252). -/
structure Admits (s : State) (qc : Nat) (e : Entry) : Prop where
  free : s.ctxNow.stallsOn (unitOf qc) e.rd e.wr = false
  board : e.scb = true → (s.ctxNow.entries.filter (fun x => x.2.scb)).length < 32
  room : (s.ctxNow.queue qc).ents.length < (if 8 ≤ qc then 32 else 16)

/-- The entry with its number, its command, and the physical semaphores of its wait and signal. -/
def State.entry (s : State) (i : Instr) (c : Common) (qc : Nat) (e : Entry) : Entry :=
  { e with
    num := (s.ctxNow.queue qc).iss + 1
    cmd := i
    geo := some (s.ctxNow.shape, s.ctxNow.lead, s.ctxNow.h, s.ctxNow.w)
    wait := if c.wth = 0 then none else s.ctxNow.semMap[c.wsem.toNat]?.map (fun ps => (ps, c.wth.toNat))
    wvirt := c.wsem.toNat
    signal := if c.sinc = 0 then none else s.ctxNow.semMap[c.ssem.toNat]?.map (fun ps => (ps, c.sinc.toNat, c.scope.toNat)) }

/-- The command, 8 bytes long, put the entry `e` at the end of queue `qc` of its context and changed the issue-order state as `f` says; nothing else
differs. -/
def Joined (s : State) (i : Instr) (c : Common) (qc : Nat) (e : Entry) (f : Ctx → Ctx) (t : State) : Prop :=
  SeqStepped s.now t.now 8 [] none ∧ ∃ l, s.cur.idx = some l ∧
    t = { s with sys := progress ((s.sys.setCtx s.cur.die l (f { s.ctxNow with
      queues := mset s.ctxNow.queues qc { s.ctxNow.queue qc with
        iss := (s.ctxNow.queue qc).iss + 1
        ents := (s.ctxNow.queue qc).ents ++ [s.entry i c qc e] } })).setSeq s.cur t.now) s.cur }

/-- A command that has passed its checks joins its queue, or stalls with no effect while something holds its entry back. -/
def Queued (s : State) (i : Instr) (c : Common) (qc : Nat) (e : Entry) (f : Ctx → Ctx) (t : State) : Prop :=
  (Admits s qc e → Joined s i c qc e f t) ∧ (¬Admits s qc e → Unmoved s t)

/-- A record of a copy command passes the checks of 12 R276 to R280 in repetition `i`. -/
structure GoodRecord (s : State) (k : CpKind) (wa wb : Walk) (i : Nat) (x : BitVec 512) : Prop where
  reserved : recReserved k x = false
  spaces : rSsp x ∈ k.spaces.1 ∧ rDsp x ∈ k.spaces.2
  rows : k.uses.nrow = true → rNrow x ≠ 0
  bytes : k.uses.len = true → rLen x ≠ 0
  inside : ∀ h ∈ boundHulls k x wa wb, 0 ≤ h.lo ∧ h.hi ≤ s.ctxNow.wsz
  index : k.indexed = true → rAuxv x % 4 = 0
  peer : (rSsp x = spPeer → peerBad s.sys s.cur.die s.ctxNow (rShnd x) (srcHull k x wb) = false) ∧
    (rDsp x = spPeer → peerBad s.sys s.cur.die s.ctxNow (rDhnd x) (dstHull k x wa) = false)
  port : rDsp x = spXpk → rDhnd x ≤ 15
  atomic : k.isAtomic = true → atomicOk k (rAty x) (rAop x) = true
  walks : k = .walk → wa.count = wb.count
  length : lenBad k x = false
  landing : landingBad k s.ctxNow x i = false
  landAligned : landAlign k x = false
  apart : selfOverlap k x wa wb = false
  aligned : misaligned k x = none

/-! ## Strip words (10 R204 to R210) -/

/-- The lanes of a source of a word on strip `k`: a register, or the oldest beat of in-port A (14) or B (15), which a word that waits
with its push has popped before. -/
def Chain.source (h : Chain) (k : Nat) (a : BitVec 4) : Beat :=
  if a = 14 then (wordBeats h k).1 else if a = 15 then (wordBeats h k).2 else (h.strip k).reg a.toNat

/-- Lane `l` of a source. -/
def Chain.lane (h : Chain) (k : Nat) (a : BitVec 4) (l : Nat) : Lane := (h.source k a).getD l 0

/-- A beat that strip `k` pushes has room: in its out-port, or, for what a word that waits has not yet appended, in strip 4's byte stream. -/
def Chain.pushes (h : Chain) (k : Nat) : Prop := if k = 4 then 768 ≤ h.space + (h.strip 4).sent else h.room k = true

/-- The strip whose turn it is runs its share of a group on chain `h`, the ports that the word names as sources hold a beat or have been popped, and what it
pushes has room; registers, generators and beats have their 192 lanes. -/
structure WordRuns (s : State) (h : Chain) (srcs : List (BitVec 4)) (push : Bool) : Prop where
  chain : s.sys.chain? s.curStrip = some h
  strip : s.curStrip.k < 5
  runs : h.running = true
  busy : (h.strip s.curStrip.k).busy = true
  states : (h.strip s.curStrip.k).sr.length = 192
  regs : ∀ r, ((h.strip s.curStrip.k).reg r).length = 192
  beatA : (h.strip s.curStrip.k).got = none → 14 ∈ srcs → ∃ b rest, h.port (inA s.curStrip.k) = b :: rest ∧ b.length = 192
  beatB : (h.strip s.curStrip.k).got = none → 15 ∈ srcs → ∃ b rest, h.port (inB s.curStrip.k) = b :: rest ∧ b.length = 192
  popped : ∀ x, (h.strip s.curStrip.k).got = some x → (14 ∈ srcs → x.1.length = 192) ∧ (15 ∈ srcs → x.2.length = 192)
  room : push = true → h.pushes s.curStrip.k

/-- What a port and the byte stream of strip 4 hold, as bytes. -/
def Chain.outBytes (h : Chain) : List Byte := (h.port 10).flatMap beatToBytes ++ h.stream

/-- In-port `p` after the turn of a word that names it as register `r`: the beat is popped once, in the word's first turn (10 R208). -/
def Chain.popped (h : Chain) (k : Nat) (srcs : List (BitVec 4)) (r : BitVec 4) (p : Nat) : List Beat :=
  if (h.strip k).got = none ∧ r ∈ srcs then (h.port p).drop 1 else h.port p

/-- The turn of a word on strip `k` of chain `h` left the strip as `u`, and appended `bs` to what strip 4 has put out; sources pop, and nothing else of the chain, of
another chain or of the windows changes. -/
structure StripMoves (s : State) (h : Chain) (srcs : List (BitVec 4)) (u : Strip) (bs : List Byte) (t : State) : Prop where
  moved : ∃ h', t.sys.chain? s.curStrip = some h' ∧ h'.strip s.curStrip.k = u ∧
    (s.curStrip.k ≠ 4 → bs = [] ∧ h'.port (6 + s.curStrip.k) = h.port (6 + s.curStrip.k) ∧ h'.stream = h.stream) ∧
    (s.curStrip.k = 4 → h'.outBytes = h.outBytes ++ bs) ∧
    h'.port (inA s.curStrip.k) = h.popped s.curStrip.k srcs 14 (inA s.curStrip.k) ∧
    h'.port (inB s.curStrip.k) = h.popped s.curStrip.k srcs 15 (inB s.curStrip.k) ∧
    (∀ p, p ≠ inA s.curStrip.k → p ≠ inB s.curStrip.k → p ≠ 6 + s.curStrip.k → h'.port p = h.port p) ∧
    ∀ j, j ≠ s.curStrip.k → h'.strip j = h.strip j
  chains : ∀ x : StripRef, (x.die, x.ctx, x.chain) ≠ (s.curStrip.die, s.curStrip.ctx, s.curStrip.chain) → t.sys.chain? x = s.sys.chain? x
  seqs : ∀ r, t.sys.seq r = s.sys.seq r
  cells : CellsKept s t

/-- A word whose push has no room has popped, and waits with its beats; strip 4 has appended what fills whole pushes (10 R206, R208). -/
def WordHeld (s : State) (h : Chain) (srcs : List (BitVec 4)) (t : State) : Prop := ∃ bs st, st = h.strip s.curStrip.k ∧
  bs.length = (if s.curStrip.k = 4 then 768 * (4 - (h.port 10).length) - h.stream.length else 0) ∧
  StripMoves s h srcs { st with got := some (wordBeats h s.curStrip.k), sent := st.sent + bs.length } bs t

/-- The word executed: `u` is the strip with what the word changed beside its lane registers, and `v` the value of each lane. The destination register takes `v` on the
guarded lanes; a push is a beat with 0 on the others; sources pop; the strip goes on to its next word; nothing else of the chain or the machine
changes but the counts of the watchdog and of the profile. -/
structure WordStep (s : State) (h : Chain) (srcs : List (BitVec 4)) (d : Option (BitVec 4)) (g : BitVec 4) (u : Strip) (v : Nat → Lane) (h' : Chain)
    (t : State) : Prop where
  chain : t.sys.chain? s.curStrip = some h'
  strip : h'.strip s.curStrip.k = { u.next with v := (h'.strip s.curStrip.k).v, got := none, sent := 0 }
  regs : ∀ r, (∀ n, d = some n → n = 15 ∨ r ≠ n.toNat) → (h'.strip s.curStrip.k).reg r = (h.strip s.curStrip.k).reg r
  dest : ∀ n, d = some n → n ≠ 15 → ∀ l, l < 192 → ((h'.strip s.curStrip.k).reg n.toNat).getD l 0 =
    (if ((h.strip s.curStrip.k).mask g).getLsbD l then v l else ((h.strip s.curStrip.k).reg n.toNat).getD l 0)
  push : d = some 15 → g ≠ 14 → ∃ b : Beat, b.length = 192 ∧
    (∀ l, l < 192 → b.getD l 0 = (if ((h.strip s.curStrip.k).mask g).getLsbD l then v l else 0)) ∧
    (s.curStrip.k ≠ 4 → h'.port (6 + s.curStrip.k) = h.port (6 + s.curStrip.k) ++ [b]) ∧
    (s.curStrip.k = 4 → h'.outBytes = h.outBytes ++ (beatToBytes b).drop (h.strip 4).sent)
  silent : (d ≠ some 15 ∨ g = 14) → h'.port (6 + s.curStrip.k) = h.port (6 + s.curStrip.k) ∧ h'.stream = h.stream
  popA : h'.port (inA s.curStrip.k) = h.popped s.curStrip.k srcs 14 (inA s.curStrip.k)
  popB : h'.port (inB s.curStrip.k) = h.popped s.curStrip.k srcs 15 (inB s.curStrip.k)
  ports : ∀ p, p ≠ inA s.curStrip.k → p ≠ inB s.curStrip.k → p ≠ 6 + s.curStrip.k → h'.port p = h.port p
  strips : ∀ j, j ≠ s.curStrip.k → h'.strip j = h.strip j
  chains : ∀ x : StripRef, (x.die, x.ctx, x.chain) ≠ (s.curStrip.die, s.curStrip.ctx, s.curStrip.chain) → t.sys.chain? x = s.sys.chain? x
  seqs : ∀ r, t.sys.seq r = s.sys.seq r
  cells : CellsKept s t
  rest : t.sys.mems = s.sys.mems ∧ t.sys.gov = s.sys.gov ∧ t.plat = s.plat

/-- The flags of the guarded lanes, `f` lane by lane, become set in `u` and none is cleared (07 R150). -/
def FlagsSet (st u : Strip) (mask : BitVec 192) (f : Nat → Flg) : Prop :=
  ∀ i, i < 5 → (u.flags.getLsbD i = true ↔ st.flags.getLsbD i = true ∨ ∃ l, l < 192 ∧ mask.getLsbD l = true ∧ (f l).getLsbD i = true)

/-- A word that computes each lane by itself: `f l x` is the value and the flags of lane `l` with the draw `x`. A word that draws advances the generators
of the guarded lanes first (07 R145). -/
def LaneStep (s : State) (h : Chain) (srcs : List (BitVec 4)) (d g : BitVec 4) (draws : Bool) (f : Nat → Nat → Lane × Flg) (t : State) : Prop :=
  ∃ u h' st dr, st = h.strip s.curStrip.k ∧ dr = (fun l => if draws then srStep (st.sr.getD l 0) else st.sr.getD l 0) ∧
    WordStep s h srcs (some d) g u (fun l => (f l (dr l).toNat).1) h' t ∧ u = { st with sr := u.sr, flags := u.flags } ∧
    FlagsSet st u (st.mask g) (fun l => (f l (dr l).toNat).2) ∧ u.sr.length = 192 ∧
    ∀ l, l < 192 → u.sr.getD l 0 = (if (st.mask g).getLsbD l then dr l else st.sr.getD l 0)

/-- The integer that a lane holds in an integer TYPE: int32, nat32, int16, nat16 (10 R207). -/
def intVal (t : BitVec 3) (x : Lane) : Int :=
  if t = 3 then x.toInt else if t = 4 then x.toNat else if t = 5 then (x.extractLsb' 0 16).toInt else (x.extractLsb' 0 16).toNat

/-- The lane that an integer of the TYPE fills, wrapped: int16 with its sign above, nat16 with zeros (10 R207, R224). -/
def intLane (t : BitVec 3) (n : Int) : Lane :=
  if t = 3 ∨ t = 4 then BitVec.ofInt 32 n else if t = 5 then (BitVec.ofInt 16 n).signExtend 32 else (BitVec.ofInt 16 n).zeroExtend 32

/-- The least and the greatest integer of the TYPE. -/
def intLo (t : BitVec 3) : Int := if t = 3 then -2 ^ 31 else if t = 5 then -2 ^ 15 else 0
def intHi (t : BitVec 3) : Int := if t = 3 then 2 ^ 31 - 1 else if t = 4 then 2 ^ 32 - 1 else if t = 5 then 2 ^ 15 - 1 else 2 ^ 16 - 1

/-- What an integer word makes of its exact result: it wraps, or saturates to the nearest end with NV (10 R224). -/
def intOut (t : BitVec 3) (sat : Bool) (n : Int) : Lane × Flg :=
  if sat = true ∧ n < intLo t then (intLane t (intLo t), 16) else if sat = true ∧ intHi t < n then (intLane t (intHi t), 16) else (intLane t n, 0)

/-- A word that moves lanes: no flag, no draw. -/
def MoveStep (s : State) (h : Chain) (srcs : List (BitVec 4)) (d g : BitVec 4) (v : Nat → Lane) (t : State) : Prop :=
  ∃ h', WordStep s h srcs (some d) g (h.strip s.curStrip.k) v h' t

/-- A word that writes no lane register and leaves the strip as `u`. -/
def StripStep (s : State) (h : Chain) (srcs : List (BitVec 4)) (u : Strip) (t : State) : Prop :=
  ∃ h', WordStep s h srcs none 15 u (fun _ => 0) h' t

/-- A word that sets a predicate pair on the guarded lanes to `r` and its complement. -/
def PairStep (s : State) (h : Chain) (srcs : List (BitVec 4)) (k : Nat) (g : BitVec 4) (r : Nat → Bool) (f : Nat → Flg) (t : State) : Prop :=
  ∃ u st, st = h.strip s.curStrip.k ∧ StripStep s h srcs u t ∧ u = { st with p := u.p, flags := u.flags } ∧ FlagsSet st u (st.mask g) f ∧
    (∀ l, l < 192 → (u.pred (2 * k)).getLsbD l = (if (st.mask g).getLsbD l then r l else (st.pred (2 * k)).getLsbD l) ∧
      (u.pred (2 * k + 1)).getLsbD l = (if (st.mask g).getLsbD l then !r l else (st.pred (2 * k + 1)).getLsbD l)) ∧
    (∀ n, n ≠ 2 * k → n ≠ 2 * k + 1 → u.pred n = st.pred n)

/-- Columns of the shape in force. -/
def Strip.cols (st : Strip) : Nat := 192 / shpRows st.shp

/-! ## Exact values (07 R138 to R143, R146) -/

/-- An extended value: an exact number with its sign, which a zero has too, an infinity, or a NaN with its sign (07 R138). -/
inductive ExtNum where
  | real (neg : Bool) (mag : Rat)
  | inf (neg : Bool)
  | nan (neg : Bool)
deriving DecidableEq

/-- The value of an encoding (07 R138, R141). -/
def Fmt.num (f : Fmt) (bits : Nat) : ExtNum :=
  let s := decide (bits / 2 ^ (f.eb + f.m) % 2 = 1)
  let e := bits / 2 ^ f.m % 2 ^ f.eb
  let m := bits % 2 ^ f.m
  if f.hasInf = true ∧ e = 2 ^ f.eb - 1 then (if m = 0 then .inf s else .nan s)
  else if f = fE4M3 ∧ bits % 128 = 127 then .nan s
  else .real s (if e = 0 then (m : Rat) / (2 : Rat) ^ f.m * (2 : Rat) ^ (1 - (f.bias : Int)) else (1 + (m : Rat) / (2 : Rat) ^ f.m) * (2 : Rat) ^ ((e : Int) - f.bias))

/-- The value as a number; an infinity and a NaN have none. -/
def ExtNum.val : ExtNum → Rat
  | .real n v => if n then -v else v
  | _ => 0

/-- The value of a number, with a sign for a zero. -/
def ExtNum.ofRat (zero : Bool) (r : Rat) : ExtNum := if r = 0 then .real zero 0 else if r < 0 then .real true (-r) else .real false r

def ExtNum.isNan : ExtNum → Bool
  | .nan _ => true
  | _ => false

def ExtNum.isReal : ExtNum → Bool
  | .real _ _ => true
  | _ => false

def ExtNum.neg : ExtNum → Bool
  | .real n _ => n
  | .inf n => n
  | .nan n => n

/-- The value with another sign. -/
def ExtNum.signed (n : Bool) : ExtNum → ExtNum
  | .real _ v => .real n v
  | .inf _ => .inf n
  | .nan _ => .nan n

/-- The exact sum: the first NaN, none for infinities of both signs, an infinity, or the total; a total of 0 is -0 when every addend is -0, or under RDN when the
addends are not all zero (07 R146, 10 R223, R234). -/
def ExtNum.sum (rm : Nat) (l : List ExtNum) : Option ExtNum :=
  match l.find? ExtNum.isNan with
  | some x => some x
  | none =>
    if .inf false ∈ l ∧ .inf true ∈ l then none
    else if .inf false ∈ l then some (.inf false)
    else if .inf true ∈ l then some (.inf true)
    else some (ExtNum.ofRat (if l.all (fun x => decide (x.val = 0)) then l.all ExtNum.neg else rm == 3) ((l.map ExtNum.val).foldl (· + ·) 0))

/-- The exact product; none for 0 × Inf (07 R146, 10 R225). -/
def ExtNum.mul : ExtNum → ExtNum → Option ExtNum
  | .nan n, _ => some (.nan n)
  | _, .nan n => some (.nan n)
  | .inf n, .inf n' => some (.inf (n != n'))
  | .inf n, .real n' v => if v = 0 then none else some (.inf (n != n'))
  | .real n v, .inf n' => if v = 0 then none else some (.inf (n != n'))
  | .real n v, .real n' v' => some (.real (n != n') (v * v'))

/-- The first of two values that are no NaN is the smaller: -Inf, the numbers, +Inf; no zero is below another. -/
def ExtNum.below : ExtNum → ExtNum → Prop
  | .inf n, y => n = true ∧ y ≠ .inf true
  | .real _ _, .inf n => n = false
  | .real n v, .real n' v' => (ExtNum.real n v).val < (ExtNum.real n' v').val
  | _, _ => False

/-- A positive magnitude, as a cut of the rationals: those at or below it, and those below it. -/
structure Cut where
  le : Rat → Prop
  lt : Rat → Prop

/-- The cut is one of the real numbers. -/
structure Cut.Sound (v : Cut) : Prop where
  down : ∀ x y, x ≤ y → v.le y → v.le x
  strict : ∀ x y, x < y → v.le y → v.lt x
  weak : ∀ x, v.lt x → v.le x

/-- The cut of a number. -/
def Cut.of (r : Rat) : Cut := ⟨fun x => x ≤ r, fun x => x < r⟩

/-- The square root of a number, and its reciprocal. -/
def Cut.sqrt (r : Rat) : Cut := ⟨fun x => x < 0 ∨ x * x ≤ r, fun x => x < 0 ∨ x * x < r⟩
def Cut.rsqrt (r : Rat) : Cut := ⟨fun x => x < 0 ∨ x * x * r ≤ 1, fun x => x < 0 ∨ x * x * r < 1⟩

/-- 2 to the power of a number. -/
def Cut.exp2 (r : Rat) : Cut := ⟨fun x => x < 0 ∨ x ^ r.den ≤ (2 : Rat) ^ r.num, fun x => x < 0 ∨ x ^ r.den < (2 : Rat) ^ r.num⟩

/-- The logarithm of a number above 1 to the base 2. -/
def Cut.log2 (r : Rat) : Cut := ⟨fun x => (2 : Rat) ^ x.num ≤ r ^ x.den, fun x => (2 : Rat) ^ x.num < r ^ x.den⟩

/-- The magnitude lies from 2^e up to 2^(e+1). -/
def Cut.scale (v : Cut) (e : Int) : Prop := v.le ((2 : Rat) ^ e) ∧ ¬v.le ((2 : Rat) ^ (e + 1))

/-- A model value that is exact, as an extended value. -/
def Ext.num : Ext → ExtNum
  | .fin n m e _ => .real n ((m : Rat) * (2 : Rat) ^ e)
  | .inf n => .inf n
  | .nan n => .nan n

def Ext.exact : Ext → Bool
  | .fin _ _ _ more => !more
  | _ => true

/-- The model value stands for a magnitude with a sign: exactly, or between two neighbours of at least 60 bits. -/
def Ext.Gives (x : Ext) (neg : Bool) (v : Cut) : Prop := ∃ m e more, x = .fin neg m e more ∧ m ≠ 0 ∧ v.Sound ∧
  (more = false → v.le ((m : Rat) * (2 : Rat) ^ e) ∧ ¬v.lt ((m : Rat) * (2 : Rat) ^ e)) ∧
  (more = true → 2 ^ 60 ≤ m ∧ v.lt ((m : Rat) * (2 : Rat) ^ e) ∧ ¬v.le (((m : Rat) + 1) * (2 : Rat) ^ e))

/-- A magnitude rounded to a multiple of `q`: `n q` is the multiple at or below it, `y q` the result, in the modes of 07 R143. -/
def Cut.toMultiple (v : Cut) (q : Rat) (neg : Bool) (mode draw n y : Nat) : Prop :=
  v.le ((n : Rat) * q) ∧ ¬v.le (((n : Rat) + 1) * q) ∧ (¬v.lt ((n : Rat) * q) → y = n) ∧
  (v.lt ((n : Rat) * q) →
    (mode = 0 → (v.lt (((n : Rat) + 1 / 2) * q) → y = n + 1) ∧ (¬v.le (((n : Rat) + 1 / 2) * q) → y = n) ∧
      (v.le (((n : Rat) + 1 / 2) * q) → ¬v.lt (((n : Rat) + 1 / 2) * q) → y = n + n % 2)) ∧
    (mode = 1 → y = n) ∧ (mode = 2 → y = if neg then n else n + 1) ∧ (mode = 3 → y = if neg then n + 1 else n) ∧
    (mode = 4 → (v.le (((n : Rat) + ((draw : Rat) + 1) / (2 : Rat) ^ 32) * q) → y = n + 1) ∧
      (¬v.le (((n : Rat) + ((draw : Rat) + 1) / (2 : Rat) ^ 32) * q) → y = n)))

/-- The bits and the flags of Round (07 R143), with the result rule of flush-to-zero (07 R148). -/
def Rounds (f : Fmt) (neg : Bool) (v : Cut) (mode draw : Nat) (sat ftz : Bool) (bits : Nat) (fl : Flg) : Prop :=
  ∃ (e : Int) (n y : Nat) (q mx : Rat) (inexact past flush : Prop), v.scale e ∧ q = (2 : Rat) ^ (max e f.emin - (f.m : Int)) ∧ v.toMultiple q neg mode draw n y ∧
    f.num f.maxBits = .real false mx ∧ inexact = v.lt ((n : Rat) * q) ∧ past = (mx < (y : Rat) * q) ∧
    flush = (ftz = true ∧ f ∈ [fFP32, fFP16, fBF16] ∧ y ≠ 0 ∧ (y : Rat) * q < (2 : Rat) ^ f.emin) ∧ bits < 2 ^ f.width ∧
    (fl.getLsbD 0 = true ↔ inexact ∨ past ∨ flush) ∧ (fl.getLsbD 1 = true ↔ (inexact ∧ ¬v.le ((2 : Rat) ^ f.emin)) ∨ flush) ∧ (fl.getLsbD 2 = true ↔ past) ∧
    fl.getLsbD 3 = false ∧ fl.getLsbD 4 = false ∧
    (flush → f.num bits = .real neg 0) ∧ (¬past → ¬flush → f.num bits = .real neg ((y : Rat) * q)) ∧
    (past → (f.hasInf = false ∨ (f = fE5M2 ∧ sat = true) → f.num bits = if f = fE4M3 ∧ sat = false then .nan neg else .real neg mx) ∧
      (f.hasInf = true → (f ≠ fE5M2 ∨ sat = false) →
        f.num bits = if mode = 1 ∨ (mode = 2 ∧ neg = true) ∨ (mode = 3 ∧ neg = false) then .real neg mx else .inf neg))

/-! ## Events -/

/-- The event leaves `u`, of which `P` holds, and what the hub then does by itself follows (14 R317 to R319). -/
def HubThen (s : State) (P : Sys → Prop) (t : State) : Prop := ∃ u, P u ∧ t = { s with sys := hubGo u }

/-- The same of the events that only settle the hub's records. -/
def SettleThen (s : State) (P : Sys → Prop) (t : State) : Prop := ∃ u, P u ∧ t = { s with sys := settleHub u }

/-- No replay forces the choices of the partition (23 R452). -/
def State.live (s : State) (p : Nat) : Prop := (s.sys.part p).replay = none

/-- The event word is queued, or held, on a die (20 R417). -/
def Sys.posted (y : Sys) (d kind ctx sub need arg : Nat) : Prop :=
  eventWord kind ctx sub need arg ∈ (y.die d).events ++ (y.die d).heldEvents

/-- The byte at a window offset of a context of die `d`. -/
def Ctx.cellAt (c : Ctx) (d off : Nat) : Cell := ⟨d, some (c.place off).1, (c.place off).2⟩

/-- The window bytes from `off` of a context became `bs`, marks and all, and no other window or steward byte changed. -/
def WindowGot (y : Sys) (d : Nat) (c : Ctx) (off : Nat) (bs : List (Byte × Bool)) (u : Sys) : Prop :=
  (∀ i x, bs[i]? = some x → u.cell (c.cellAt d (off + i)) = x) ∧
  (∀ z, (∀ i < bs.length, z ≠ c.cellAt d (off + i)) → u.cell z = y.cell z)

/-- The `n` bytes at `off` of a context's window as a little-endian number. -/
def Sys.bytesAt (y : Sys) (d : Nat) (c : Ctx) (off n : Nat) : Nat := leNat ((List.range n).map (fun k => (y.cell (c.cellAt d (off + k))).1))

/-- The head entry of a queue has started, and its context's engines act; `c` is the context with the layout that the entry was issued with
(09 R182). -/
structure StartedHead (s : State) (d l q : Nat) (c : Ctx) (e : Entry) (rest : List Entry) : Prop where
  ctx : c = s.sys.ctxFor d l e
  queue : (c.queue q).ents = e :: rest
  nums : ∀ x ∈ rest, x.num ≠ e.num
  engines : c.engines = true
  started : e.started = true

/-- The head entry of a queue retired: its number is the timeline, and its signal is applied once (02 R51, 03 R67). -/
structure Retired (s : State) (d l q : Nat) (e : Entry) (rest : List Entry) (t : State) : Prop where
  ents : ((t.sys.ctx d l).queue q).ents = rest
  ret : ((t.sys.ctx d l).queue q).ret = e.num
  iss : ((t.sys.ctx d l).queue q).iss = ((s.sys.ctx d l).queue q).iss
  sig : ∀ ps inc sc, e.signal = some (ps, inc, sc) → ((t.sys.die d).sem ps).count =
    (if e.signalled then ((s.sys.die d).sem ps).count else min (((s.sys.die d).sem ps).count + inc) 65535)
  quiet : ∀ ps, e.signal.map (fun x => x.1) ≠ some ps → ((t.sys.die d).sem ps).count = ((s.sys.die d).sem ps).count

/-- The integer whose plane `k` is bit `k`, the plane p - 1 its sign (07 R153). -/
def planesInt (p : Nat) (bit : Nat → Bool) : Int :=
  ((List.range (p - 1)).map (fun k => if bit k then (2 ^ k : Int) else 0)).foldl (· + ·) 0 - (if bit (p - 1) then 2 ^ (p - 1) else 0)

/-- The sum of the first `n` values. -/
def sumInt (n : Nat) (f : Nat → Int) : Int := ((List.range n).map f).foldl (· + ·) 0

/-- One step of a column of float mode: ColSum of `x` and the extended value `y`, rounded once to nearest even (08 R168). -/
def ColStep (x : Lane) (y : ExtNum) (z : Lane) : Prop :=
  match ExtNum.sum 0 [fFP32.num x.toNat, y] with
  | some (.real n v) => (v = 0 → fFP32.num z.toNat = .real n 0) ∧ (v ≠ 0 → ∃ fl, Rounds fFP32 n (Cut.of v) 0 0 false false z.toNat fl)
  | some (.inf n) => fFP32.num z.toNat = .inf n
  | _ => z = 0x7FC0_0000

/-- Step32 of integer mode: it wraps, or saturates (08 R171). -/
def step32Of (sat : Bool) (x : Int) : Int := if sat then min (max x (-2 ^ 31)) (2 ^ 31 - 1) else (BitVec.ofInt 32 x).toInt

/-- What one pass makes of an accumulator element `a`, the element and its PZ: `G` the group products, `E` the sums of the exponent bytes, `bad` the poisoned
groups, in increasing group order (08 R168, R171, R172). Mode 0 is float, 1 wraps, 2 saturates. -/
def PassGives (mode ng : Nat) (G E : Nat → Int) (bad : Nat → Prop) (a z : Lane × Bool) : Prop :=
  (mode = 0 → (a.2 = true → z = a) ∧ (a.2 = false → z.2 = false ∧ ∃ c : Nat → Lane, c 0 = 0 ∧ ColStep a.1 (fFP32.num (c ng).toNat) z.1 ∧
    ∀ g < ng, (bad g → ColStep (c g) (.nan false) (c (g + 1))) ∧ (¬bad g → ColStep (c g) (ExtNum.ofRat false (G g * (2 : Rat) ^ (E g - 254))) (c (g + 1))))) ∧
  (mode ≠ 0 → ((∃ g < ng, bad g) → z = (a.1, true)) ∧ ((∀ g < ng, ¬bad g) → (a.2 = true → z = a) ∧
    (a.2 = false → ∃ c : Nat → Int, c 0 = 0 ∧ (∀ g < ng, c (g + 1) = step32Of (mode == 2) (c g + G g)) ∧
      z = (BitVec.ofInt 32 (step32Of (mode == 2) (a.1.toInt + c ng)), false))))

/-- Columns of a B panel line (08 R165). -/
def panelWidth (bw : Nat) : Nat := if bw = 0 then 384 else 192

/-- The mask of group `t` for panel column `x` in a sparse line (08 R165). -/
def maskOf (bw sp : Nat) (line : List Byte) (x t : Nat) : Byte := line.getD (2 ^ sp * panelWidth bw + t * 192 + x % 192) 0

/-- The B value of element `i` of group `t` for panel column `x`: 0 where the mask keeps no such element, else the lane with its rank (08 R160, R165, R166). -/
def elementB (bw sp : Nat) (line : List Byte) (x t i : Nat) : Int :=
  let m := maskOf bw sp line x t
  let lane := if sp = 0 then i else t * (8 / 2 ^ sp) + ((List.range i).filter (fun k => m.getLsbD k)).length
  let plane (k : Nat) : Byte :=
    line.getD (2 ^ sp * panelWidth bw + (if sp = 0 then 0 else 192 * 2 ^ sp) + (4 * 2 ^ bw - 1 - k) * panelWidth bw + x) 0
  if sp ≠ 0 ∧ m.getLsbD i = false then 0 else planesInt (4 * 2 ^ bw) (fun k => (plane k).getLsbD lane)

/-- What one A row makes of an accumulator element in all its passes: `A` the line of `ng` groups in `pa` planes, `B` the line of each PE row, `x` the panel
column; with a 16-bit B the high pass, then the low one (08 R162 to R164, R170). -/
def RunGives (bw sp pa mode ng x : Nat) (A : Nat → Byte × Bool) (B : Nat → List Byte) (a z : Lane × Bool) : Prop :=
  ∃ (P : (Int → Int) → Nat → Int) (E : Nat → Int) (bad : Nat → Prop),
    (∀ f g, P f g = sumInt 8 (fun i => planesInt pa (fun k => (A (ng * (pa - k) + g)).1.getLsbD i) * f (elementB bw sp (B (g / 2 ^ sp)) x (g % 2 ^ sp) i))) ∧
    (∀ g, E g = (A g).1.toNat + ((B (g / 2 ^ sp)).getD (g % 2 ^ sp * panelWidth bw + x) 0).toNat) ∧
    (∀ g, bad g ↔ (∃ k ≤ pa, (A (ng * k + g)).2 = true) ∨ (A g).1 = 0xFF ∨ (B (g / 2 ^ sp)).getD (g % 2 ^ sp * panelWidth bw + x) 0 = 0xFF) ∧
    (bw ≠ 2 → PassGives mode ng (P id) E bad a z) ∧
    (bw = 2 → ∃ m, PassGives mode ng (P (fun b => b / 256 * 256)) E bad a m ∧ PassGives mode ng (P (fun b => b % 256)) E bad m z)

/-- One A row `m` of a run at base row `row` takes the accumulator elements from `old` to `new`: the columns of its row, or of its two rows with a 4-bit B,
and no others (08 R175). -/
def RowRun (v : Die) (h : Ctx) (bw sp pa mode row m : Nat) (A : Nat → Byte × Bool) (old new : Nat → Nat → Lane × Bool) : Prop :=
  (∀ n < 192 * h.w, (bw ≠ 0 → RunGives bw sp pa mode (192 * h.h * 2 ^ sp) (n % 192) A (bLineOf v h (n / 192)) (old (row + m) n) (new (row + m) n)) ∧
    (bw = 0 → ∀ k < 2, RunGives bw sp pa mode (192 * h.h * 2 ^ sp) (192 * k + n % 192) A (bLineOf v h (n / 192)) (old (row + 2 * m + k) n) (new (row + 2 * m + k) n))) ∧
  ∀ z, (bw ≠ 0 → z ≠ row + m) → (bw = 0 → z ≠ row + 2 * m ∧ z ≠ row + 2 * m + 1) → new z = old z

/-- The fragment holds a B of this width and sparsity in every block, and its masks keep as many elements as they should. -/
def HoldsB (v : Die) (h : Ctx) (bw sp : Nat) : Prop :=
  (∀ b ∈ h.blocks, (mgetD v.bmat b {}).bw = bw ∧ (mgetD v.bmat b {}).sp = sp) ∧
  (sp ≠ 0 → ∀ j < h.w, ∀ r < 192 * h.h, ∀ t < 2 ^ sp, ∀ x < 192, ((List.range 8).filter (fun k => (maskOf bw sp (bLineOf v h j r) x t).getLsbD k)).length = 8 / 2 ^ sp)

/-- The accumulator elements are `new` after a run of entry `e` in some of the rows: a row that was touched is live, the others stand as they were. -/
def AccNow (s t : State) (d : Nat) (h : Ctx) (touched : Nat → Prop) (new : Nat → Nat → Lane × Bool) : Prop :=
  ∀ z < 256 * h.h, (touched z → accRow (t.sys.die d) h z = (List.range (192 * h.w)).map (fun n => some (new z n))) ∧
    (¬touched z → accRow (t.sys.die d) h z = accRow (s.sys.die d) h z)

/-- `n` bytes at `off` lie in the window, whose blocks are distinct. -/
def Ctx.holds (c : Ctx) (off n : Nat) : Prop := c.blocks.Nodup ∧ off + n ≤ c.wsz

/-- Copy context `k` has the started head entry `e`, and its context does not end. -/
structure CopyHead (c : Ctx) (k : Nat) (p : CopyCtx) (e : Entry) (rest : List Entry) : Prop where
  copies : c.copies[k]? = some p
  queue : (c.queue (8 + k)).ents = e :: rest
  started : e.started = true
  going : c.endBy = false

/-- The copy context can take a turn: nothing stops it and it awaits nothing. -/
structure CopyTurns (c : Ctx) (k : Nat) (p : CopyCtx) (e : Entry) (rest : List Entry) : Prop where
  head : CopyHead c k p e rest
  engines : c.engines = true
  ready : p.stop = false ∧ p.req = none ∧ p.host = none ∧ p.ack = false ∧ e.done = false

/-- The first stream entry of a group that has repetitions left among those of its port: a feed's target, or the out-port for a take. -/
def NextStream (g : List Entry) (e : Entry) : Prop := ∃ pre post, g = pre ++ e :: post ∧ e.rep < e.reps.length ∧
  ∀ z ∈ pre, isStream z.cmd = true → isTake z.cmd = isTake e.cmd → feedPort z.cmd = feedPort e.cmd → z.reps.length ≤ z.rep

/-- Bits of an element of FMT: w32, w16, w8, w6, w4, mx8, mx6, mx4 (10 R218). -/
def streamBits (f : BitVec 3) : Nat := [32, 16, 8, 6, 4, 8, 6, 4].getD f.toNat 0

/-- Queue `8 + k` of the context has the head `e` before the entries `rest`. -/
def Sys.copyQueue (y : Sys) (d l k : Nat) (e : Entry) (rest : List Entry) : Prop := ((y.ctx d l).queue (8 + k)).ents = e :: rest

/-! ### The copy engines (11 R266, 12 R281 to R301, 18 R377) -/

/-- A copy context at its head entry: where it is, the entry's kind, and the context with the layout that the entry was issued with. -/
structure CopyAt where
  d : Nat
  l : Nat
  k : Nat
  c : Ctx
  f : Ctx
  p : CopyCtx
  kd : CpKind
  e : Entry
  rest : List Entry

/-- k(r): fixed for a row in progress, else the nat32 that the index list holds (12 R281). -/
def CopyAt.index (m : CopyAt) (y : Sys) (r : Nat) : Nat := (mget? m.e.ix r).getD (y.bytesAt m.d m.f (rAuxv m.e.record + 4 * r) 4)

/-- Bytes of the repetition, and of a row of its destination (12 R281, R282). -/
def CopyAt.total (m : CopyAt) : Nat := (if m.kd = .walk then m.e.walkA.count else rNrow m.e.record) * rLen m.e.record
def CopyAt.row (m : CopyAt) : Nat := if m.kd = .trn then rNrow m.e.record * elemBytes m.e.record else rLen m.e.record

/-- The number of the first byte not yet written, which is the first one carried, and of the next byte to be read. -/
def CopyAt.next (m : CopyAt) : Nat := m.e.pos + m.e.pass
def CopyAt.ahead (m : CopyAt) : Nat := m.next + m.e.carry.length

/-- The source address of byte `n` in the order of 12 R281 and R282. -/
def CopyAt.src (m : CopyAt) (y : Sys) (n : Nat) : Word :=
  let x := m.e.record
  let b := BitVec.ofNat 64 (n % rLen x)
  match m.kd with
  | .walk => m.e.walkB.addr (n / rLen x) + b
  | .gat => rowAddr (rSaddr x) (m.index y (n / rLen x)) (rSstr x) + b
  | .trn => rowAddr (rSaddr x) (n % m.row / elemBytes x) (rSstr x) + BitVec.ofNat 64 (n / m.row * elemBytes x + n % elemBytes x)
  | _ => rowAddr (rSaddr x) (n / rLen x) (rSstr x) + b

/-- The destination address of byte `n` in the order of 12 R281 and R282. -/
def CopyAt.dst (m : CopyAt) (y : Sys) (n : Nat) : Word :=
  let x := m.e.record
  let b := BitVec.ofNat 64 (n % m.row)
  match m.kd with
  | .walk => m.e.walkA.addr (n / m.row) + b
  | .sca => rowAddr (rDaddr x) (m.index y (n / m.row)) (rDstr x) + b
  | _ => rowAddr (rDaddr x) (n / m.row) (rDstr x) + b

/-- The fragment whose window the source or the destination is, when it is one: the own one, or a piece's (11 R242). -/
def CopyAt.srcWin (m : CopyAt) : Ctx := nearCtx m.c m.e (rSsp m.e.record) (rShnd m.e.record)
def CopyAt.dstWin (m : CopyAt) : Ctx := nearCtx m.c m.e (rDsp m.e.record) (rDhnd m.e.record)

/-- The location of a source or destination byte: the place in a slice, the intermediate address, or the host address (12 R283). -/
def CopyAt.srcSpot (m : CopyAt) (y : Sys) (n : Nat) : Option (Nat × Nat) := spotOf m.c m.e (rSsp m.e.record) (rShnd m.e.record) .rd (m.src y n)
def CopyAt.dstSpot (m : CopyAt) (y : Sys) (n : Nat) : Option (Nat × Nat) := spotOf m.c m.e (rDsp m.e.record) (rDhnd m.e.record) .wr (m.dst y n)

/-- The copy context can take a turn, its repetition is not over, and a window operand lies in its window, in distinct blocks (12 R279). -/
structure CopyAt.Moves (m : CopyAt) (s : State) : Prop where
  turns : CopyTurns m.c m.k m.p m.e m.rest
  ctx : m.c = s.sys.ctx m.d m.l
  frag : m.f = s.sys.ctxFor m.d m.l m.e
  kind : cpKind m.e.cmd = some m.kd
  left : m.next < m.total
  pass : m.e.pass = 0 ∨ rDsp m.e.record = spXpk
  elems : m.kd = .trn → rLen m.e.record % elemBytes m.e.record = 0
  srcIn : nearSpace (rSsp m.e.record) = true → ∀ n < m.total, (m.src s.sys n).toNat < m.srcWin.wsz
  dstIn : nearSpace (rDsp m.e.record) = true → m.dstWin.blocks.Nodup ∧ ∀ n < m.total, (m.dst s.sys n).toNat < m.dstWin.wsz

/-- The copy context after it has read on: the bytes carried, the indices fixed, and what a `cp.trn` has read of its units. -/
def CopyAt.carrying (m : CopyAt) (vs : List (Byte × Bool)) (ix : Map Nat) (kept : Map (Byte × Bool)) : Entry :=
  { m.e with carry := vs, ix := ix, kept := kept }

/-- The indices fixed are those that the rows have. -/
def CopyAt.fixes (m : CopyAt) (y : Sys) (ix : Map Nat) : Prop := ∀ r v, mget? ix r = some v → v = m.index y r

/-- The bytes `new` that follow those carried were read: those among the `n` bytes at `base` as `byte` gives them, others of a `cp.trn` with
units that it has read before. -/
def CopyAt.fetched (m : CopyAt) (y : Sys) (base n : Nat) (byte : Nat → Byte × Bool) (new : List (Byte × Bool)) : Prop :=
  ∀ i < new.length, new[i]? = (if base ≤ (m.src y (m.ahead + i)).toNat ∧ (m.src y (m.ahead + i)).toNat < base + n
    then some (byte ((m.src y (m.ahead + i)).toNat - base)) else mget? m.e.kept (trnSource m.e.record (m.ahead + i)))

/-- Bytes read ahead are as a copy byte by byte has them: a byte whose location an earlier one of the `w` written bytes has is that byte, the
latest of them, and every other is as it was read (12 R283). -/
def CopyAt.settles (m : CopyAt) (y : Sys) (w : Nat) (raw vs : List (Byte × Bool)) : Prop :=
  vs.length = raw.length ∧ (mayOverlap m.e.record m.kd = false → vs = raw) ∧ (mayOverlap m.e.record m.kd = true → ∀ i < raw.length,
    (∀ j < i, j < w → (m.dstSpot y (m.next + j)).isSome = true → m.dstSpot y (m.next + j) = m.srcSpot y (m.next + i) →
      (∀ h, j < h → h < i → h < w → m.dstSpot y (m.next + h) ≠ m.srcSpot y (m.next + i)) → vs[i]? = vs[j]?) ∧
    ((∀ j < i, j < w → (m.dstSpot y (m.next + j)).isSome = true → m.dstSpot y (m.next + j) ≠ m.srcSpot y (m.next + i)) → vs[i]? = raw[i]?))

/-- A write of `w` bytes ends between two aligned units of 8 bytes, or at the end of a row that the next one does not follow without a
break (11 R266; log entry 105). -/
def CopyAt.whole (m : CopyAt) (y : Sys) (w : Nat) : Prop :=
  rDsp m.e.record = spHost ∨ ((m.dst y m.next).toNat + w) % 8 = 0 ∨ ((m.next + w) % m.row = 0 ∧ (m.next + w = m.total ∨ m.kd = .gat ∨ m.kd = .sca ∨
    rDsp m.e.record = spXpk ∨ m.dst y (m.next + w) ≠ m.dst y m.next + BitVec.ofNat 64 w))

/-- The copy context stopped at its head entry, with what its registers tell, and COPY_FAULT is pending at the die's steward (12 R298, R299). -/
def CopyHalted (s : State) (d l k reason : Nat) (addr : Word) (p : CopyCtx) (e : Entry) (t : State) : Prop :=
  (t.sys.ctx d l).copies[k]? = some { p with stop := true, reason := reason, repix := e.rep, cfEntry := e.num, prog := BitVec.ofNat 64 e.pos
                                             faddr := addr, req := none, host := none, ack := false } ∧
  ((t.sys.ctx d l).queue (8 + k)).ents.map (·.num) = ((s.sys.ctx d l).queue (8 + k)).ents.map (·.num) ∧
  DieCause.copyFault l k ∈ (t.sys.die d).pend ∧ CellsKept s t

/-- The entry under which a holder sends a request, unless its unit is out of tolerance (18 R377, R380). -/
def Sys.routeOf (y : Sys) (d l k ia : Nat) : Option Route :=
  if (y.ctx d l).holderUnit k ∈ (y.die d).skewed then none else ((y.ctx d l).holder k).find (y.ctx d l).part (ia / 2 ^ 44) (ia % 2 ^ 44)

/-- The copy context has sent one request at intermediate address `ia`, which it awaits: direct to the frame under a valid entry that allows the access, else home, with an
ask when it has no entry, none is out and its unit may ask; a renewal ask may go before it (18 R377, R379, R380). Its head entry is `e`. -/
def RequestSent (s : State) (m : CopyAt) (rk : ReqKind) (va : Word) (ia : Nat) (e : Entry) (t : State) : Prop :=
  t.sys.copyQueue m.d m.l m.k e m.rest ∧ CellsKept s t ∧ ∃ asks q, t.sys.hub.reqs = s.sys.hub.reqs ++ asks ++ [q] ∧
    asks.length ≤ 1 ∧ (∀ a ∈ asks, a.kind = .ask ∧ a.ask = true ∧ a.ia = ia ∧ ∃ r, s.sys.routeOf m.d m.l m.k ia = some r ∧ r.due = true) ∧
    ((t.sys.ctx m.d m.l).copies[m.k]?).bind (·.req) = some q.id ∧ q.kind = rk ∧ q.va = va ∧ q.ia = ia ∧ q.die = m.d ∧ q.ctx = m.l ∧ q.k = m.k ∧
    q.part = m.c.part ∧ q.st = .sent ∧ q.waiting = false ∧
    q.direct = (match s.sys.routeOf m.d m.l m.k ia with
      | some r => if (kindNeed rk).writes && !r.w then none else some (r.fdie, r.frame + (ia % 2 ^ 44 - r.key.off))
      | none => none) ∧
    (q.ask = true ↔ s.sys.routeOf m.d m.l m.k ia = none ∧ m.c.holderUnit m.k ∉ (s.sys.die m.d).skewed ∧
      (m.c.holder m.k).asking (ia / 2 ^ 44) (ia % 2 ^ 44) = false)

/-- A request of an access that begins `back` bytes before `va`: sent where `va` translates, else the copy context stops with the reason, as `halt` says. -/
def Requested (s : State) (m : CopyAt) (rk : ReqKind) (va : Word) (back : Nat) (e : Entry) (halt : Nat → State → Prop) (t : State) : Prop :=
  (∀ r, virtToInt m.e.ranges va (kindNeed rk) = .error r → halt r t) ∧
  (∀ ia, virtToInt m.e.ranges va (kindNeed rk) = .ok ia →
    ((s.sys.part m.c.part).vdie ((ia - back) / 2 ^ 44) = none → halt 4 t) ∧
    ((s.sys.part m.c.part).vdie ((ia - back) / 2 ^ 44) ≠ none → RequestSent s m rk va (ia - back) e t))

/-- A copy that fails at `va` while it reads tells the first failing address in its order: that of the first byte carried whose destination does not
translate, or else `va` (12 R301). -/
def FailsFirst (s : State) (m : CopyAt) (va : Word) (r : Nat) (t : State) : Prop :=
  let bad (i : Nat) (x : Nat) : Prop := rDsp m.e.record = spDev ∧ virtXlate s.sys m.c.part m.e.ranges (m.dst s.sys (m.next + i)) .wr = .error x
  ((∀ i < m.e.carry.length, ∀ x, ¬bad i x) → CopyHalted s m.d m.l m.k r va m.p m.e t) ∧
  (∀ i < m.e.carry.length, ∀ x, bad i x → (∀ j < i, ∀ z, ¬bad j z) → CopyHalted s m.d m.l m.k x (m.dst s.sys (m.next + i)) m.p m.e t)

/-- The turn wrote the first `w` of the bytes `vs`, its head entry having been `e` before that: to a window, to host memory, to device memory by one request, or to a Canopy
port, where the row's last byte makes it await the acknowledgement (12 R281, R293, 24 R463). -/
def MoveWrote (s : State) (m : CopyAt) (vs : List (Byte × Bool)) (w : Nat) (e : Entry) (t : State) : Prop :=
  let x := m.e.record
  let a := m.dst s.sys m.next
  let bs := vs.take w
  (nearSpace (rDsp x) = true → t.sys.copyQueue m.d m.l m.k (e.forward w m.total) m.rest ∧
    (∀ i b, bs[i]? = some b → t.sys.cell (m.dstWin.cellAt m.d (m.dst s.sys (m.next + i)).toNat) = b) ∧
    (∀ z, (∀ i < w, z ≠ m.dstWin.cellAt m.d (m.dst s.sys (m.next + i)).toNat) → t.sys.cell z = s.sys.cell z)) ∧
  (rDsp x = spHost → t.sys.copyQueue m.d m.l m.k (e.forward w m.total) m.rest ∧ CellsKept s t ∧ t.sys.hub.hostOut = s.sys.hub.hostOut ++
    (if w = 0 ∨ (s.sys.fn m.c.fn).flr = true then [] else [{ fn := m.c.fn, addr := a, bytes := bs.map (·.1), poisoned := bs.any (·.2) }])) ∧
  (w = 0 → nearSpace (rDsp x) = false → t.sys.copyQueue m.d m.l m.k e m.rest ∧ CellsKept s t ∧ t.sys.hub.reqs = s.sys.hub.reqs ∧
    t.sys.hub.xpkOut = s.sys.hub.xpkOut) ∧
  (w ≠ 0 → rDsp x = spDev → Requested s m (.write bs) a 0 e (fun r => CopyHalted s m.d m.l m.k r a m.p m.e) t) ∧
  (w ≠ 0 → rDsp x = spXpk → ∀ red last, m.kd = .rw red → last = decide (rLen x ≤ m.e.pos % rLen x + m.e.pass + w) →
    (s.sys.hub.ports.getLsbD (rDhnd x) = false → CopyHalted s m.d m.l m.k 0x13 (rowAddr (rDaddr x) (m.e.pos / rLen x) (rDstr x)) m.p m.e t) ∧
    (s.sys.hub.ports.getLsbD (rDhnd x) = true →
      t.sys.copyQueue m.d m.l m.k { e with pass := e.pass + w, carry := vs.drop w } m.rest ∧ CellsKept s t ∧
      ((t.sys.ctx m.d m.l).copies[m.k]?).map (·.ack) = some last ∧
      t.sys.hub.xpkOut = s.sys.hub.xpkOut ++ [{ port := rDhnd x, token := rToken x, off := a.toNat, bytes := bs.map (·.1), poisoned := bs.any (·.2)
                                                signal := rwSignals m.e.cmd && last && decide (m.total ≤ m.e.pos - m.e.pos % rLen x + rLen x) &&
                                                  decide (m.e.recs.length ≤ m.e.rep + 1), red := red }]))

/-- The byte-moving entry awaits bytes that it has asked for. -/
structure CopyAt.Awaits (m : CopyAt) (s : State) (d l k : Nat) (c : Ctx) (p : CopyCtx) (e : Entry) (rest : List Entry) : Prop where
  at_ : m = { d := d, l := l, k := k, c := c, f := s.sys.ctxFor d l e, p := p, kd := m.kd, e := e, rest := rest }
  ctx : c = s.sys.ctx d l
  head : CopyHead c k p e rest
  kind : cpKind e.cmd = some m.kd ∧ m.kd.isMove = true ∧ m.kd ≠ .fill
  left : m.ahead < m.total
  pass : e.pass = 0 ∨ rDsp e.record = spXpk
  elems : m.kd = .trn → rLen e.record % elemBytes e.record = 0
  dstIn : nearSpace (rDsp e.record) = true → m.dstWin.blocks.Nodup ∧ ∀ n < m.total, (m.dst s.sys n).toNat < m.dstWin.wsz

/-- The bytes asked for have come: those of a `cp.trn` in device memory are the aligned unit of the next one. What makes whole units is written at once to a window, and kept
for the next turn where the destination lies elsewhere. -/
def MoveGot (s : State) (m : CopyAt) (bs : List (Byte × Bool)) (t : State) : Prop :=
  let a := (m.src s.sys m.ahead).toNat
  ∃ new vs w kept, m.settles s.sys w (m.e.carry ++ new) vs ∧ w ≤ vs.length ∧ w ≤ 4096 ∧ (w ≠ 0 → m.whole s.sys w) ∧
    (m.kd = .trn ∧ rSsp m.e.record ≠ spHost → m.fetched s.sys (a - a % 8) bs.length (fun i => bs.getD i default) new) ∧
    (m.kd ≠ .trn ∨ rSsp m.e.record = spHost → new = bs) ∧ (nearSpace (rDsp m.e.record) = false → w = 0) ∧
    MoveWrote s m vs w (m.carrying vs m.e.ix kept) t

/-- What an atomic operation on a unit makes of its value `old` with the operand `v` and the comparand `c` (11 R269). -/
def AtomicDone (aop aty old v c new : Nat) : Prop :=
  let w := 8 * unitSize aty
  let less (x y : Nat) : Prop := if aty < 2 then (BitVec.ofNat w x).toInt < (BitVec.ofNat w y).toInt else x < y
  old < 2 ^ w ∧ new < 2 ^ w ∧ (v < 2 ^ w → c < 2 ^ w →
    (aop = 0 → new = (old + v) % 2 ^ w) ∧
    (aop = 1 → (less v old → new = v) ∧ (¬less v old → new = old)) ∧
    (aop = 2 → (less old v → new = v) ∧ (¬less old v → new = old)) ∧
    (aop = 3 → new = old &&& v) ∧ (aop = 4 → new = old ||| v) ∧ (aop = 5 → new = old ^^^ v) ∧ (aop = 6 → new = v) ∧
    (aop = 7 → (old = c → new = v) ∧ (old ≠ c → new = old)))

/-- The contexts of a partition that `P` picks became what `f` makes of them; every context of which the machine lists no such one is as before. -/
def Picked (s t : State) (p : Nat) (P : Ctx → Prop) (f : Ctx → Ctx) : Prop :=
  (∀ d l, (s.sys.ctx d l).isFree = false → (s.sys.ctx d l).part = p → P (s.sys.ctx d l) → t.sys.ctx d l = f (s.sys.ctx d l)) ∧
  (∀ d l, (∀ x ∈ s.sys.contexts, x.1 = d → x.2.1 = l → ¬(x.2.2.part = p ∧ P x.2.2)) → t.sys.ctx d l = s.sys.ctx d l)

/-- One more instance of node `k` has ended, the record in error: the first cause stands, and nothing of it starts any more (14 R331). -/
def EndedWith (u : Sys) (k : Nat) (n : Node) (cause : Nat) : Prop :=
  ∃ v, u.hub.node? k = some v ∧ v.live = n.live - 1 ∧ v.ended = n.ended + 1 ∧ v.failed = some (n.failed.getD cause) ∧ v.rerun = [] ∧ v.again = []

/-- The gang of number `k` has faulted (14 R330): it is gone, its members start and release nothing any more, each one's queue has an error, and every instance of
it that holds a claim is asked to quiesce. -/
def GangOut (y u : Sys) (k : Nat) (g : Gang) : Prop :=
  mget? u.hub.gangs k = none ∧
  (∀ m n, m ∈ g.nodes → y.hub.node? m = some n → ((u.fn n.oFn).queue n.oQ).qerr.getLsbD 63 = true ∧
    ∃ v, u.hub.node? m = some v ∧ v.failed.isSome = true ∧ v.gangOut = true ∧ v.gang = none) ∧
  ∀ d l, (y.ctx d l).isFree = false → (y.ctx d l).node ∈ g.nodes → (u.ctx d l).qreq = some y.hub.now

/-- Message `k` of the physical function was sent, or is pending while its vector is masked (24 R460). -/
def PfSent (s t : State) (k : Nat) : Prop :=
  (s.sys.hub.pfMsix.blocks k = false → t.sys.hub.pfMsgs = s.sys.hub.pfMsgs ++ [k] ∧ t.sys.hub.pfMsix = s.sys.hub.pfMsix) ∧
  (s.sys.hub.pfMsix.blocks k = true → t.sys.hub.pfMsgs = s.sys.hub.pfMsgs ∧ t.sys.hub.pfMsix.pend.getLsbD k = true)

/-! ## Encodings -/

/-- A word of a strip program; the other encoded instructions are a sequencer's (03 R57, R70). -/
def isWord (i : Instr) : Bool :=
  match i with
  | .xAdd _ _ _ _ _ _ => true
  | .xSub _ _ _ _ _ _ => true
  | .xMul _ _ _ _ _ _ => true
  | .xMin _ _ _ _ _ => true
  | .xMax _ _ _ _ _ => true
  | .xAbs _ _ _ _ _ => true
  | .xNeg _ _ _ _ _ => true
  | .xAnd _ _ _ _ _ _ => true
  | .xOr _ _ _ _ _ _ => true
  | .xXor _ _ _ _ _ _ => true
  | .xShl _ _ _ _ _ _ => true
  | .xShr _ _ _ _ _ _ => true
  | .xSra _ _ _ _ _ _ => true
  | .xMov _ _ _ => true
  | .xFma _ _ _ _ _ _ => true
  | .xFms _ _ _ _ _ _ => true
  | .xFnma _ _ _ _ _ _ => true
  | .xFnms _ _ _ _ _ _ => true
  | .xCvt _ _ _ _ _ _ => true
  | .xCvtn _ _ _ _ _ _ => true
  | .xCvtw _ _ _ _ _ _ => true
  | .xPack _ _ _ _ _ _ => true
  | .xUnpk _ _ _ _ _ _ => true
  | .xRcp _ _ _ _ _ => true
  | .xRsq _ _ _ _ _ => true
  | .xSqrt _ _ _ _ _ => true
  | .xExp2 _ _ _ _ _ => true
  | .xLog2 _ _ _ _ _ => true
  | .xDiv _ _ _ _ _ _ => true
  | .xCeq _ _ _ _ _ => true
  | .xClt _ _ _ _ _ => true
  | .xCle _ _ _ _ _ => true
  | .xCun _ _ _ _ _ => true
  | .xSel _ _ _ _ _ => true
  | .xPand _ _ _ _ _ => true
  | .xPmovToP _ _ _ _ => true
  | .xPmovToV _ _ _ _ => true
  | .xRsum _ _ _ _ _ => true
  | .xCsum _ _ _ _ _ => true
  | .xRmax _ _ _ _ => true
  | .xCmax _ _ _ _ => true
  | .xRmin _ _ _ _ => true
  | .xCmin _ _ _ _ => true
  | .xBcr _ _ _ _ => true
  | .xBcc _ _ _ _ => true
  | .xTr _ _ _ => true
  | .xRotR _ _ _ _ => true
  | .xRotC _ _ _ _ => true
  | .xPerm _ _ _ _ => true
  | .xShp _ _ => true
  | .xIdle _ _ => true
  | .xPost _ _ => true
  | .xFlg _ _ _ => true
  | .xMode _ _ _ => true
  | _ => false

/-- The instruction that a word holds, in the space of the unit that executes it. -/
def readBack (i : Instr) (w : Nat) : Except DecErr Instr := if isWord i then decodeStrip w else decodeSeq w

/-! ## The platform (24 R468 to R474) -/

/-- What every step keeps of the platform. -/
structure PlatformInv (s : State) : Prop where
  phase : s.plat.phase ≤ 6
  ready : s.plat.ready = true ↔ s.plat.phase = 6
  safe : s.plat.safe = true → s.plat.phase = 1 ∨ s.plat.phase = 4
  bundle : s.plat.bundle.isSome = true ↔ 2 ≤ s.plat.phase
  off : s.plat.power = false → s.plat.phase = 0 ∧ s.plat.safe = false ∧ s.sys = { used := s.sys.used }
  flush : s.plat.sinceFlush ≤ flushLimit
  bins : ∀ x ∈ s.plat.thermal, x.1 < 20

end Sys2Proof.Machine
end

