-- ==== Sys2Proof/Certificates/Slice0/Obligations.lean ====
section
/-! DEFINITION. The statements for the provers. -/

open Sys2Proof Sys2Proof.Machine

/-! ## The integer instructions (05 R108 to R111, R117) -/

/-- 05 R108: with sources that are not poisoned, each two-source instruction writes its result to gD, and nothing else changes but
the PCs and the loop. -/
def Obligations.AluTwoSources : Prop := ∀ (s : State) (d a b : BitVec 5), s.sound [a, b] →
  Ends (.add d a b) s (Wrote s 4 d (s.g a + s.g b)) ∧
  Ends (.sub d a b) s (Wrote s 4 d (s.g a - s.g b)) ∧
  Ends (.and d a b) s (Wrote s 4 d (s.g a &&& s.g b)) ∧
  Ends (.or d a b) s (Wrote s 4 d (s.g a ||| s.g b)) ∧
  Ends (.xor d a b) s (Wrote s 4 d (s.g a ^^^ s.g b)) ∧
  Ends (.andn d a b) s (Wrote s 4 d (s.g a &&& ~~~s.g b)) ∧
  Ends (.sll d a b) s (Wrote s 4 d (s.g a <<< ((s.g b).toNat % 64))) ∧
  Ends (.srl d a b) s (Wrote s 4 d (s.g a >>> ((s.g b).toNat % 64))) ∧
  Ends (.sra d a b) s (Wrote s 4 d ((s.g a).sshiftRight ((s.g b).toNat % 64))) ∧
  Ends (.rol d a b) s (Wrote s 4 d ((s.g a).rotateLeft ((s.g b).toNat % 64))) ∧
  Ends (.ror d a b) s (Wrote s 4 d ((s.g a).rotateRight ((s.g b).toNat % 64))) ∧
  Ends (.minS64 d a b) s (Wrote s 4 d (BitVec.ofInt 64 (min (s.g a).toInt (s.g b).toInt))) ∧
  Ends (.minN64 d a b) s (Wrote s 4 d (BitVec.ofNat 64 (min (s.g a).toNat (s.g b).toNat))) ∧
  Ends (.maxS64 d a b) s (Wrote s 4 d (BitVec.ofInt 64 (max (s.g a).toInt (s.g b).toInt))) ∧
  Ends (.maxN64 d a b) s (Wrote s 4 d (BitVec.ofNat 64 (max (s.g a).toNat (s.g b).toNat))) ∧
  Ends (.sltS64 d a b) s (Wrote s 4 d (truth ((s.g a).toInt < (s.g b).toInt))) ∧
  Ends (.sltN64 d a b) s (Wrote s 4 d (truth ((s.g a).toNat < (s.g b).toNat))) ∧
  Ends (.seq d a b) s (Wrote s 4 d (truth (s.g a = s.g b))) ∧
  Ends (.sne d a b) s (Wrote s 4 d (truth (s.g a ≠ s.g b))) ∧
  Ends (.mul d a b) s (Wrote s 4 d (s.g a * s.g b)) ∧
  Ends (.mulhS64 d a b) s (Wrote s 4 d (BitVec.ofInt 64 ((s.g a).toInt * (s.g b).toInt / 2 ^ 64))) ∧
  Ends (.mulhN64 d a b) s (Wrote s 4 d (BitVec.ofNat 64 ((s.g a).toNat * (s.g b).toNat / 2 ^ 64)))

/-- 05 R109: division never traps; a zero divisor gives all ones and the dividend, and the signed quotient is truncated toward zero. -/
def Obligations.Division : Prop := ∀ (s : State) (d a b : BitVec 5), s.sound [a, b] →
  (s.g b ≠ 0 →
    Ends (.divS64 d a b) s (Wrote s 4 d (BitVec.ofInt 64 ((s.g a).toInt.tdiv (s.g b).toInt))) ∧
    Ends (.remS64 d a b) s (Wrote s 4 d (BitVec.ofInt 64 ((s.g a).toInt.tmod (s.g b).toInt))) ∧
    Ends (.divN64 d a b) s (Wrote s 4 d (BitVec.ofNat 64 ((s.g a).toNat / (s.g b).toNat))) ∧
    Ends (.remN64 d a b) s (Wrote s 4 d (BitVec.ofNat 64 ((s.g a).toNat % (s.g b).toNat)))) ∧
  (s.g b = 0 →
    Ends (.divS64 d a b) s (Wrote s 4 d 0xFFFF_FFFF_FFFF_FFFF) ∧
    Ends (.remS64 d a b) s (Wrote s 4 d (s.g a)) ∧
    Ends (.divN64 d a b) s (Wrote s 4 d 0xFFFF_FFFF_FFFF_FFFF) ∧
    Ends (.remN64 d a b) s (Wrote s 4 d (s.g a))) ∧
  (s.g a = 0x8000_0000_0000_0000 → s.g b = 0xFFFF_FFFF_FFFF_FFFF →
    Ends (.divS64 d a b) s (Wrote s 4 d 0x8000_0000_0000_0000) ∧
    Ends (.remS64 d a b) s (Wrote s 4 d 0))

/-- 05 R108: the one-source instructions.
05 R110, R111: the immediate instructions and the long immediates. -/
def Obligations.AluOneSourceAndImmediate : Prop :=
  (∀ (s : State) (d a : BitVec 5), s.sound [a] →
  (∀ n, LeadingZeros (s.g a) n → Ends (.clz d a) s (Wrote s 4 d (BitVec.ofNat 64 n))) ∧
  (∀ n, TrailingZeros (s.g a) n → Ends (.ctz d a) s (Wrote s 4 d (BitVec.ofNat 64 n))) ∧
  Ends (.popc d a) s (Wrote s 4 d (BitVec.ofNat 64 ((List.range 64).countP (s.g a).getLsbD))) ∧
  Ends (.extS8 d a) s (Wrote s 4 d (((s.g a).extractLsb' 0 8).signExtend 64)) ∧
  Ends (.extS16 d a) s (Wrote s 4 d (((s.g a).extractLsb' 0 16).signExtend 64)) ∧
  Ends (.extS32 d a) s (Wrote s 4 d (((s.g a).extractLsb' 0 32).signExtend 64)) ∧
  Ends (.extN8 d a) s (Wrote s 4 d (s.g a &&& 0xFF)) ∧
  Ends (.extN16 d a) s (Wrote s 4 d (s.g a &&& 0xFFFF)) ∧
  Ends (.extN32 d a) s (Wrote s 4 d (s.g a &&& 0xFFFF_FFFF))) ∧
  (∀ (s : State) (d a : BitVec 5),
  (s.sound [a] →
    (∀ i : BitVec 12,
      Ends (.addi d a i) s (Wrote s 4 d (s.g a + i.signExtend 64)) ∧
      Ends (.andi d a i) s (Wrote s 4 d (s.g a &&& i.signExtend 64)) ∧
      Ends (.ori d a i) s (Wrote s 4 d (s.g a ||| i.signExtend 64)) ∧
      Ends (.xori d a i) s (Wrote s 4 d (s.g a ^^^ i.signExtend 64)) ∧
      Ends (.sltiS64 d a i) s (Wrote s 4 d (truth ((s.g a).toInt < i.toInt))) ∧
      Ends (.sltiN64 d a i) s (Wrote s 4 d (truth ((s.g a).toNat < (i.signExtend 64).toNat))) ∧
      Ends (.seqi d a i) s (Wrote s 4 d (truth (s.g a = i.signExtend 64)))) ∧
    (∀ i : BitVec 6,
      Ends (.slli d a i) s (Wrote s 4 d (s.g a <<< i.toNat)) ∧
      Ends (.srli d a i) s (Wrote s 4 d (s.g a >>> i.toNat)) ∧
      Ends (.srai d a i) s (Wrote s 4 d ((s.g a).sshiftRight i.toNat)))) ∧
  (∀ i : BitVec 32,
    Ends (.li d i) s (Wrote s 6 d (i.signExtend 64)) ∧
    (s.sound [d] →
      Ends (.lhi d i) s (Wrote s 6 d (i ++ (s.g d).extractLsb' 0 32)) ∧
      Ends (.addl d i) s (Wrote s 6 d (s.g d + i.signExtend 64)))))

/-- 05 R117: an arithmetic instruction that reads a poisoned register never traps: it carries the value of the first poisoned source to gD and
poisons it. -/
def Obligations.PoisonCarried : Prop := ∀ (s : State) (d a b : BitVec 5) (v : Word),
  ((s.now.tag a = true ∧ v = s.g a) ∨ (s.now.tag a = false ∧ s.now.tag b = true ∧ v = s.g b) →
    ∀ i ∈ [Instr.add d a b, .sub d a b, .and d a b, .or d a b, .xor d a b, .andn d a b, .sll d a b, .srl d a b, .sra d a b,
      .rol d a b, .ror d a b, .minS64 d a b, .minN64 d a b, .maxS64 d a b, .maxN64 d a b, .sltS64 d a b, .sltN64 d a b,
      .seq d a b, .sne d a b, .mul d a b, .mulhS64 d a b, .mulhN64 d a b, .divS64 d a b, .divN64 d a b, .remS64 d a b,
      .remN64 d a b], Ends i s (Carried s 4 d v)) ∧
  (s.now.tag a = true → v = s.g a → ∀ (k : BitVec 12) (m : BitVec 6),
    ∀ i ∈ [Instr.clz d a, .ctz d a, .popc d a, .extS8 d a, .extS16 d a, .extS32 d a, .extN8 d a, .extN16 d a, .extN32 d a,
      .addi d a k, .andi d a k, .ori d a k, .xori d a k, .sltiS64 d a k, .sltiN64 d a k, .seqi d a k, .slli d a m, .srli d a m,
      .srai d a m], Ends i s (Carried s 4 d v)) ∧
  (s.now.tag d = true → v = s.g d → ∀ k : BitVec 32,
    Ends (.lhi d k) s (Carried s 6 d v) ∧ Ends (.addl d k) s (Carried s 6 d v))

/-! ## Window accesses (05 R112 to R118) -/

/-- 05 R113: a load whose registers are not poisoned and whose access proceeds writes the bytes at its offset, little-endian, extended
as its type says, and nothing else changes.
05 R113: a store writes the low bytes of gD at its offset, little-endian, and nothing else changes. -/
def Obligations.WindowAccesses : Prop :=
  (∀ (s : State) (d a : BitVec 5),
  (∀ (i : BitVec 12) (off : Word), s.sound [a] → off = s.g a + i.signExtend 64 →
    (CanLoad s off 1 →
      Ends (.ldS8 d a i) s (Wrote s 4 d ((BitVec.ofNat 8 (s.word off 1)).signExtend 64)) ∧
      Ends (.ldN8 d a i) s (Wrote s 4 d (BitVec.ofNat 64 (s.word off 1)))) ∧
    (CanLoad s off 2 →
      Ends (.ldS16 d a i) s (Wrote s 4 d ((BitVec.ofNat 16 (s.word off 2)).signExtend 64)) ∧
      Ends (.ldN16 d a i) s (Wrote s 4 d (BitVec.ofNat 64 (s.word off 2)))) ∧
    (CanLoad s off 4 →
      Ends (.ldS32 d a i) s (Wrote s 4 d ((BitVec.ofNat 32 (s.word off 4)).signExtend 64)) ∧
      Ends (.ldN32 d a i) s (Wrote s 4 d (BitVec.ofNat 64 (s.word off 4)))) ∧
    (CanLoad s off 8 →
      Ends (.ldN64 d a i) s (Wrote s 4 d (BitVec.ofNat 64 (s.word off 8))) ∧
      Ends (.ldDfr d a i) s (Wrote s 4 d (BitVec.ofNat 64 (s.word off 8))))) ∧
  (∀ b, s.sound [a, b] → CanLoad s (s.g a + s.g b) 8 →
    Ends (.ldxN64 d a b) s (Wrote s 4 d (BitVec.ofNat 64 (s.word (s.g a + s.g b) 8))))) ∧
  (∀ (s : State) (d a : BitVec 5),
  (∀ (i : BitVec 12) (off : Word), s.sound [a, d] → off = s.g a + i.signExtend 64 →
    (CanStore s off 1 → Ends (.stN8 d a i) s (Stored s 4 off (leBytes 1 (s.g d).toNat))) ∧
    (CanStore s off 2 → Ends (.stN16 d a i) s (Stored s 4 off (leBytes 2 (s.g d).toNat))) ∧
    (CanStore s off 4 → Ends (.stN32 d a i) s (Stored s 4 off (leBytes 4 (s.g d).toNat))) ∧
    (CanStore s off 8 → Ends (.stN64 d a i) s (Stored s 4 off (leBytes 8 (s.g d).toNat)))) ∧
  (∀ b, s.sound [a, b, d] → CanStore s (s.g a + s.g b) 8 →
    Ends (.stxN64 d a b) s (Stored s 4 (s.g a + s.g b) (leBytes 8 (s.g d).toNat))))

/-- 05 R113, R114, R118, 20 R403: a load or store, of the immediate and of the indexed forms, checks, in this order, the poison of the registers that it reads, its alignment
and its bounds; the first check that fails raises its cause, poison that of the lowest-numbered register, and no byte of a window changes. It then waits for entries that conflict with it, and a load of an uncorrectable
byte raises MACHINE_CHECK. The tag of a load's destination is not looked at. -/
def Obligations.WindowTraps : Prop := ∀ (s : State) (d a b : BitVec 5) (i : BitVec 12) (off : Word) (srcs : List (BitVec 5)) (ld st : List (Instr × Nat)), s.traps →
  (srcs = [a] ∧ off = s.g a + i.signExtend 64 ∧
      ld = [(.ldS8 d a i, 1), (.ldN8 d a i, 1), (.ldS16 d a i, 2), (.ldN16 d a i, 2), (.ldS32 d a i, 4), (.ldN32 d a i, 4), (.ldN64 d a i, 8)] ∧
      st = [(.stN8 d a i, 1), (.stN16 d a i, 2), (.stN32 d a i, 4), (.stN64 d a i, 8)]) ∨
    (srcs = [a, b] ∧ off = s.g a + s.g b ∧ ld = [(.ldxN64 d a b, 8)] ∧ st = [(.stxN64 d a b, 8)]) →
  (∀ x, s.lowest srcs x → ∀ p ∈ ld, Ends p.1 s (Trapped s 0x07 (s.g x))) ∧
  (∀ x, s.lowest (srcs ++ [d]) x → ∀ p ∈ st, Ends p.1 s (Trapped s 0x07 (s.g x))) ∧
  (s.sound srcs →
    (∀ p, p ∈ ld ∨ (p ∈ st ∧ s.now.tag d = false) →
      (off.toNat % p.2 ≠ 0 → Ends p.1 s (Trapped s 0x06 off)) ∧
      (off.toNat % p.2 = 0 → s.sys.wsz s.cur < off.toNat + p.2 → Ends p.1 s (Trapped s 0x05 off))) ∧
    (∀ p, p ∈ ld ∨ (p = (.ldDfr d a i, 8) ∧ srcs = [a]) → InWindow s off p.2 →
      (seqBlocked s.sys s.cur (spanAt off p.2) [] = true → Ends p.1 s (Unmoved s)) ∧
      (seqBlocked s.sys s.cur (spanAt off p.2) [] = false → (∃ k < p.2, (s.sys.cell (s.sys.cellAt s.cur (off.toNat + k))).2 = true) →
        Ends p.1 s (Trapped s 0x18 off))) ∧
    (s.now.tag d = false → ∀ p ∈ st, InWindow s off p.2 → seqBlocked s.sys s.cur [] (spanAt off p.2) = true → Ends p.1 s (Unmoved s)))

/-- 05 R115, R116: `ld.dfr` defers what `ld.n64` would raise, by poisoning gD with the offset, or carries the poison of its base;
`vouch` passes when no register it names is poisoned, and raises POISON_CHECK for the lowest one that is.
05 R118: a branch, jump or call, a walk set-up, and a semaphore, timeline, load or lease instruction that reads a poisoned register raises POISON_CHECK for the lowest-numbered
one before any other effect; so do the steward's instructions, in steward mode. -/
def Obligations.DeferredLoads : Prop := ∀ (s : State) (d a : BitVec 5) (i : BitVec 12) (off : Word),
  off = s.g a + i.signExtend 64 →
  (s.now.tag a = true → Ends (.ldDfr d a i) s (Carried s 4 d (s.g a))) ∧
  (s.now.tag a = false → (off.toNat % 8 ≠ 0 ∨ s.sys.wsz s.cur < off.toNat + 8) → Ends (.ldDfr d a i) s (Carried s 4 d off)) ∧
  (∀ (g : BitVec 2) (m : BitVec 8),
    ((∀ k < 8, m.getLsbD k = true → s.now.tag (BitVec.ofNat 5 (8 * g.toNat + k)) = false) → Ends (.vouch g m) s (Passed s 4)) ∧
    (∀ k < 8, s.traps → m.getLsbD k = true → s.now.tag (BitVec.ofNat 5 (8 * g.toNat + k)) = true →
      (∀ j < k, m.getLsbD j = true → s.now.tag (BitVec.ofNat 5 (8 * g.toNat + j)) = false) →
      Ends (.vouch g m) s (Trapped s 0x07 (s.g (BitVec.ofNat 5 (8 * g.toNat + k)))))) ∧
  (∀ (b x : BitVec 5) (w u : BitVec 3) (n : BitVec 2) (q : BitVec 8) (k : BitVec 10) (j : BitVec 30) (v : BitVec 32), s.traps →
    (s.lowest [a, b] x → ∀ i ∈ [Instr.beq a b n k, .bne a b n k, .bltS64 a b n k, .bgeS64 a b n k, .bltN64 a b n k, .bgeN64 a b n k, .bbs a b n k, .bbc a b n k],
      Ends i s (Trapped s 0x07 (s.g x))) ∧
    (s.now.tag a = true → ∀ i ∈ [Instr.dbnz a n k, .bzf a n j, .bnzf a n j, .bltzf a n j, .bgezf a n j, .jr a, .callr a, .wbase w a v, .wbnd w u a v, .wstr w u a v,
      .wst w a v, .wld w a v, .semWait q a, .semSig q a n, .semTry d q a, .tlWait q a, .tlTry d q a, .gvRsv a, .gvRel a, .lsAsk q a], Ends i s (Trapped s 0x07 (s.g a))) ∧
    (s.now.tag 31 = true → Ends .ret s (Trapped s 0x07 (s.g 31))) ∧
    (s.now.steward = true → s.now.tag a = true → ∀ i ∈ [Instr.smap q a, .smget d q a, .csave q a, .crest q a, .clmStart q a, .clmPreq q a, .clmPclr q a, .clmIntr q a,
      .clmUnpark q a, .cpres q a, .qsc q a, .gvSet q a], Ends i s (Trapped s 0x07 (s.g a))))

/-! ## Walk registers (05 R120, R121) -/

/-- 05 R121, R130 to R132: the walk set-up instructions write one field of one walk register, or the whole of it, and nothing else. A `nest` outside a delay
slot, whose body can be fetched, ends where it should and holds no forbidden instruction, starts its first iteration. -/
def Obligations.WalksAndNests : Prop :=
  (∀ (s : State) (w k : BitVec 3) (a : BitVec 5) (i : BitVec 32) (v : Word), v = s.g a + i.signExtend 64 →
  (s.sound [a] →
    Ends (.wbase w a i) s (WroteWalk s w { s.now.wk w with base := v }) ∧
    (v.toNat ≤ 65535 → Ends (.wbnd w k a i) s (WroteWalk s w { s.now.wk w with bound := (s.now.wk w).bound.setIfInBounds k.toNat (BitVec.ofNat 16 v.toNat) })) ∧
    (-2 ^ 31 ≤ v.toInt → v.toInt < 2 ^ 31 →
      Ends (.wstr w k a i) s (WroteWalk s w { s.now.wk w with stride := (s.now.wk w).stride.setIfInBounds k.toNat (BitVec.ofInt 32 v.toInt) })) ∧
    (s.traps → 65535 < v.toNat → Ends (.wbnd w k a i) s (Trapped s 0x08 0)) ∧
    (s.traps → v.toInt < -2 ^ 31 ∨ 2 ^ 31 ≤ v.toInt → Ends (.wstr w k a i) s (Trapped s 0x08 0)) ∧
    (CanStore s v 64 → Ends (.wst w a i) s (Stored s 8 v (walkDesc (s.now.wk w)))) ∧
    (∀ x, CanLoad s v 64 → (∀ j < 64, (s.sys.cell (s.sys.cellAt s.cur (v.toNat + j))).1 = (walkDesc x).getD j 0) →
      Ends (.wld w a i) s (WroteWalk s w x))) ∧
  Ends (.wclr w) s (WroteWalk s w {})) ∧
  (∀ (s : State) (d : BitVec 5) (w : BitVec 3) (n : BitVec 8) (y : Sys) (l : List FByte) (cnt : Nat),
  n ≠ 0 → n.toNat ≤ 128 → s.now.npc = none → s.now.nnpc = none → (s.now.wk w).count ≤ 2 ^ 40 →
  codeBytes s.cur 6 s.sys (s.now.pc + 4).toNat (2 * n.toNat) = (y, l) →
  scanBody s.now.steward w 129 (s.now.pc + 4).toNat l 0 false = .ok (cnt, false, true) → 1 ≤ cnt → cnt ≤ 32 →
  Ends (.nest d w n) s (fun t =>
    t.now.nestTop = s.now.pc + 4 ∧ nestAct t.now.nestStat = true ∧ nestWalk t.now.nestStat = w ∧ nestDreg t.now.nestStat = d ∧
    nestBlen t.now.nestStat = n.toNat - 1 ∧ bitsOf t.now.nestStat.toNat 40 5 = cnt - 1 ∧ nestIter t.now.nestStat = 0 ∧
    t.now.pc = s.now.pc + 4 ∧ t.now.npc = none ∧ t.now.nnpc = none ∧
    (d ≠ 0 → t.g d = (s.now.wk w).addr 0 ∧ t.now.tag d = false) ∧ (∀ a, a ≠ d → t.g a = s.g a ∧ t.now.tag a = s.now.tag a) ∧
    t.now.walks = s.now.walks ∧ CellsKept s t))

/-! ## Branches, jumps and calls (05 R124 to R129) -/

/-- 05 R124, R126 to R129: a conditional branch whose registers are not poisoned transfers to its target when its condition holds, two instructions later,
and annuls its slots as its form says; the jumps transfer always, `jr` and `ret` to the register as they read it. A call whose two slots' first parcels can
be read writes the address after its second slot to g31 and transfers; its target is read first. -/
def Obligations.BranchesAndCalls : Prop :=
  ((∀ (s : State) (a b : BitVec 5) (n : BitVec 2),
  (∀ (k : BitVec 10) (tgt : Word), tgt = s.now.pc + 2 * k.signExtend 64 → s.sound [a, b] →
    Ends (.beq a b n k) s (Jumped s 4 ⟨decide (s.g a = s.g b), tgt, n⟩) ∧
    Ends (.bne a b n k) s (Jumped s 4 ⟨decide (s.g a ≠ s.g b), tgt, n⟩) ∧
    Ends (.bltS64 a b n k) s (Jumped s 4 ⟨decide ((s.g a).toInt < (s.g b).toInt), tgt, n⟩) ∧
    Ends (.bgeS64 a b n k) s (Jumped s 4 ⟨decide ((s.g b).toInt ≤ (s.g a).toInt), tgt, n⟩) ∧
    Ends (.bltN64 a b n k) s (Jumped s 4 ⟨decide ((s.g a).toNat < (s.g b).toNat), tgt, n⟩) ∧
    Ends (.bgeN64 a b n k) s (Jumped s 4 ⟨decide ((s.g b).toNat ≤ (s.g a).toNat), tgt, n⟩) ∧
    Ends (.bbs a b n k) s (Jumped s 4 ⟨(s.g a).getLsbD ((s.g b).toNat % 64), tgt, n⟩) ∧
    Ends (.bbc a b n k) s (Jumped s 4 ⟨!(s.g a).getLsbD ((s.g b).toNat % 64), tgt, n⟩)) ∧
  (∀ (k : BitVec 10), s.sound [a] →
    Ends (.dbnz a n k) s (fun t => RegReads s t 4 a (s.g a - 1) false ∧
      Stepped s t 4 [a] (some ⟨decide (s.g a - 1 ≠ 0), s.now.pc + 2 * k.signExtend 64, n⟩))) ∧
  (∀ (k : BitVec 30) (tgt : Word), tgt = s.now.pc + 2 * k.signExtend 64 → s.sound [a] →
    Ends (.bzf a n k) s (Jumped s 6 ⟨decide (s.g a = 0), tgt, n⟩) ∧
    Ends (.bnzf a n k) s (Jumped s 6 ⟨decide (s.g a ≠ 0), tgt, n⟩) ∧
    Ends (.bltzf a n k) s (Jumped s 6 ⟨decide ((s.g a).toInt < 0), tgt, n⟩) ∧
    Ends (.bgezf a n k) s (Jumped s 6 ⟨decide (0 ≤ (s.g a).toInt), tgt, n⟩))) ∧
  (∀ (s : State),
  (∀ (n : BitVec 2) (k : BitVec 20), Ends (.j n k) s (Jumped s 4 ⟨true, s.now.pc + 2 * k.signExtend 64, n⟩)) ∧
  (∀ (n : BitVec 2) (k : BitVec 32), Ends (.jf n k) s (Jumped s 6 ⟨true, s.now.pc + 2 * k.signExtend 64, n⟩)) ∧
  (∀ a, s.sound [a] → Ends (.jr a) s (Jumped s 4 ⟨true, s.g a, 0⟩)) ∧
  (s.sound [31] → Ends .ret s (Jumped s 4 ⟨true, s.g 31, 0⟩)))) ∧
  (∀ (s : State) (y : Sys) (v : Word),
  ((linkValue s.sys s.cur 4 = (y, .ok v)) →
    (∀ (n : BitVec 2) (k : BitVec 20), Ends (.call n k) s (Called s 4 v ⟨true, s.now.pc + 2 * k.signExtend 64, n⟩)) ∧
    (∀ a, s.sound [a] → Ends (.callr a) s (Called s 4 v ⟨true, s.g a, 0⟩))) ∧
  ((linkValue s.sys s.cur 6 = (y, .ok v)) →
    ∀ (n : BitVec 2) (k : BitVec 32), Ends (.callf n k) s (Called s 6 v ⟨true, s.now.pc + 2 * k.signExtend 64, n⟩)) ∧
  (∀ (len n1 n2 : Nat) (z : Sys), s.now.npc = none → s.now.nnpc = none → nestAct s.now.nestStat = false →
    lengthAt s.sys s.cur (s.now.pc + BitVec.ofNat 64 len) = (y, .ok n1) →
    lengthAt y s.cur (s.now.pc + BitVec.ofNat 64 (len + n1)) = (z, .ok n2) →
    (linkValue s.sys s.cur len).2 = .ok (s.now.pc + BitVec.ofNat 64 (len + n1 + n2))))

/-! ## Loops, traps and system instructions (05 R130 to R135, 20 R393 to R407) -/

/-- 02 R53, 05 R135, 20 R394, R407, R408: `trap` and `brk` save the state after their step and enter the handler; so does `yield` in task mode while PRQ is 1,
clearing it; otherwise `yield` passes. `tend` in task mode ends the context: its state becomes ENDING, and its sequencer takes no further step. `tret` restores the
control state, the mode and the loop registers that the trap saved, and allows asynchronous entry; a steward sequencer stays in steward mode. -/
def Obligations.TrapsAndReturns : Prop :=
  ((∀ (s : State) (n : BitVec 8),
  (s.traps →
    Ends (.trap n) s (fun t => CellsKept s t ∧
      TrapSaved (s.now.advance 4 none) t.now (s.sys.die s.cur.die).stwVec 0x0E s.now.pc (n.zeroExtend 64)) ∧
    Ends (.brk n) s (fun t => CellsKept s t ∧
      TrapSaved (s.now.advance 4 none) t.now (s.sys.die s.cur.die).stwVec 0x0D s.now.pc (n.zeroExtend 64))) ∧
  (s.now.steward = false → s.now.prq = true →
    Ends .yield s (fun t => CellsKept s t ∧ t.now.prq = false ∧
      TrapSaved (s.now.advance 4 none) t.now (s.sys.die s.cur.die).stwVec 0x15 s.now.pc 0)) ∧
  ((s.now.steward = true ∨ s.now.prq = false) → Ends .yield s (Passed s 4)) ∧
  Ends .nop s (Passed s 4)) ∧
  (∀ (s : State) (k : Nat), s.cur.idx = some k → s.now.steward = false →
  Ends .tend s (fun t => t.ctxNow = { s.ctxNow with st := .ending, tended := true, wdCycles := 0 } ∧ t.now = s.now ∧ CellsKept s t ∧
    seqReady t.sys s.cur = false))) ∧
  (∀ s : State, s.now.steward = true → tretBad s.now = false → nestAct s.now.trapNstat = false →
  Ends .tret s (fun t =>
    t.now.pc = s.now.trapPc0 ∧
    t.now.npc = (if s.now.trapAnn.getLsbD 3 then none else some s.now.trapPc1) ∧
    t.now.nnpc = (if s.now.trapAnn.getLsbD 4 then none else some s.now.trapPc2) ∧
    t.now.an0 = s.now.trapAnn.getLsbD 0 ∧ t.now.an1 = s.now.trapAnn.getLsbD 1 ∧
    t.now.steward = (s.cur.idx.isNone || s.now.trapAnn.getLsbD 2) ∧ t.now.ae = true ∧
    t.now.nestStat = s.now.trapNstat ∧ t.now.nestTop = s.now.trapNtop ∧
    t.now.g = s.now.g ∧ t.now.tags = s.now.tags ∧ t.now.walks = s.now.walks ∧ t.now.scr = s.now.scr ∧
    (s.cur.idx.isSome = true → s.ctxNow.st = .trap →
      t.ctxNow.st = (if s.now.trapAnn.getLsbD 2 then .trap else .run) ∧ t.now.fetch = s.ctxNow.ranges) ∧
    CellsKept s t))

/-- 20 R397, R405 to R407, 02 R53: what is for steward mode only raises PRIVILEGE in task mode and has no other effect; `tend` is
for task mode only. -/
def Obligations.Privilege : Prop := ∀ s : State,
  (s.now.steward = false → ∀ (n : BitVec 8) (d a : BitVec 5) (b : Bool),
    ∀ i ∈ [Instr.tret, .halt, .ewait d b, .smap n a, .smget d n a, .csave n a, .crest n a, .clmStart n a, .clmPreq n a, .clmPclr n a,
      .clmIntr n a, .clmUnpark n a, .cpres n a, .qsc n a, .gvSet n a], Ends i s (Trapped s 0x0C 0)) ∧
  (s.now.steward = false → ∀ (n : BitVec 8) (d a : BitVec 5),
    (n.toNat = 2 ∨ n.toNat = 9 ∨ 0x10 ≤ n.toNat ∧ n.toNat ≤ 0x18 ∨ n.toNat = 0x1C ∨ n.toNat = 0x1D ∨ 0x20 ≤ n.toNat ∧ n.toNat ≤ 0x27 ∨
      0x30 ≤ n.toNat ∧ n.toNat ≤ 0x4B → Ends (.mfc d n) s (Trapped s 0x0C 0) ∧ Ends (.mtc n a) s (Trapped s 0x0C 0)) ∧
    (n.toNat ≤ 8 → n.toNat ≠ 7 → Ends (.mtc n a) s (Trapped s 0x0C 0))) ∧
  (s.now.steward = true → s.now.ae = true → Ends .tend s (Trapped s 0x08 0x47))

/-- 20 R405, R406, 12 R299, 14 R332: `mfc` reads a register that its mode may read: the sequencer's own, and those of the context, its own or, on a steward
sequencer, the one that CSEL names. 20 R405, R406, 10 R213: `mtc` writes the register it names, bits of read-only fields being ignored, when no reserved bit is
set. The causes in their order: a register that the mode may not reach or that has no writable field raises PRIVILEGE, a poisoned source POISON_CHECK, a
register absent 0x47, CSEL beyond the sequencers 0x40, a FREE context 0x41, a reserved bit RESERVED_FIELD, and ACT = 1 in NEST_STAT an operand error. It rests
in part on the model's choices of log entry 26 (absent copy registers). That `mtc` of NEST_TOP and NEST_STAT acts for an active nest,
whose body's end is then looked for at the new place, is log entry 102. -/
def Obligations.ControlRegisters : Prop :=
  (∀ (s : State) (d : BitVec 5) (c : Ctx),
  Ends (.mfc d 0x03) s (Wrote s 4 d (s.now.tags.zeroExtend 64)) ∧
  Ends (.mfc d 0x04) s (Wrote s 4 d s.now.nestStat) ∧
  Ends (.mfc d 0x05) s (Wrote s 4 d s.now.nestTop) ∧
  Ends (.mfc d 0x00) s (Wrote s 4 d (BitVec.ofNat 64 (128 * s.now.prq.toNat + 8 * s.now.ae.toNat + 4 * s.cur.idx.isNone.toNat +
    2 * s.now.steward.toNat))) ∧
  (∀ l, Reaches s l → c = s.sys.ctx s.cur.die l →
    Ends (.mfc d 0x06) s (Wrote s 4 d (mxStat (s.sys.die s.cur.die) c)) ∧
    Ends (.mfc d 0x07) s (Wrote s 4 d (xflag c)) ∧
    Ends (.mfc d 0x08) s (Wrote s 4 d (BitVec.ofNat 64 (c.entries.filter (fun x => x.2.scb)).length)) ∧
    Ends (.mfc d 0x01) s (fun t => ∃ v : Word, Wrote s 4 d v t ∧ v.toNat / 2 ^ 32 = c.inst.toNat ∧
      (c.shape < 64 → c.copies.length ≤ 4 → c.chains.length ≤ 6 → c.piece < 64 →
        bitsOf v.toNat 16 8 = c.copies.length ∧ bitsOf v.toNat 12 4 = c.chains.length ∧ bitsOf v.toNat 0 6 = c.shape)) ∧
    (s.now.steward = true →
      Ends (.mfc d 0x09) s (Wrote s 4 d (BitVec.ofNat 64 (min (c.wdCycles / 1024) (2 ^ 24 - 1) * 2 ^ 32 + c.wdLimit % 2 ^ 24 * 2 ^ 8 + c.wdEn.toNat))) ∧
      (∀ k < 8, Ends (.mfc d (BitVec.ofNat 8 (0x30 + k))) s (Wrote s 4 d (c.ranges.vmb.toList.getD k 0)) ∧
        Ends (.mfc d (BitVec.ofNat 8 (0x38 + k))) s (Wrote s 4 d (c.ranges.vmi.toList.getD k 0))) ∧
      (∀ k p, k < 4 → c.copies[k]? = some p →
        Ends (.mfc d (BitVec.ofNat 8 (0x40 + k))) s (Wrote s 4 d (BitVec.ofNat 64 (p.cfEntry % 2 ^ 32 * 2 ^ 32 + p.repix * 2 ^ 24 + p.reason * 2 ^ 8 + p.stop.toNat))) ∧
        Ends (.mfc d (BitVec.ofNat 8 (0x44 + k))) s (Wrote s 4 d p.prog) ∧
        Ends (.mfc d (BitVec.ofNat 8 (0x48 + k))) s (Wrote s 4 d p.faddr)))) ∧
  (s.now.steward = true →
    Ends (.mfc d 0x02) s (Wrote s 4 d (dieInfo s.cur.die)) ∧
    Ends (.mfc d 0x10) s (Wrote s 4 d s.now.trapCause) ∧
    Ends (.mfc d 0x11) s (Wrote s 4 d s.now.trapPc0) ∧
    Ends (.mfc d 0x12) s (Wrote s 4 d s.now.trapPc1) ∧
    Ends (.mfc d 0x13) s (Wrote s 4 d s.now.trapPc2) ∧
    Ends (.mfc d 0x14) s (Wrote s 4 d s.now.trapAnn) ∧
    Ends (.mfc d 0x15) s (Wrote s 4 d s.now.trapAddr0) ∧
    Ends (.mfc d 0x16) s (Wrote s 4 d s.now.trapAddr1) ∧
    Ends (.mfc d 0x17) s (Wrote s 4 d s.now.trapNstat) ∧
    Ends (.mfc d 0x18) s (Wrote s 4 d s.now.trapNtop) ∧
    Ends (.mfc d 0x1C) s (Wrote s 4 d (s.sys.die s.cur.die).stwVec) ∧
    (s.cur.idx = none → Ends (.mfc d 0x1D) s (Wrote s 4 d s.now.csel)) ∧
    (∀ k < 8, Ends (.mfc d (BitVec.ofNat 8 (0x20 + k))) s (Wrote s 4 d (s.now.scr.toList.getD k 0))))) ∧
  (∀ (s : State) (a : BitVec 5) (v : Word) (l : Nat) (c : Ctx), v = s.g a → s.now.tag a = false →
  (Reaches s l → c = s.sys.ctx s.cur.die l → v.toNat < 2 ^ 30 → Ends (.mtc 0x07 a) s (fun t => ∃ hs : List Chain, OnlyCtx s l { c with chains := hs } t ∧
    hs.length = c.chains.length ∧ ∀ k h h', c.chains[k]? = some h → hs[k]? = some h' →
      (h.bound = false → h' = h) ∧ (h.bound = true → h'.flags = BitVec.ofNat 5 (v.toNat / 2 ^ (5 * k)) ∧ h'.bound = true ∧
        h'.ports = h.ports ∧ ∀ j < 5, h'.strip j = { h.strip j with flags := (h'.strip j).flags }))) ∧
  (s.now.steward = true →
    (∀ k < 8, Ends (.mtc (BitVec.ofNat 8 (0x20 + k)) a) s (SysWrote s { s.now with scr := s.now.scr.setIfInBounds k v })) ∧
    Ends (.mtc 0x05 a) s (SysWrote s { s.now with nestTop := v }) ∧
    Ends (.mtc 0x11 a) s (SysWrote s { s.now with trapPc0 := v }) ∧
    Ends (.mtc 0x12 a) s (SysWrote s { s.now with trapPc1 := v }) ∧
    Ends (.mtc 0x13 a) s (SysWrote s { s.now with trapPc2 := v }) ∧
    Ends (.mtc 0x15 a) s (SysWrote s { s.now with trapAddr0 := v }) ∧
    Ends (.mtc 0x16 a) s (SysWrote s { s.now with trapAddr1 := v }) ∧
    Ends (.mtc 0x18 a) s (SysWrote s { s.now with trapNtop := v }) ∧
    (bitsOf v.toNat 6 2 = 0 → bitsOf v.toNat 18 2 = 0 → v.toNat < 2 ^ 24 → Ends (.mtc 0x10 a) s (SysWrote s { s.now with trapCause := v })) ∧
    (v.toNat < 2 ^ 5 → Ends (.mtc 0x14 a) s (SysWrote s { s.now with trapAnn := v })) ∧
    (bitsOf v.toNat 46 2 = 0 → Ends (.mtc 0x17 a) s (SysWrote s { s.now with trapNstat := v }) ∧
      (v.getLsbD 63 = false → Ends (.mtc 0x04 a) s (SysWrote s { s.now with nestStat := v, nestBuf := [] })) ∧
      (v.getLsbD 63 = true → s.now.ae = true → Ends (.mtc 0x04 a) s (Trapped s 0x08 0))) ∧
    (v.toNat < 2 ^ 32 → Ends (.mtc 0x03 a) s (SysWrote s { s.now with tags := v.truncate 32 &&& ~~~1 })) ∧
    (v.toNat < 2 ^ 8 → v.toNat % 2 = 0 → bitsOf v.toNat 4 3 = 0 → Ends (.mtc 0x00 a) s (SysWrote s { s.now with ae := v.getLsbD 3 })) ∧
    (s.cur.idx = none → v.toNat < 256 → Ends (.mtc 0x1D a) s (SysWrote s { s.now with csel := v })) ∧
    (s.cur.idx = none → v.toNat % 64 = 0 → Ends (.mtc 0x1C a) s (fun t => SeqStepped s.now t.now 4 [] none ∧ CellsKept s t ∧
      (t.sys.die s.cur.die).stwVec = v)) ∧
    (Reaches s l → c = s.sys.ctx s.cur.die l →
      (bitsOf v.toNat 3 5 = 0 → v.toNat < 2 ^ 40 → Ends (.mtc 0x06 a) s
        (OnlyCtx s l { c with mcent := BitVec.ofNat 32 (v.toNat / 2 ^ 8), mce := v.getLsbD 1, pzd := v.getLsbD 0 })) ∧
      (bitsOf v.toNat 1 7 = 0 → v.toNat < 2 ^ 56 → Ends (.mtc 0x09 a) s
        (OnlyCtx s l { c with wdLimit := bitsOf v.toNat 8 24, wdEn := v.getLsbD 0, wdCycles := 0 })) ∧
      (∀ k p, k < 4 → c.copies[k]? = some p → Ends (.mtc (BitVec.ofNat 8 (0x44 + k)) a) s (OnlyCtx s l { c with copies := c.copies.set k { p with prog := v } })) ∧
      (∀ k, k < 8 →
        (bitsOf v.toNat 57 7 = 0 → bitsOf v.toNat 4 17 = 0 → Ends (.mtc (BitVec.ofNat 8 (0x30 + k)) a) s
          (OnlyCtx s l { c with ranges := { c.ranges with vmb := c.ranges.vmb.setIfInBounds k v } })) ∧
        (bitsOf v.toNat 27 10 = 0 → Ends (.mtc (BitVec.ofNat 8 (0x38 + k)) a) s
          (OnlyCtx s l { c with ranges := { c.ranges with vmi := c.ranges.vmi.setIfInBounds k v } })))) ∧
    (s.now.ae = true → ∀ (n : BitVec 8) (lo len : Nat), (n, lo, len) ∈ [(0x00, 0, 1), (0x00, 4, 3), (0x00, 8, 56), (0x03, 32, 32), (0x04, 46, 2), (0x10, 6, 2), (0x10, 18, 2),
        (0x10, 24, 40), (0x14, 5, 59), (0x17, 46, 2)] ∨
      ((∃ m, Reaches s m) ∧ (n, lo, len) ∈ [(0x06, 3, 5), (0x06, 40, 24), (0x07, 30, 34), (0x09, 1, 7), (0x09, 56, 8), (0x30, 4, 17), (0x37, 57, 7), (0x3F, 27, 10)]) ∨
      (s.cur.idx = none ∧ (n, lo, len) ∈ [(0x1C, 0, 6), (0x1D, 8, 56)]) → bitsOf v.toNat lo len ≠ 0 → Ends (.mtc n a) s (Trapped s 0x02 0)))) ∧
  (∀ (s : State) (d a : BitVec 5) (v : Word), v = s.g a → s.now.steward = true → s.now.ae = true →
    (∀ n ∈ [0x01, 0x02, 0x08, 0x40, 0x41, 0x42, 0x43, 0x48, 0x49, 0x4A, 0x4B], Ends (.mtc n a) s (Trapped s 0x0C 0)) ∧
    (s.cur.idx.isSome = true → Ends (.mtc 0x1C a) s (Trapped s 0x0C 0) ∧ Ends (.mfc d 0x1D) s (Trapped s 0x08 0x47) ∧
      (s.now.tag a = false → Ends (.mtc 0x1D a) s (Trapped s 0x08 0x47))) ∧
    (s.now.tag a = true → ∀ n : BitVec 8, n.toNat ∈ [0x00, 0x03, 0x04, 0x05, 0x06, 0x07, 0x09, 0x1D, 0x44, 0x45, 0x46, 0x47] ∨ 0x10 ≤ n.toNat ∧ n.toNat ≤ 0x18 ∨
      0x20 ≤ n.toNat ∧ n.toNat ≤ 0x27 ∨ 0x30 ≤ n.toNat ∧ n.toNat ≤ 0x3F → Ends (.mtc n a) s (Trapped s 0x07 v)) ∧
    (s.cur.idx = none → ∀ l, l = s.now.csel.toNat % 256 →
      (∀ n : BitVec 8, n.toNat ∈ [0x01, 0x06, 0x07, 0x08, 0x09] ∨ 0x30 ≤ n.toNat ∧ n.toNat ≤ 0x4B →
        (seqsOf s.cur.die ≤ l → Ends (.mfc d n) s (Trapped s 0x08 0x40)) ∧
        (l < seqsOf s.cur.die → (s.sys.ctx s.cur.die l).st = .free → Ends (.mfc d n) s (Trapped s 0x08 0x41))) ∧
      (s.now.tag a = false → ∀ n : BitVec 8, n.toNat ∈ [0x06, 0x07, 0x09] ∨ 0x30 ≤ n.toNat ∧ n.toNat ≤ 0x3F ∨ 0x44 ≤ n.toNat ∧ n.toNat ≤ 0x47 →
        (seqsOf s.cur.die ≤ l → Ends (.mtc n a) s (Trapped s 0x08 0x40)) ∧
        (l < seqsOf s.cur.die → (s.sys.ctx s.cur.die l).st = .free → Ends (.mtc n a) s (Trapped s 0x08 0x41)))))

/-! ## Semaphores, timelines and fences (12 R302 to R306) -/

/-- 12 R302 to R306, 20 R396: `sem.wait` takes its threshold when no earlier waiter is served before it and the count suffices, and else begins waiting;
`sem.sig` adds, saturating at 65,535 with OVF; `sem.get` reads; `sem.try` takes when it can and never waits; an unmapped number raises SEM_RANGE, as every
number does on a steward sequencer, which maps none (R304, 20 R396), and an amount above 65,535 OPERAND_RECORD. The timeline instructions read the entries
retired of a queue that the context holds, `tl.wait` stalls until as many as its threshold have retired, and a fence until no entry is left. It rests in part on
the model's choices of log entry 20; log entry 32 is the amount's report. -/
def Obligations.SemaphoresAndTimelines : Prop :=
  ((∀ (s : State) (n : BitVec 8) (a : BitVec 5) (l ps thr : Nat) (m : Sem),
  s.cur.idx = some l → s.sound [a] → s.mapped n ps → m = s.sem ps → thr = (s.g a).toNat →
  (thr ≤ 65535 → thr = 0 ∨ m.met l 15 0 thr = true →
    Ends (.semWait n a) s (fun t => SeqStepped s.now t.now 4 [] none ∧ (t.sem ps).count = m.count - thr ∧ (t.sem ps).ovf = m.ovf ∧
      (t.sem ps).waiters = m.waiters.filter (fun w => !isWaiter l 15 0 w) ∧ t.ctxNow.semWait = none ∧ OnlySem s t ps)) ∧
  (thr ≤ 65535 → thr ≠ 0 → m.met l 15 0 thr = false →
    Ends (.semWait n a) s (fun t => Stalls s t ∧ (t.sem ps).count = m.count ∧ (t.sem ps).ovf = m.ovf ∧
      (t.sem ps).waiters = (if m.waiters.any (isWaiter l 15 0) then m.waiters else m.waiters ++ [⟨l, 15, 0, thr⟩]) ∧
      t.ctxNow.semWait = some (ps, thr) ∧ OnlySem s t ps)) ∧
  (s.traps → 65535 < thr → Ends (.semWait n a) s (Trapped s 0x08 0x30)) ∧
  (m.waiters = [] → m.met l 15 0 thr = decide (thr ≤ m.count)) ∧
  (∀ w, m.waiters = [w] → w.ctx ≠ l → m.met l 15 0 thr = decide (thr + (if w.thr ≤ m.count then w.thr else 0) ≤ m.count))) ∧
  (∀ (s : State) (d a : BitVec 5) (n : BitVec 8) (x : BitVec 2),
  (∀ (ps v : Nat) (m : Sem), s.mapped n ps → m = s.sem ps → v = (s.g a).toNat →
    Ends (.semGet d n) s (Wrote s 4 d (BitVec.ofNat 64 (2 ^ 16 * m.ovf.toNat + m.count))) ∧
    (s.sound [a] → v ≤ 65535 →
      Ends (.semSig n a x) s (fun t => SeqStepped s.now t.now 4 [] none ∧ (t.sem ps).count = min (m.count + v) 65535 ∧
        (t.sem ps).ovf = (m.ovf || decide (65535 < m.count + v)) ∧ (t.sem ps).waiters = m.waiters ∧
        (t.sem ps).rel = some (s.ctxNow.ctag, 15, 0) ∧ OnlySem s t ps) ∧
      (v = 0 ∨ v ≤ availAfter m.waiters m.count →
        Ends (.semTry d n a) s (fun t => RegReads s t 4 d 1 false ∧ SeqStepped s.now t.now 4 [d] none ∧ (t.sem ps).count = m.count - v ∧
          (t.sem ps).ovf = m.ovf ∧ (t.sem ps).waiters = m.waiters ∧ OnlySem s t ps)) ∧
      (v ≠ 0 → availAfter m.waiters m.count < v → Ends (.semTry d n a) s (Wrote s 4 d 0))) ∧
    (s.sound [a] → s.traps → 65535 < v → ∀ i ∈ [Instr.semSig n a x, .semTry d n a], Ends i s (Trapped s 0x08 0x30)) ∧
    (m.waiters = [] → availAfter m.waiters m.count = m.count)) ∧
  (s.ctxNow.semMap.length ≤ n.toNat → s.sound [a] → s.traps →
    ∀ i ∈ [Instr.semWait n a, .semSig n a x, .semGet d n, .semTry d n a], Ends i s (Trapped s 0x0B (n.zeroExtend 64))))) ∧
  (∀ (s : State) (d a : BitVec 5) (n : BitVec 8) (q : EQueue),
  (s.cur.idx.isSome = true → n.toNat ∈ s.ctxNow.queueCodes → q = s.ctxNow.queue n.toNat →
    Ends (.tlGet d n) s (Wrote s 4 d (BitVec.ofNat 64 q.ret)) ∧
    (s.sound [a] → (s.g a).toNat ≤ q.iss →
      ((s.g a).toNat ≤ q.ret → Ends (.tlWait n a) s (Passed s 4) ∧ Ends (.tlTry d n a) s (Wrote s 4 d 1)) ∧
      (q.ret < (s.g a).toNat → Ends (.tlWait n a) s (Unmoved s) ∧ Ends (.tlTry d n a) s (Wrote s 4 d 0))) ∧
    (s.sound [a] → s.traps → q.iss < (s.g a).toNat → ∀ i ∈ [Instr.tlWait n a, .tlTry d n a], Ends i s (Trapped s 0x08 0x31))) ∧
  (s.cur.idx.isSome = true → n.toNat ∉ s.ctxNow.queueCodes → s.sound [a] → s.traps →
    ∀ i ∈ [Instr.tlWait n a, .tlTry d n a, .tlGet d n], Ends i s (Trapped s 0x08 0x32)) ∧
  (s.ctxNow.entries = [] → ∀ i ∈ [Instr.fenceF, .fenceD, .fenceP, .fenceS], Ends i s (Passed s 4)) ∧
  (s.ctxNow.entries ≠ [] → ∀ i ∈ [Instr.fenceF, .fenceD, .fenceP, .fenceS], Ends i s (Unmoved s)))

/-! ## Declared load and leases (15 R350 to R353, 18 R387, R388) -/

/-- 15 R350 to R353: `gv.rsv` raises the floor at once and goes on when the load has reached it, `gv.rel` lowers it, `gv.stat` reads the account,
`gv.set` sets the limits of a die.
It rests in part on the model's choices of log entry 32. -/
def Obligations.DeclaredLoad : Prop := ∀ (s : State) (d a : BitVec 5) (n : BitVec 8) (v : Nat), v = (s.g a).toNat →
  (∀ l, s.cur.idx = some l → s.sound [a] →
    (v ≤ 65535 → max s.ctxNow.floor v ≤ s.ctxNow.load → Ends (.gvRsv a) s (OnlyCtx s l { s.ctxNow with floor := max s.ctxNow.floor v })) ∧
    (v ≤ 65535 → s.ctxNow.load < max s.ctxNow.floor v →
      Ends (.gvRsv a) s (fun t => t.now = s.now ∧ t.ctxNow = { s.ctxNow with floor := max s.ctxNow.floor v } ∧ GReq.floor s.cur.die l ∈ t.sys.gov.open_ ∧
        (∀ q ∈ s.sys.gov.open_, q ∈ t.sys.gov.open_) ∧ t.sys.hub = s.sys.hub ∧ t.sys.mems = s.sys.mems ∧ t.plat = s.plat ∧ CellsKept s t)) ∧
    (s.traps → 65535 < v → Ends (.gvRsv a) s (Trapped s 0x08 0x38)) ∧
    Ends (.gvRel a) s (fun t => ∃ u, OnlyCtx s l { s.ctxNow with floor := min s.ctxNow.floor v } u ∧
      t = { u with sys := { u.sys with gov := { u.sys.gov with excess := t.sys.gov.excess } } })) ∧
  (∀ l, s.cur.idx = some l → ∀ p ∈ [(0, s.ctxNow.load), (1, s.ctxNow.load - s.ctxNow.realWeight), (2, s.ctxNow.floor), (3, s.ctxNow.pres),
      (4, s.ctxNow.rslots.toNat), (5, s.ctxNow.bcyc.toNat), (6, s.ctxNow.gwait.toNat)],
    Ends (.gvStat d (BitVec.ofNat 8 p.1)) s (Wrote s 4 d (BitVec.ofNat 64 p.2))) ∧
  (s.now.steward = true →
    (∀ p ∈ [(8, dieLoad s.sys s.cur.die), (9, (s.sys.die s.cur.die).risemax), (10, (s.sys.die s.cur.die).dfloor)],
      Ends (.gvStat d (BitVec.ofNat 8 p.1)) s (Wrote s 4 d (BitVec.ofNat 64 p.2))) ∧
    (s.sound [a] →
      (1 ≤ v → v ≤ 32 → Ends (.gvSet 9 a) s (fun t => SeqStepped s.now t.now 4 [] none ∧ (t.sys.die s.cur.die).risemax = v ∧
        (t.sys.die s.cur.die).dfloor = (s.sys.die s.cur.die).dfloor ∧ OnlyDie s s.cur.die t)) ∧
      (v ≤ 65535 → Ends (.gvSet 10 a) s (fun t => SeqStepped s.now t.now 4 [] none ∧ (t.sys.die s.cur.die).dfloor = v ∧
        (t.sys.die s.cur.die).risemax = (s.sys.die s.cur.die).risemax ∧ CellsKept s t ∧
        ((s.sys.die s.cur.die).pool < v → GReq.dfloor s.cur.die ∈ t.sys.gov.open_))) ∧
      (s.now.ae = true → v = 0 ∨ 32 < v → Ends (.gvSet 9 a) s (Trapped s 0x08 0x38)))) ∧
  (s.now.steward = false → 8 ≤ n.toNat → Ends (.gvStat d n) s (Trapped s 0x0C 0))

/-- 18 R379, R381, R387, R388: `ls.ask` sends one ask for the page unless its entry is young or an ask for it is outstanding, `ls.drop` drops every entry
and ask of the holder, `ls.stat` reads a counter. -/
def Obligations.LeaseInstructions : Prop := ∀ (s : State) (d a : BitVec 5) (n : BitVec 8) (l k : Nat) (c : Ctx),
  s.cur.idx = some l → c = s.ctxNow → (n = 0 ∧ k = 4 ∨ n.toNat = 8 + k ∧ k < 4 ∧ k < c.copies.length) →
  Ends (.lsDrop n) s (OnlyCtx s l (c.setHolder k {})) ∧
  (s.sound [a] →
    (∀ ia e, virtToInt c.ranges (s.g a) (if k = 4 then .ex else .rd) = .ok ia → (c.holder k).find c.part (ia / 2 ^ 44) (ia % 2 ^ 44) = some e →
      leaseNs e.cls ≤ 4 * e.rem → Ends (.lsAsk n a) s (Passed s 4)) ∧
    (∀ x, virtToInt c.ranges (s.g a) (if k = 4 then .ex else .rd) = .error x → Ends (.lsAsk n a) s (Passed s 4)) ∧
    (∀ ia, virtToInt c.ranges (s.g a) (if k = 4 then .ex else .rd) = .ok ia → (c.holder k).asking (ia / 2 ^ 44) (ia % 2 ^ 44) = true →
      Ends (.lsAsk n a) s (Passed s 4)) ∧
    (∀ ia, virtToInt c.ranges (s.g a) (if k = 4 then .ex else .rd) = .ok ia → (c.holder k).find c.part (ia / 2 ^ 44) (ia % 2 ^ 44) = none →
      (c.holder k).asking (ia / 2 ^ 44) (ia % 2 ^ 44) = false → c.holderUnit k ∉ (s.sys.die s.cur.die).skewed →
      (∃ m, (s.sys.part c.part).vdie (ia / 2 ^ 44) = some m) →
      Ends (.lsAsk n a) s (fun t => SeqStepped s.now t.now 4 [] none ∧
        t.sys.hub.reqs = s.sys.hub.reqs ++ [{ id := s.sys.hub.reqNext, die := s.cur.die, ctx := l, k := k, part := c.part, va := s.g a, ia := ia,
                                              kind := .ask, ask := true }] ∧
        (t.ctxNow.holder k).asking (ia / 2 ^ 44) (ia % 2 ^ 44) = true ∧
        (vgetD t.ctxNow.lsc 0 0) = vgetD c.lsc 0 0 + 1 ∧ CellsKept s t))) ∧
  (∀ m < 8, m ≠ 6 → Ends (.lsStat d (BitVec.ofNat 8 m)) s (Wrote s 4 d (BitVec.ofNat 64 (c.lsc.toList.getD m 0).toNat))) ∧
  Ends (.lsStat d 6) s (Wrote s 4 d (BitVec.ofNat 64 ((c.fetchHolder.routes ++ c.copies.flatMap (fun p => p.holder.routes)).filter
    (fun t => decide (0 < t.rem))).length))

/-! ## Steward instructions (20 R408 to R417) -/

/-- 17 R365, 20 R410, R411: `smap` in steward mode maps a virtual semaphore, clearing OVF, and the count when it asks for that (R410) or another function mapped
the semaphore last (17 R365); it unmaps the highest; `smget` reads a mapping. -/
def Obligations.SemaphoreMap : Prop := ∀ (s : State) (d a : BitVec 5) (n : BitVec 8) (l v ps : Nat) (c : Ctx),
  s.now.steward = true → s.sound [a] → v = (s.g a).toNat → Names s (v % 256) l → c = s.sys.ctx s.cur.die l →
  (bitsOf v 8 8 = 0 → bitsOf v 29 3 = 0 → v < 2 ^ 34 → c.st ∈ [CtxPhase.ready, .trap, .parked] → semNamed c n.toNat = false →
    (bitOf v 32 = false → ps = bitsOf v 16 13 → ((s.sys.part c.part).semRange s.cur.die).1 ≤ ps →
      ps < ((s.sys.part c.part).semRange s.cur.die).1 + ((s.sys.part c.part).semRange s.cur.die).2 →
      (∀ m, m ≠ n.toNat → c.semMap[m]? ≠ some ps) → n.toNat ≤ c.semMap.length →
      Ends (.smap n a) s (fun t => SeqStepped s.now t.now 4 [] none ∧ (t.sys.ctx s.cur.die l).semMap[n.toNat]? = some ps ∧
        (∀ m, m ≠ n.toNat → (t.sys.ctx s.cur.die l).semMap[m]? = c.semMap[m]?) ∧ (t.sem ps).ovf = false ∧
        (t.sem ps).count = (if bitOf v 33 || ((s.sem ps).fn.map (fun f => f != c.fn)).getD false then 0 else (s.sem ps).count) ∧
        OnlySem s t ps)) ∧
    (bitOf v 32 = true → 1 ≤ n.toNat → n.toNat + 1 = c.semMap.length →
      Ends (.smap n a) s (OnlyCtx s l { c with semMap := c.semMap.take n.toNat }))) ∧
  (v < 256 → c.st ≠ .free →
    (∀ q, c.semMap[n.toNat]? = some q → Ends (.smget d n a) s (Wrote s 4 d (BitVec.ofNat 64 (2 ^ 63 + q * 2 ^ 48 +
      (s.sem q).ovf.toNat * 2 ^ 16 + (s.sem q).count)))) ∧
    (c.semMap.length ≤ n.toNat → Ends (.smget d n a) s (Wrote s 4 d 0)))

/-- 20 R412, R413, 21 R428: `csave` and `crest` begin a save or a restore of a context in its slot; the states become SAVING and RESTORING. The image of a
sequencer that saves its own context has STW_SCR7 in the slot of gA (21 R428), and it executes nothing more; that the register itself takes that value is the
model's way to say so. -/
def Obligations.SaveAndRestore : Prop := ∀ (s : State) (a : BitVec 5) (n : BitVec 8) (l sl : Nat) (v : Word) (c : Ctx) (p : Part),
  s.now.steward = true → s.sound [a] → v = s.g a → Names s n.toNat l → c = s.sys.ctx s.cur.die l → p = s.sys.part c.part →
  v.toNat % 4096 = 0 → v.toNat < 2 ^ 48 → v.toNat / 2 ^ 44 < p.nvd →
  (p.slotAt v.toNat = some sl → (p.slot sl).st = .free →
    (s.cur.idx = none → c.st = .parked →
      Ends (.csave n a) s (fun t => SeqStepped s.now t.now 4 [] none ∧ t.sys.ctx s.cur.die l = { c with st := .saving, area := v, saveSlot := some sl } ∧
        ((t.sys.part c.part).slot sl).st = .saving ∧ ((t.sys.part c.part).slot sl).fn = c.fn ∧ CellsKept s t)) ∧
    (s.cur.idx = some l → c.st = .trap →
      Ends (.csave n a) s (fun t => t.ctxNow = { c with st := .saving, area := v, saveSlot := some sl } ∧ ((t.sys.part c.part).slot sl).st = .saving ∧
        t.now = s.now.wg a (s.now.scr.toList.getD 7 0) ∧ seqReady t.sys s.cur = false ∧ CellsKept s t))) ∧
  (c.st = .ready → s.cur.idx = none →
    Ends (.crest n a) s (fun t => SeqStepped s.now t.now 4 [] none ∧ t.sys.ctx s.cur.die l = { c with st := .restoring, area := v, restored := false } ∧
      (c.slot = some sl → p.slotAt v.toNat = some sl → slotIsFor c (p.slot sl) = true → ((t.sys.part c.part).slot sl).st = .restoring) ∧
      (c.slot = none → t.sys.hub = s.sys.hub) ∧ CellsKept s t)) ∧
  (s.traps → p.slotAt v.toNat = none ∨ (∃ k, p.slotAt v.toNat = some k ∧ (p.slot k).st ≠ .free) → c.st = (if s.cur.idx = none then .parked else .trap) →
    Ends (.csave n a) s (Trapped s 0x08 0x48))

/-- 02 R49, 14 R331, 20 R414: START of a fresh claim makes the context RUN with its sequencer's registers as a task starts with them, and it waits for its
arguments before its first fetch; START of a restored one goes on as `tret` does. The start values are those of 02 R49. An instance of a failed record, a claim
with unmapped semaphores and one that no RESTORED with SUB 0 answered are not started. PREQ, PCLR, INTR and UNPARK change what they name and nothing else. A
function that is not one of these, or a state that the function does not accept, is an operand error. It rests in part on the model's choices of log entries 91
and 104. -/
def Obligations.ClaimControl : Prop := ∀ (s : State) (a : BitVec 5) (n : BitVec 8) (l v : Nat) (c : Ctx) (r : SeqRef),
  s.now.steward = true → s.sound [a] → v = (s.g a).toNat → v < 256 → Names s n.toNat l → c = s.sys.ctx s.cur.die l → r = ⟨s.cur.die, some l⟩ →
  (v = 0 → s.cur.idx = none → c.st = .ready → c.needSems ≤ c.semMap.length → c.slot = none → (∀ nd, s.sys.hub.node? c.node = some nd → nd.failed = none) →
    Ends (.clmStart n a) s (fun t => SeqStepped s.now t.now 4 [] none ∧
      t.sys.ctx s.cur.die l = { c with st := .run, fresh := false, wdCycles := 0 } ∧
      (t.sys.seq r).pc = BitVec.ofNat 64 (c.record.toNat / 2 ^ 64) ∧ (t.sys.seq r).npc = none ∧ (t.sys.seq r).nnpc = none ∧
      (t.sys.seq r).steward = false ∧ (t.sys.seq r).ae = true ∧ (t.sys.seq r).prq = false ∧ (t.sys.seq r).nestStat = 0 ∧ (t.sys.seq r).tags = 0 ∧
      (t.sys.seq r).fetch = c.ranges ∧ (t.sys.seq r).walks = Vector.replicate 8 {} ∧
      (t.sys.seq r).rg 1 = BitVec.ofNat 64 (c.record.toNat / 2 ^ 128) ∧ (t.sys.seq r).rg 2 = c.inst.zeroExtend 64 ∧
      (t.sys.seq r).rg 3 = c.count.zeroExtend 64 ∧ (t.sys.seq r).rg 4 = BitVec.ofNat 64 c.wsz ∧ (t.sys.seq r).rg 5 = BitVec.ofNat 64 c.piece ∧
      (∀ k, k = 0 ∨ 6 ≤ k.toNat → (t.sys.seq r).rg k = 0) ∧ seqReady t.sys r = false ∧ CellsKept s t)) ∧
  (∀ q, q = s.sys.seq r → v = 0 → s.cur.idx = none → c.st = .ready → c.needSems ≤ c.semMap.length → c.slot.isSome = true → c.restored = true →
    nestAct q.trapNstat = false → Ends (.clmStart n a) s (fun t => SeqStepped s.now t.now 4 [] none ∧
      t.sys.ctx s.cur.die l = { c with st := if q.trapAnn.getLsbD 2 then .trap else .run } ∧ (t.sys.seq r).pc = q.trapPc0 ∧
      (t.sys.seq r).npc = (if q.trapAnn.getLsbD 3 then none else some q.trapPc1) ∧ (t.sys.seq r).nnpc = (if q.trapAnn.getLsbD 4 then none else some q.trapPc2) ∧
      (t.sys.seq r).an0 = q.trapAnn.getLsbD 0 ∧ (t.sys.seq r).an1 = q.trapAnn.getLsbD 1 ∧ (t.sys.seq r).steward = q.trapAnn.getLsbD 2 ∧
      (t.sys.seq r).ae = true ∧ (t.sys.seq r).prq = false ∧ (t.sys.seq r).nestStat = q.trapNstat ∧ (t.sys.seq r).nestTop = q.trapNtop ∧
      (t.sys.seq r).icache = [] ∧ (t.sys.seq r).fetch = c.ranges ∧ (t.sys.seq r).g = q.g ∧ (t.sys.seq r).tags = q.tags ∧ (t.sys.seq r).walks = q.walks ∧
      CellsKept s t)) ∧
  (c.st ∈ [CtxPhase.run, .trap, .parked] →
    (v = 1 → Ends (.clmPreq n a) s (fun t => (t.sys.seq r).prq = true ∧ t.sys.ctx s.cur.die l = { c with wdCycles := (t.sys.ctx s.cur.die l).wdCycles } ∧ CellsKept s t ∧
      (r ≠ s.cur → SeqStepped s.now t.now 4 [] none ∧ t.sys.seq r = { s.sys.seq r with prq := true }))) ∧
    (v = 2 → Ends (.clmPclr n a) s (fun t => (t.sys.seq r).prq = false ∧ t.sys.ctx s.cur.die l = { c with wdCycles := (t.sys.ctx s.cur.die l).wdCycles } ∧ CellsKept s t ∧
      (r ≠ s.cur → SeqStepped s.now t.now 4 [] none ∧ t.sys.seq r = { s.sys.seq r with prq := false }))) ∧
    (v = 3 → Ends (.clmIntr n a) s (OnlyCtx s l { c with pend := if c.pend.contains .interrupt then c.pend else c.pend ++ [.interrupt] }))) ∧
  (v = 4 → c.st = .parked → Ends (.clmUnpark n a) s (OnlyCtx s l { c with st := .trap })) ∧
  (s.traps →
    (5 ≤ v → Ends (.clmStart n a) s (Trapped s 0x08 0x45)) ∧
    (v = 0 → c.st ≠ .ready ∨ c.semMap.length < c.needSems ∨ (c.slot.isSome = true ∧ c.restored = false) ∨
        (c.slot = none ∧ ∃ nd, s.sys.hub.node? c.node = some nd ∧ nd.failed ≠ none) → Ends (.clmStart n a) s (Trapped s 0x08 0x41)) ∧
    (v = 4 → c.st ≠ .parked → Ends (.clmUnpark n a) s (Trapped s 0x08 0x41)))

/-- 12 R301, 20 R415 to R417: `cpres` lets a stopped copy context go on at REPIX and PROG, with the ranges as they are now; where PROG counts all of the
repetition, at the next one. `qsc` ends a context with an error cause: its sequencer takes no further step, its unstarted entries go and the started ones no
longer signal, and it waits for no semaphore. `ewait` on the steward takes the oldest event, waits for one, or answers 0 when its T bit says so; `halt` parks
a task sequencer's context and posts PARKED, and on the steward waits for an event.
It rests in part on the model's choices of log entry 105. -/
def Obligations.StewardActions : Prop :=
  ((∀ (s : State) (a : BitVec 5) (n : BitVec 8) (l v : Nat) (c : Ctx) (p : CopyCtx),
  s.now.steward = true → s.sound [a] → v = (s.g a).toNat → Names s n.toNat l → c = s.sys.ctx s.cur.die l →
  c.st ≠ .free → c.st ≠ .ready →
  (c.copies[v]? = some p → p.stop = true →
    Ends (.cpres n a) s (fun t => SeqStepped s.now t.now 4 [] none ∧ CellsKept s t ∧
      (t.sys.ctx s.cur.die l).copies = c.copies.set v { p with stop := false } ∧
      (∀ e ∈ ((t.sys.ctx s.cur.die l).queue (8 + v)).ents, e.ranges = c.ranges) ∧
      (∀ e o kd, ((t.sys.ctx s.cur.die l).queue (8 + v)).ents.head? = some e → (c.queue (8 + v)).ents.head? = some o → cpKind o.cmd = some kd →
        (p.prog.toNat < repTotal kd { o with rep := p.repix } → e.rep = p.repix ∧ e.pos = p.prog.toNat) ∧
        (repTotal kd { o with rep := p.repix } ≤ p.prog.toNat → e.rep = p.repix + 1 ∧ e.pos = 0)) ∧
      ((t.sys.ctx s.cur.die l).queue (8 + v)).ents.map (·.num) = (c.queue (8 + v)).ents.map (·.num) ∧
      (∀ q, q ≠ 8 + v → (t.sys.ctx s.cur.die l).queue q = c.queue q))) ∧
  (s.traps → ((c.copies[v]?).map (·.stop)).getD false = false → Ends (.cpres n a) s (Trapped s 0x08 0x46))) ∧
  (∀ (s : State) (a : BitVec 5) (n : BitVec 8) (l v : Nat) (c : Ctx),
  s.now.steward = true → s.sound [a] → v = (s.g a).toNat → v < 64 → Names s n.toNat l → c = s.sys.ctx s.cur.die l →
  c.st ≠ .free → (c.st = .ending → c.endBy = false) → (c.preq = some 1 → v ≠ 0x15) →
  Ends (.qsc n a) s (fun t =>
    (t.sys.ctx s.cur.die l).st = .ending ∧ (t.sys.ctx s.cur.die l).endCause = some v ∧ (t.sys.ctx s.cur.die l).endSub = 0 ∧
    (t.sys.ctx s.cur.die l).killed = false ∧
    (∀ q e, e ∈ ((t.sys.ctx s.cur.die l).queue q).ents → e.started = true ∧ e.done = false ∧ e.signal = none) ∧
    (∀ ps, ∀ w ∈ ((t.sys.die s.cur.die).sem ps).waiters, w.ctx ≠ l) ∧
    (∀ ps, ((t.sys.die s.cur.die).sem ps).count = ((s.sys.die s.cur.die).sem ps).count) ∧
    seqReady t.sys ⟨s.cur.die, some l⟩ = false ∧ CellsKept s t ∧
    (s.cur.idx = none → SeqStepped s.now t.now 4 [] none) ∧ (s.cur.idx = some l → t.now = s.now)))) ∧
  (∀ (s : State) (d : BitVec 5) (b : Bool), s.now.steward = true →
  (s.cur.idx = none →
    (∀ e rest, (s.sys.die s.cur.die).events = e :: rest →
      Ends (.ewait d b) s (fun t => RegReads s t 4 d e false ∧ SeqStepped s.now t.now 4 [d] none ∧ (t.sys.die s.cur.die).events = rest ∧
        OnlyDie s s.cur.die t ∧ CellsKept s t) ∧
      Ends .halt s (Passed s 4)) ∧
    ((s.sys.die s.cur.die).events = [] →
      Ends (.ewait d true) s (Wrote s 4 d 0) ∧ Ends (.ewait d false) s (Unmoved s) ∧ Ends .halt s (Unmoved s))) ∧
  (∀ l, s.cur.idx = some l →
    Ends .halt s (fun t => SeqStepped s.now t.now 4 [] none ∧ t.ctxNow = { s.ctxNow with st := .parked, wdCycles := 0 } ∧
      ((s.sys.die s.cur.die).heldEvents = [] → (s.sys.die s.cur.die).events.length < 256 →
        (t.sys.die s.cur.die).events = (s.sys.die s.cur.die).events ++ [BitVec.ofNat 64 (4 * 2 ^ 56 + l * 2 ^ 48)]) ∧
      seqReady t.sys s.cur = false ∧ OnlyDie s s.cur.die t ∧ CellsKept s t) ∧
    (s.now.ae = true → Ends (.ewait d b) s (Trapped s 0x08 0x47))))

/-! ## Engine commands at issue (09, 10, 12) -/

/-- 02 R51, 09 R185 to R192, R202: the matrix commands that pass their checks put one entry into the matrix queue, with the addresses of every repetition, the
window ranges, the parameters and the weight that the rules give, or wait with no effect for an entry whose ranges conflict or for room; `mx.spm` and `mx.ldb`
also change the issue-order state. 08 R165, R174, 09 R185, R187, R191 to R194, R201: what such an entry does when it executes, and its retirement: the lines of
the stationary B are those of the panels; rows of the accumulators are filled from the window, drained to it, presented to the chains row by row, cleared or
made dead; a routing is that of every chain. A fill or a drain of bytes or elements with an uncorrectable error uses what is stored, log entry 38; `mx.drnx`
waits for room in each port, log entry 116. -/
def Obligations.MatrixCommands : Prop := (∀ (s : State) (c : Common) (w x : BitVec 3) (h : Ctx) (p : Params) (b : Nat),
  h = s.ctxNow → p = h.params → b = h.blocks.length → h.shape ≠ 7 → Walks s w c →
  (Accepts s c →
    (∀ q : List Params, q.length = c.rep.toNat + 1 →
      (∀ i u, q[i]? = some u → Fits s (s.place w c i).toNat 64 ∧ Readable s .matrix (s.place w c i) 64 ∧
        s.word (s.place w c i) 64 = u.mrows + 2 ^ 32 * u.astr + 2 ^ 64 * u.drows + 2 ^ 96 * u.dstr ∧ 1 ≤ u.mrows ∧ u.mrows ≤ 1536 ∧
        1 ≤ u.drows ∧ u.drows ≤ 1536 ∧ u.astr % 64 = 0 ∧ u.dstr % 64 = 0 ∧ u.astr < 2 ^ 32 ∧ u.dstr < 2 ^ 32) →
      ∀ v, q.getLast? = some v →
      Ends (.mxSpm w c) s (Queued s (.mxSpm w c) c 0 { num := 0, cmd := .nop, params := v, weight := 1 } (fun g => { g with params := v }))) ∧
    (∀ (all : Bool), (all = true ∨ ∀ i, i ≤ c.rep.toNat → (s.place w c i).toNat + p.drows ≤ 256 * h.h) →
      ∀ r, r = (repetitions c).map (fun i => (if all then 0 else (s.place w c i).toNat, 0)) →
      Ends (.mxClr w all c) s (Queued s (.mxClr w all c) c 0 { num := 0, cmd := .nop, reps := r, params := p, weight := 1 } id) ∧
      Ends (.mxDead w all c) s (Queued s (.mxDead w all c) c 0 { num := 0, cmd := .nop, reps := r, params := p, weight := 1 } id)) ∧
    (∀ (clr : Bool), h.chains ≠ [] → (∀ i, i ≤ c.rep.toNat → (s.place w c i).toNat + p.drows ≤ 256 * h.h) →
      Ends (.mxDrnx w clr c) s (Queued s (.mxDrnx w clr c) c 0
        { num := 0, cmd := .nop, reps := (repetitions c).map (fun i => ((s.place w c i).toNat, 0)), params := p, weight := 4 * b } id))) ∧
  (∀ (bw sp : BitVec 2) (len : Nat) (rd : List Span), len = 192 * h.h * h.w * bLine bw.toNat sp.toNat →
    rd = (repetitions c).map (fun i => ⟨(s.place w c i).toNat, (s.place w c i).toNat + len⟩) → Accepts s c →
    (∀ i, i ≤ c.rep.toNat → Fits s (s.place w c i).toNat len) →
    (sp ≠ 0 → h.blocks? (maskSpans bw.toNat sp.toNat (192 * h.h * h.w) ((repetitions c).map (fun i => (s.place w c i).toNat))) [] = false ∧ ∀ i, i ≤ c.rep.toNat → ∀ n, n < 192 * h.h * h.w → ∀ k, k < 192 * gprOf sp.toNat →
      ∀ z, z = s.sys.cell (s.sys.cellAt s.cur ((s.place w c i).toNat + n * bLine bw.toNat sp.toNat + maskLo bw.toNat sp.toNat + k)) →
        z.2 = false ∧ popByte z.1 = keptOf sp.toNat) →
    Ends (.mxLdb w bw sp c) s (Queued s (.mxLdb w bw sp c) c 0
      { num := 0, cmd := .nop, reps := (repetitions c).map (fun i => ((s.place w c i).toNat, 0)), rd := rd, eB := (bw.toNat, sp.toNat), weight := 6 * b }
      (fun g => { g with iB := (bw.toNat, sp.toNat) }))) ∧
  (Walks s x c → (p.dstr = 0 ∨ 768 * h.w ≤ p.dstr) → ∀ (st : Nat) (sp : List Span), st = (if p.dstr = 0 then 768 * h.w else p.dstr) →
    (∀ i, i ≤ c.rep.toNat → (s.place w c i).toNat + p.drows ≤ 256 * h.h ∧ Fits s (s.place x c i).toNat ((p.drows - 1) * st + 768 * h.w)) →
    sp = (repetitions c).flatMap (fun i => rowSpans (s.place x c i).toNat st p.drows (768 * h.w)) →
    (Accepts s c → ∀ clr, Ends (.mxDrn w x clr c) s (Queued s (.mxDrn w x clr c) c 0
      { num := 0, cmd := .nop, reps := (repetitions c).map (fun i => ((s.place w c i).toNat, (s.place x c i).toNat)), params := p, wr := sp, weight := 4 * b } id)) ∧
    (Accepts s c → Ends (.mxFill w x c) s (Queued s (.mxFill w x c) c 0
      { num := 0, cmd := .nop, reps := (repetitions c).map (fun i => ((s.place w c i).toNat, (s.place x c i).toNat)), params := p, rd := sp, weight := 4 * b } id)))) ∧
  (∀ (s : State) (d l : Nat) (h : Ctx) (e : Entry) (rest : List Entry) (p : Params) (w x : BitVec 3) (c : Common), StartedHead s d l 0 h e rest → p = e.params →
    h.blocks.Nodup → h.shape ≠ 7 →
    (∀ (all : Bool) (R : Nat → Prop), (∀ z ∈ e.reps, all = true ∨ z.1 + p.drows ≤ 256 * h.h) →
      R = (fun row => ∃ z ∈ e.reps, all = true ∨ z.1 ≤ row ∧ row < z.1 + p.drows) →
      (e.cmd = .mxClr w all c → Ends (.entryRetire d l 0) s (fun t => Retired s d l 0 e rest t ∧ CellsKept s t ∧ (e.bad = false → (t.sys.ctx d l).pend = h.pend) ∧
        ∀ row < 256 * h.h, (R row → accRow (t.sys.die d) h row = List.replicate (192 * h.w) (some (0, false))) ∧
          (¬R row → accRow (t.sys.die d) h row = accRow (s.sys.die d) h row))) ∧
      (e.cmd = .mxDead w all c → Ends (.entryRetire d l 0) s (fun t => Retired s d l 0 e rest t ∧ CellsKept s t ∧
        ∀ row < 256 * h.h, (R row → accRow (t.sys.die d) h row = List.replicate (192 * h.w) none) ∧
          (¬R row → accRow (t.sys.die d) h row = accRow (s.sys.die d) h row)))) ∧
    (e.cmd = .mxSpm w c → Ends (.entryRetire d l 0) s (fun t => Retired s d l 0 e rest t ∧ CellsKept s t ∧ (t.sys.ctx d l).params = h.params)) ∧
    (∀ (r : Routing) (n : BitVec 6), (e.cmd = .mxChn n true c ∧ r = .link n.toNat) ∨ ((e.cmd = .mxChn n false c ∨ e.cmd = .mxByp false c) ∧ r = .dflt) ∨
        (e.cmd = .mxByp true c ∧ r = .bypass) → Ends (.entryRetire d l 0) s (fun t => Retired s d l 0 e rest t ∧ CellsKept s t ∧ (t.sys.ctx d l).routing = r ∧
      ∀ g ∈ (t.sys.ctx d l).chains, g.route = r)) ∧
    (∀ (bw sp : BitVec 2) (base : Nat × Nat) (len : Nat), e.cmd = .mxLdb w bw sp c → e.reps.getLast? = some base → len = bLine bw.toNat sp.toNat →
      (∀ k < 192 * h.h * h.w * len, (s.sys.cell (h.cellAt d (base.1 + k))).2 = false) → Ends (.entryRetire d l 0) s (fun t => Retired s d l 0 e rest t ∧ CellsKept s t ∧
        (∀ b ∈ h.blocks, (mgetD (t.sys.die d).bmat b {}).bw = bw.toNat ∧ (mgetD (t.sys.die d).bmat b {}).sp = sp.toNat) ∧
        ∀ a < h.h, ∀ j < h.w, ∀ r < 192, ∀ k < len, (bLineOf (t.sys.die d) h j (192 * a + r)).getD k 0 =
          (s.sys.cell (h.cellAt d (base.1 + (192 * h.h * j + 192 * a + r) * len + k))).1)) ∧
    (∀ (row off st : Nat), e.reps = [(row, off)] → row + p.drows ≤ 256 * h.h → st = (if p.dstr = 0 then 768 * h.w else p.dstr) →
      (e.cmd = .mxFill w x c → Ends (.entryRetire d l 0) s (fun t => Retired s d l 0 e rest t ∧ CellsKept s t ∧
        (∀ i < p.drows, accRow (t.sys.die d) h (row + i) =
          (List.range (192 * h.w)).map (fun col => some (BitVec.ofNat 32 (s.sys.bytesAt d h (off + i * st + 4 * col) 4), false))) ∧
        ∀ z < 256 * h.h, (z < row ∨ row + p.drows ≤ z) → accRow (t.sys.die d) h z = accRow (s.sys.die d) h z)) ∧
      (∀ clr, e.cmd = .mxDrn w x clr c → 768 * h.w ≤ st → off + (p.drows - 1) * st + 768 * h.w ≤ h.wsz → Ends (.entryRetire d l 0) s (fun t =>
        Retired s d l 0 e rest t ∧
        (∀ i < p.drows, ∀ col < 192 * h.w, ∀ a, (accRow (s.sys.die d) h (row + i))[col]? = some a →
          t.sys.bytesAt d h (off + i * st + 4 * col) 4 = (match a with | none => 0 | some v => if v.2 then 2 ^ 31 else v.1.toNat)) ∧
        (∀ z, (∀ i < p.drows, ∀ k < 768 * h.w, z ≠ h.cellAt d (off + i * st + k)) → t.sys.cell z = s.sys.cell z) ∧
        (∀ i < p.drows, accRow (t.sys.die d) h (row + i) = (if clr then List.replicate (192 * h.w) none else accRow (s.sys.die d) h (row + i))) ∧
        ((t.sys.ctx d l).pzd = true ↔ h.pzd = true ∨ ∃ i < p.drows, ∃ v, some (v, true) ∈ accRow (s.sys.die d) h (row + i))))) ∧
    (∀ (clr : Bool) (row : Nat) (z : Nat × Nat), e.cmd = .mxDrnx w clr c → e.reps[e.rep]? = some z → row = z.1 + e.pos → h.chains.length = h.w →
      ((∃ g ∈ h.chains, 4 ≤ (g.port 0).length) → Ends (.entryRetire d l 0) s (fun t => ((t.sys.ctx d l).queue 0).ents = e :: rest ∧
        (∀ (j : Nat) (g : Chain), h.chains[j]? = some g → ((t.sys.ctx d l).chains[j]?).map (fun g' => g'.port 0) = some (g.port 0)) ∧ (∀ z < 256 * h.h, accRow (t.sys.die d) h z = accRow (s.sys.die d) h z) ∧ CellsKept s t)) ∧
      ((∀ g ∈ h.chains, (g.port 0).length < 4) → row < 256 * h.h → Ends (.entryRetire d l 0) s (fun t => CellsKept s t ∧
        (∀ j g, h.chains[j]? = some g → ((t.sys.ctx d l).chains[j]?).map (fun g' => g'.port 0) = some (g.port 0 ++ [((accRow (s.sys.die d) h row).map
          (fun a => match a with | none => 0 | some v => if v.2 then 0x8000_0000 else v.1)).drop (192 * j) |>.take 192])) ∧
        (∀ z < 256 * h.h, accRow (t.sys.die d) h z = (if clr ∧ z = row then List.replicate (192 * h.w) none else accRow (s.sys.die d) h z)) ∧
        (e.pos + 1 < p.drows → (((t.sys.ctx d l).queue 0).ents).map (fun x => (x.num, x.rep, x.pos)) = (e.num, e.rep, e.pos + 1) :: rest.map (fun x => (x.num, x.rep, x.pos))) ∧
        (e.pos + 1 = p.drows → e.reps.length = e.rep + 1 → Retired s d l 0 e rest t)))))

/-- 02 R51, 09 R188, R189, R202: `mx.run` from each of its three sources, which waits with no effect while its queue is full. 08 R160 to R175, 09 R183, R188,
R190, R194, R201: what a run makes of the accumulators, in float and in both integer modes, with a dense or a sparse B of 4, 8 or 16 bits: every repetition and
A row of a run from the window, and of a run from a link or the bypass one line, which waits while the line has not come. Uncorrectable A bytes poison their
group. A line of a stream is taken by log entry 127. -/
def Obligations.MatrixRun : Prop := (∀ (s : State) (c : Common) (wa wr : BitVec 3) (pm : BitVec 4) (mode src : BitVec 2) (h : Ctx) (p : Params)
    (bw sp la st : Nat) (rd : List Span),
  h = s.ctxNow → p = h.params → h.iB = (bw, sp) → la = 192 * h.h * 2 ^ sp * (2 + pm.toNat) → st = (if p.astr = 0 then la else p.astr) →
  h.shape ≠ 7 → Walks s wr c → (mode = 0 → 3 ≤ pm.toNat) → (p.astr = 0 ∨ la ≤ p.astr) → (src ≠ 0 → bw ≠ 2) →
  (src = 0 → Walks s wa c ∧ ∀ i, i ≤ c.rep.toNat → Fits s (s.place wa c i).toNat ((p.mrows - 1) * st + la)) →
  (src = 1 → ∃ n, leftOf s.sys s.cur.die h = some n) → (src = 2 → h.chains ≠ []) →
  (∀ i, i ≤ c.rep.toNat → (s.place wr c i).toNat + (if bw = 0 then 2 * p.mrows else p.mrows) ≤ 256 * h.h) →
  rd = (if src = 0 then (repetitions c).flatMap (fun i => rowSpans (s.place wa c i).toNat st p.mrows la) else []) →
  Accepts s c →
  Ends (.mxRun wa wr pm mode src c) s (Queued s (.mxRun wa wr pm mode src c) c 0
    { num := 0, cmd := .nop, reps := (repetitions c).map (fun i => (if src = 0 then (s.place wa c i).toNat else 0, (s.place wr c i).toNat)), params := p,
      eB := (bw, sp), rd := rd, weight := runWeight h.blocks.length bw sp (pm.toNat + 1) } id)) ∧
  (∀ (s : State) (d l : Nat) (h : Ctx) (e : Entry) (rest : List Entry) (wa wr : BitVec 3) (pm : BitVec 4) (mode src : BitVec 2) (c : Common) (v : Die) (bw sp ng pa la st k M : Nat)
    (old : Nat → Nat → Lane × Bool), StartedHead s d l 0 h e rest → v = s.sys.die d → h.blocks.Nodup → h.shape ≠ 7 → e.cmd = .mxRun wa wr pm mode src c → e.eB = (bw, sp) →
    bw < 3 → sp < 4 → mode ≠ 3 → HoldsB v h bw sp → pa = pm.toNat + 1 → ng = 192 * h.h * 2 ^ sp → la = ng * (1 + pa) → M = e.params.mrows → k = (if bw = 0 then 2 else 1) →
    st = (if e.params.astr = 0 then la else e.params.astr) → old = (fun z n => (((accRow v h z)[n]?).bind id).getD (0, false)) →
    (∀ b r, (b, r) ∈ e.reps → r + k * M ≤ 256 * h.h) →
    (src = 0 → Ends (.entryRetire d l 0) s (fun t => Retired s d l 0 e rest t ∧ CellsKept s t ∧ ∃ acc : Nat → Nat → Nat → Nat → Lane × Bool,
      acc 0 0 = old ∧ (∀ i b r, e.reps[i]? = some (b, r) → acc (i + 1) 0 = acc i M ∧
        ∀ m < M, RowRun v h bw sp pa mode.toNat r m (fun x => s.sys.cell (h.cellAt d (b + m * st + x))) (acc i m) (acc i (m + 1))) ∧
      AccNow s t d h (fun z => ∃ b r, (b, r) ∈ e.reps ∧ r ≤ z ∧ z < r + k * M) (acc e.reps.length 0))) ∧
    (∀ b r held, src = 1 ∨ src = 2 → bw ≠ 2 → h = s.sys.ctx d l → e.reps[e.rep]? = some (b, r) → e.pos < M → held = runSource s.sys d h (src == 1) →
      (∀ x ∈ l :: h.grove, ∀ g ∈ (s.sys.ctx d x).chains, g.outTo = []) →
      (held.length < la - e.buf.length → held.length + 768 ≤ 12288 → Ends (.entryRetire d l 0) s (fun t => ((t.sys.ctx d l).queue 0).ents = e :: rest ∧ CellsKept s t ∧
        runSource t.sys d (t.sys.ctx d l) (src == 1) = held ∧ AccNow s t d h (fun _ => False) old)) ∧
      (e.buf.length + held.length = la → Ends (.entryRetire d l 0) s (fun t => CellsKept s t ∧ runSource t.sys d (t.sys.ctx d l) (src == 1) = [] ∧
        (∃ new, RowRun v h bw sp pa mode.toNat r e.pos (fun x => ((e.buf ++ held).getD x 0, false)) old new ∧
          AccNow s t d h (fun z => r + k * e.pos ≤ z ∧ z < r + k * (e.pos + 1)) new) ∧
        (e.pos + 1 < M ∨ e.rep + 1 < e.reps.length → (((t.sys.ctx d l).queue 0).ents).map (fun x => (x.num, x.rep, x.pos, x.buf)) =
          (e.num, if e.pos + 1 < M then (e.rep, e.pos + 1, ([] : List Byte)) else (e.rep + 1, 0, [])) :: rest.map (fun x => (x.num, x.rep, x.pos, x.buf))) ∧
        (e.pos + 1 = M → e.rep + 1 = e.reps.length → Retired s d l 0 e rest t)))))

/-- 02 R51, 09 R193, R195: the routing commands, which wait while their queue is full; `mx.chn` needs the sibling to stand on the right. 09 R198 to R200:
`mx.spl` on a whole fragment, and `mx.frm` on piece 0 of a grove, begin to wait: the sequencer stays at the command, and the context waits with what the record
says. A command that waits is checked no more; a bit of LIVE at or above the piece count is RESERVED_FIELD before the split is refused, and where splits are not
allowed the code is 0x0C whatever else the record holds: the model's choice of log entry 96. -/
def Obligations.RoutingAndSplits : Prop :=
  (∀ (s : State) (c : Common) (h : Ctx) (e : Entry),
  h = s.ctxNow → h.shape ≠ 7 → Accepts s c →
  e = { num := 0, cmd := .nop, reps := List.replicate (c.rep.toNat + 1) (0, 0), weight := 1 } →
  (∀ n g, h.chains ≠ [] → s.sys.piece? s.cur.die h n.toNat = some g → linkGeometry h g = true →
    Ends (.mxChn n true c) s (Queued s (.mxChn n true c) c 0 e (fun g => { g with iRouting := .link n.toNat }))) ∧
  (∀ n, Ends (.mxChn n false c) s (Queued s (.mxChn n false c) c 0 e (fun g => { g with iRouting := .dflt }))) ∧
  (h.chains ≠ [] →
    Ends (.mxByp true c) s (Queued s (.mxByp true c) c 0 e (fun g => { g with iRouting := .bypass })) ∧
    Ends (.mxByp false c) s (Queued s (.mxByp false c) c 0 e (fun g => { g with iRouting := .dflt })))) ∧
  (∀ (s : State) (c : Common) (l : Nat) (h : Ctx), s.cur.idx = some l → h = s.ctxNow → h.shape ≠ 7 →
  (h.reshape ≠ .none → ∀ w, Ends (.mxSpl w c) s (Unmoved s) ∧ Ends (.mxFrm c) s (Unmoved s)) ∧
  (h.reshape = .none →
  (∀ (w : BitVec 3) (into : Nat) (live pentry : Word), h.grove.length = 1 → h.piece = 0 → h.orig = none → splitAllowed h.shape into = true →
    Fits s (s.now.wk w).base.toNat 64 → Readable s .matrix (s.now.wk w).base 64 →
    s.word (s.now.wk w).base 64 = pentry.toNat + 2 ^ 64 * live.toNat + 2 ^ 128 * into → into < 16 → live.toNat < 2 ^ pieceCount h into →
    pentry.toNat % 2 = 0 → canonical pentry = true →
    Ends (.mxSpl w c) s (fun t => t = { s with sys := s.sys.setCtx s.cur.die l { h with reshape := .split into live pentry } })) ∧
  (h.piece = 0 → 2 ≤ h.grove.length → Ends (.mxFrm c) s (fun t => t = { s with sys := s.sys.setCtx s.cur.die l { h with reshape := .fuse } })) ∧
  (s.traps → (h.piece ≠ 0 ∨ h.grove.length ≤ 1) → Ends (.mxFrm c) s (Trapped s 0x08 0x0E)) ∧
  (s.traps → ∀ (w : BitVec 3) (into : Nat) (live pentry : Word), Fits s (s.now.wk w).base.toNat 64 → Readable s .matrix (s.now.wk w).base 64 → into < 16 →
    s.word (s.now.wk w).base 64 = pentry.toNat + 2 ^ 64 * live.toNat + 2 ^ 128 * into →
    (splitAllowed h.shape into = true → 2 ^ pieceCount h into ≤ live.toNat → Ends (.mxSpl w c) s (Trapped s 0x02 0)) ∧
    (splitAllowed h.shape into = false ∨ (live.toNat < 2 ^ pieceCount h into ∧ (h.grove.length ≠ 1 ∨ h.piece ≠ 0 ∨ h.orig ≠ none)) →
      Ends (.mxSpl w c) s (Trapped s 0x08 0x0C)))))

/-- 02 R51, 11 R251, R252, 12 R274 to R281, R296, R297: a copy command whose records pass their checks puts one entry into its copy context's queue, with the records, the ranges
in force, one hull of what it reads and one of what it writes in the window, and the weight of its kind; it waits with no effect for an entry whose ranges conflict, for an
entry of the scoreboard, or for room in its queue. -/
def Obligations.CopyCommands : Prop := ∀ (s : State) (c : Common) (k : BitVec 2) (w : BitVec 3) (a b : Walk) (i : Instr) (kd : CpKind)
    (recs : List (BitVec 512)) (rd wr : List Span),
  (a = s.now.wk 0 ∧ b = s.now.wk 0 ∧ (i, kd) ∈ [(Instr.cpBlk k w c, CpKind.blk), (.cpFill k w c, .fill), (.cpTrn k w c, .trn), (.cpGat k w c, .gat),
      (.cpSca k w c, .sca), (.cpRed k w true c, .red true), (.cpRed k w false c, .red false), (.cpAmo k w c, .amo), (.cpAmor k w c, .amor),
      (.cpSig k w 0 c, .sig), (.cpSig k w 1 c, .sig), (.cpSig k w 2 c, .sig), (.cpSig k w 3 c, .sig), (.cpSigw k w c, .sigw), (.cpSigr k w c, .sigr),
      (.cpRw k w 0 false c, .rw 0), (.cpRw k w 0 true c, .rw 0), (.cpRw k w 1 false c, .rw 1), (.cpRw k w 1 true c, .rw 1),
      (.cpRw k w 2 false c, .rw 2), (.cpRw k w 2 true c, .rw 2), (.cpRw k w 3 false c, .rw 3), (.cpRw k w 3 true c, .rw 3),
      (.cpLand k w c, .land), (.cpLrev k w c, .lrev)]) ∨
    (∃ wa wb, a = s.now.wk wa ∧ b = s.now.wk wb ∧ (i, kd) = (.cpWalk k w wa wb c, .walk)) →
  Walks s w c → k.toNat < s.ctxNow.copies.length → recs.length = c.rep.toNat + 1 →
  (∀ j x, recs[j]? = some x → Fits s (s.place w c j).toNat 64 ∧ Readable s .copy (s.place w c j) 64 ∧ s.word (s.place w c j) 64 = x.toNat ∧
    GoodRecord s kd a b j x ∧ (kd = .land → rAuxv x % 256 < s.ctxNow.semMap.length)) →
  rd = hullAll (recs.flatMap (fun x => (winHulls kd x a b).1)) → wr = hullAll (recs.flatMap (fun x => (winHulls kd x a b).2)) →
  Accepts s c →
  Ends i s (Queued s i c (8 + k.toNat)
    { num := 0, cmd := .nop, recs := recs, walkA := a, walkB := b, ranges := s.ctxNow.ranges, rd := rd, wr := wr,
      peers := (if recs.any (fun x => rSsp x == spPeer || rDsp x == spPeer) then pieceShapes s.sys s.cur.die s.ctxNow else []),
      scb := !(rd.isEmpty && wr.isEmpty), weight := kd.weight } id)

/-- 02 R51, 10 R214 to R219, R221: the strip commands that pass their checks put one entry into their chain's queue, or wait with no effect while it is full; `xb.bind` and `xb.free`
change the binding in issue order.
10 R211, R219: what an entry outside a group does when it executes, and its retirement: a bound chain has its strips as the rule says, a freed one holds nothing, and a seeded strip has its
generators from the window. -/
def Obligations.StripCommands : Prop := (∀ (s : State) (c : Common) (ch : BitVec 3) (h : Chain) (q : Nat),
  s.ctxNow.chains[ch.toNat]? = some h → q = 1 + ch.toNat →
  (c.rep = 0 → (s.ctxNow.queue q).openEntries = [] → Accepts s c →
    (h.iBound = false → Ends (.xbBind ch c) s (Queued s (.xbBind ch c) c q { num := 0, cmd := .nop, reps := [(0, 0)], weight := 1 }
      (fun g => { g with chains := g.chains.set ch.toNat { h with iBound := true } }))) ∧
    (h.iBound = true → Ends (.xbFree ch c) s (Queued s (.xbFree ch c) c q { num := 0, cmd := .nop, reps := [(0, 0)], weight := 1 }
      (fun g => { g with chains := g.chains.set ch.toNat { h with iBound := false } })))) ∧
  (∀ (w k : BitVec 3) (rd : List Span), Walks s w c → h.iBound = true → (s.ctxNow.queue q).openEntries = [] →
    (∀ i, i ≤ c.rep.toNat → (s.place w c i).toNat % 16 = 0 ∧ (s.place w c i).toNat + 768 ≤ s.ctxNow.wsz) →
    rd = (repetitions c).map (fun i => ⟨(s.place w c i).toNat, (s.place w c i).toNat + 768⟩) → Accepts s c →
    Ends (.xbSeed ch w k c) s (Queued s (.xbSeed ch w k c) c q
      { num := 0, cmd := .nop, reps := (repetitions c).map (fun i => ((s.place w c i).toNat, 0)), rd := rd, weight := 1 } id)) ∧
  (∀ (we ws f t : BitVec 3) (r : List (Nat × Nat)) (sp : List Span) (take : Bool), Walks s we c → (5 ≤ f.toNat → Walks s ws c) →
    h.iBound = true → (s.ctxNow.queue q).openEntries.length < 15 →
    r = (repetitions c).map (fun i => ((s.place we c i).toNat, if 5 ≤ f.toNat then (s.place ws c i).toNat else 0)) →
    sp = r.flatMap (fun x => ⟨x.1, x.1 + fmtBytes f.toNat⟩ :: (if 5 ≤ f.toNat then [⟨x.2, x.2 + 6⟩] else [])) →
    (∀ x ∈ r, x.1 % 16 = 0) → (∀ x ∈ sp, x.hi ≤ s.ctxNow.wsz) →
    (∀ x ∈ r, openClash s.ctxNow take (streamSpans f.toNat x) = false) →
    (take = false → Accepts s c → Ends (.xbFeed ch we ws f t c) s (Queued s (.xbFeed ch we ws f t c) c q
      { num := 0, cmd := .nop, reps := r, rd := sp, weight := 1 } id)) ∧
    (take = true → s.ctxNow.iRouting = .dflt → Accepts s c → Ends (.xbTake ch we ws f c) s (Queued s (.xbTake ch we ws f c) c q
      { num := 0, cmd := .nop, reps := r, wr := sp, weight := 1 } id))) ∧
  (∀ (w : BitVec 3) (v : Nat) (ps : List DescPart) (ws : List (List Nat)), v = s.word (s.now.wk w).base 64 → ps = descParts v → h.iBound = true →
    Fits s (s.now.wk w).base.toNat 64 → Readable s .strip (s.now.wk w).base 64 → descReserved v = false →
    (∀ p ∈ ps, p.nw ≤ 64 ∧ p.off % 4 = 0 ∧ (p.nw ≠ 0 → p.off + 4 * p.nw ≤ s.ctxNow.wsz ∧ Readable s .strip (BitVec.ofNat 64 p.off) (4 * p.nw))) →
    ws = ps.map (fun p => (List.range p.nw).map (fun j => s.word (BitVec.ofNat 64 (p.off + 4 * j)) 4)) →
    groupBad (s.ctxNow.queue q).openEntries ps ws = false →
    (∀ k p l, ps[k]? = some p → ws[k]? = some l → ∀ x ∈ l, wordCause x k = none) → Accepts s c →
    Ends (.xbProg ch w c) s (Queued s (.xbProg ch w c) c q
      { num := 0, cmd := .nop, weight := progWeight ps,
        reps := (List.range s.ctxNow.copies.length).map (fun k => (8 + k, (s.ctxNow.queue (8 + k)).iss)),
        progs := (ps.zip ws).map (fun x => { nr := x.1.nr, words := x.2.map (BitVec.ofNat 32) }) } id))) ∧
  (∀ (s : State) (d l ch : Nat) (c : Ctx) (e : Entry) (rest : List Entry) (h : Chain) (n w k : BitVec 3) (m : Common), StartedHead s d l (1 + ch) c e rest → ch < 6 →
    c.chains[ch]? = some h →
    (e.cmd = .xbBind n m → Ends (.entryRetire d l (1 + ch)) s (fun t => Retired s d l (1 + ch) e rest t ∧ CellsKept s t ∧ ∃ g, (t.sys.ctx d l).chains[ch]? = some g ∧
      g.bound = true ∧ ∀ j < 5, g.strip j = { sr := (g.strip j).sr } ∧ (g.strip j).sr.length = 192 ∧
        ∀ x < 192, (g.strip j).sr.getD x 0 = BitVec.ofNat 32 (0x9E3779B9 * (192 * j + x + 1)))) ∧
    (e.cmd = .xbFree n m → Ends (.entryRetire d l (1 + ch)) s (fun t => Retired s d l (1 + ch) e rest t ∧ CellsKept s t ∧ ∃ g, (t.sys.ctx d l).chains[ch]? = some g ∧
      g.bound = false ∧ g.phys = h.phys ∧ g.stream = [] ∧ ∀ p, g.port p = [])) ∧
    (∀ x y, e.cmd = .xbSeed n w k m → k.toNat < 5 → e.reps = [(x, y)] → Ends (.entryRetire d l (1 + ch)) s (fun t => Retired s d l (1 + ch) e rest t ∧ CellsKept s t ∧
      ∃ g, (t.sys.ctx d l).chains[ch]? = some g ∧ (∀ j, j ≠ k.toNat → g.strip j = h.strip j) ∧ g.strip k.toNat = { h.strip k.toNat with sr := (g.strip k.toNat).sr } ∧
      ∀ i < 192, (g.strip k.toNat).sr.getD i 0 = BitVec.ofNat 32 (s.sys.bytesAt d c (x + 4 * i) 4))))

/-- 03 R68, 20 R396: whatever a command meets at issue, no window byte changes; an unmapped semaphore, the wait's before the signal's, is SEM_RANGE before any
other check, and a command that passes its checks while its queue is full waits with no effect.
It rests in part on the model's choices of log entry 21. -/
def Obligations.CommandsAtIssue : Prop := ∀ (s : State) (i : Instr) (c : Common), cmdCommon i = some c → (∀ w, i ≠ .mxSpl w c) → i ≠ .mxFrm c →
  Ends i s (CellsKept s) ∧
  (s.traps → c.wth ≠ 0 → s.ctxNow.semMap.length ≤ c.wsem.toNat → Ends i s (Trapped s 0x0B (c.wsem.zeroExtend 64))) ∧
  (s.traps → (c.wth = 0 ∨ c.wsem.toNat < s.ctxNow.semMap.length) → c.sinc ≠ 0 → s.ctxNow.semMap.length ≤ c.ssem.toNat →
    Ends i s (Trapped s 0x0B (c.ssem.zeroExtend 64))) ∧
  (∀ n q, i = .mxClr n true c → q = s.ctxNow.queue 0 → s.cur.idx.isSome = true → s.ctxNow.shape ≠ 7 → semCheck s.ctxNow c = .ok () → 16 ≤ q.ents.length →
    Ends i s (Unmoved s))

/-! ## Strip words (10 R204 to R239) -/

/-- 10 R207, R224, R225: the integer lane words: on lanes of 32 and of 16 bits, signed and unsigned, the exact result wraps, or saturates with NV where MOD asks for that;
minimum and maximum; the bitwise words and the shifts of 32-bit lanes.
It rests in part on the model's choices of log entry 30. -/
def Obligations.IntegerWords : Prop := ∀ (s : State) (h : Chain) (b a d g : BitVec 4) (x y : Nat → Lane), x = h.lane s.curStrip.k a → y = h.lane s.curStrip.k b →
  (WordRuns s h [a, b] (d == 15 && g != 14) →
    (∀ t ∈ [3, 4, 5, 6], ∀ v w : Nat → Int, v = (fun l => intVal t (x l)) → w = (fun l => intVal t (y l)) →
      (∀ p ∈ [((0 : BitVec 6), false), (1, true)],
        Ends (.xAdd p.1 t b a d g) s (LaneStep s h [a, b] d g false (fun l _ => intOut t p.2 (v l + w l))) ∧
        Ends (.xSub p.1 t b a d g) s (LaneStep s h [a, b] d g false (fun l _ => intOut t p.2 (v l - w l))) ∧
        Ends (.xMul p.1 t b a d g) s (LaneStep s h [a, b] d g false (fun l _ => intOut t p.2 (v l * w l)))) ∧
      Ends (.xMin t b a d g) s (LaneStep s h [a, b] d g false (fun l _ => (intLane t (min (v l) (w l)), 0))) ∧
      Ends (.xMax t b a d g) s (LaneStep s h [a, b] d g false (fun l _ => (intLane t (max (v l) (w l)), 0)))) ∧
    (∀ t ∈ [3, 4],
      Ends (.xAnd 0 t b a d g) s (LaneStep s h [a, b] d g false (fun l _ => (x l &&& y l, 0))) ∧
      Ends (.xOr 0 t b a d g) s (LaneStep s h [a, b] d g false (fun l _ => (x l ||| y l, 0))) ∧
      Ends (.xXor 0 t b a d g) s (LaneStep s h [a, b] d g false (fun l _ => (x l ^^^ y l, 0))) ∧
      Ends (.xShl 0 t b a d g) s (LaneStep s h [a, b] d g false (fun l _ => (x l <<< ((y l).toNat % 32), 0))) ∧
      Ends (.xShr 0 t b a d g) s (LaneStep s h [a, b] d g false (fun l _ => (x l >>> ((y l).toNat % 32), 0))) ∧
      Ends (.xSra 0 t b a d g) s (LaneStep s h [a, b] d g false (fun l _ => ((x l).sshiftRight ((y l).toNat % 32), 0))))) ∧
  (WordRuns s h [a] (d == 15 && g != 14) → ∀ t ∈ [3, 4, 5, 6], ∀ p ∈ [((0 : BitVec 6), false), (1, true)],
    Ends (.xAbs p.1 t a d g) s (LaneStep s h [a] d g false (fun l _ => intOut t p.2 (intVal t (x l)).natAbs)) ∧
    Ends (.xNeg p.1 t a d g) s (LaneStep s h [a] d g false (fun l _ => intOut t p.2 (-intVal t (x l)))))

/-- 10 R223, R225, R226: the float lane words: the exact result rounded once in the word's mode, flags of the guarded lanes, one draw per guarded lane when the
mode is SR; the sign words, minimum and maximum are exact. The one-source integer forms beside them. What the exact results are is stated in ExactResults, and
how they are rounded in FloatRounding. -/
def Obligations.FloatWords : Prop := ∀ (s : State) (h : Chain) (b a d g : BitVec 4) (t : BitVec 3) (f : Fmt) (z : Bool) (x y e : Nat → Lane) (k : Nat),
  k = s.curStrip.k → x = h.lane k a → y = h.lane k b → e = (fun l => ((h.strip k).reg d.toNat).getD l 0) → z = (h.strip k).ftz →
  (laneFmt t = some f →
    (WordRuns s h [a, b] (d == 15 && g != 14) →
      (∀ m : BitVec 3,
        Ends (.xAdd (m.zeroExtend 6) t b a d g) s (LaneStep s h [a, b] d g (m == 4) (fun l r =>
          floatRes t f z m.toNat r [tyRead t z (x l), tyRead t z (y l)] false ((addExt m.toNat (tyRead t z (x l)) (tyRead t z (y l))).map (fun v => (v, 0))))) ∧
        Ends (.xSub (m.zeroExtend 6) t b a d g) s (LaneStep s h [a, b] d g (m == 4) (fun l r =>
          floatRes t f z m.toNat r [tyRead t z (x l), tyRead t z (y l)] false
            ((addExt m.toNat (tyRead t z (x l)) (tyRead t z (y l)).flip).map (fun v => (v, 0))))) ∧
        Ends (.xMul (m.zeroExtend 6) t b a d g) s (LaneStep s h [a, b] d g (m == 4) (fun l r =>
          floatRes t f z m.toNat r [tyRead t z (x l), tyRead t z (y l)] false ((mulExt (tyRead t z (x l)) (tyRead t z (y l))).map (fun v => (v, 0)))))) ∧
      (∀ r, ∀ p ∈ [(Instr.xFma r t b a d g, false, false), (.xFms r t b a d g, false, true), (.xFnma r t b a d g, true, false), (.xFnms r t b a d g, true, true)],
        Ends p.1 s (LaneStep s h [a, b] d g (r == 4) (fun l w => floatRes t f z r.toNat w [tyRead t z (x l), tyRead t z (y l), tyRead t z (e l)]
          (decide (((tyRead t z (x l)).num.val = 0 ∧ (tyRead t z (x l)).num.isReal = true ∧ (tyRead t z (y l)).isInf = true) ∨
            ((tyRead t z (x l)).isInf = true ∧ (tyRead t z (y l)).num.val = 0 ∧ (tyRead t z (y l)).num.isReal = true)))
          (((mulExt (tyRead t z (x l)) (tyRead t z (y l))).bind (fun q => addExt r.toNat (if p.2.1 then q.flip else q)
            (if p.2.2 then (tyRead t z (e l)).flip else tyRead t z (e l)))).map (fun v => (v, 0)))))) ∧
      (∀ r, Ends (.xDiv r t b a d g) s (LaneStep s h [a, b] d g (r == 4) (fun l w =>
        floatRes t f z r.toNat w [tyRead t z (x l), tyRead t z (y l)] false (divExt (tyRead t z (x l)) (tyRead t z (y l)))))) ∧
      Ends (.xMin t b a d g) s (LaneStep s h [a, b] d g false (fun l _ => exactLane t f (minExt (tyRead t z (x l)) (tyRead t z (y l))))) ∧
      Ends (.xMax t b a d g) s (LaneStep s h [a, b] d g false (fun l _ => exactLane t f (maxExt (tyRead t z (x l)) (tyRead t z (y l)))))) ∧
    (WordRuns s h [a] (d == 15 && g != 14) →
      Ends (.xAbs 0 t a d g) s (LaneStep s h [a] d g false (fun l _ => exactLane t f ((tyRead t z (x l)).sign false))) ∧
      Ends (.xNeg 0 t a d g) s (LaneStep s h [a] d g false (fun l _ => exactLane t f (tyRead t z (x l)).flip)) ∧
      (∀ r, ∀ p ∈ [(Instr.xRcp r t a d g, rcpExt), (.xRsq r t a d g, rsqExt), (.xSqrt r t a d g, sqrtExt), (.xExp2 r t a d g, exp2Ext), (.xLog2 r t a d g, log2Ext)],
        Ends p.1 s (LaneStep s h [a] d g (r == 4) (fun l w => floatRes t f z r.toNat w [tyRead t z (x l)] false (p.2 (tyRead t z (x l)))))))) ∧
  (WordRuns s h [a] (d == 15 && g != 14) →
    Ends (.xAbs 0 3 a d g) s (LaneStep s h [a] d g false (fun l _ => (if (x l).toInt < 0 then -(x l) else x l, 0))) ∧
    (∀ t ∈ [3, 4], Ends (.xNeg 0 t a d g) s (LaneStep s h [a] d g false (fun l _ => (-(x l), 0)))))

/-- 07 R138, R141 to R144, R146 to R148, 10 R223: the float formats, the value of every encoding, and Round: the one rounding that every float word, conversion and sum of the array applies
to its exact result, with its flags, for magnitudes given exactly or between two neighbours of at least 60 bits; what a float word makes of NaN sources, of an invalid operation, of an
infinity and of a zero. -/
def Obligations.FloatRounding : Prop :=
  ([fFP32, fFP16, fBF16, fE4M3, fE5M2, fE3M2, fE2M3, fE2M1].map (fun f => (f.eb, f.m, f.bias, f.maxBits, f.hasInf)) =
    [(8, 23, 127, 0x7F7F_FFFF, true), (5, 10, 15, 0x7BFF, true), (8, 7, 127, 0x7F7F, true), (4, 3, 7, 0x7E, false), (5, 2, 15, 0x7B, true), (3, 2, 3, 0x1F, false),
      (2, 3, 1, 0x1F, false), (2, 1, 1, 0x7, false)]) ∧
  ([fFP32, fFP16, fBF16, fE4M3, fE5M2].map (fun f => (f.nanBits false, f.nanBits true)) =
    [(0x7FC0_0000, 0xFFC0_0000), (0x7E00, 0xFE00), (0x7FC0, 0xFFC0), (0x7F, 0xFF), (0x7E, 0xFE)]) ∧
  (∀ f ∈ [fFP32, fFP16, fBF16, fE4M3, fE5M2, fE3M2, fE2M3, fE2M1],
    (∀ bits, bits < 2 ^ f.width → (f.decode bits).num = f.num bits ∧ (f.decode bits).exact = true ∧
      (∀ ftz, (f.read ftz bits).exact = true ∧ (f.read ftz bits).num =
        (match f.num bits with
          | .real n v => if ftz = true ∧ f ∈ [fFP32, fFP16, fBF16] ∧ v < (2 : Rat) ^ f.emin then .real n 0 else .real n v
          | x => x))) ∧
    (∀ x neg v mode draw sat ftz, Ext.Gives x neg v → mode < 5 → draw < 2 ^ 32 →
      Rounds f neg v mode draw sat ftz (f.put x mode draw sat ftz).bits (f.put x mode draw sat ftz).fl) ∧
    (∀ n e more mode draw sat ftz, f.put (.fin n 0 e more) mode draw sat ftz = ⟨f.signed n 0, 0⟩ ∧ f.num (f.signed n 0) = .real n 0)) ∧
  (∀ x neg v, Ext.Gives x neg v → ∃ fl, Rounds fFP32 neg v 0 0 false false (rne32 x).toNat fl) ∧
  (∀ n, rne32 (.zero n) = BitVec.ofNat 32 (if n then 2 ^ 31 else 0) ∧ rne32 (.inf n) = (if n then 0xFF80_0000 else 0x7F80_0000) ∧
    rne32 (.nan n) = (if n then 0xFFC0_0000 else 0x7FC0_0000)) ∧
  (∀ (t : BitVec 3) (f : Fmt) (ftz nv : Bool) (rm draw : Nat) (srcs : List Ext) (exact : Option (Ext × Flg)) (r : Lane × Flg), laneFmt t = some f → rm < 5 → draw < 2 ^ 32 →
    r = floatRes t f ftz rm draw srcs nv exact →
    (∀ x : Ext, srcs.find? Ext.isNan = some x → r = (BitVec.ofNat 32 (f.nanBits x.neg?), if nv then 16 else 0)) ∧
    (srcs.find? Ext.isNan = none → (exact = none → r = (BitVec.ofNat 32 (f.nanBits false), 16)) ∧
      (∀ n fl, exact = some (.inf n, fl) → f.num r.1.toNat = .inf n ∧ r.2 = fl) ∧ (∀ n e fl, exact = some (.fin n 0 e false, fl) → f.num r.1.toNat = .real n 0 ∧ r.2 = fl) ∧
      (∀ x n v fl, exact = some (x, fl) → Ext.Gives x n v → ∃ g, r.2 = g ||| fl ∧ Rounds f n v rm draw false ftz r.1.toNat g))) ∧
  (∀ (t : BitVec 3) (f : Fmt), laneFmt t = some f → (∀ n, exactLane t f (.nan n) = (BitVec.ofNat 32 (f.nanBits n), 0)) ∧
    ∀ x : Ext, x.exact = true → x.isNan = false → (exactLane t f x).2 = 0 ∧ (∀ n, x.num = .inf n ∨ x.num = .real n 0 → f.num (exactLane t f x).1.toNat = x.num) ∧
      (∀ n v, x.Gives n v → ∃ g, Rounds f n v 0 0 false false (exactLane t f x).1.toNat g))

/-- 07 R146, 10 R223, R225, R226, R231, R232, R234: the exact results of the float words: sums and products of exact values with the signs of their zeros, the smaller and the larger, the
comparisons, the quotients, the roots, the powers of 2 and the logarithms with their special operands. Of an irrational power or logarithm it is said where bounds at a
precision that the model reaches agree on 60 bits and more. -/
def Obligations.ExactResults : Prop := ∀ (a b : Ext) (rm : Nat), a.exact = true → b.exact = true →
  ((addExt rm a b).map Ext.num = ExtNum.sum rm [a.num, b.num] ∧ (∀ x, addExt rm a b = some x → x.exact = true)) ∧
  ((mulExt a b).map Ext.num = ExtNum.mul a.num b.num ∧ (∀ x, mulExt a b = some x → x.exact = true)) ∧
  (∀ l : List Ext, (∀ x ∈ l, x.exact = true) → (sumExt rm l).map Ext.num = ExtNum.sum rm (l.map Ext.num) ∧ (∀ x, sumExt rm l = some x → x.exact = true)) ∧
  (a.flip.num = a.num.signed (!a.num.neg) ∧ ∀ n, (a.sign n).num = a.num.signed n) ∧
  (a.isNan = a.num.isNan ∧ (a.num.isNan = false → b.num.isNan = false →
    (ltExt a b = true ↔ a.num.below b.num) ∧ (eqExt a b = true ↔ ¬a.num.below b.num ∧ ¬b.num.below a.num) ∧
    (minExt a b = a ∨ minExt a b = b) ∧ (maxExt a b = a ∨ maxExt a b = b) ∧
    (a.num.below b.num → minExt a b = a ∧ maxExt a b = b) ∧ (b.num.below a.num → minExt a b = b ∧ maxExt a b = a) ∧
    (eqExt a b = true → (minExt a b).neg? = (a.neg? || b.neg?) ∧ (maxExt a b).neg? = (a.neg? && b.neg?)))) ∧
  (a.num.isNan = true → (b.num.isNan = false → minExt a b = b ∧ maxExt a b = b ∧ minExt b a = b ∧ maxExt b a = b) ∧ (b.num.isNan = true → minExt a b = a ∧ maxExt a b = a)) ∧
  (∀ n v, a.num = .real n v →
    (v = 0 → rcpExt a = some (.inf n, 8) ∧ rsqExt a = some (.inf n, 8) ∧ (sqrtExt a).map (fun x => (x.1.num, x.2)) = some (.real n 0, 0) ∧
      (exp2Ext a).map (fun x => (x.1.num, x.2)) = some (.real false 1, 0) ∧ log2Ext a = some (.inf true, 8)) ∧
    (v ≠ 0 → n = true → rsqExt a = none ∧ sqrtExt a = none ∧ log2Ext a = none) ∧
    (v ≠ 0 → (∃ x, rcpExt a = some (x, 0) ∧ x.Gives n (.of (1 / v))) ∧
      (n = false → (∃ x, rsqExt a = some (x, 0) ∧ x.Gives false (.rsqrt v)) ∧ (∃ x, sqrtExt a = some (x, 0) ∧ x.Gives false (.sqrt v)) ∧
        (v = 1 → (log2Ext a).map (fun x => (x.1.num, x.2)) = some (.real false 0, 0)) ∧
        ((∃ k : Int, v = (2 : Rat) ^ k) ∨ (∃ m e w, a = .fin false m e false ∧ m < 2 ^ 32 ∧ w ∈ [512, 1024, 2048, 4096, 8192] ∧
            (log2Bits w 192 (m * 2 ^ w / 2 ^ Nat.log2 m) (m * 2 ^ w / 2 ^ Nat.log2 m + (if m * 2 ^ w % 2 ^ Nat.log2 m = 0 then 0 else 1)) 0).isSome = true) →
          (1 < v → ∃ x, log2Ext a = some (x, 0) ∧ x.Gives false (.log2 v)) ∧ (v < 1 → ∃ x, log2Ext a = some (x, 0) ∧ x.Gives true (.log2 (1 / v))))) ∧
      ((∃ k : Int, v = k) ∨ (∃ m e w i j r, a = .fin n m e false ∧ e < 0 ∧ w ∈ [384, 768, 1536, 3072, 6144] ∧ i = (-e).toNat ∧
          j = ((if n then -(m : Int) else m) % (2 ^ i : Nat)).toNat ∧ r = exp2Bounds w i j (2 * 2 ^ w) (2 * 2 ^ w) (2 ^ w) (2 ^ w) ∧ r.1 / 2 ^ 64 = r.2 / 2 ^ 64) →
        ∃ x, exp2Ext a = some (x, 0) ∧ x.Gives false (.exp2 a.num.val))) ∧
    (∀ n' v', b.num = .real n' v' → (v = 0 → v' = 0 → divExt a b = none) ∧ (v ≠ 0 → v' = 0 → divExt a b = some (.inf (n != n'), 8)) ∧
      (v = 0 → v' ≠ 0 → (divExt a b).map (fun x => (x.1.num, x.2)) = some (.real (n != n') 0, 0)) ∧
      (v ≠ 0 → v' ≠ 0 → ∃ x, divExt a b = some (x, 0) ∧ x.Gives (n != n') (.of (v / v')))) ∧
    (∀ n', b.num = .inf n' → (divExt a b).map (fun x => (x.1.num, x.2)) = some (.real (n != n') 0, 0) ∧ divExt b a = some (.inf (n' != n), 0))) ∧
  (∀ n, a.num = .inf n → (∀ n', b.num = .inf n' → divExt a b = none) ∧ (rcpExt a).map (fun x => (x.1.num, x.2)) = some (.real n 0, 0) ∧
    (rsqExt a).map (fun x => (x.1.num, x.2)) = (if n then none else some (.real false 0, 0)) ∧ sqrtExt a = (if n then none else some (.inf false, 0)) ∧
    (exp2Ext a).map (fun x => (x.1.num, x.2)) = some (if n then .real false 0 else .inf false, 0) ∧ log2Ext a = (if n then none else some (.inf false, 0)))

/-- 10 R227, R228, R230: the conversions between lane types, to narrow and MX formats and back, and the unpacking of ingots. The values of the conversions are
stated in ConversionValues. It rests in part on the model's choices of log entries 33 and 99. -/
def Obligations.ConversionWords : Prop := ∀ (s : State) (h : Chain) (a d g : BitVec 4) (n c t r : BitVec 3) (z : Bool) (x : Nat → Lane) (k : Nat) (f : Narrow),
  k = s.curStrip.k → x = h.lane k a → z = (h.strip k).ftz → f = narrowOf n.toNat → WordRuns s h [a] (d == 15 && g != 14) →
  (∀ q, Ends (.xCvt q r t a d g) s (LaneStep s h [a] d g (r == 4) (fun l w => cvtLane t z r.toNat w (tyRead q z (x l))))) ∧
  (c.toNat < 5 →
    Ends (.xCvtn n c t a d g) s (LaneStep s h [a] d g (c == 4) (fun l w =>
      (BitVec.ofNat 32 (convert (narrowDst f) (tyRead t z (x l)) c.toNat w z).bits, (convert (narrowDst f) (tyRead t z (x l)) c.toNat w z).fl))) ∧
    Ends (.xCvtw n c t a d g) s (LaneStep s h [a] d g (c == 4) (fun l w => cvtLane t z c.toNat w (narrowVal f (x l).toNat)))) ∧
  (5 ≤ c.toNat →
    (∀ blk : Nat → List Ext, blk = (fun j => (List.range 32).map (fun i => tyRead t z (x (32 * j + i)))) →
      Ends (.xCvtn n c t a d g) s (LaneStep s h [a] d g (c == 6) (fun l w =>
        mxLane f (mxScale f (blk (l / 32))).1 (mxScale f (blk (l / 32))).2 ((blk (l / 32)).all (·.isZero)) (tyRead t z (x l)) (if c = 6 then 4 else 0) w))) ∧
    Ends (.xCvtw n c t a d g) s (LaneStep s h [a] d g (c == 6) (fun l w =>
      cvtLane t z (if c = 6 then 4 else 0) w (mxValue f (x l).toNat ((x l).toNat / 256))))) ∧
  (∀ (q : BitVec 1) (p : BitVec 4) (im : List (List Ext × Bool)), im = unpackAll (p.toNat + 1) (q == 0) 24 (beatToBytes (h.source k a)) →
    Ends (.xUnpk q p t a d g) s (LaneStep s h [a] d g false (fun l _ =>
      ((cvtLane t z 0 0 ((im.getD (l / 8) ([], false)).1.getD (l % 8) (.zero false))).1,
       (cvtLane t z 0 0 ((im.getD (l / 8) ([], false)).1.getD (l % 8) (.zero false))).2 ||| (if (im.getD (l / 8) ([], false)).2 then 16 else 0)))))

/-- 07 R139, R140, R151 to R159, 10 R207, R228 to R230: the values of the conversions: what a lane type reads, the table of 07 R151 for every destination format, the rounding to an
integer and its saturation, narrow and MX elements and their shared scale, and the packing and unpacking of ingots. -/
def Obligations.ConversionValues : Prop :=
  (∀ (t : BitVec 3) (z : Bool) (x : Lane) (v : Ext) (rm draw : Nat), t ≠ 7 →
    (∀ f, laneFmt t = some f → tyRead t z x = f.read z (x.toNat % 2 ^ f.width) ∧
      cvtLane t z rm draw v = (BitVec.ofNat 32 (convert (.flt f false) v rm draw z).bits, (convert (.flt f false) v rm draw z).fl)) ∧
    (laneFmt t = none → (tyRead t z x).num = ExtNum.ofRat false (intVal t x) ∧ (tyRead t z x).exact = true ∧ v.exact = true → rm < 5 → draw < 2 ^ 32 →
      (∀ n, v = .nan n → cvtLane t z rm draw v = (0, 16)) ∧ (∀ n, v = .inf n → cvtLane t z rm draw v = (intLane t (if n then intLo t else intHi t), 16)) ∧
      (∀ n r, v.num = .real n r → ∃ (k y : Nat) (i : Int) (fl : Flg), (Cut.of r).toMultiple 1 n rm draw k y ∧ i = (if n then -(y : Int) else y) ∧
        cvtLane t z rm draw v = (intLane t (max (intLo t) (min (intHi t) i)), fl) ∧ (fl.getLsbD 0 = true ↔ (k : Rat) < r) ∧
        (fl.getLsbD 4 = true ↔ i < intLo t ∨ intHi t < i) ∧ fl &&& 14 = 0))) ∧
  (∀ f ∈ [fFP32, fFP16, fBF16, fE4M3, fE5M2, fE3M2, fE2M3, fE2M1], ∀ (sat ftz : Bool) (mode draw : Nat) (mx : Rat), mode < 5 → draw < 2 ^ 32 → f.num f.maxBits = .real false mx →
    (∀ n, convert (.flt f sat) (.nan n) mode draw ftz = (if f ∈ [fE3M2, fE2M3, fE2M1] then ⟨0, 16⟩ else ⟨f.nanBits n, 0⟩)) ∧
    (∀ n r, r = convert (.flt f sat) (.inf n) mode draw ftz → (f.hasInf = true → f.num r.bits = .inf n ∧ r.fl = 0) ∧ (f.hasInf = false → r.fl = 16 ∧
      ((f = fE4M3 ∧ sat = false) → f.num r.bits = .nan n) ∧ (¬(f = fE4M3 ∧ sat = false) → f.num r.bits = .real n mx))) ∧
    (∀ n e, f.num (convert (.flt f sat) (.fin n 0 e false) mode draw ftz).bits = .real n 0 ∧ (convert (.flt f sat) (.fin n 0 e false) mode draw ftz).fl = 0) ∧
    (∀ x n v, Ext.Gives x n v → Rounds f n v mode draw sat ftz (convert (.flt f sat) x mode draw ftz).bits (convert (.flt f sat) x mode draw ftz).fl)) ∧
  (∀ i : Int, (Ext.ofInt i).num = ExtNum.ofRat false i ∧ (Ext.ofInt i).exact = true) ∧
  ((List.range 8).map (fun n => (narrowDst (narrowOf n), (narrowOf n).emax)) = [(.flt fE4M3 true, 8), (.flt fE4M3 false, 8), (.flt fE5M2 true, 15), (.flt fE5M2 false, 15),
    (.flt fE3M2 false, 4), (.flt fE2M3 false, 2), (.flt fE2M1 false, 2), (.int ⟨8, true⟩, 0)]) ∧
  (∀ (x : Ext) (mode draw : Nat), x.exact = true → mode < 5 → draw < 2 ^ 32 → (∀ n, x = .nan n → convert (.int ⟨8, true⟩) x mode draw false = ⟨0, 16⟩) ∧
    (∀ n, x = .inf n → convert (.int ⟨8, true⟩) x mode draw false = ⟨if n then 128 else 127, 16⟩) ∧
    (∀ n r, x.num = .real n r → ∃ (k y : Nat) (i : Int) (u : Rd), (Cut.of r).toMultiple 1 n mode draw k y ∧ i = (if n then -(y : Int) else y) ∧
      convert (.int ⟨8, true⟩) x mode draw false = u ∧ u.bits = (BitVec.ofInt 8 (max (-128) (min 127 i))).toNat ∧ (u.fl.getLsbD 0 = true ↔ (k : Rat) < r) ∧
      (u.fl.getLsbD 4 = true ↔ i < -128 ∨ 127 < i) ∧ u.fl &&& 14 = 0)) ∧
  (∀ bits sc : Nat, (∀ f sat, f ∈ [fE4M3, fE5M2, fE3M2, fE2M3, fE2M1] → (narrowVal (.flt f sat) bits).num = f.num (bits % 2 ^ f.width) ∧
      (sc % 256 = 255 → mxValue (.flt f sat) bits sc = .nan false) ∧
      (sc % 256 ≠ 255 → (mxValue (.flt f sat) bits sc).num = (match f.num (bits % 2 ^ f.width) with
        | .real n v => .real n (v * (2 : Rat) ^ (((sc % 256 : Nat) : Int) - 127))
        | x => x))) ∧
    (narrowVal .s8 bits).num = ExtNum.ofRat false (BitVec.ofNat 8 bits).toInt ∧ (sc % 256 = 255 → mxValue .s8 bits sc = .nan false) ∧
    (sc % 256 ≠ 255 → (mxValue .s8 bits sc).num = ExtNum.ofRat false ((BitVec.ofNat 8 bits).toInt * (2 : Rat) ^ (((sc % 256 : Nat) : Int) - 133)))) ∧
  (∀ (n : Nat) (xs : List Ext) (f : Narrow), n < 8 → f = narrowOf n → (∀ x ∈ xs, x.exact = true) →
    ((∃ x ∈ xs, x.num.isReal = false) → mxScale f xs = (255, true)) ∧ ((∀ x ∈ xs, x.num.val = 0 ∧ x.num.isReal = true) → mxScale f xs = (0, false)) ∧
    (∀ x ∈ xs, ∀ (m v : Rat) (e : Int), x.num = .real false v ∨ x.num = .real true v → m = v → (∀ y ∈ xs, ∃ u, (y.num = .real false u ∨ y.num = .real true u) ∧ u ≤ m) →
      (Cut.of m).scale e → mxScale f xs = ((max 0 (min 254 (e - f.emax + 127))).toNat, false)) ∧
    (∀ (x : Ext) (sc mode draw : Nat) (s : Bool) (v : Rat), x.exact = true → x.num = .real s v → sc ≤ 254 → mode < 5 → draw < 2 ^ 32 →
      (∀ bad zero, mxLane f sc bad zero x mode draw = (if bad then (BitVec.ofNat 32 (sc * 256), 16) else if zero then (0, 0)
        else (BitVec.ofNat 32 (sc * 256 + (mxElement f x sc mode draw).bits), (mxElement f x sc mode draw).fl))) ∧
      (∀ g sat, f = .flt g sat → (v = 0 → g.num (mxElement f x sc mode draw).bits = .real s 0 ∧ (mxElement f x sc mode draw).fl = 0) ∧
        (v ≠ 0 → Rounds g s (.of (v * (2 : Rat) ^ (127 - (sc : Int)))) mode draw true false (mxElement f x sc mode draw).bits (mxElement f x sc mode draw).fl)) ∧
      (f = .s8 → ∃ (k y : Nat) (i : Int) (u : Rd), (Cut.of (v * (2 : Rat) ^ (133 - (sc : Int)))).toMultiple 1 s mode draw k y ∧ i = (if s then -(y : Int) else y) ∧
        mxElement f x sc mode draw = u ∧ u.bits = (BitVec.ofInt 8 (max (-127) (min 127 i))).toNat ∧ (u.fl.getLsbD 0 = true ↔ (k : Rat) < v * (2 : Rat) ^ (133 - (sc : Int))) ∧
        (u.fl.getLsbD 4 = true ↔ i < -127 ∨ 127 < i) ∧ u.fl &&& 14 = 0))) ∧
  (∀ (p : Nat) (float : Bool) (bytes : List Byte) (g i : Nat), 1 ≤ p → p ≤ 16 → 24 * (p + 1) ≤ bytes.length → g < 24 → i < 8 → ∀ (im : List Ext × Bool) (e : Nat) (a : Int),
    (unpackAll p float 24 bytes)[g]? = some im → e = (bytes.getD (g * (p + 1)) 0).toNat → a = planesInt p (fun k => (bytes.getD (g * (p + 1) + p - k) 0).getLsbD i) →
    (e = 255 → im = (List.replicate 8 (.nan false), true)) ∧
    (e ≠ 255 → im.2 = false ∧ (im.1[i]?).map Ext.num = some (ExtNum.ofRat false (if float then (a : Rat) * (2 : Rat) ^ ((e : Int) - 127) else a)))) ∧
  (∀ (xs : List Ext) (p : Nat) (float sr : Bool) (draws : List Nat) (g : Ingot) (fl : Flg), xs.length = 8 → (∀ x ∈ xs, x.exact = true) → 1 ≤ p → p ≤ 16 →
    (∀ d ∈ draws, d < 2 ^ 32) → packIngot xs p float sr draws = (g, fl) →
    (float = false → ∀ v : List Int, xs = v.map Ext.ofInt → g.e = 127 ∧ g.a = v.map (fun i => max (-2 ^ (p - 1)) (min (2 ^ (p - 1) - 1) i)) ∧
      fl = if ∃ i ∈ v, i < -2 ^ (p - 1) ∨ 2 ^ (p - 1) ≤ i then 16 else 0) ∧
    (float = true → ((∃ x ∈ xs, x.num.isReal = false) → g = ⟨255, List.replicate 8 0⟩ ∧ fl = 16) ∧
      ((∀ x ∈ xs, x.num.val = 0 ∧ x.num.isReal = true) → g = ⟨0, List.replicate 8 0⟩ ∧ fl = 0) ∧
      (∀ (m : Rat) (emax e0 : Int) (E : Nat) (hi : Int), (∀ x ∈ xs, x.num.isReal = true) → (∃ x ∈ xs, m = (x.num.val).abs) → (∀ x ∈ xs, (x.num.val).abs ≤ m) → (Cut.of m).scale emax →
        e0 = min 254 (max 0 (emax + 129 - p)) → hi = 2 ^ (p - 1) - 1 → ∀ r : Int → List Int,
        (∀ e j x, e = e0 ∨ e = e0 + 1 → xs[j]? = some x → ∃ (k y : Nat), (Cut.of ((x.num.val).abs * (2 : Rat) ^ (127 - e))).toMultiple 1 x.num.neg (if sr then 4 else 0) (draws.getD j 0) k y ∧
          (r e)[j]? = some (if x.num.neg then -(y : Int) else y)) → (∀ e, (r e).length = 8) →
        (E : Int) = (if (∃ a ∈ r e0, hi < a) ∧ e0 < 254 then e0 + 1 else e0) →
        g.e = E ∧ g.a = (r E).map (fun a => max (-hi - 1) (min hi a)) ∧ (fl.getLsbD 4 = true ↔ ∃ a ∈ r E, a < -hi - 1 ∨ hi < a) ∧ fl &&& 14 = 0 ∧
        (fl.getLsbD 0 = true ↔ ∃ (j : Nat) (x : Ext) (a : Int), xs[j]? = some x ∧ g.a[j]? = some a ∧ (a : Rat) ≠ x.num.val * (2 : Rat) ^ (127 - (E : Int))))))

/-- 10 R232, R233: the compares set a predicate pair and its complement on the guarded lanes, with NV where a NaN meets `x.clt` or `x.cle`; the select, the
predicate operations and the moves between lanes and predicates.
It rests in part on the model's choices of log entry 36. -/
def Obligations.PredicateWords : Prop := ∀ (s : State) (h : Chain) (b a d g : BitVec 4) (t : BitVec 3) (x y : Nat → Lane) (st : Strip) (k : Nat),
  k = s.curStrip.k → st = h.strip k → x = h.lane k a → y = h.lane k b →
  (WordRuns s h [a, b] false →
    (laneFmt t = none → ∀ v w : Nat → Int, v = (fun l => tyVal t (x l)) → w = (fun l => tyVal t (y l)) →
      Ends (.xCeq t b a d g) s (PairStep s h [a, b] d.toNat g (fun l => decide (v l = w l)) (fun _ => 0)) ∧
      Ends (.xClt t b a d g) s (PairStep s h [a, b] d.toNat g (fun l => decide (v l < w l)) (fun _ => 0)) ∧
      Ends (.xCle t b a d g) s (PairStep s h [a, b] d.toNat g (fun l => decide (v l ≤ w l)) (fun _ => 0)) ∧
      Ends (.xCun t b a d g) s (PairStep s h [a, b] d.toNat g (fun _ => false) (fun _ => 0))) ∧
    (∀ f, laneFmt t = some f → ∀ (v w : Nat → Ext) (un : Nat → Bool), v = (fun l => tyRead t st.ftz (x l)) → w = (fun l => tyRead t st.ftz (y l)) →
      un = (fun l => (v l).isNan || (w l).isNan) →
      Ends (.xCeq t b a d g) s (PairStep s h [a, b] d.toNat g (fun l => !un l && eqExt (v l) (w l)) (fun _ => 0)) ∧
      Ends (.xClt t b a d g) s (PairStep s h [a, b] d.toNat g (fun l => !un l && ltExt (v l) (w l)) (fun l => if un l then 16 else 0)) ∧
      Ends (.xCle t b a d g) s (PairStep s h [a, b] d.toNat g (fun l => !un l && (ltExt (v l) (w l) || eqExt (v l) (w l))) (fun l => if un l then 16 else 0)) ∧
      Ends (.xCun t b a d g) s (PairStep s h [a, b] d.toNat g un (fun _ => 0)))) ∧
  (WordRuns s h [a, b] (d == 15 && g != 14) → ∀ p : BitVec 4,
    Ends (.xSel p b a d g) s (MoveStep s h [a, b] d g (fun l => if (st.pred p.toNat).getLsbD l then x l else y l))) ∧
  (WordRuns s h [] false → ∀ (o : BitVec 2),
    Ends (.xPand o b a d g) s (fun t => ∃ u, StripStep s h [] u t ∧ u = { st with p := u.p } ∧ (∀ n, n ≠ d.toNat → u.pred n = st.pred n) ∧
      ∀ l, l < 192 → ∀ p q, p = (st.pred a.toNat).getLsbD l → q = (st.pred b.toNat).getLsbD l →
        (u.pred d.toNat).getLsbD l = (if (st.mask g).getLsbD l then (if o = 0 then p && q else if o = 1 then p || q else if o = 2 then p != q else p && !q)
          else (st.pred d.toNat).getLsbD l))) ∧
  (WordRuns s h [a] false → Ends (.xPmovToP t a d g) s (PairStep s h [a] d.toNat g (fun l => decide ((x l).toNat % 2 ^ tyWidth t ≠ 0)) (fun _ => 0))) ∧
  (WordRuns s h [] (d == 15 && g != 14) → Ends (.xPmovToV t a d g) s (MoveStep s h [] d g (fun l => if (st.pred a.toNat).getLsbD l then 1 else 0)))

/-- 10 R209, R224, R225, R234, R235: lane (r, c) of the shape is lane r × columns + c; a reduction gives every lane of a row or column the sum of its elements, exact and
rounded once, or its minimum or maximum, with the flags of the rows or columns that have a guarded lane; the movements.
Which NaN a float sum keeps is the model's choice of log entry 117. -/
def Obligations.ShapeWords : Prop := ∀ (s : State) (h : Chain) (b a d g : BitVec 4) (t : BitVec 3) (x y : Nat → Lane) (st : Strip)
    (k nr nc : Nat) (row col : Nat → List Lane) (out : (Nat → Lane × Flg) → State → Prop),
  k = s.curStrip.k → st = h.strip k → x = h.lane k a → y = h.lane k b → nr = shpRows st.shp → nc = st.cols →
  row = (fun l => (List.range nc).map (fun c => x (l / nc * nc + c))) → col = (fun l => (List.range nr).map (fun r => x (r * nc + l % nc))) →
  out = (fun r u => ∃ w h', WordStep s h [a] (some d) g w (fun l => (r l).1) h' u ∧ w = { st with flags := w.flags } ∧ FlagsSet st w (st.mask g) (fun l => (r l).2)) →
  (WordRuns s h [a] (d == 15 && g != 14) →
    (∀ f e, laneFmt t = some f → e = tyRead t st.ftz →
      (∀ m : BitVec 2, ∀ p ∈ [(Instr.xRsum (m.zeroExtend 6) t a d g, row), (.xCsum (m.zeroExtend 6) t a d g, col)], Ends p.1 s (out (fun l =>
        floatRes t f st.ftz m.toNat 0 ((p.2 l).map e) false ((sumExt m.toNat ((p.2 l).map e)).map (fun v => (v, 0)))))) ∧
      (∀ p ∈ [(Instr.xRmax t a d g, row, maxExt), (.xCmax t a d g, col, maxExt), (.xRmin t a d g, row, minExt), (.xCmin t a d g, col, minExt)],
        Ends p.1 s (out (fun l => exactLane t f (((p.2.1 l).tail.map e).foldl p.2.2 (e ((p.2.1 l).headD 0))))))) ∧
    (t ∈ [3, 4, 5, 6] →
      (∀ m ∈ [((0 : BitVec 6), false), (1, true)], ∀ p ∈ [(Instr.xRsum m.1 t a d g, row), (.xCsum m.1 t a d g, col)],
        Ends p.1 s (out (fun l => intOut t m.2 (((p.2 l).map (intVal t)).sum)))) ∧
      (∀ p ∈ [(Instr.xRmax t a d g, row, (max : Int → Int → Int)), (.xCmax t a d g, col, max), (.xRmin t a d g, row, min), (.xCmin t a d g, col, min)],
        Ends p.1 s (out (fun l => (intLane t (((p.2.1 l).tail.map (intVal t)).foldl p.2.2 (intVal t ((p.2.1 l).headD 0))), 0))))) ∧
    Ends (.xMov a d g) s (MoveStep s h [a] d g x) ∧
    Ends (.xTr a d g) s (MoveStep s h [a] d g (fun l => x (l % nr * nc + l / nr)))) ∧
  (WordRuns s h [a, b] (d == 15 && g != 14) →
    Ends (.xBcr b a d g) s (MoveStep s h [a, b] d g (fun l => x ((y 0).toNat % nr * nc + l % nc))) ∧
    Ends (.xBcc b a d g) s (MoveStep s h [a, b] d g (fun l => x (l / nc * nc + (y 0).toNat % nc))) ∧
    Ends (.xRotR b a d g) s (MoveStep s h [a, b] d g (fun l => x (l / nc * nc + (l % nc + (y 0).toNat) % nc))) ∧
    Ends (.xRotC b a d g) s (MoveStep s h [a, b] d g (fun l => x ((l / nc + (y 0).toNat) % nr * nc + l % nc))) ∧
    Ends (.xPerm b a d g) s (MoveStep s h [a, b] d g (fun l => x ((y l).toNat % 192)))) ∧
  nr * nc = 192

/-- 07 R154, 08 R164, 10 R206, R208, R229, R235 to R239: the words that set a strip's shape and mode, post a record, pace the strip, read its flags, and pack groups of eight lanes into
ingots of a line: a line in progress with another precision is given up with NV, and one that has LG groups leaves for the byte stream, exponent bytes first and then plane by plane;
while the stream has no room for the rest of the line, what fills whole pushes leaves and the word waits. -/
def Obligations.ControlWords : Prop := ∀ (s : State) (h : Chain) (a d g : BitVec 4) (st : Strip) (k : Nat), k = s.curStrip.k → st = h.strip k →
  (WordRuns s h [] false →
    (∀ n, Ends (.xShp n 1) s (StripStep s h [] { st with shp := n.toNat })) ∧
    (∀ n, Ends (.xShp n 0) s (StripStep s h [] st)) ∧
    (∀ n e, Ends (.xIdle n e) s (StripStep s h [] st)) ∧
    (∀ f : BitVec 1, Ends (.xMode 0 f 1) s (StripStep s h [] { st with ftz := f == 1 })) ∧
    (∀ (f : BitVec 1) (n : BitVec 3), n ≠ 0 → st.packLine = [] → Ends (.xMode n f 1) s (StripStep s h [] { st with ftz := f == 1, lg := 192 * n.toNat })) ∧
    (∀ n f, Ends (.xMode n f 0) s (StripStep s h [] st))) ∧
  (WordRuns s h [] (d == 15 && g != 14) →
    (Ends (.xFlg 0 d g) s (MoveStep s h [] d g (fun _ => st.flags.zeroExtend 32))) ∧
    (st.mask g ≠ 0 → Ends (.xFlg 1 d g) s (fun t => ∃ h', WordStep s h [] (some d) g { st with flags := 0 } (fun _ => st.flags.zeroExtend 32) h' t))) ∧
  (WordRuns s h [a] false →
    Ends (.xPost a 1) s (StripStep s h [a] { st with posts := st.posts ++ [BitVec.ofNat 1024 (leNat ((beatToBytes (h.source k a)).take 128))] }) ∧
    Ends (.xPost a 0) s (StripStep s h [a] st)) ∧
  (WordRuns s h [a] false → k = 4 → ∀ (e q : BitVec 1) (p : BitVec 4) (t : BitVec 3) (pr : Nat) (x : Nat → Lane) (dr : Nat → BitVec 32) (ing : Nat → Ingot × Flg)
      (old full : List (List Byte)) (line : List Byte) (u : Strip), pr = p.toNat + 1 → x = h.lane k a →
    dr = (fun l => if q = 0 ∧ e = 1 then srStep (st.sr.getD l 0) else st.sr.getD l 0) →
    ing = (fun j => packIngot ((List.range 8).map (fun i => tyRead t st.ftz (x (8 * j + i)))) pr (q == 0) (e == 1) ((List.range 8).map (fun i => (dr (8 * j + i)).toNat))) →
    old = (if st.packP = pr then st.packLine else []) →
    full = old ++ (List.range 24).map (fun j => BitVec.ofNat 8 (ing j).1.e :: (List.range pr).map (fun z => (ing j).1.plane (pr - 1 - z))) →
    line = (List.range ((pr + 1) * st.lg)).map (fun n => (full.getD (n % st.lg) []).getD (n / st.lg) 0) →
    (∀ l < 192, u.sr.getD l 0 = dr l) ∧ u.sr.length = 192 →
    (∀ i < 5, (u.flags.getLsbD i = true ↔ st.flags.getLsbD i = true ∨ (∃ j < 24, (ing j).2.getLsbD i = true) ∨ (i = 4 ∧ st.packLine ≠ [] ∧ st.packP ≠ pr))) →
    (full.length < st.lg → Ends (.xPack e q p t a 1) s (StripStep s h [a] { st with sr := u.sr, flags := u.flags, packP := pr, packLine := full })) ∧
    (full.length = st.lg →
      (line.length ≤ h.space + st.sent → Ends (.xPack e q p t a 1) s (fun t => ∃ w : Strip, w = { st with sr := u.sr, flags := u.flags, packP := pr, packLine := [] } ∧
        StripMoves s h [a] { w.next with got := none, sent := 0 } (line.drop st.sent) t)) ∧
      (h.space + st.sent < line.length → ∀ n, n = 768 * (4 - (h.port 10).length) - h.stream.length → Ends (.xPack e q p t a 1) s
        (StripMoves s h [a] { st with got := some (wordBeats h 4), sent := st.sent + n } ((line.drop st.sent).take n))))) ∧
  (WordRuns s h [a] false → ∀ (e q : BitVec 1) (p : BitVec 4) (t : BitVec 3), Ends (.xPack e q p t a 0) s (StripStep s h [a] st))

/-- 10 R206, R208: every word with a source, naming a port without a beat, waits with no effect, and so does every word of a strip that runs no group; a word whose push has no room
has made its pops, and waits with the beats that it popped, once.
It rests in part on the model's choices of log entry 100. -/
def Obligations.WordsWait : Prop := ∀ (s : State) (h : Chain) (b a d g : BitVec 4) (m : BitVec 6) (t r c : BitVec 3) (z z' v : BitVec 1) (k : Nat)
    (two one silent bare : List Instr), k = s.curStrip.k → s.sys.chain? s.curStrip = some h →
  two = [.xAdd m t b a d g, .xSub m t b a d g, .xMul m t b a d g, .xMin t b a d g, .xMax t b a d g, .xAnd m t b a d g, .xOr m t b a d g, .xXor m t b a d g,
    .xShl m t b a d g, .xShr m t b a d g, .xSra m t b a d g, .xFma r t b a d g, .xFms r t b a d g, .xFnma r t b a d g, .xFnms r t b a d g, .xDiv r t b a d g,
    .xBcr b a d g, .xBcc b a d g, .xRotR b a d g, .xRotC b a d g, .xPerm b a d g] ++ (List.range 16).map (fun p => Instr.xSel (BitVec.ofNat 4 p) b a d g) →
  one = [.xAbs m t a d g, .xNeg m t a d g, .xMov a d g, .xCvt c r t a d g, .xCvtn c r t a d g, .xCvtw c r t a d g, .xRcp r t a d g, .xRsq r t a d g, .xSqrt r t a d g,
    .xExp2 r t a d g, .xLog2 r t a d g, .xRsum m t a d g, .xCsum m t a d g, .xRmax t a d g, .xCmax t a d g, .xRmin t a d g, .xCmin t a d g, .xTr a d g] ++
    (List.range 16).map (fun p => Instr.xUnpk z (BitVec.ofNat 4 p) t a d g) →
  silent = [.xPmovToP t a d g, .xPost a z] ++ (List.range 16).map (fun p => Instr.xPack z v (BitVec.ofNat 4 p) t a z') →
  bare = [.xFlg z d g, .xPmovToV t a d g] →
  (h.running = false ∨ (h.strip k).busy = false →
    (∀ i ∈ two ++ one ++ silent ++ bare ++ [Instr.xCeq t b a d g, .xClt t b a d g, .xCle t b a d g, .xCun t b a d g, .xIdle m z, .xMode t z z', .xShp a z], Ends i s (Same s)) ∧
    ∀ o, Ends (.xPand o b a d g) s (Same s)) ∧
  ((h.strip k).got = none →
    ((h.port (inA k) = [] ∧ 14 ∈ [a, b]) ∨ (h.port (inB k) = [] ∧ 15 ∈ [a, b]) →
      ∀ i ∈ two ++ [Instr.xCeq t b a d g, .xClt t b a d g, .xCle t b a d g, .xCun t b a d g], Ends i s (Same s)) ∧
    ((h.port (inA k) = [] ∧ a = 14) ∨ (h.port (inB k) = [] ∧ a = 15) → ∀ i ∈ one ++ silent, Ends i s (Same s))) ∧
  (d = 15 → g ≠ 14 → ¬h.pushes k →
    (WordRuns s h [a, b] false → ∀ i ∈ two, Ends i s (WordHeld s h [a, b])) ∧
    (WordRuns s h [a] false → ∀ i ∈ one, Ends i s (WordHeld s h [a])) ∧
    (WordRuns s h [] false → ∀ i ∈ bare, Ends i s (WordHeld s h [])))

/-! ## Events of sequencers and queues (20 R393 to R396, R404, 03 R74, 04 R98, 03 R66, 09 R201, 10 R216, R237) -/

/-- 20 R393 to R396, R404, 03 R58, R74, 04 R98: the pending cause of lowest rank enters the handler before the next step and is pending no more; a fetch that fails and a word
that is no instruction trap; an uncorrectable error of control state ends the context with SUB 3, and takes a steward's die out of service.
20 R403, R404: an uncorrectable error in a slice, in steward memory or in a memory die marks its bytes, in a unit without a context is pending at the die's steward, and in an instruction cache costs
the line; a corrected one is counted.
It rests in part on the model's choices of log entry 115. -/
def Obligations.TrapEvents : Prop := ∀ (s : State) (r : SeqRef) (q : SeqSt) (vec : Word), q = s.sys.seq r → vec = (s.sys.die r.die).stwVec →
  (seqReady s.sys r = true → q.ae = true →
    (∀ l p, r.idx = some l → minRank PendCause.rank (s.sys.ctx r.die l).pend = some p →
      Ends (.asyncTrapEntry r) s (fun t => p ∉ (t.sys.ctx r.die l).pend ∧ (t.sys.ctx r.die l).st = .trap ∧ CellsKept s t ∧
        (p = .interrupt → TrapSaved q (t.sys.seq r) vec 0x116 q.pc 0) ∧ (p = .watchdog → TrapSaved q (t.sys.seq r) vec 0x117 q.pc 0) ∧
        (∀ u e, p = .machineCheck u e → TrapSaved q (t.sys.seq r) vec (BitVec.ofNat 64 (0x118 + u * 2 ^ 20)) q.pc (BitVec.ofNat 64 (e % 2 ^ 32))))) ∧
    (∀ p, r.idx = none → minRank DieCause.rank (s.sys.die r.die).pend = some p →
      Ends (.asyncTrapEntry r) s (fun t => p ∉ (t.sys.die r.die).pend ∧ CellsKept s t ∧
        (∀ c k, p = .copyFault c k → TrapSaved q (t.sys.seq r) vec (BitVec.ofNat 64 (0x310 + c * 2 ^ 10 + (8 + k) * 2 ^ 20)) q.pc 0) ∧
        (∀ u, p = .leaseSkew u → TrapSaved q (t.sys.seq r) vec (BitVec.ofNat 64 (0x312 + 0xFF * 2 ^ 10)) q.pc (BitVec.ofNat 64 u)) ∧
        (∀ c, p = .watchdog c → TrapSaved q (t.sys.seq r) vec (BitVec.ofNat 64 (0x317 + c * 2 ^ 10)) q.pc 0) ∧
        (∀ u, p = .machineCheck u → TrapSaved q (t.sys.seq r) vec (BitVec.ofNat 64 (0x318 + 0xFF * 2 ^ 10)) q.pc (BitVec.ofNat 64 u))))) ∧
  (seqReady s.sys r = true → takePending s.sys r = none → q.pc.toNat % 2 = 1 → q.steward = false ∨ q.ae = true →
    Ends (.fetchFault r) s (fun t => TrapSaved q (t.sys.seq r) vec 0x06 q.pc q.pc ∧ CellsKept s t)) ∧
  (∀ y x, seqReady s.sys r = true → takePending s.sys r = none → fetchInstr s.sys r q.pc = (y, x) → (y.seq r).steward = false ∨ (y.seq r).ae = true →
    (∀ e, x = .error e →
      Ends (.fetchFault r) s (fun t => TrapSaved (y.seq r) (t.sys.seq r) (y.die r.die).stwVec (BitVec.ofNat 64 e.code) (e.addr0.getD (y.seq r).pc) e.addr1)) ∧
    (∀ w n, x = .ok (w, n) → q.an0 = false → (∃ e, decodeSeq w = .error e ∧ e ≠ .reserved) →
      Ends (.illegalOp r) s (fun t => TrapSaved (y.seq r) (t.sys.seq r) (y.die r.die).stwVec 0x01 (y.seq r).pc 0))) ∧
  (∀ l c, r.idx = some l → c = s.sys.ctx r.die l → c.st ≠ .free → (c.st = .ending → c.endBy = false) →
    Ends (.uncorrectableError (.control r)) s (fun t => (t.sys.ctx r.die l).st = .ending ∧ (t.sys.ctx r.die l).endCause = some 0x18 ∧ (t.sys.ctx r.die l).endSub = 3 ∧
      seqReady t.sys r = false ∧ CellsKept s t)) ∧
  (r.idx = none → seqReady s.sys r = true →
    Ends (.uncorrectableError (.control r)) s (fun t => (t.sys.die r.die).inSvc = false ∧ seqReady t.sys r = false ∧
      (∀ l, (s.sys.ctx r.die l).st ≠ .free → (t.sys.ctx r.die l).st = .ending) ∧ t.sys.hub.fwIrq = s.sys.hub.fwIrq ++ [0] ∧ CellsKept s t)) ∧
  (∀ d k off n, d < 12 →
    (k < 36 → off + n ≤ Config.sliceBytes → Ends (.uncorrectableError (.window d k off n)) s (fun t => (∀ m a, devByte t.sys m a = devByte s.sys m a) ∧
      ∀ x, t.sys.cell x = ((s.sys.cell x).1, (s.sys.cell x).2 || decide (x.die = d ∧ x.slice = some k ∧ off ≤ x.off ∧ x.off < off + n)))) ∧
    (off + n ≤ Config.stewardBytes → Ends (.uncorrectableError (.steward d off n)) s (fun t => (∀ m a, devByte t.sys m a = devByte s.sys m a) ∧
      ∀ x, t.sys.cell x = ((s.sys.cell x).1, (s.sys.cell x).2 || decide (x.die = d ∧ x.slice = none ∧ off ≤ x.off ∧ x.off < off + n)))) ∧
    (off + n ≤ 2 ^ 36 → Ends (.uncorrectableError (.memory d off n)) s (fun t => OnlyMem s d t ∧
      ∀ m a, devByte t.sys m a = ((devByte s.sys m a).1, (devByte s.sys m a).2 || decide (m = d ∧ off ≤ a ∧ a < off + n)))) ∧
    Ends (.uncorrectableError (.unit d k)) s (fun t => DieCause.machineCheck k ∈ (t.sys.die d).pend ∧ OnlyDie s d t ∧ CellsKept s t)) ∧
  (∀ p, p < Config.partitions → Ends (.uncorrectableError (.corrected p)) s (fun t => OnlyPart s p t ∧ t.sys.part p = addCount (s.sys.part p) 8 1)) ∧
  (∀ line, Ends (.uncorrectableError (.cache r line)) s (fun t => mget? (t.sys.seq r).icache line = none ∧ CellsKept s t ∧
    t.sys.seq r = { q with icache := (t.sys.seq r).icache } ∧ ∀ a, a ≠ line → mget? (t.sys.seq r).icache a = mget? q.icache a))

/-- 03 R66, R67, 09 R201, 10 R216, R237, 15 R340, 12 R303: the head entry of a queue starts when its wait is met and its weight fits in ballast; an unmet wait becomes a waiter,
and a weight without ballast a request. A completed head entry retires: its number is the timeline, and its signal is applied once. A strip group starts and retires as one,
and hands on the records it posted; a posted record is taken, refused, or discarded while a reset ends its function's work (17 R366, 21 R433).
It rests in part on the model's choices of log entry 20. -/
def Obligations.EntryEvents : Prop := ∀ (s : State) (d l q : Nat) (c : Ctx) (e : Entry) (rest : List Entry), c = s.sys.ctx d l → (c.queue q).ents = e :: rest →
  (∀ x ∈ rest, x.num ≠ e.num) → c.engines = true → q ∈ c.queueCodes →
  (e.started = false → isStream e.cmd = false → entryHeld s.sys d l q [e] = false → copyStopped c q = false →
    (e.waited = true ∨ e.wait = none ∨ (∃ ps thr, e.wait = some (ps, thr) ∧ ((s.sys.die d).sem ps).met l q e.num thr = true) →
      (e.weight ≤ c.ballast → olderWaits s.sys d l q = false →
        (isProg e.cmd = false → Ends (.entryStart d l q) s (fun t => ((t.sys.ctx d l).queue q).ents = { e with waited := true, started := true } :: rest ∧
          (e.waited = false → ∀ ps thr, e.wait = some (ps, thr) → ((t.sys.die d).sem ps).count = ((s.sys.die d).sem ps).count - thr) ∧
          GReq.entry d l q ∉ t.sys.gov.open_ ∧ CellsKept s t)) ∧
        (isProg e.cmd = true → ∀ ch h, q = 1 + ch → c.chains[ch]? = some h → Ends (.stripGroupStart d l ch) s (fun t =>
          ((t.sys.ctx d l).queue q).ents = { e with waited := true, started := true } :: rest ∧
          (∃ h', (t.sys.ctx d l).chains[ch]? = some h' ∧ h'.running = true ∧ h'.ports = h.ports ∧
            (∀ k, k < 5 → (h'.strip k).prog = e.progs.getD k {} ∧ (h'.strip k).ip = 0 ∧ (h'.strip k).iter = 0 ∧
              ((h'.strip k).busy = true ↔ (e.progs.getD k {}).nr ≠ 0) ∧ (h'.strip k).v = (h.strip k).v ∧ (h'.strip k).p = (h.strip k).p ∧
              (h'.strip k).sr = (h.strip k).sr)) ∧ CellsKept s t))) ∧
      (isProg e.cmd = false → c.ballast < e.weight → Ends (.entryStart d l q) s (fun t =>
        ((t.sys.ctx d l).queue q).ents = { e with waited := true } :: rest ∧ GReq.entry d l q ∈ t.sys.gov.open_ ∧ CellsKept s t))) ∧
    (isProg e.cmd = false → e.waited = false → ∀ ps thr, e.wait = some (ps, thr) → ((s.sys.die d).sem ps).met l q e.num thr = false →
      Ends (.entryStart d l q) s (fun t => t.sys.ctx d l = c ∧ ((t.sys.die d).sem ps).count = ((s.sys.die d).sem ps).count ∧
        (∃ w ∈ ((t.sys.die d).sem ps).waiters, w.ctx = l ∧ w.que = q ∧ w.ent = e.num) ∧ CellsKept s t))) ∧
  (e.started = true → e.done = true → 8 ≤ q → Ends (.entryRetire d l q) s (fun t => Retired s d l q e rest t ∧ CellsKept s t ∧
    (e.bad = true → PendCause.machineCheck q e.num ∈ (t.sys.ctx d l).pend) ∧ (e.bad = false → (t.sys.ctx d l).pend = c.pend))) ∧
  (∀ ch h g p tail, q = 1 + ch → c.chains[ch]? = some h → h.running = true → h.idle = true → e :: rest = g ++ p :: tail → (e :: rest).Pairwise (fun x y => x.num ≠ y.num) →
    (∀ x ∈ g, isStream x.cmd = true ∧ x.reps.length ≤ x.rep) → isProg p.cmd = true →
    Ends (.stripGroupRetire d l ch) s (fun t => ((t.sys.ctx d l).queue q).ents = tail ∧ ((t.sys.ctx d l).queue q).ret = p.num ∧ CellsKept s t ∧
      (((t.sys.ctx d l).chains[ch]?).map (·.running)) = some false ∧
      t.sys.hub.posted.map (·.record) = s.sys.hub.posted.map (·.record) ++ (List.range 5).flatMap (fun k => (h.strip k).posts) ∧
      ((∃ x ∈ g ++ [p], x.bad = true) → PendCause.machineCheck q p.num ∈ (t.sys.ctx d l).pend) ∧
      (∀ ps, (∀ x ∈ g ++ [p], x.signal.map (fun z => z.1) ≠ some ps) → ((t.sys.die d).sem ps).count = ((s.sys.die d).sem ps).count) ∧
      (∀ ps inc sc, g = [] → p.signal = some (ps, inc, sc) → ((t.sys.die d).sem ps).count =
        (if p.done || p.signalled then ((s.sys.die d).sem ps).count else min (((s.sys.die d).sem ps).count + inc) 65535)))) ∧
  (∀ x, s.sys.hub.posted.find? (postedReady s.sys) = some x → Ends .postedRecordTake s (fun t => t.sys.hub.posted = s.sys.hub.posted.erase x ∧
    ((s.sys.fn x.fn).flr = true ∨ (s.sys.part x.part).resetting = true → SettleThen s (fun y => y = s.sys.modHub (fun h => { h with posted := h.posted.erase x })) t) ∧
    ((s.sys.fn x.fn).flr = false → (s.sys.part x.part).resetting = false →
      (recordBad x.record = true ∨ recPreds x.record ≠ 0 ∨ recGng x.record = true → ((t.sys.fn x.oFn).queue x.oQ).qerr.getLsbD 63 = true) ∧
      (recordBad x.record = false → recPreds x.record = 0 → recGng x.record = false → s.sys.hub.nodeNext < t.sys.hub.nodeNext)) ∧ CellsKept s t))

/-- 10 R205, R216, R218: in a turn of a running group the first feed of each port that is not done pushes one beat where the port holds fewer than four: lane c has element c of the
window bytes of its repetition, packed from the least significant bit up, and in an MX format the block's scale byte in bits 15 to 8; the take that is not done consumes the oldest push of
the default routing, and writes its elements and scales, and no other byte. Uncorrectable window bytes are the model's choice of log entry 38. -/
def Obligations.StreamBeats : Prop := ∀ (s : State) (d l ch : Nat) (c : Ctx) (h : Chain) (g : List Entry) (i : Instr), c = s.sys.ctx d l → c.engines = true →
  c.chains[ch]? = some h → h.running = true → g = (c.queue (1 + ch)).unit → ((c.queue (1 + ch)).ents).Pairwise (fun x y => x.num ≠ y.num) →
  (i = .stripGroupRetire d l ch ∨ (i = .entryRetire d l (1 + ch) ∧ ∃ e rest, (c.queue (1 + ch)).ents = e :: rest ∧ e.started = true ∧
    (isStream e.cmd = true ∨ isProg e.cmd = true))) →
  Ends i s (fun t => ∃ h', (t.sys.ctx d l).chains[ch]? = some h' ∧ (h.port 10 = [] ∨ h.outTo.head?.map (·.1) ≠ some .dflt → CellsKept s t) ∧
    (∀ p < 6, (∀ e ∈ g, isFeed e.cmd = true → feedPort e.cmd = p → e.reps.length ≤ e.rep) → h'.port p = h.port p) ∧
    (∀ (e : Entry) (n we ws f tgt : BitVec 3) (m : Common) (els sc : Nat) (w : Ctx) (byte : Nat → Byte), NextStream g e → e.cmd = .xbFeed n we ws f tgt m → tgt.toNat < 6 →
      e.reps[e.rep]? = some (els, sc) → w = s.sys.ctxFor d l e → byte = (fun k => (s.sys.cell (w.cellAt d k)).1) →
      (4 ≤ (h.port tgt.toNat).length → h'.port tgt.toNat = h.port tgt.toNat ∧ ∀ z ∈ ((t.sys.ctx d l).queue (1 + ch)).ents, z.num = e.num → z.rep = e.rep) ∧
      ((h.port tgt.toNat).length < 4 → h.port 10 = [] → (∃ b : Beat, h'.port tgt.toNat = h.port tgt.toNat ++ [b] ∧ b.length = 192 ∧
          ∀ k < 192, ∀ j < 32, (b.getD k 0).getLsbD j = (if j < streamBits f then (byte (els + (streamBits f * k + j) / 8)).getLsbD ((streamBits f * k + j) % 8)
            else if 5 ≤ f.toNat ∧ 8 ≤ j ∧ j < 16 then (byte (sc + k / 32)).getLsbD (j - 8) else false)) ∧
        ∀ z ∈ ((t.sys.ctx d l).queue (1 + ch)).ents, z.num = e.num → z.rep = e.rep + 1)) ∧
    (∀ (e : Entry) (n we ws f : BitVec 3) (m : Common) (els sc : Nat) (w : Ctx) (b : Beat) (rest : List Beat), NextStream g e → e.cmd = .xbTake n we ws f m →
      e.reps[e.rep]? = some (els, sc) → w = s.sys.ctxFor d l e → w.blocks.Nodup → els + 24 * streamBits f ≤ w.wsz → (5 ≤ f.toNat → sc + 6 ≤ w.wsz) →
      h.port 10 = b :: rest → b.length = 192 → h.outTo ≠ [] → (∀ z ∈ h.outTo, z.1 = .dflt) →
      h'.port 10 = rest ∧ (∀ z ∈ ((t.sys.ctx d l).queue (1 + ch)).ents, z.num = e.num → z.rep = e.rep + 1) ∧
      (∀ k < 24 * streamBits f, ¬(5 ≤ f.toNat ∧ sc ≤ els + k ∧ els + k < sc + 6) → ∀ j < 8,
        (t.sys.cell (w.cellAt d (els + k))).1.getLsbD j = (b.getD ((8 * k + j) / streamBits f) 0).getLsbD ((8 * k + j) % streamBits f)) ∧
      (5 ≤ f.toNat → ∀ k < 6, ∀ j < 8, (t.sys.cell (w.cellAt d (sc + k))).1.getLsbD j = (b.getD (32 * k) 0).getLsbD (8 + j)) ∧
      ∀ z, (∀ k < 24 * streamBits f, z ≠ w.cellAt d (els + k)) → (5 ≤ f.toNat → ∀ k < 6, z ≠ w.cellAt d (sc + k)) → t.sys.cell z = s.sys.cell z))

/-! ## Copy engines and requests (12, 18 R373 to R381, 24 R457, R464) -/

/-- 11 R242, R266, 12 R273, R281 to R283, R293, R298, R301, 24 R463: a turn of a byte-moving command writes bytes that it has read, or reads on: at most 4 KiB, between the addresses
of its kind, in the order of its pseudocode, as a copy of one byte at a time would, and in whole units of 8 bytes. A window or the host is written at once, device memory by a request, a
Canopy port by a piece of a row; bytes of device or host memory are asked for, and a failing address stops the copy.
It rests in part on the model's choices of log entries 13 and 105. -/
def Obligations.CopyMoves : Prop := ∀ (s : State) (m : CopyAt), m.Moves s → s.live m.c.part → s.sys.outstanding m.d m.l m.k = false →
  (m.kd = .fill ∨ nearSpace (rSsp m.e.record) = true → Ends (.copyTurn m.d m.l m.k) s (fun t => ∃ new vs w ix kept,
    m.fixes s.sys ix ∧ m.settles s.sys w (m.e.carry ++ new) vs ∧ 0 < new.length + w ∧ w ≤ vs.length ∧ w ≤ 4096 ∧ (w ≠ 0 → m.whole s.sys w) ∧
    (m.kd = .fill → new.length ≤ 4096 ∧ ∀ i < new.length, new[i]? = some (BitVec.ofNat 8 (rVal m.e.record / 2 ^ (8 * ((m.ahead + i) % m.row % 8))), false)) ∧
    (m.kd ≠ .fill → ∃ base n, n ≤ 4096 ∧ (m.kd = .trn → base % 8 = 0 ∧ n = 8) ∧
      m.fetched s.sys base n (fun i => s.sys.cell (m.srcWin.cellAt m.d (base + i))) new) ∧
    MoveWrote s m vs w (m.carrying vs ix kept) t)) ∧
  (m.kd ≠ .fill → rSsp m.e.record = spDev ∨ rSsp m.e.record = spHost → ∀ a, a = m.src s.sys m.ahead → Ends (.copyTurn m.d m.l m.k) s (fun t =>
    (∃ vs w ix kept, m.fixes s.sys ix ∧ m.settles s.sys w m.e.carry vs ∧ 0 < w ∧ w ≤ vs.length ∧ w ≤ 4096 ∧ m.whole s.sys w ∧ MoveWrote s m vs w (m.carrying vs ix kept) t) ∨
    ((∀ w, 0 < w → w ≤ m.e.carry.length → ((m.dst s.sys m.next).toNat + w) % 8 ≠ 0) ∧ ∃ n ix, m.fixes s.sys ix ∧ 0 < n ∧
      (rSsp m.e.record = spHost → n ≤ 4096 ∧ (∀ i < n, m.src s.sys (m.ahead + i) = a + BitVec.ofNat 64 i) ∧ t.sys.copyQueue m.d m.l m.k { m.e with ix := ix } m.rest ∧
        (t.sys.ctx m.d m.l).copies[m.k]? = some { m.p with host := some (a, n), hostNs := 0 } ∧ CellsKept s t) ∧
      (rSsp m.e.record = spDev → ∃ back, (m.kd = .trn → n = 8 ∧ back = a.toNat % 8) ∧
        (m.kd ≠ .trn → back = 0 ∧ a.toNat % 64 + n ≤ 64 ∧ ∀ i < n, m.src s.sys (m.ahead + i) = a + BitVec.ofNat 64 i) ∧
        Requested s m (.read n) a back { m.e with ix := ix } (FailsFirst s m a) t))))

/-- 12 R285 to R292, 18 R377, R379, R380, R382: the turn of an atomic or a reduction sends its next element with the operands of its window slot, and that of a signal command its
operation, to the address of its record; a landing opens with a token of its own, which the window tells, and closes by its token; a request given up and not yet completed holds the turn. -/
def Obligations.CopySends : Prop := ∀ (s : State) (m : CopyAt) (x : BitVec 512), CopyTurns m.c m.k m.p m.e m.rest → m.c = s.sys.ctx m.d m.l → m.f = s.sys.ctxFor m.d m.l m.e →
  cpKind m.e.cmd = some m.kd → x = m.e.record →
  (s.sys.outstanding m.d m.l m.k = true → Ends (.copyTurn m.d m.l m.k) s (Unmoved s)) ∧
  (s.sys.outstanding m.d m.l m.k = false →
  (∀ ix, (m.kd = .red ix ∨ (m.kd = .amo ∧ ix = false) ∨ (m.kd = .amor ∧ ix = true)) → ∀ (w o : Nat) (a : Word), w = unitSize (rAty x) →
    o = (rowAddr (rSaddr x) m.e.pos (rSstr x)).toNat →
    a = rowAddr (rDaddr x) (if ix then s.sys.bytesAt m.d m.f (rAuxv x + 4 * m.e.pos) 4 else m.e.pos) (rDstr x) →
    Ends (.copyTurn m.d m.l m.k) s (Requested s m (.atomic (rAop x) (rAty x) (s.sys.bytesAt m.d m.f o w) (if rAop x = 7 then s.sys.bytesAt m.d m.f (o + w) w else 0)
      (m.kd = .amo ∨ m.kd = .amor)) a 0 m.e (fun r => CopyHalted s m.d m.l m.k r a m.p m.e))) ∧
  (∀ rk a v, a = BitVec.ofNat 64 (rDaddr x) → v = BitVec.ofNat 64 (rVal x) →
    (m.kd = .sig ∧ rk = .sig v) ∨ (m.kd = .sigw ∧ rk = .sigw v) ∨ (m.kd = .sigr ∧ rk = .sigr v) →
    Ends (.copyTurn m.d m.l m.k) s (Requested s m rk a 0 m.e (fun r => CopyHalted s m.d m.l m.k r a m.p m.e))) ∧
  (m.kd = .land → ∀ ps, s.live m.c.part → m.c.semMap[rAuxv x]? = some ps → m.f.holds (rSaddr x) 8 → (s.sys.contexts.flatMap (fun z => z.2.2.landings)).length < 2 ^ 32 - 1 →
    Ends (.copyTurn m.d m.l m.k) s (fun t => ∃ tok, 0 < tok ∧ tok < 2 ^ 32 ∧ (∀ z ∈ s.sys.contexts, ∀ a ∈ z.2.2.landings, a.token ≠ tok) ∧
      t.sys.copyQueue m.d m.l m.k (m.e.forward 1 1) m.rest ∧ WindowGot s.sys m.d m.f (rSaddr x) ((leBytes 8 tok).map (fun b => (b, false))) t.sys ∧
      (t.sys.ctx m.d m.l).landings = m.c.landings ++ [{ token := tok, lo := rDaddr x, len := rLen x, ports := BitVec.ofNat 16 (rVal x), sem := ps, geo := m.e.geo }])) ∧
  (m.kd = .lrev → Ends (.copyTurn m.d m.l m.k) s (fun t => t.sys.copyQueue m.d m.l m.k (m.e.forward 1 1) m.rest ∧
    (t.sys.ctx m.d m.l).landings = m.c.landings.filter (fun a => a.token != rToken x) ∧ CellsKept s t)))

/-- 11 R262, R269, 12 R285, R288, 18 R373, R377, R378, R383: a request that arrives home is translated by the walker and performed at the frame, or refused; a direct one is
performed at the frame it names within 3 µs, unless that is in quarantine; one that has not arrived by then is sent home. The completion ends the turn that awaited it, or
stops the copy context.
It rests in part on the model's choices of log entry 5. -/
def Obligations.RequestEvents : Prop := ∀ (s : State) (id : Nat) (q : Req), s.sys.hub.req? id = some q → s.live q.part →
  (q.st = .sent → q.waiting = false →
    (q.direct = none → ∀ home, (s.sys.part q.part).vdie (q.ia / 2 ^ 44) = some home →
      (walkerXlate s.sys home q.part (q.ia % 2 ^ 44) (kindNeed q.kind) = none →
        Ends (.homeRequestArrival id) s (fun t => (t.sys.hub.req? id).map (·.st) = some (.refused 5) ∧ t.sys.mems = s.sys.mems ∧ t.sys.dies = s.sys.dies)) ∧
      (∀ f, walkerXlate s.sys home q.part (q.ia % 2 ^ 44) (kindNeed q.kind) = some f →
        (∀ n, q.kind = .read n → Ends (.homeRequestArrival id) s (fun t =>
          (t.sys.hub.req? id).map (·.st) = some (.done (devRead s.sys f.fdie f.pa n)) ∧ (∀ m a, devByte t.sys m a = devByte s.sys m a) ∧ CellsKept s t)) ∧
        (∀ v, q.kind = .sig v → (∀ i < 8, (devByte s.sys f.fdie (f.pa + i)).2 = false) → Ends (.homeRequestArrival id) s (fun t =>
          (t.sys.hub.req? id).map (·.st) = some (.done []) ∧
          dev64 (t.sys.memDie f.fdie) f.pa = (dev64 (s.sys.memDie f.fdie) f.pa + 2 ^ 64 - v.toNat) % 2 ^ 64 ∧
          (∀ m a, (m ≠ f.fdie ∨ a < f.pa ∨ f.pa + 8 ≤ a) → devByte t.sys m a = devByte s.sys m a) ∧ CellsKept s t)) ∧
        (∀ bs, q.kind = .write bs → Ends (.homeRequestArrival id) s (fun t => (t.sys.hub.req? id).map (·.st) = some (.done []) ∧
          (∀ i b, bs[i]? = some b → devByte t.sys f.fdie (f.pa + i) = b) ∧
          (∀ m a, (m ≠ f.fdie ∨ a < f.pa ∨ f.pa + bs.length ≤ a) → devByte t.sys m a = devByte s.sys m a) ∧ CellsKept s t)) ∧
        (∀ aop aty v cmp ret w old, q.kind = .atomic aop aty v cmp ret → w = unitSize aty → old = devRead s.sys f.fdie f.pa w →
          ((∀ b ∈ old, b.2 = false) → Ends (.homeRequestArrival id) s (fun t => (t.sys.hub.req? id).map (·.st) = some (.done (if ret then old else [])) ∧
            AtomicDone aop aty (leNat (old.map (·.1))) v cmp (leNat ((devRead t.sys f.fdie f.pa w).map (·.1))) ∧ (∀ b ∈ devRead t.sys f.fdie f.pa w, b.2 = false) ∧
            (∀ m a, (m ≠ f.fdie ∨ a < f.pa ∨ f.pa + w ≤ a) → devByte t.sys m a = devByte s.sys m a) ∧ CellsKept s t)) ∧
          ((∃ b ∈ old, b.2 = true) → Ends (.homeRequestArrival id) s (fun t =>
            (t.sys.hub.req? id).map (·.st) = some (.done (if ret then old.map (fun b => (b.1, true)) else [])) ∧
            (∀ m a, devByte t.sys m a = devByte s.sys m a) ∧ CellsKept s t))) ∧
        (∀ v, q.kind = .sigr v → (∀ i < 8, (devByte s.sys f.fdie (f.pa + i)).2 = false) → Ends (.homeRequestArrival id) s (fun t =>
          (t.sys.hub.req? id).map (·.st) = some (.done (devRead s.sys f.fdie f.pa 8)) ∧ dev64 (t.sys.memDie f.fdie) f.pa = v.toNat ∧
          (∀ m a, (m ≠ f.fdie ∨ a < f.pa ∨ f.pa + 8 ≤ a) → devByte t.sys m a = devByte s.sys m a) ∧ CellsKept s t)) ∧
        (∀ v, q.kind = .sigw v → (∀ i < 8, (devByte s.sys f.fdie (f.pa + i)).2 = false) → Ends (.homeRequestArrival id) s (fun t =>
          ((BitVec.ofNat 64 (dev64 (s.sys.memDie f.fdie) f.pa)).toInt ≤ v.toInt → (t.sys.hub.req? id).map (·.st) = some (.done [])) ∧
          (v.toInt < (BitVec.ofNat 64 (dev64 (s.sys.memDie f.fdie) f.pa)).toInt → (t.sys.hub.req? id).map (fun z => (z.st, z.waiting, z.at_)) =
            some (.sent, true, some (f.fdie, f.pa))) ∧ (∀ m a, devByte t.sys m a = devByte s.sys m a) ∧ CellsKept s t)) ∧
        (∀ g, q.kind = .ask → q.ask = true → grantOf s.sys home q.part (q.ia / 2 ^ 44) f = some g → Ends (.homeRequestArrival id) s (fun t =>
          (t.sys.hub.req? id).map (·.st) = some (.done []) ∧ (t.sys.hub.req? id).bind (·.grant) = some g ∧
          (∃ h ∈ (t.sys.memDie home).holds, h.part = q.part ∧ h.off = g.key.off ∧ leaseNs g.cls * 65 / 64 + 4000 ≤ h.rem) ∧ CellsKept s t)))) ∧
    (∀ fd pa, q.direct = some (fd, pa) →
      (q.age ≤ 3000 → ∀ n, q.kind = .read n → (s.sys.memDie fd).quarOf pa = none → s.sys.ownsChan q.part fd (pa / 2 ^ 31) = true →
        Ends (.directRequestArrival id) s (fun t =>
        (t.sys.hub.req? id).map (·.st) = some (.done (devRead s.sys fd pa n)) ∧ (∀ m a, devByte t.sys m a = devByte s.sys m a) ∧ CellsKept s t)) ∧
      (q.age ≤ 3000 → (s.sys.memDie fd).quarOf pa = none → s.sys.ownsChan q.part fd (pa / 2 ^ 31) = false → Ends (.directRequestArrival id) s (fun t =>
        (t.sys.hub.req? id).map (·.st) = some (.refused 5) ∧ t.sys.mems = s.sys.mems ∧ t.sys.dies = s.sys.dies)) ∧
      (q.age ≤ 3000 → ∀ n home f, q.kind = .read n → ((s.sys.memDie fd).quarOf pa).isSome = true → (s.sys.part q.part).vdie (q.ia / 2 ^ 44) = some home →
        walkerXlate s.sys home q.part (q.ia % 2 ^ 44) .rd = some f → Ends (.directRequestArrival id) s (fun t =>
        (t.sys.hub.req? id).map (·.st) = some (.done (devRead s.sys f.fdie f.pa n)) ∧ (t.sys.hub.req? id).map (·.stale) = some true ∧ CellsKept s t)) ∧
      (3000 < q.age → Ends (.reroute id) s (fun t => t.sys.hub.req? id = some { q with st := .reroute } ∧ OnlyHub s t) ∧ Ends (.directRequestArrival id) s (Unmoved s)) ∧
      (q.age ≤ 3000 → Ends (.reroute id) s (Unmoved s)))) ∧
  (q.st = .sent → Ends (.devCompletion id) s (Unmoved s)) ∧
  (∀ (c : Ctx) (p : CopyCtx) (e : Entry) (rest : List Entry), c = s.sys.ctx q.die q.ctx → CopyHead c q.k p e rest → p.req = some id → q.stale = false → q.ask = false →
    (∀ bs, q.st = .done bs → ∀ (x : BitVec 512) (f : Ctx) (T : State → Prop), x = e.record → f = s.sys.ctxFor q.die q.ctx e →
      T = (fun t => (t.sys.ctx q.die q.ctx).copies[q.k]? = some { p with req := none } ∧ t.sys.hub.reqs = s.sys.hub.reqs.filter (fun z => z.id != id)) →
      (∀ v, q.kind = .sig v ∨ (q.kind = .sigw v ∧ c.stopped = false) → Ends (.devCompletion id) s (fun t => t.sys.copyQueue q.die q.ctx q.k (e.forward 1 1) rest ∧ T t ∧ CellsKept s t)) ∧
      (∀ v, q.kind = .sigr v → f.holds (rSaddr x) bs.length → Ends (.devCompletion id) s (fun t => t.sys.copyQueue q.die q.ctx q.k (e.forward 1 1) rest ∧ T t ∧
        WindowGot s.sys q.die f (rSaddr x) bs t.sys)) ∧
      (∀ aop aty v cmp ret o, q.kind = .atomic aop aty v cmp ret → o = (rowAddr (rSaddr x) e.pos (rSstr x)).toNat → f.holds o bs.length →
        Ends (.devCompletion id) s (fun t => t.sys.copyQueue q.die q.ctx q.k (e.forward 1 (rNrow x)) rest ∧ T t ∧
          WindowGot s.sys q.die f o (if ret then bs else []) t.sys)) ∧
      (∀ w kd, q.kind = .write w → cpKind e.cmd = some kd → kd.isMove = true → Ends (.devCompletion id) s (fun t =>
        t.sys.copyQueue q.die q.ctx q.k (e.forward w.length (moveTotal kd e)) rest ∧ T t ∧ CellsKept s t)) ∧
      (∀ n (m : CopyAt), q.kind = .read n → m.Awaits s q.die q.ctx q.k c p e rest → rSsp x = spDev → (m.kd = .trn → bs.length = 8) →
        Ends (.devCompletion id) s (fun t => MoveGot s m bs t ∧ T t))) ∧
    (∀ r, (∀ n, q.kind ≠ .read n) → (∀ v, q.kind ≠ .sigw v) → q.st = .refused r → Ends (.devCompletion id) s (fun t => CopyHalted s q.die q.ctx q.k r q.va p e t ∧
      t.sys.hub.reqs = s.sys.hub.reqs.filter (fun z => z.id != id))) ∧
    (∀ r n (m : CopyAt), q.kind = .read n → q.st = .refused r → m.Awaits s q.die q.ctx q.k c p e rest → Ends (.devCompletion id) s (fun t =>
      FailsFirst s m q.va r t ∧ t.sys.hub.reqs = s.sys.hub.reqs.filter (fun z => z.id != id))) ∧
    (c.stopped = false → q.st = .reroute → Ends (.devCompletion id) s (fun t =>
      (t.sys.hub.req? id).map (·.st) = some .sent ∧ (t.sys.hub.req? id).bind (·.direct) = none ∧ (t.sys.hub.req? id).map (·.age) = some 0 ∧
      ((t.sys.ctx q.die q.ctx).holder q.k).find q.part (q.ia / 2 ^ 44) (q.ia % 2 ^ 44) = none ∧ t.sys.copyQueue q.die q.ctx q.k e rest ∧ CellsKept s t)))

/-- 18 R376, R378 to R381: a grant that arrives within its lease is cached with what is left of it; an entry whose time is over goes; a skewed holder unit loses its entries and its
steward hears of it; a skewed walker grants nothing and its holds and quarantines last at least 1,044 µs, until tolerance is restored and firmware clears SKEW.
It rests in part on the model's choices of log entries 18 and 19. -/
def Obligations.LeaseEvents : Prop := ∀ (s : State),
  (∀ (id : Nat) (q : Req) (g : Route) (a : Ask) (c : Ctx), s.sys.hub.req? id = some q → q.grant = some g → q.ask = true → c = s.sys.ctx q.die q.ctx →
    q.k = 4 ∨ q.k < c.copies.length → (c.holder q.k).asks.find? (fun z => z.id == id) = some a → a.age < leaseNs g.cls →
    Ends (.leaseGrantArrival id) s (fun t => (∃ r ∈ ((t.sys.ctx q.die q.ctx).holder q.k).routes, r = { g with rem := leaseNs g.cls - a.age }) ∧
      (∀ z ∈ ((t.sys.ctx q.die q.ctx).holder q.k).asks, z.id ≠ id) ∧ (q.kind = .ask → ∀ z ∈ t.sys.hub.reqs, z.id ≠ id) ∧ CellsKept s t)) ∧
  (∀ (d l h page : Nat) (c : Ctx), c = s.sys.ctx d l → h = 4 ∨ h < c.copies.length →
    Ends (.leaseExpire d l h page) s (fun t => ((t.sys.ctx d l).holder h).routes = (c.holder h).routes.filter (fun r => !(r.rem == 0 && r.key.off == page)) ∧
      ((t.sys.ctx d l).holder h).asks = (c.holder h).asks ∧ CellsKept s t)) ∧
  (∀ d u, Ends (.leaseSkewHolder d u) s (fun t => u ∈ (t.sys.die d).skewed ∧ DieCause.leaseSkew u ∈ (t.sys.die d).pend ∧ CellsKept s t ∧
    (∀ l k, (k = 4 ∨ k < (s.sys.ctx d l).copies.length) → (s.sys.ctx d l).holderUnit k = u → ((t.sys.ctx d l).holder k).routes = []) ∧
    (∀ l k, (s.sys.ctx d l).holderUnit k ≠ u → (t.sys.ctx d l).holder k = (s.sys.ctx d l).holder k))) ∧
  (∀ m, Ends (.leaseSkewWalker m) s (fun t => (t.sys.memDie m).skew = true ∧ (t.sys.memDie m).outTol = true ∧
    (∀ h ∈ (t.sys.memDie m).holds, 1044000 ≤ h.rem) ∧ (∀ x ∈ (t.sys.memDie m).quar, 1044000 ≤ x.rem) ∧ t.sys.hub.fwIrq = s.sys.hub.fwIrq ++ [1] ∧
    (∀ home part v f, home = m → grantOf t.sys home part v f = none) ∧ CellsKept s t)) ∧
  (∀ d u, d < 12 → Ends (.skewToleranceRestored d u) s (fun t => OnlyDie s d t ∧ t.sys.die d = { s.sys.die d with skewed := (s.sys.die d).skewed.filter (· != u) })) ∧
  (∀ m u, Ends (.skewToleranceRestored (12 + m) u) s (fun t => OnlyMem s m t ∧ t.sys.memDie m = { s.sys.memDie m with outTol := false })) ∧
  (∀ (m : Nat) (v : Word), v.getLsbD 0 = true → Ends (.lskStatClear m v) s (fun t => OnlyMem s m t ∧ t.sys.memDie m = { s.sys.memDie m with skew := false }))

/-- 02 R40, 11 R243, R266, 12 R293, R300, 14 R318, R331, 24 R457, R463, R464: an acknowledged row lets the next one go, a refusal or a completion that is
missing for 64 ms stops the copy context with its reason, the bytes of a HOST read are written in whole units, at most 4 KiB at a time, and the rest is kept
(log entry 13); a piece of an arriving row is written where its landing accepts it, through a port that carries traffic, and the row's last byte is answered and
signals; the argument block stands at window offset 0 before the first fetch, which an instance of a failed record does not make. It rests in part on the
model's choices of log entries 13, 39, 46 and 88. -/
def Obligations.ArrivalEvents : Prop := ∀ (s : State) (d l k : Nat) (c : Ctx), c = s.sys.ctx d l → s.live c.part →
  (∀ (p : CopyCtx) (e : Entry) (rest : List Entry) (x : BitVec 512), x = e.record → CopyHead c k p e rest →
    (p.ack = true →
      Ends (.rwAck d l k 0) s (fun t => t.sys.copyQueue d l k ({ e with pass := 0 }.forward (rLen x - e.pos % rLen x) (rLen x * rNrow x)) rest ∧
        (t.sys.ctx d l).copies[k]? = some { p with ack := false } ∧ CellsKept s t) ∧
      (∀ r, 0x10 ≤ r → r ≤ 0x13 → Ends (.rwAck d l k r) s (CopyHalted s d l k r (rowAddr (rDaddr x) (e.pos / rLen x) (rDstr x)) p e))) ∧
    (∀ a n, p.host = some (a, n) →
      (∀ m : CopyAt, m.Awaits s d l k c p e rest →
        (∀ r ∈ [8, 9], ∀ bs, Ends (.hostCompletion d l k r bs) s (FailsFirst s m a r)) ∧
        (64000000 ≤ p.hostNs → Ends (.hostCompletionTimeout d l k) s (FailsFirst s m a 0x0A))) ∧
      (p.hostNs < 64000000 → Ends (.hostCompletionTimeout d l k) s (Unmoved s)) ∧
      (∀ bs, bs.length ≠ n → Ends (.hostCompletion d l k 0 bs) s (Unmoved s)) ∧
      (∀ (bs : List Byte) (m : CopyAt), bs.length = n → m.Awaits s d l k c p e rest → rSsp x = spHost → Ends (.hostCompletion d l k 0 bs) s (fun t =>
        MoveGot s m (bs.map (fun b => (b, false))) t ∧ (t.sys.ctx d l).copies[k]? = some { p with host := none })))) ∧
  (∀ x : Arrival,
    (landingOf s.sys x.token = none →
      (s.sys.hub.ports.getLsbD x.port = true → Ends (.landingArrival x) s (fun t => t.sys.hub.xpkAcks = s.sys.hub.xpkAcks ++ [(x.token, 0x10)] ∧ OnlyHub s t)) ∧
      (s.sys.hub.ports.getLsbD x.port = false → Ends (.landingArrival x) s (Unmoved s))) ∧
    (∀ a, landingOf s.sys x.token = some (d, l, c, a) →
      (s.sys.hub.ports.getLsbD x.port = false → Ends (.landingArrival x) s (Unmoved s)) ∧
      (s.sys.hub.ports.getLsbD x.port = true →
        (a.len < x.rowOff + x.rowLen → Ends (.landingArrival x) s (fun t => t.sys.hub.xpkAcks = s.sys.hub.xpkAcks ++ [(x.token, 0x11)] ∧ OnlyHub s t)) ∧
        (x.rowOff + x.rowLen ≤ a.len → a.ports.getLsbD x.port = false →
          Ends (.landingArrival x) s (fun t => t.sys.hub.xpkAcks = s.sys.hub.xpkAcks ++ [(x.token, 0x12)] ∧ OnlyHub s t)) ∧
        (x.rowOff + x.rowLen ≤ a.len → a.ports.getLsbD x.port = true →
          (x.rowOff ≤ x.off → x.off + x.bytes.length ≤ x.rowOff + x.rowLen → x.off = x.rowOff ∨ (a.lo + x.off) % 8 = 0 →
            x.off + x.bytes.length = x.rowOff + x.rowLen ∨ (a.lo + x.off + x.bytes.length) % 8 = 0 → (c.asIssued a.geo).holds (a.lo + x.off) x.bytes.length →
            Ends (.landingArrival x) s (fun t => WindowGot s.sys d (c.asIssued a.geo) (a.lo + x.off) (x.bytes.map (fun b => (b, x.poisoned))) t.sys ∧
              t.sys.hub.xpkAcks = s.sys.hub.xpkAcks ++ (if x.off + x.bytes.length = x.rowOff + x.rowLen then [(x.token, 0)] else []) ∧
              ((t.sys.die d).sem a.sem).count = (if x.signal = true ∧ x.off + x.bytes.length = x.rowOff + x.rowLen
                then min (((s.sys.die d).sem a.sem).count + 1) 65535 else ((s.sys.die d).sem a.sem).count))) ∧
          ((x.off ≠ x.rowOff ∧ (a.lo + x.off) % 8 ≠ 0) ∨ (x.off + x.bytes.length ≠ x.rowOff + x.rowLen ∧ (a.lo + x.off + x.bytes.length) % 8 ≠ 0) →
            Ends (.landingArrival x) s (Unmoved s)))))) ∧
  (c.st = .run → c.fresh = false → c.stopped = false →
    (∀ nd, s.sys.hub.node? c.node = some nd → nd.failed = none ∧ (c.bound = true → instTurn s.sys.hub nd c.inst.toNat = true)) →
    (∀ ls, argLines s.sys c = some ls → c.holds 0 (64 * ls.length) → Ends (.argumentCopyDone d l) s (HubThen s (fun u =>
      (u.ctx d l).fresh = true ∧ WindowGot s.sys d c 0 (ls.flatMap (fun f => devRead s.sys f.fdie f.pa 64)) u))) ∧
    (argLines s.sys c = none → Ends (.argumentCopyDone d l) s (fun t => t.sys.posted d 7 l 1 0 0))) ∧
  (∀ nd, s.sys.hub.node? c.node = some nd → nd.failed ≠ none → Ends (.argumentCopyDone d l) s (Unmoved s))

/-! ## Walker commands (18 R371 to R375, R383 to R385) -/

/-- 18 R374, R375, R383, R385: a command that the firmware issues while the walker is idle: a bad argument changes nothing, MAP writes a leaf to free frames,
UNMAP clears one and quarantines its frames, MOVE opens a migration, SETLC writes the class, ADDT adds table pages; a busy walker ignores the write. A round of
a migration copies its lines and then begins the next round, switches the page or gives it up; once the time of a quarantine has run out its frames are freed
one by one, with a decrement of SIG for each. It rests in part on the model's choices of log entries 15 and 16; that ADDT takes the sixteen tables of a frame in
ascending order, and NOTAB without one, is log entry 17. -/
def Obligations.WalkerEvents : Prop := ∀ (s : State) (md : Nat) (m : MemDie), md < 12 → m = s.sys.memDie md →
  (∀ (v : Word) (y : Sys) (c : WkCmd) (op : Instr), v.getLsbD 63 = true →
    y = s.sys.modMem md (fun m => { m with wkc := m.wkc.setIfInBounds 0 v, busy := true }) → c = wkCmd (y.memDie md) →
    (c.op, op) ∈ [(1, Instr.walkerMap md v), (2, .walkerUnmap md v), (3, .walkerMove md v), (4, .walkerSetlc md v), (5, .walkerAddt md v)] →
    (m.busy = true → Ends op s (Unmoved s)) ∧
    (m.busy = false →
      (badArg y md c = true → Ends op s (fun t => OnlyMem s md t ∧ (t.sys.memDie md).result = 2 ∧ (t.sys.memDie md).busy = false ∧
        (t.sys.memDie md).mem = m.mem ∧ (t.sys.memDie md).frames = m.frames)) ∧
      (badArg y md c = false →
        (c.op = 1 →
          (rangeMapped m c.part c.off c.big = true → Ends op s (fun t => OnlyMem s md t ∧ (t.sys.memDie md).result = 4 ∧ (t.sys.memDie md).mem = m.mem)) ∧
          (rangeMapped m c.part c.off c.big = false → framesBusy (s.sys.memDie c.fdie) c.pa c.big = true →
            Ends op s (fun t => OnlyMem s md t ∧ (t.sys.memDie md).result = 1 ∧ (t.sys.memDie md).mem = m.mem)) ∧
          (rangeMapped m c.part c.off c.big = false → framesBusy (s.sys.memDie c.fdie) c.pa c.big = false →
            (leafPlace (y.memDie md) c.part c.off c.big = none → Ends op s (fun t => OnlyMem s md t ∧ (t.sys.memDie md).result = 5 ∧ (t.sys.memDie md).mem = m.mem)) ∧
            (∀ z a, leafPlace (y.memDie md) c.part c.off c.big = some (z, a) → Ends op s (fun t => (t.sys.memDie md).result = 0 ∧ (t.sys.memDie md).busy = false ∧
              dev64 (t.sys.memDie md) a = 2 ^ 63 + 2 ^ 62 + c.lc * 2 ^ 59 + c.w.toNat * 2 ^ 58 + c.fdie * 2 ^ 36 + c.pa ∧
              (∀ f ∈ framesOf c.pa c.big, frameState (t.sys.memDie c.fdie) f = .mapped) ∧ CellsKept s t)))) ∧
        (c.op ∈ [2, 3, 4] → leafAt m c.part c.off c.big = none → Ends op s (fun t => OnlyMem s md t ∧ (t.sys.memDie md).result = 3 ∧ (t.sys.memDie md).mem = m.mem)) ∧
        (∀ f, leafAt m c.part c.off c.big = some f →
          (c.op = 2 → (s.sys.memDie f.fdie).quar.length < 512 → Ends op s (fun t => (t.sys.memDie md).result = 0 ∧ (t.sys.memDie md).busy = false ∧
            dev64 (t.sys.memDie md) f.slot = 0 ∧ (∀ k ∈ framesOf f.pa c.big, frameState (t.sys.memDie f.fdie) k = .quar) ∧
            (∃ q ∈ (t.sys.memDie f.fdie).quar, q.frame = f.pa ∧ q.big = c.big ∧ q.sig = BitVec.ofNat 64 c.sig ∧
              q.rem = ((m.holds.find? (fun h => h.part == c.part && h.off == c.off)).map (·.rem)).getD 0) ∧ CellsKept s t)) ∧
          (c.op = 2 → 512 ≤ (s.sys.memDie f.fdie).quar.length → Ends op s (fun t => OnlyMem s md t ∧ (t.sys.memDie md).busy = true ∧ (t.sys.memDie md).mem = m.mem)) ∧
          (c.op = 3 → framesBusy (s.sys.memDie c.fdie) c.pa c.big = false → Ends op s (fun t => (t.sys.memDie md).busy = true ∧
            dev64 (t.sys.memDie md) f.slot = leafEntry f.lc f.fdie f.pa f.w true ∧
            ((t.sys.memDie md).move.map (fun v => (v.oldDie, v.oldPa, v.newDie, v.newPa, v.round, v.dirty))) = some (f.fdie, f.pa, c.fdie, c.pa, 0, []) ∧ CellsKept s t)) ∧
          (c.op = 3 → framesBusy (s.sys.memDie c.fdie) c.pa c.big = true →
            Ends op s (fun t => OnlyMem s md t ∧ (t.sys.memDie md).result = 1 ∧ (t.sys.memDie md).mem = m.mem)) ∧
          (c.op = 4 → Ends op s (fun t => OnlyMem s md t ∧ (t.sys.memDie md).result = 0 ∧ (t.sys.memDie md).busy = false ∧
            dev64 (t.sys.memDie md) f.slot = leafEntry c.lc f.fdie f.pa f.w f.mg))) ∧
        (c.op = 5 → framesBusy m c.pa false = true → Ends op s (fun t => OnlyMem s md t ∧ (t.sys.memDie md).result = 1)) ∧
        (c.op = 5 → framesBusy m c.pa false = false → Ends op s (fun t => OnlyMem s md t ∧ (t.sys.memDie md).result = 0 ∧
          frameState (t.sys.memDie md) (c.pa / 2 ^ 16) = .table c.part ∧
          mgetD (t.sys.memDie md).tabFree c.part [] = mgetD m.tabFree c.part [] ++ (List.range 16).map (fun i => c.pa + 4096 * i)))))) ∧
  (∀ v : Word, v.getLsbD 62 = true → Ends (.wksSigerrClear md v) s (fun t => OnlyMem s md t ∧ t.sys.memDie md = { m with sigerr := false })) ∧
  (∀ v : Move, m.move = some v →
    (64 < v.dirty.length → v.round + 1 ≠ 16 → v.oldDie ≠ v.newDie → Memory.wf (s.sys.memDie v.oldDie).mem = true → Ends (.moveRoundComplete md) s (fun t =>
      (t.sys.memDie md).move = some { v with round := v.round + 1, lines := v.dirty, dirty := [] } ∧ (t.sys.memDie md).rounds = v.round + 1 ∧
      (∀ k ∈ v.lines, ∀ o < 256, devByte t.sys v.newDie (v.newPa + 256 * k + o) = devByte s.sys v.oldDie (v.oldPa + 256 * k + o)) ∧ CellsKept s t)) ∧
    (∀ f, v.dirty.length ≤ 64 → (s.sys.memDie v.oldDie).quar.length < 512 → leafAt ((copyLines v v.lines s.sys).memDie md) v.part v.off v.big = some f →
      Ends (.moveRoundComplete md) s (fun t => (t.sys.memDie md).move = none ∧ (t.sys.memDie md).result = 0 ∧ (t.sys.memDie md).busy = false ∧
        dev64 (t.sys.memDie md) f.slot = leafEntry f.lc v.newDie v.newPa f.w false % 2 ^ 64 ∧
        (∀ k ∈ framesOf v.oldPa v.big, frameState (t.sys.memDie v.oldDie) k = .quar) ∧ CellsKept s t)) ∧
    (∀ f, 64 < v.dirty.length → v.round + 1 = 16 → leafAt ((copyLines v v.lines s.sys).memDie md) v.part v.off v.big = some f →
      Ends (.moveRoundComplete md) s (fun t => (t.sys.memDie md).move = none ∧ (t.sys.memDie md).result = 6 ∧ (t.sys.memDie md).busy = false ∧
        dev64 (t.sys.memDie md) f.slot = leafEntry f.lc f.fdie f.pa f.w false ∧
        (v.newDie ≠ md → v.oldDie ≠ v.newDie → Memory.wf (s.sys.memDie v.oldDie).mem = true →
          ∀ k ∈ v.lines, ∀ o < 256, devByte t.sys v.newDie (v.newPa + 256 * k + o) = devByte s.sys v.oldDie (v.oldPa + 256 * k + o)) ∧
        (∀ k ∈ framesOf v.newPa v.big, frameState (t.sys.memDie v.newDie) k = .free) ∧ CellsKept s t))) ∧
  (∀ (frame : Nat) (q q' : Quar), m.quar.find? (fun x => x.left.contains (frame / 2 ^ 16) && x.rem == 0) = some q → q' = { q with left := q.left.erase (frame / 2 ^ 16) } →
    s.live q.part → (∀ n < 12, (s.sys.memDie n).busy = true → (s.sys.memDie n).move ≠ none) →
    Ends (.quarantineRelease md frame) s (fun t => frameState (t.sys.memDie md) (frame / 2 ^ 16) = .free ∧
      (∀ k, k ≠ frame / 2 ^ 16 → frameState (t.sys.memDie md) k = frameState m k) ∧
      (∀ x, x ∈ (t.sys.memDie md).quar ↔ x.left ≠ [] ∧ (x = q' ∨ (x ∈ m.quar ∧ x ≠ q))) ∧ CellsKept s t ∧
      (∀ f, q.sig ≠ 0 → intXlate s.sys q.part q.sig.toNat .rw = .ok f → (∀ i < 8, (devByte s.sys f.fdie (f.pa + i)).2 = false) →
        dev64 (t.sys.memDie f.fdie) f.pa = (dev64 (s.sys.memDie f.fdie) f.pa + 2 ^ 64 - 1) % 2 ^ 64) ∧
      (∀ r, q.sig ≠ 0 → intXlate s.sys q.part q.sig.toNat .rw = .error r →
        (t.sys.memDie q.walker).sigerr = true ∧ t.sys.hub.fwIrq = s.sys.hub.fwIrq ++ [2])))

/-! ## Functions as the host and the firmware see them (14 R310 to R313, 17 R367, 24 R459 to R461) -/

/-- 14 R310 to R313, 17 R359, R367 to R369, 22 R435, 24 R458 to R461: a notify sets the tail of an enabled queue, is dropped and counted at another, and one that is too far ahead is an error; a queue is
enabled with an empty ring, and only while READY; the clears; a watch is armed on a translated object and fires at once at or below its threshold; registers of the function
take whole writes from the layer that may make them, and another layer's write is an access fault, as is a plug-in's read outside its region; the host reads a register without an effect on it.
It rests in part on the model's choices of log entries 58, 73, 85, 109 and 112. -/
def Obligations.FunctionEvents : Prop := ∀ (s : State) (f q : Nat) (v : Word) (g : Fn) (u : HQueue), f < Config.functions → q < Config.queuesPerFn →
  g = s.sys.fn f → u = g.queue q →
  (u.en = false → Ends (.notify f q v) s (fun t => OnlyFn s f t ∧ t.sys.fn f = { g with drop := if g.drop = BitVec.allOnes 48 then g.drop else g.drop + 1 })) ∧
  (u.en = true → (g.map = true → s.live g.part) →
    ((v.truncate 32 - u.head).toNat ≤ 2 ^ u.log2n → Ends (.notify f q v) s (fun t => (t.sys.fn f).queue q = { u with tail := v.truncate 32 } ∧
      (∀ j, j ≠ q → (t.sys.fn f).queue j = g.queue j) ∧ t.sys.dies = s.sys.dies ∧ t.sys.mems = s.sys.mems)) ∧
    (2 ^ u.log2n < (v.truncate 32 - u.head).toNat → Ends (.notify f q v) s (fun t => ((t.sys.fn f).queue q).en = false ∧
      ((t.sys.fn f).queue q).qerr.getLsbD 63 = true ∧ (u.qerr.getLsbD 63 = false → bitsOf ((t.sys.fn f).queue q).qerr.toNat 58 4 = 7) ∧
      (t.sys.fn f).istat.getLsbD 0 = true ∧ t.sys.dies = s.sys.dies ∧ t.sys.mems = s.sys.mems ∧
      (g.istat.getLsbD 0 = true → (t.sys.fn f).msgs = g.msgs) ∧
      (g.istat.getLsbD 0 = false → g.msix.blocks 0 = false → (t.sys.fn f).msgs = g.msgs ++ [0]) ∧
      (g.istat.getLsbD 0 = false → g.msix.blocks 0 = true → (t.sys.fn f).msgs = g.msgs ∧ (t.sys.fn f).msix.pend.getLsbD 0 = true)))) ∧
  (g.flr = false → ∀ n, n = bitsOf v.toNat 52 5 → 1 ≤ n → n ≤ 16 →
    (u.en = false → v.getLsbD 63 = true →
      (s.plat.ready = true → s.plat.safe = false → Ends (.queueEnable f q v) s (fun t => OnlyFn s f t ∧
        (t.sys.fn f).queue q = { u with host := v.getLsbD 57, log2n := n, en := true, head := u.tail } ∧ ∀ j, j ≠ q → (t.sys.fn f).queue j = g.queue j)) ∧
      (s.plat.ready = false ∨ s.plat.safe = true → Ends (.queueEnable f q v) s (fun t => OnlyFn s f t ∧ ((t.sys.fn f).queue q).en = false ∧
        ((t.sys.fn f).queue q).qerr.getLsbD 63 = true ∧ (u.qerr.getLsbD 63 = false → bitsOf ((t.sys.fn f).queue q).qerr.toNat 58 4 = 8)))) ∧
    (u.en = true → v.getLsbD 63 = false →
      (v.getLsbD 57 = u.host → n = u.log2n → Ends (.queueDisable f q v) s (fun t => OnlyFn s f t ∧ (t.sys.fn f).queue q = { u with en := false })) ∧
      (n ≠ u.log2n → Ends (.queueDisable f q v) s (fun t => OnlyFn s f t ∧ ((t.sys.fn f).queue q).en = true ∧ ((t.sys.fn f).queue q).qerr.getLsbD 63 = true))) ∧
    (u.en = false → v.getLsbD 63 = false → Ends (.qcfgWrite f q v) s (fun t => OnlyFn s f t ∧
      (t.sys.fn f).queue q = { u with host := v.getLsbD 57, log2n := n }))) ∧
  (g.flr = false → Ends (.qerrClear f q v) s (fun t => OnlyFn s f t ∧ (t.sys.fn f).queue q = { u with qerr := u.qerr &&& ~~~(v &&& 0xC000_0000_0000_0000) }) ∧
    Ends (.qerrnClear f q v) s (fun t => OnlyFn s f t ∧ (t.sys.fn f).queue q = { u with qerrn := 0 })) ∧
  Ends (.vfDropClear f v) s (fun t => OnlyFn s f t ∧ t.sys.fn f = { g with drop := 0 }) ∧
  Ends (.istatClear f v) s (fun t => OnlyFn s f t ∧ t.sys.fn f = { g with
    istat := g.istat &&& ~~~(v.truncate 5), msix := { g.msix with pend := g.msix.pend &&& ~~~(v.truncate 5) } }) ∧
  (∀ k, k < 4 →
    (v.getLsbD 0 = true → (g.watch k).en = false → g.map = true →
      (∀ x, hubXlate s.sys f g.part (g.watch k).a .rd = .ok x →
        ((g.watch k).t.slt (BitVec.ofNat 64 (dev64 (s.sys.memDie x.fdie) x.pa)) = true → Ends (.watchArm f k v) s (fun t => OnlyFn s f t ∧
          (t.sys.fn f).watch k = { g.watch k with fired := false, xerr := false, en := true, at_ := some (x.fdie, x.pa) } ∧ (t.sys.fn f).istat = g.istat)) ∧
        ((∀ i < 8, (devByte s.sys x.fdie (x.pa + i)).2 = false) → (BitVec.ofNat 64 (dev64 (s.sys.memDie x.fdie) x.pa)).sle (g.watch k).t = true → Ends (.watchArm f k v) s (fun t => OnlyFn s f t ∧
          ((t.sys.fn f).watch k).fired = true ∧ ((t.sys.fn f).watch k).en = false ∧ (t.sys.fn f).istat.getLsbD (k + 1) = true))) ∧
      (∀ r, hubXlate s.sys f g.part (g.watch k).a .rd = .error r → Ends (.watchArm f k v) s (fun t => OnlyFn s f t ∧
        (t.sys.fn f).watch k = { g.watch k with fired := false, xerr := true, en := false } ∧ (t.sys.fn f).istat = g.istat))) ∧
    (v.getLsbD 0 = false → Ends (.watchDisarm f k v) s (fun t => OnlyFn s f t ∧ (t.sys.fn f).watch k = { g.watch k with en := false }))) ∧
  (∀ w : Nat, w = v.toNat →
    (g.flr = false → u.en = false → v.toNat % 4096 = 0 →
      Ends (.registerWrite .host (.vfBar2 f) (4096 * q + 0x18) 8 w) s (fun t => OnlyFn s f t ∧ (t.sys.fn f).queue q = { u with qbase := v })) ∧
    (g.flr = false → ∀ part : Nat, Ends (.registerWrite .host (.vfBar2 f) (4096 * q + 0x18) 4 part) s (fun t => OnlyFn s f t ∧
      ((t.sys.fn f).queue q).qbase = u.qbase ∧ ((t.sys.fn f).queue q).qerr.getLsbD 63 = true)) ∧
    (∀ n, n < 8 → Ends (.registerWrite .scheduler (.rangeSet f) (8 * n) 8 w) s (fun t => OnlyFn s f t ∧
      t.sys.fn f = { g with ranges := { g.ranges with vmb := g.ranges.vmb.setIfInBounds n (v &&& 0x01FF_FFFF_FFE0_000F) } })) ∧
    Ends (.registerWrite .host (.rangeSet f) 0 8 w) s (Unmoved s) ∧ Ends (.registerWrite .scheduler (.rangeSet f) 4 8 w) s (Unmoved s) ∧
    (∀ part : Nat, Ends (.registerWrite .scheduler (.rangeSet f) 0 4 part) s (Unmoved s)) ∧
    (∀ p n, p < Config.partitions → 2 ≤ n → n < 27 → Ends (.registerWrite .monitor (.ptab p) (8 * n) 8 w) s (fun t => OnlyPart s p t ∧
      mgetD (t.sys.part p).staged n 0 = v ∧ (t.sys.part p).words = (s.sys.part p).words ∧ (t.sys.part p).en = (s.sys.part p).en)) ∧
    (∀ p n, 2 ≤ n → Ends (.registerWrite .scheduler (.ptab p) (8 * n) 8 w) s (fun t =>
      t = { s with sys := s.sys.modHub (fun h => { h with accessFaults := h.accessFaults ++ [(.scheduler, .ptab p, 8 * n)] }) })) ∧
    (∀ r, (∀ x, r ≠ .plugRegion x) → (∀ x, r ≠ .plugCall x) →
      (g.plug.left = none → Ends (.registerWrite (.plugin f) r 0 8 w) s (Unmoved s)) ∧
      (g.plug.left.isSome = true → ∀ size ∈ [0, 8], Ends (.registerWrite (.plugin f) r 0 size w) s (fun t => (t.sys.fn f).plug.left = none ∧
        t.sys.hub.accessFaults = s.sys.hub.accessFaults ++ [(.plugin f, r, 0)] ∧ OnlyHub s t ∧ t.sys.hub.parts = s.sys.hub.parts ∧
        (∀ k, (t.sys.fn f).queue k = g.queue k) ∧ ∀ k, k ≠ f → t.sys.fn k = s.sys.fn k)))) ∧
  (∀ d off n x : Nat, d < 12 → 0 < n → off + n ≤ Config.stewardBytes → Ends (.registerWrite .scheduler (.stewardMem d) off n x) s (fun t => OnlyDie s d t ∧
    (∀ i < n, t.sys.cell ⟨d, none, off + i⟩ = (BitVec.ofNat 8 (x / 256 ^ i), false)) ∧
    ∀ x, (∀ i < n, x ≠ ⟨d, none, off + i⟩) → t.sys.cell x = s.sys.cell x)) ∧
  (hostRead s.plat s.sys (.vfBar2 f) (4096 * q) 8 = List.replicate 8 0 ∧ hostRead s.plat s.sys (.vfBar2 f) (4096 * q + 8) 4 = leSplit 4 u.head.toNat ∧
    hostRead s.plat s.sys (.vfBar2 f) (4096 * q + 0x18) 8 = leSplit 8 u.qbase.toNat ∧ hostRead s.plat s.sys (.vfBar2 f) (4096 * q + 0x20) 8 = leSplit 8 u.qerr.toNat ∧
    hostRead s.plat s.sys (.vfBar2 f) (4096 * q + 0x30) 8 = List.replicate 8 0)

/-! ## The platform: mailbox, power, boot, links (24 R457 to R474) -/

/-- 24 R462, R473, R474: a command is passed on while the mailbox is not busy and ignored while it is; the answer to DIES is the device status and the service
bits, to WEAR the counters, to ATTEST a report with both signatures, while the key has an index left; an unknown command has RESULT 1; LOADIMG enters a range
for each segment of the image and counts them, refuses a bad image or an unmapped function with 2, and places nothing with 4 where something lacks; BUSY falls
and the message is sent, or pending where masked. 24 R460, R463, R465: a port that goes down stops every copy context with rows on it, and carries traffic again
once trained; a link that fails is used no more, and dies go out of service until any two in service reach each other, none of them with all its links; one that
loses lanes goes on. It rests in part on the model's choices of log entries 54 (the layouts of the answers), 55 (what is served in the safe state and from which
phase), 74 and 113 (the detour and which die is lost), 75 (lane loss), 109 (pending messages), 110 (the length of a report). -/
def Obligations.MailboxAndPorts : Prop :=
  (∀ (s : State),
  (s.sys.hub.mbBusy = true → ∀ i ∈ [Instr.dies, .selftest, .wear, .attest [], .loadimg 0 0 0], Ends i s (Unmoved s)) ∧
  (s.sys.hub.mbBusy = false →
    (∀ p ∈ [(Instr.dies, 1), (.selftest, 2), (.wear, 4)], Ends p.1 s (fun t =>
      t = { s with sys := { s.sys with hub := { s.sys.hub with mbBusy := true, mbCmd := BitVec.ofNat 64 (2 ^ 63 + p.2) } } })) ∧
    (∀ nonce : List Byte, nonce.length = 48 → Ends (.attest nonce) s (fun t => OnlyHub s t ∧ t.sys.hub.mbBusy = true ∧
      t.sys.hub.mbCmd = BitVec.ofNat 64 (2 ^ 63 + 3) ∧ rdBytes t.sys.hub.mbData 0 48 = nonce)) ∧
    (∀ f a n : Word, Ends (.loadimg f a n) s (fun t => OnlyHub s t ∧ t.sys.hub.mbBusy = true ∧ t.sys.hub.mbCmd = BitVec.ofNat 64 (2 ^ 63 + 5) ∧
      leNat (rdBytes t.sys.hub.mbData 0 8) = f.toNat ∧ leNat (rdBytes t.sys.hub.mbData 8 8) = a.toNat ∧ leNat (rdBytes t.sys.hub.mbData 16 8) = n.toNat)) ∧
    (∀ bs, Ends (.mailboxAnswer bs) s (Unmoved s))) ∧
  (s.sys.hub.mbBusy = true → (s.plat.safe = true ∨ 5 ≤ s.plat.phase) → ∀ code bs, code = bitsOf s.sys.hub.mbCmd.toNat 0 16 →
    (code = 1 → Ends (.mailboxAnswer bs) s (fun t => OnlyHub s t ∧ t.sys.hub.mbBusy = false ∧ t.sys.hub.mbResult = 0 ∧ t.sys.hub.mbLen = 16 ∧
      leNat (rdBytes t.sys.hub.mbData 0 8) = (devstat s.plat s.sys).toNat ∧ leNat (rdBytes t.sys.hub.mbData 8 8) = serviceBits s.sys ∧ PfSent s t 0)) ∧
    (code = 2 → Ends (.mailboxAnswer bs) s (fun t => OnlyHub s t ∧ t.sys.hub.mbBusy = false ∧ t.sys.hub.mbResult = 0 ∧
      t.sys.hub.mbLen = 16 * min s.plat.failedTests.length 240 ∧ PfSent s t 0)) ∧
    (code = 3 → 2 ^ 20 ≤ s.plat.lmsUsed → Ends (.mailboxAnswer bs) s (fun t => OnlyHub s t ∧ t.sys.hub.mbBusy = false ∧ t.sys.hub.mbResult = 3 ∧
      t.sys.hub.mbLen = 0 ∧ PfSent s t 0)) ∧
    (∀ b, code = 3 → s.plat.lmsUsed < 2 ^ 20 → s.plat.bundle = some b →
      (bs.length ≤ 96 → Ends (.mailboxAnswer bs) s (Unmoved s)) ∧
      (96 < bs.length → 392 + bs.length ≤ 3840 → Ends (.mailboxAnswer bs) s (fun t => t.plat = { s.plat with lmsUsed := s.plat.lmsUsed + 1 } ∧
        OnlyHub { s with plat := t.plat } t ∧ t.sys.hub.mbBusy = false ∧ t.sys.hub.mbResult = 0 ∧ t.sys.hub.mbLen = 392 + bs.length ∧ PfSent s t 0))) ∧
    (code = 4 → s.plat.safe = false → Ends (.mailboxAnswer bs) s (fun t => OnlyHub s t ∧ t.sys.hub.mbBusy = false ∧ t.sys.hub.mbResult = 0 ∧
      t.sys.hub.mbLen = 176 ∧ leNat (rdBytes t.sys.hub.mbData 160 8) = s.plat.powerUps.toNat ∧ leNat (rdBytes t.sys.hub.mbData 168 8) = s.plat.ramps.toNat ∧
      (∀ k < 20, leNat (rdBytes t.sys.hub.mbData (8 * k) 8) = (mgetD s.plat.thermal k 0).toNat))) ∧
    (code = 0 ∨ 5 < code ∨ (s.plat.safe = true ∧ 4 ≤ code) → Ends (.mailboxAnswer bs) s (fun t => OnlyHub s t ∧ t.sys.hub.mbBusy = false ∧ t.sys.hub.mbResult = 1 ∧
      t.sys.hub.mbLen = 0 ∧ PfSent s t 0)) ∧
    (∀ f n g loads, code = 5 → s.plat.safe = false → f = leNat (rdBytes s.sys.hub.mbData 0 2) % 512 → n = leNat (rdBytes s.sys.hub.mbData 16 8) → g = s.sys.fn f →
      loads = elfLoads bs →
      (Config.functions ≤ f ∨ g.map = false ∨ (bs.length = n ∧ (elfGood bs = false ∨ loadsGood bs = false ∨ 8 < loads.length)) →
        Ends (.mailboxAnswer bs) s (fun t => OnlyHub s t ∧ t.sys.hub.fns = s.sys.hub.fns ∧ t.sys.hub.mbBusy = false ∧ t.sys.hub.mbResult = 2 ∧ t.sys.hub.mbLen = 0 ∧ PfSent s t 0)) ∧
      (f < Config.functions → g.map = true → bs.length ≠ n → Ends (.mailboxAnswer bs) s (Unmoved s)) ∧
      (f < Config.functions → g.map = true → bs.length = n → elfGood bs = true → loadsGood bs = true → loads.length ≤ 8 → Ends (.mailboxAnswer bs) s (fun t =>
        t.sys.hub.mbBusy = false ∧ t.sys.dies = s.sys.dies ∧ PfSent s t 0 ∧
        ((freeRanges g).length < loads.length → t.sys.hub.mbResult = 4) ∧ (loads = [] → t.sys.hub.mbResult = 0) ∧
        (t.sys.hub.mbResult = 4 ∧ t.sys.hub.mbLen = 0 ∧ t.sys.mems = s.sys.mems ∧ t.sys.fn f = g ∨
          t.sys.hub.mbResult = 0 ∧ t.sys.hub.mbLen = 8 ∧ leNat (rdBytes t.sys.hub.mbData 0 8) = loads.length ∧
          (∃ rs : List Nat, rs.length = loads.length ∧ rs.Nodup ∧ (∀ k, k ∉ rs → vgetD (t.sys.fn f).ranges.vmb k 0 = vgetD g.ranges.vmb k 0) ∧
            ∀ (k r : Nat) (ld : Load), rs[k]? = some r → loads[k]? = some ld → r < 8 ∧ (vgetD g.ranges.vmb r 0).getLsbD 3 = false ∧
              vgetD (t.sys.fn f).ranges.vmb r 0 = BitVec.ofNat 64 (ld.addr / 2 ^ 21 * 2 ^ 21 + 8 + 4 * ld.x.toNat + 2 * ld.w.toNat + 1)) ∧
          (∀ ld : Load, loads = [ld] → 0 < ld.size → ld.addr / 2 ^ 16 = (ld.addr + ld.size - 1) / 2 ^ 16 → ∃ md pa, pa % 2 ^ 16 = 0 ∧ s.sys.ownsChan g.part md (pa / 2 ^ 31) = true ∧
            frameState (s.sys.memDie md) (pa / 2 ^ 16) = .free ∧ frameState (t.sys.memDie md) (pa / 2 ^ 16) = .mapped ∧
            ∀ i < ld.size, devByte t.sys md (pa + (ld.addr + i) % 2 ^ 16) = (ld.bytes.getD i 0, false)))))))) ∧
  (∀ (s : State),
  (∀ port, port < 16 →
    Ends (.canopyPortDown port) s (fun t => t.sys.hub.ports = s.sys.hub.ports &&& ~~~(BitVec.ofNat 16 (2 ^ port)) ∧ CellsKept s t ∧
      ∀ d l k c p e rest, c = s.sys.ctx d l → c.st ≠ .free → CopyHead c k p e rest → rwPending c k port = true →
        CopyHalted s d l k 0x13 (rowAddr (rDaddr e.record) (e.pos / rLen e.record) (rDstr e.record)) p e t) ∧
    Ends (.canopyPortTrained port) s (fun t => OnlyHub s t ∧ t.sys.hub.ports = s.sys.hub.ports ||| BitVec.ofNat 16 (2 ^ port))) ∧
  (∀ a b, a < b → b ≤ 24 → linkUp s.sys a b = true →
    (∀ y, y = s.sys.modHub (fun h => { h with failedLinks := h.failedLinks ++ [(a, b)] }) →
      (∀ x ∈ y.hub.failedLinks, carries y x.1 = true → carries y x.2 = true → reaches y x.1 x.2 = true) → Ends (.linkFail a b) s (fun t => t = { s with sys := y })) ∧
    Ends (.linkFail a b) s (fun t => t.sys.hub.failedLinks = s.sys.hub.failedLinks ++ [(a, b)] ∧ linkUp t.sys a b = false ∧
      (∀ x ∈ t.sys.hub.failedLinks, carries t.sys x.1 = true → carries t.sys x.2 = true → reaches t.sys x.1 x.2 = true) ∧
      (∀ d, d < 24 → carries t.sys d = true → carries s.sys d = true) ∧
      (∀ d, d < 24 → (∀ x ∈ t.sys.hub.failedLinks, x.1 ≠ d ∧ x.2 ≠ d) → carries t.sys d = carries s.sys d)) ∧
    Ends (.linkLaneLoss a b) s (fun t => t.sys.hub.failedLinks = s.sys.hub.failedLinks ∧ t.sys.dies = s.sys.dies ∧ t.sys.mems = s.sys.mems ∧
      (t.sys.hub.halfLinks = s.sys.hub.halfLinks ∨ t.sys.hub.halfLinks = s.sys.hub.halfLinks ++ [(a, b)]))))

/-- 01 R22, 24 R467 to R472, R474: power-good starts phase 0 with the counters that flash holds; each phase ends as its rule says, or in the safe state; in the
training phase a unit takes the settings of its record, or is trained in full and has a new record in flash; a unit that fails its self-test goes out of
service; the dies come into service in their order; a loss of power keeps the flash; the wear counters count and are written to flash. It rests in part on the
model's choices of log entries 6 and 114; that four classes of die have the counters 5 times class plus bin is log entry 78. -/
def Obligations.PowerAndBoot : Prop := ∀ (s : State) (pl : Platform), pl = s.plat →
  (pl.power = false → Ends .powerGood s (fun t => t.plat.power = true ∧ t.plat.phase = 0 ∧ t.plat.safe = false ∧ t.plat.ready = false ∧
    t.plat.powerUps = mgetD pl.flash 20 0 ∧ t.plat.ramps = mgetD pl.flash 21 0 ∧ t.plat.minSec = pl.minSec ∧ t.sys = { used := s.sys.used })) ∧
  (pl.power = true →
    Ends .powerLoss s (fun t => t.plat = { flash := pl.flash, minSec := pl.minSec, lmsUsed := pl.lmsUsed, records := pl.records } ∧ t.sys = { used := s.sys.used }) ∧
    Ends .powerDown s (fun t => t.plat.power = false ∧ t.plat.records = pl.records ∧ mgetD t.plat.flash 20 0 = pl.powerUps ∧ mgetD t.plat.flash 21 0 = pl.ramps ∧
      (∀ k < 20, mgetD t.plat.flash k 0 = mgetD pl.thermal k 0) ∧ t.sys = { used := s.sys.used }) ∧
    Ends .wearFlush s (fun t => OnlyPlat s t ∧ t.plat.sinceFlush = 0 ∧ mgetD t.plat.flash 20 0 = pl.powerUps ∧ mgetD t.plat.flash 21 0 = pl.ramps ∧
      (∀ k < 20, mgetD t.plat.flash k 0 = mgetD pl.thermal k 0) ∧ t.plat.thermal = pl.thermal ∧ t.plat.powerUps = pl.powerUps ∧ t.plat.ramps = pl.ramps) ∧
    (∀ cls < 4, ∀ dt, ∀ p ∈ [(5, 10, 0), (10, 20, 1), (20, 40, 2), (40, 60, 3), (60, dt + 1, 4)], p.1 ≤ dt → dt < p.2.1 →
      Ends (.junctionTemperatureFall cls dt) s (fun t => OnlyPlat s t ∧ mgetD t.plat.thermal (5 * cls + p.2.2) 0 = satInc (mgetD pl.thermal (5 * cls + p.2.2) 0) ∧
        (∀ k, k ≠ 5 * cls + p.2.2 → mgetD t.plat.thermal k 0 = mgetD pl.thermal k 0) ∧ t.plat.phase = pl.phase)) ∧
    (∀ cls dt, dt < 5 → Ends (.junctionTemperatureFall cls dt) s (Unmoved s)) ∧
    (pl.safe = false → ∀ x : BootInput,
      (pl.phase = 0 → Ends (.bootPhaseComplete x) s (fun t => t.plat = { pl with phase := 1 } ∧ PfSent s t 1 ∧ OnlyHub { s with plat := t.plat } t)) ∧
      (pl.phase = 1 →
        (verified pl.minSec x = none → Ends (.bootPhaseComplete x) s (fun t => t.plat = { pl with safe := true } ∧ OnlyHub { s with plat := t.plat } t)) ∧
        (∀ b, verified pl.minSec x = some b → Ends (.bootPhaseComplete x) s (fun t =>
          t.plat = { pl with phase := 2, bundle := some b, powerUps := satInc pl.powerUps } ∧ OnlyHub { s with plat := t.plat } t))) ∧
      (pl.phase = 2 → (nextDie s.sys = none → Ends (.bootPhaseComplete x) s (fun t => t.plat = { pl with phase := 3 })) ∧
        (nextDie s.sys ≠ none → Ends (.bootPhaseComplete x) s (Unmoved s))) ∧
      (pl.phase = 3 → Ends (.bootPhaseComplete x) s (fun t => t.plat.phase = 4 ∧ t.plat.safe = false ∧ t.sys.dies = s.sys.dies ∧ t.sys.mems = s.sys.mems ∧
        (∀ u ∈ trainUnits s.sys,
          (recordUsed x pl u = true → mget? t.plat.records u = mget? pl.records u ∧ mget? t.plat.settings u = (mget? pl.records u).map (fun r => r.1)) ∧
          (recordUsed x pl u = false → ∃ w, mget? t.plat.records u = some (w, Config.recordTag u w) ∧ mget? t.plat.settings u = some w ∧ u ∈ t.plat.trained)) ∧
        (∀ u, u ∉ trainUnits s.sys → mget? t.plat.records u = mget? pl.records u))) ∧
      (pl.phase = 4 → Ends (.bootPhaseComplete x) s (fun t => t.plat.failedTests = x.failed ∧
        ((∃ u ∈ x.failed, u.1 = 3) → t.plat.safe = true ∧ t.plat.phase = 4) ∧
        ∀ u ∈ x.failed, (u.1 = 0 → u.2.1 < 8 → (t.sys.die u.2.1).inSvc = false) ∧ (u.1 = 1 → u.2.1 < 4 → (t.sys.die (8 + u.2.1)).inSvc = false) ∧
          (u.1 = 2 → u.2.1 < 12 → (t.sys.memDie u.2.1).inSvc = false))) ∧
      (pl.phase = 4 → x.failed = [] →
        (x.hubOk = false ∨ servingMems s.sys = 0 → Ends (.bootPhaseComplete x) s (fun t => t.plat.safe = true ∧ t.plat.phase = 4)) ∧
        (∀ b pc, x.hubOk = true → servingMems s.sys ≠ 0 → pl.bundle = some b → b.stwMain = some pc → Ends (.bootPhaseComplete x) s (fun t =>
          t.plat.phase = 5 ∧ t.plat.safe = false ∧ ∀ d, (s.sys.die d).inSvc = true → (t.sys.die d).stwVec = 0 ∧ (t.sys.die d).stw.pc = pc ∧
            (t.sys.die d).stw.steward = true ∧ (t.sys.die d).stw.ae = true ∧ seqReady t.sys ⟨d, none⟩ = true))) ∧
      (pl.phase = 5 → Ends (.bootPhaseComplete x) s (fun t => t.plat = { pl with phase := 6, ready := true })) ∧
      (6 ≤ pl.phase → Ends (.bootPhaseComplete x) s (Unmoved s))) ∧
    (pl.safe = false → pl.phase = 2 → ∀ d, nextDie s.sys = some d →
      (d < 12 → Ends (.diePowerStable d) s (fun t => t.sys.die d = { s.sys.die d with powered := true, inSvc := true } ∧ PfSent s t 1) ∧
        Ends (.diePowerUpFailure d) s (fun t => t.sys.die d = { s.sys.die d with powered := true, inSvc := false } ∧ OnlyDie s d t)) ∧
      (12 ≤ d → Ends (.diePowerStable d) s (fun t => t.sys.memDie (d - 12) = { s.sys.memDie (d - 12) with powered := true, inSvc := true } ∧
          PfSent s t 1) ∧
        Ends (.diePowerUpFailure d) s (fun t => t.sys.memDie (d - 12) = { s.sys.memDie (d - 12) with powered := true, inSvc := false } ∧ OnlyMem s (d - 12) t)))) ∧
  (∀ d, d < 12 → (s.sys.die d).inSvc = true → Ends (.dieRetiredByFirmware d) s (fun t => (t.sys.die d).inSvc = false ∧ seqReady t.sys ⟨d, none⟩ = false ∧
    PfSent s t 1 ∧ CellsKept s t))

/-! ## Partitions and functions in the hub (17 R359 to R366, 21 R433) -/

/-- 17 R359, R360, R362 to R364, R366, 21 R433: a commit that fails a check leaves its code and changes nothing else; one that passes puts the staged words in force, and with EN 0 on an
enabled partition begins its reset, which ends every context and leaves the partition's resources zeroed; PC1 and VF_CFG take the values they may take; a world switch moves the
residency once nothing of the outgoing function runs; a function-level reset empties the function's queues.
It rests in part on the model's choices of log entries 56, 57 and 71. -/
def Obligations.PartitionEvents : Prop := ∀ (s : State) (p : Nat) (v : Word) (o : Part), p < Config.partitions → o = s.sys.part p →
  (s.plat.safe = true → v.getLsbD 63 = true → Ends (.partitionCommit p v) s (Unmoved s)) ∧
  (s.plat.safe = false ∨ v.getLsbD 63 = false →
    (∀ code, commitCode s.sys p v.toNat = code → code ≠ 0 → Ends (.partitionCommit p v) s (fun t =>
      t = { s with sys := { s.sys with hub := { s.sys.hub with ptErr := BitVec.ofNat 64 (code + p * 2 ^ 8) } } })) ∧
    (commitCode s.sys p v.toNat = 0 → (o.en = false ∨ v.getLsbD 63 = true) → Ends (.partitionCommit p v) s (HubThen s (fun u =>
      (u.part p).en = v.getLsbD 63 ∧ (u.part p).words = o.staged ∧ u.hub.ptErr = 0 ∧ u.dies = s.sys.dies ∧ u.mems = s.sys.mems ∧
      (o.resident = none → v.getLsbD 63 = true → ∀ f l, functionsOf s.sys p = f :: l → (u.part p).resident = some f) ∧
      (∀ r, r ≠ p → u.part r = s.sys.part r))))) ∧
  (o.en = true → ∀ i ∈ [Instr.partitionReset p, .partitionCommit p 0], commitCode s.sys p 0 = 0 → Ends i s (HubThen s (fun u =>
    (u.part p).en = false ∧ (u.part p).resetting = true ∧ (u.part p).nextWords = o.staged ∧ (u.part p).words = o.words ∧ (u.part p).slots = o.slots ∧
    (∀ k n, u.hub.node? k = some n → n.part ≠ p) ∧
    (∀ d l, (s.sys.ctx d l).st ≠ .free → (s.sys.ctx d l).part = p →
      (u.ctx d l).qreq = some s.sys.hub.now ∧ (u.ctx d l).dbgStop = false ∧ (u.ctx d l).ckStop = false)))) ∧
  (∀ d l c, c = s.sys.ctx d l → c.part = p → c.st ≠ .free → (c.st = .ending → c.endBy = false) → o.resetting = true → 100000 ≤ o.resetNs →
    Ends (.resetQuiesceTimeout d l) s (fun t => (t.sys.ctx d l).st = .ending ∧ (t.sys.ctx d l).endCause = some 0x18 ∧ (t.sys.ctx d l).endSub = 0 ∧
      seqReady t.sys ⟨d, some l⟩ = false ∧ CellsKept s t)) ∧
  (o.resetting = true → (∀ x ∈ s.sys.contexts, x.2.2.part ≠ p) → (∀ n < 12, (s.sys.memDie n).busy = true → (s.sys.memDie n).move ≠ none) → Ends (.partitionResetComplete p) s (HubThen s (fun u =>
    (u.part p).resetting = false ∧ (u.part p).words = o.nextWords ∧ (u.part p).oldChan = [] ∧ (u.part p).slots = [] ∧ (∀ q ∈ u.hub.reqs, q.part ≠ p) ∧
    (∀ d k, o.ownsBlock d k = true → (u.die d).slice k = {} ∧ mgetD (u.die d).banks k [] = [] ∧ mgetD (u.die d).bmat k {} = {}) ∧
    (∀ d k, (o.semRange d).1 ≤ k → k < (o.semRange d).1 + (o.semRange d).2 → (u.die d).sem k = {}) ∧
    (∀ m f, o.ownsChan m (f / 2 ^ 15) = true → frameState (u.memDie m) f = .free)))) ∧
  (1 ≤ bitsOf v.toNat 0 3 → bitsOf v.toNat 0 3 ≤ 4 → 1 ≤ v.toNat / 2 ^ 50 → v.toNat / 2 ^ 50 ≤ 10000 → Ends (.pc1Write p v) s (fun t => OnlyPart s p t ∧
    t.sys.part p = { o with pc1 := v &&& ~~~(BitVec.ofNat 64 (maskBits 3 25)) })) ∧
  (bitsOf v.toNat 0 3 = 0 ∨ 4 < bitsOf v.toNat 0 3 ∨ v.toNat / 2 ^ 50 = 0 ∨ 10000 < v.toNat / 2 ^ 50 → Ends (.pc1Write p v) s (Unmoved s)) ∧
  (∀ f, o.resident = some f → o.en = true → o.resetting = false → o.outgoing = false → o.ckBusy = false → (s.sys.fn f).slice ≠ 0 →
    (s.sys.fn f).slice * 10000 ≤ o.sliceNs →
    (nextFunction s.sys p f = none → Ends (.sliceExpire p) s (fun t => OnlyPart s p t ∧ t.sys.part p = { o with sliceNs := 0 })) ∧
    (∀ g, nextFunction s.sys p f = some g → Ends (.sliceExpire p) s (fun t => t.sys.part p = { o with outgoing := true, incoming := g } ∧ CellsKept s t))) ∧
  (∀ f, o.resident = some f → o.outgoing = true → o.ckBusy = false → outgoingDone s.sys p f = true → (s.sys.fn o.incoming).map = true →
    (s.sys.fn o.incoming).part = p → Ends (.residencyMove p) s (HubThen s (fun u =>
      (u.part p).resident = some o.incoming ∧ (u.part p).outgoing = false ∧ (u.part p).sliceNs = 0 ∧ u.dies = s.sys.dies ∧ u.mems = s.sys.mems))) ∧
  (∀ f g, f < Config.functions → g = s.sys.fn f →
    (vfCfgRefused s.sys f v.toNat = true → Ends (.vfCfgWrite f v) s (Unmoved s)) ∧
    (vfCfgRefused s.sys f v.toNat = false → Ends (.vfCfgWrite f v) s (HubThen s (fun u =>
      u.fn f = { g with map := v.getLsbD 63, part := bitsOf v.toNat 58 5, slice := bitsOf v.toNat 32 16, gidh := bitsOf v.toNat 16 16 } ∧
      (∀ k, k ≠ f → u.fn k = s.sys.fn k) ∧ u.dies = s.sys.dies ∧ u.mems = s.sys.mems))) ∧
    (g.flr = false → g.map = false → Ends (.functionLevelReset f) s (fun t => OnlyFn s f t ∧ (t.sys.fn f).flr = true ∧ (t.sys.fn f).afterReset = true ∧
      ∀ q, (t.sys.fn f).queue q = { tail := (g.queue q).tail })) ∧
    (g.flr = false → g.map = true → (s.sys.part g.part).ckBusy = false → Ends (.functionLevelReset f) s (HubThen s (fun u => (u.fn f).flr = true ∧
      (∀ q, ((u.fn f).queue q).en = false ∧ ((u.fn f).queue q).tail = (g.queue q).tail ∧ ((u.fn f).queue q).head = 0) ∧
      (∀ k n, u.hub.node? k = some n → n.part = g.part → n.fn ≠ f) ∧
      (∀ d l, (s.sys.ctx d l).st ≠ .free → (s.sys.ctx d l).part = g.part → (s.sys.ctx d l).fn = f → (u.ctx d l).qreq = some s.sys.hub.now)))) ∧
    (g.flr = true → hasInstance s.sys f = false → Ends (.flrComplete f) s (HubThen s (fun u =>
      u = (s.sys.modHub (fun h => { h with posted := h.posted.filter (fun x => decide (x.fn ≠ f)) })).modFn f (fun v => { v with flr := false })))))

/-! ## The governor (15 R335 to R349, 24 R474) -/

/-- 15 R336 to R338, R341, R348, 24 R474: the rate and limit registers; a tick passes 50 ns on the hub's counter and 47 cycles on the dies; a pinned start that has
waited PINWIN takes RAMP_VIOLATION before its first fetch. From one boundary to the next the package's load rises by at most 32 units and falls by at most 32,
within what the tokens of GOV_UP and GOV_DN allow, within LCAP and RISEMAX; what is granted and what falls is taken from the tokens. A request that is alone receives
what it needs, as far as that goes, and one ramp slot; an excess that is alone falls.
It rests in part on the model's choices of log entries 9, 27, 80 and 87. -/
def Obligations.GovernorEvents : Prop :=
  (∀ (s : State) (v : Word) (g : Gov), g = s.sys.gov →
  Ends (.govRateWrite false v) s (fun t => OnlyGov s t ∧ t.sys.gov = { g with upRate := bitsOf v.toNat 32 24, upBurst := bitsOf v.toNat 0 16
                                                                              upTok := bitsOf v.toNat 0 16 * 2 ^ 32 }) ∧
  Ends (.govRateWrite true v) s (fun t => OnlyGov s t ∧ t.sys.gov = { g with dnRate := bitsOf v.toNat 32 24, dnBurst := bitsOf v.toNat 0 16
                                                                             dnTok := bitsOf v.toNat 0 16 * 2 ^ 32 }) ∧
  (bitsOf v.toNat 16 16 ≠ 0 → Ends (.govLimWrite v) s (fun t => OnlyGov s t ∧
    t.sys.gov = { g with lcap := bitsOf v.toNat 32 16, pinwin := bitsOf v.toNat 16 16 })) ∧
  (bitsOf v.toNat 16 16 = 0 → Ends (.govLimWrite v) s (fun t => OnlyGov s t ∧ t.sys.gov = { g with lcap := bitsOf v.toNat 32 16 })) ∧
  (s.plat.sinceFlush + 50 ≤ 600000000000 → Ends .governorTick s (fun t => t.plat.sinceFlush = s.plat.sinceFlush + 50 ∧ t.plat.phase = s.plat.phase ∧
    ∃ u, t = { s with plat := t.plat, sys := hubGo u } ∧ u.hub.now = s.sys.hub.now + 50 ∧ u.gov.pinNow = g.pinwin ∧
      (∀ d x, mget? s.sys.dies d = some x → (u.die d).cycles = x.cycles + 47) ∧
      (∀ d l h r, (s.sys.ctx d l).st ≠ .free → r ∈ ((u.ctx d l).holder h).routes → ∃ z ∈ ((s.sys.ctx d l).holder h).routes, r = { z with rem := z.rem - 50 }) ∧
      (∀ m q, q ∈ (u.memDie m).quar → ∃ z ∈ (s.sys.memDie m).quar, q = { z with rem := z.rem - 50 }))) ∧
  (600000000000 < s.plat.sinceFlush + 50 → Ends .governorTick s (Unmoved s)) ∧
  (∀ d l w n, s.sys.hub.starts.find? (fun x => x.place.die == d && x.place.lead == l) = some w → w.pinned = true → w.gang = none → w.need ≠ 0 → w.slot = none →
    g.pinNow * 1000 ≤ w.age → s.sys.hub.node? w.node = some n → n.failed = none → Ends (.pinWindowExpire d l) s (HubThen s (fun u =>
      u.hub.starts = s.sys.hub.starts.erase w ∧ (u.die d).pool = (s.sys.die d).pool + w.granted ∧ (u.hub.node? w.node).map (·.failed) = some (some 0x11) ∧
      (u.hub.node? w.node).map (·.failKind) = some 5 ∧ (u.hub.node? w.node).map (·.live) = some (n.live - 1))))) ∧
  (∀ (s : State) (g : Gov) (upT dnT up dn room : Nat), g = s.sys.gov → s.plat.sinceFlush + 50 ≤ 600000000000 →
  upT = min (g.upTok + g.upRate * 2 ^ 32 / 5000000) (g.upBurst * 2 ^ 32) → up = (if g.upRate = 0 then 32 else min 32 (upT / 2 ^ 32)) →
  dnT = min (g.dnTok + g.dnRate * 2 ^ 32 / 5000000) (g.dnBurst * 2 ^ 32) → dn = (if g.dnRate = 0 then 32 else min 32 (dnT / 2 ^ 32)) →
  room = g.lcap - packageLoad s.sys →
  Ends .governorTick s (fun t => ∃ u rise fall, t = { s with plat := t.plat, sys := hubGo u } ∧
    rise ≤ up ∧ fall ≤ dn ∧ up ≤ 32 ∧ dn ≤ 32 ∧ packageLoad u ≤ packageLoad s.sys + rise ∧ packageLoad s.sys ≤ packageLoad u + fall ∧ rise ≤ room ∧
    u.gov.upTok = (if g.upRate = 0 then upT else upT - rise * 2 ^ 32) ∧ u.gov.dnTok = (if g.dnRate = 0 then dnT else dnT - fall * 2 ^ 32) ∧
    (∀ d, dieLoad u d ≤ dieLoad s.sys d + (s.sys.die d).risemax) ∧
    (∀ d l c n, c = s.sys.ctx d l → (s.sys.die d).dark = false →
      (g.open_ = [.floor d l] → c.isFree = false → c.load < c.base → n = min (min (c.base - c.load) up) (min room (s.sys.die d).risemax) →
        (u.ctx d l).load = c.load + n ∧ (u.ctx d l).rslots = c.rslots + (if n = 0 then 0 else 1)) ∧
      (∀ q, g.open_ = [.entry d l q] → q ∈ c.queueCodes → c.isFree = false → c.ballast < sumWeight (c.queue q).waiting →
        n = min (min (sumWeight (c.queue q).waiting - c.ballast) up) (min room (s.sys.die d).risemax) →
        (u.ctx d l).load = c.load + n ∧ (u.ctx d l).rslots = c.rslots + (if n = 0 then 0 else 1)) ∧
      (g.open_ = [.dfloor d] → (s.sys.die d).pool < (s.sys.die d).dfloor →
        n = min (min ((s.sys.die d).dfloor - (s.sys.die d).pool) up) (min room (s.sys.die d).risemax) → (u.die d).pool = (s.sys.die d).pool + n) ∧
      (∀ w, l < 64 → g.open_ = [.start (64 * d + l)] → s.sys.hub.starts = [w] → w.place.die = d → w.place.lead = l →
        (w.pinned = true → w.age + 50 ≤ g.pinwin * 1000) → n = min (min w.need up) (min room (s.sys.die d).risemax) →
        u.hub.starts.map (fun x => (x.need, x.granted, x.rslots)) = [(w.need - n, w.granted + n, w.rslots + (if n = 0 then 0 else 1))])) ∧
    (∀ h ∈ holders s.sys, g.open_ = [] → (∀ x, x ≠ h → excessOf s.sys x = 0) → excessOf u h = excessOf s.sys h - min (excessOf s.sys h) dn)))

/-! ## Scheduling (02 R40, 14 R313 to R333) -/

/-- 02 R35, 14 R313, R315 to R319, R333: a record is read from the ring and taken, or refused with an error, and a ring that cannot be read stops; a release that can be applied is; a record
that has waited too long unstarted is reported once.
It rests in part on the model's choices of log entries 35 and 89. -/
def Obligations.RecordEvents : Prop := ∀ (s : State) (f q : Nat) (g : Fn) (u : HQueue), g = s.sys.fn f → u = g.queue q →
  (takeOpen s.sys f q = true → s.live g.part → u.host = false →
    (hubRead s.sys f g.part (slotAddr u) 128 = none → Ends (.recordTake f q) s (fun t => ((t.sys.fn f).queue q).en = false ∧ ((t.sys.fn f).queue q).head = u.head ∧
      ((t.sys.fn f).queue q).qerr.getLsbD 63 = true ∧ (u.qerr.getLsbD 63 = false → bitsOf ((t.sys.fn f).queue q).qerr.toNat 58 4 = 9) ∧
      t.sys.hub.nodes = s.sys.hub.nodes ∧ CellsKept s t)) ∧
    (∀ bs x, hubRead s.sys f g.part (slotAddr u) 128 = some bs → x = recordOf bs →
      (recordBad x = true ∨ recPreds x ≠ 0 → Ends (.recordTake f q) s (SettleThen s (fun y => ((y.fn f).queue q).head = u.head + 1 ∧
        ((y.fn f).queue q).qerr.getLsbD 63 = true ∧ (u.qerr.getLsbD 63 = false → bitsOf ((y.fn f).queue q).qerr.toNat 58 4 = 1 ∧
          bitsOf ((y.fn f).queue q).qerr.toNat 52 6 = 8 ∧ bitsOf ((y.fn f).queue q).qerr.toNat 32 16 = recNode x) ∧
        y.hub.nodes = s.sys.hub.nodes ∧ y.dies = s.sys.dies ∧ y.mems = s.sys.mems))) ∧
      (recordBad x = false → recPreds x = 0 → recGng x = false → Ends (.recordTake f q) s (SettleThen s (fun y => (y.fn f).queue q = { u with head := u.head + 1, taken := u.taken + 1 } ∧
        y.hub.node? s.sys.hub.nodeNext = some { fn := f, part := g.part, record := x, oFn := f, oQ := q, came := .queue, seqNo := u.taken } ∧
        y.hub.nodeNext = s.sys.hub.nodeNext + 1 ∧ y.dies = s.sys.dies ∧ y.mems = s.sys.mems))))) ∧
  (∀ p r, (s.sys.part p).held.find? (releaseOpen (s.sys.part p)) = some r → Ends (.heldReleaseApply p) s (SettleThen s (fun y => y = applyRelease p r s.sys ∧
    ∀ e, (s.sys.part p).pendTab.find? (fun z => z.isFor r) = some e → 2 ≤ e.left →
      (y.part p).held = (s.sys.part p).held.erase r ∧ { e with left := e.left - 1, err := e.err || r.err } ∈ (y.part p).pendTab))) ∧
  (∀ k n w, s.sys.hub.node? k = some n → n.came = .queue → n.ready = true → n.begun = 0 → n.failed = none → n.stalled = false →
    w = (s.sys.fn n.oFn).queue n.oQ → w.qwd ≠ 0 → w.qwd * 1000000 ≤ s.sys.hub.now - n.readyAt →
    Ends (.queueWatchdog k) s (fun t => t.sys.hub.node? k = some { n with stalled := true } ∧ ((t.sys.fn n.oFn).queue n.oQ).qerr.getLsbD 63 = true ∧
      (w.qerr.getLsbD 63 = false → bitsOf ((t.sys.fn n.oFn).queue n.oQ).qerr.toNat 58 4 = 6) ∧ (t.sys.fn n.oFn).istat.getLsbD 0 = true ∧
      t.sys.dies = s.sys.dies ∧ t.sys.mems = s.sys.mems))

/-- 02 R40, R49, 14 R321 to R330, 20 R408, R418: a gang that is not assembled in time, or does not start in time, faults: its records leave and each queue has an error; it reserves all its places
or none, and commits once every ramp slot is there. A record becomes reserving at a legal position; an allocator opens a start at a place that can be formed, and a start that
needs no more load becomes a context READY with its claim, with GRANT posted.
It rests in part on the model's choices of log entries 46, 50, 89 and 92. -/
def Obligations.ClaimEvents : Prop := ∀ (s : State),
  (∀ gid k g, s.sys.hub.heldGang gid = some (k, g) → mget? s.sys.hub.gangs k = some g →
    (g.assembled = false → g.asm ≠ 0 → g.asm * 100000 ≤ g.age → Ends (.gangAssemblyTimeout gid) s (HubThen s (fun u => GangOut s.sys u k g))) ∧
    (g.asked = false → g.reserving = false → gangReady s.sys g = true → ∀ l places y, gangPlaces s.sys g l = some places → holdAll k places s.sys = some y →
      (y.hub.starts.filter (fun w => w.gang == some k)).length = places.length →
      (∀ x ∈ places, ownedSlices s.sys x.2.2.die x.2.2.cls x.2.2.lead = 0) → Ends (.gangReserve gid l) s (fun t =>
        (mget? t.sys.hub.gangs k).map (·.asked) = some true ∧ GReq.gang k ∈ t.sys.gov.open_ ∧ t.sys.dies = y.dies ∧
        t.sys.hub.starts.map (fun w => (w.place, w.node, w.inst, w.gang)) = y.hub.starts.map (fun w => (w.place, w.node, w.inst, w.gang)))) ∧
    (g.asked = true → (∀ w ∈ s.sys.hub.starts, w.gang = some k → commitOpen s.sys w = true) → Ends (.gangCommit gid) s (HubThen s (fun u =>
      (mget? u.hub.gangs k).map (·.committed) = some true ∧ (∀ w ∈ u.hub.starts, w.gang ≠ some k) ∧ GReq.gang k ∉ u.gov.open_ ∧
      ∀ w ∈ s.sys.hub.starts, w.gang = some k → (s.sys.hub.node? w.node).isSome = true → (u.ctx w.place.die w.place.lead).st = .ready)))) ∧
  (∀ gid k g, s.sys.hub.gangs.find? (fun x => x.2.gid == gid && x.2.committed) = some (k, g) → mget? s.sys.hub.gangs k = some g →
    (gangUnbegun s.sys g = true → 2000 < g.sinceCommit → Ends (.gangStartTimeout gid) s (HubThen s (fun u => GangOut s.sys u k g))) ∧
    (gangUnbegun s.sys g = false → Ends (.gangStartTimeout gid) s (fun t => OnlyHub s t ∧ mget? t.sys.hub.gangs k = none ∧ t.sys.hub.nodes = s.sys.hub.nodes))) ∧
  (∀ k d lead cls p i, itemOf s.sys k = some (p, i) → (∀ z, i.cand ≠ .slot z) → (s.sys.hub.node? i.nodeNo).isSome = true →
    (placeStands s.sys p i = true → Ends (.recordReserving k d lead cls) s (Unmoved s)) ∧
    (placeStands s.sys p i = false → legalPlace s.sys p (i.ask p) ⟨d, lead, cls⟩ = true → isReserving s.sys p i = true ∨ mayReserve s.sys p i = true →
    Ends (.recordReserving k d lead cls) s (fun t => (t.sys.hub.node? i.nodeNo).map (fun n => (n.reserving, n.resv)) = some (true, some ⟨d, lead, cls⟩) ∧ CellsKept s t))) ∧
  (∀ p d lead cls y i, reservedItem s.sys p d cls lead = none → offered s.sys p d = some (y, i) → (cls, lead) ∈ grantPlaces s.sys p d i → (∀ z, i.cand ≠ .slot z) → s.live p →
    (∀ b ∈ placeBlocks cls lead, ((s.sys.die d).slice b).owner = none) → Ends (.claimGrant p d lead cls) s (HubThen s (fun u =>
      ∃ w, u.hub.starts = y.hub.starts ++ [w] ∧ w.part = p ∧ w.fn = i.node.fn ∧ w.node = i.nodeNo ∧ w.inst = i.inst ∧ w.place = ⟨d, lead, cls⟩ ∧ w.sems = i.sems ∧
        (placeBlocks cls lead).length + w.pres ≤ w.granted + w.need ∧ w.gang = none ∧ (w.need ≠ 0 → GReq.start (64 * d + lead) ∈ u.gov.open_)))) ∧
  (∀ (y : Sys) (w : Start) (n : Node), settleOne y = none → y.hub.starts = [w] → w.need = 0 → w.gang = none → y.hub.node? w.node = some n →
    (n.failed = none ∨ w.slot.isSome = true) → (y.die w.place.die).inSvc = true → orderOpen y w = true → (y.part w.part).ckBusy = false → (y.ctx w.place.die w.place.lead).away = false → ∀ u c, u = hubGo y →
    c = u.ctx w.place.die w.place.lead →
    u.hub.starts = [] ∧ c.st = .ready ∧ c.shape = w.place.cls ∧ c.lead = w.place.lead ∧ (c.h, c.w) = shapeSize w.place.cls ∧ c.part = w.part ∧ c.fn = w.fn ∧
    c.node = w.node ∧ c.inst = BitVec.ofNat 32 w.inst ∧ c.piece = 0 ∧ c.record = n.record ∧ c.load = w.granted ∧ c.copies.map (·.engine) = w.engines ∧
    c.needSems = w.sems ∧ c.semMap = [] ∧ c.chains.map (·.phys) = placeChains w.place.cls w.place.lead w.xreq ∧ c.entries = [] ∧
    (∀ b ∈ placeBlocks w.place.cls w.place.lead, mgetD (u.die w.place.die).banks b [] = [] ∧ mgetD (u.die w.place.die).bmat b {} = {}) ∧
    u.posted w.place.die 1 w.place.lead w.place.cls (w.sems - 1) ((w.slot.getD 0xFFFF) * 2 ^ 16 + w.fn))

/-! ## The ends of instances (02 R43 to R55, 14 R331, R332, 20 R412 to R418, 21 R423 to R431) -/

/-- 02 R47, R53, R54, 14 R331, R332, 20 R416, R417, 21 R423: an instance whose entries have retired after `tend` applies its decrement and gives its claim back; a piece leaves its blocks to the
grove; a quiesced context ends with its cause or is to run again; the watchdog raises its cause; a held event is posted when there is room.
It rests in part on the model's choices of log entries 86, 89 and 91. -/
def Obligations.InstanceEvents : Prop := ∀ (s : State) (d l : Nat) (c : Ctx), c = s.sys.ctx d l →
  (c.st = .ending → c.tended = true → c.endBy = false → c.entries = [] → c.stopped = false →
    (∀ n, c.piece = 0 → c.alive = [l] → c.grove = [l] → c.groveErr = none → c.groveKill = false → s.sys.hub.node? c.node = some n →
      (decPlace s.sys c = .ok none → Ends (.instanceRetire d l) s (fun t => ∃ u, t = { s with sys := postEvent (hubGo u) d 8 l 0 0 0 } ∧ u.ctx d l = {} ∧
        (u.die d).pool = (s.sys.die d).pool + c.load ∧ u.hub.node? c.node = some { n with live := n.live - 1, ended := n.ended + 1 } ∧
        (∀ b ∈ c.blocks, mgetD (u.die d).banks b [] = []) ∧ (∀ q ∈ u.hub.reqs, ¬(q.die = d ∧ q.ctx = l)) ∧
        (∀ ps, ((u.die d).sem ps).count = ((s.sys.die d).sem ps).count) ∧ (∀ z, u.cell z = s.sys.cell z))) ∧
      (n.gangOut = true → bitOf (s.sys.part c.part).logCfg.toNat 63 = false → Ends (.instanceRetire d l) s (fun t => ∃ u, t = { s with sys := postEvent (hubGo u) d 8 l 0 0 0 } ∧
        u.ctx d l = {} ∧ u.mems = s.sys.mems ∧ u.hub.node? c.node = some { n with live := n.live - 1, ended := n.ended + 1 })) ∧
      (∀ f ia, n.gangOut = false → decPlace s.sys c = .ok (some (f, ia)) → s.live c.part → (∀ i < 8, (devByte s.sys f.fdie (f.pa + i)).2 = false) →
        bitOf (s.sys.part c.part).logCfg.toNat 63 = false → Ends (.instanceRetire d l) s (fun t => ∃ u, t = { s with sys := postEvent (hubGo u) d 8 l 0 0 0 } ∧ u.ctx d l = {} ∧
          dev64 (u.memDie f.fdie) f.pa = (dev64 (s.sys.memDie f.fdie) f.pa + 2 ^ 64 - recDec c.record) % 2 ^ 64)) ∧
      (∀ e, n.gangOut = false → decPlace s.sys c = .error e → Ends (.instanceRetire d l) s (fun t => ∃ u, t = { s with sys := postEvent (hubGo u) d 8 l 0 0 0 } ∧ u.ctx d l = {} ∧
        EndedWith u c.node n 0x10))) ∧
    (c.piece ≠ 0 → c.grove.Nodup → c.alive.erase l ≠ [] → Ends (.pieceRetire d l) s (fun t => t.sys.posted d 8 l 0 0 0 ∧ (t.sys.ctx d l).st = .free ∧
      (t.sys.ctx d l).retired = true ∧ (t.sys.die d).pool = (s.sys.die d).pool + c.load ∧ CellsKept s t ∧
      (∀ m ∈ c.grove, m ≠ l → (t.sys.ctx d m).alive = (s.sys.ctx d m).alive.erase l ∧ (t.sys.ctx d m).st = (s.sys.ctx d m).st ∧
        ((s.sys.ctx d m).piece = 0 → (t.sys.ctx d m).fuseBack = (s.sys.ctx d m).fuseBack + c.load))))) ∧
  (c.st = .ending → c.endBy = true → c.stopped = false → (∀ x ∈ c.entries, 8 ≤ x.1) → c.grove = [l] → c.alive = [l] → c.groveErr = none → c.groveKill = false →
    ∀ n, s.sys.hub.node? c.node = some n →
    (∀ e sl, c.endSub = 0xFF → c.endCause = some e → c.saveSlot = some sl → Ends (.quiesceComplete d l) s (fun t => ∃ u, t = { s with sys := postEvent (hubGo u) d 5 l 1 0 0 } ∧
      u.ctx d l = {} ∧ (u.part c.part).slot sl = {} ∧ EndedWith u c.node n e)) ∧
    (∀ e, c.endSub ≠ 0xFF → c.endCause = some e → Ends (.quiesceComplete d l) s (fun t => ∃ u, t = { s with sys := postEvent (hubGo u) d 7 l c.endSub 0 0 } ∧ u.ctx d l = {} ∧
      EndedWith u c.node n e)) ∧
    (c.endSub ≠ 0xFF → c.endCause = none → n.failed = none → Ends (.quiesceComplete d l) s (fun t => ∃ u, t = { s with sys := postEvent (hubGo u) d 7 l c.endSub 0 0 } ∧ u.ctx d l = {} ∧
      u.hub.node? c.node = some { n with live := n.live - 1, rerun := n.rerun ++ [c.inst.toNat] }))) ∧
  (c.wdDue = true → c.wdEn = true → c.wdLimit ≠ 0 → c.wdLimit ≤ c.wdCycles / 1024 → c.st ≠ .free → c.stopped = false →
    (c.tended = false → Ends (.watchdogExpire d l) s (fun t => OnlyDie s d t ∧
      t.sys.ctx d l = { c with wdDue := false, pend := if c.pend.contains .watchdog then c.pend else c.pend ++ [.watchdog] })) ∧
    (c.tended = true → Ends (.watchdogExpire d l) s (fun t => OnlyDie s d t ∧ t.sys.ctx d l = { c with wdDue := false } ∧ DieCause.watchdog l ∈ (t.sys.die d).pend))) ∧
  (∀ e rest, (s.sys.die d).heldEvents = e :: rest → (s.sys.die d).events.length < 256 → Ends (.heldEventPost d) s (fun t => OnlyDie s d t ∧
    t.sys.die d = { s.sys.die d with events := (s.sys.die d).events ++ [e], heldEvents := rest }))

/-- 02 R43 to R46, 20 R412, R413, 21 R424, R429, R431: a split that may take effect makes its pieces, which start at the piece entry; a fuse gives the unsplit
fragment back; a save leaves the slot SUSPENDED, owning the slices, and frees the claim; a restore fills the context from the image, or fails with the context
READY. It rests in part on the model's choices of log entries 47, 48, 82, 106 and 122; that a restore looks at no header word but those checked, and uses
uncorrectable header bytes as stored, is log entry 83. -/
def Obligations.ReshapeAndSaveEvents : Prop := ∀ (s : State) (d l : Nat) (c : Ctx) (q : SeqSt), c = s.sys.ctx d l → q = s.sys.seq ⟨d, some l⟩ →
  (c.st = .run ∨ c.st = .trap → c.stopped = false →
    (∀ into live pentry, c.reshape = .split into live pentry → splitDrained c = true → splitServes s.sys d c (pieceCount c into) = true → c.realWeight ≤ c.load → c.lead = l →
      (pieceLeads c into).Nodup → Ends (.splitTakeEffect d l) s (fun t => SeqStepped q (t.sys.seq ⟨d, some l⟩) 8 [] none ∧ CellsKept s t ∧
        (t.sys.ctx d l).shape = into ∧ (t.sys.ctx d l).piece = c.piece ∧ (t.sys.ctx d l).grove = pieceLeads c into ∧ (t.sys.ctx d l).alive = pieceLeads c into ∧
        (t.sys.ctx d l).orig = some (c.shape, c.lead, c.h, c.w) ∧ (t.sys.ctx d l).reshape = .none ∧ (t.sys.ctx d l).landings = [] ∧
        (∀ k m, 1 ≤ k → (pieceLeads c into)[k]? = some m → (t.sys.ctx d m).st = .run ∧ (t.sys.ctx d m).shape = into ∧ (t.sys.ctx d m).piece = k ∧
          (t.sys.ctx d m).grove = pieceLeads c into ∧ (t.sys.ctx d m).iB = (s.sys.die d).bOf m ∧ (t.sys.ctx d m).inst = c.inst ∧ (t.sys.ctx d m).record = c.record ∧
          (t.sys.seq ⟨d, some m⟩).pc = pentry ∧ (t.sys.seq ⟨d, some m⟩).steward = false ∧ (t.sys.seq ⟨d, some m⟩).rg 5 = BitVec.ofNat 64 k ∧
          (live.getLsbD k = false → ∀ b ∈ blocksOf into m (shapeSize into).1 (shapeSize into).2, mgetD (t.sys.die d).banks b [] = [])))) ∧
    (∀ sh ld h w, c.reshape = .fuse → c.alive = [l] → c.groveErr = none → c.groveKill = false → c.orig = some (sh, ld, h, w) →
      (c.fuseNeed ≤ c.ballast ∨ (c.realWeight ≤ c.load ∧ c.fuseNeed ≤ c.ballast + (s.sys.die d).pool) → Ends (.fuseTakeEffect d l) s (fun t => SeqStepped q (t.sys.seq ⟨d, some l⟩) 8 [] none ∧ CellsKept s t ∧
        ((t.sys.ctx d l).shape, (t.sys.ctx d l).lead, (t.sys.ctx d l).h, (t.sys.ctx d l).w) = (sh, ld, h, w) ∧ (t.sys.ctx d l).grove = [l] ∧
        (t.sys.ctx d l).alive = [l] ∧ (t.sys.ctx d l).orig = none ∧ (t.sys.ctx d l).reshape = .none ∧ (t.sys.ctx d l).landings = [] ∧
        (t.sys.ctx d l).chains.map (·.phys) = c.origChains ∧ (t.sys.ctx d l).semMap = c.semMap ∧ (∀ m ∈ c.grove, m ≠ l → t.sys.ctx d m = {}) ∧
        (t.sys.ctx d l).load = c.load + min (s.sys.die d).pool (max c.fuseBack (c.fuseNeed - c.ballast)) ∧
        (t.sys.die d).pool = (s.sys.die d).pool - max c.fuseBack (c.fuseNeed - c.ballast))) ∧
      (c.ballast + (s.sys.die d).pool < c.fuseNeed → Ends (.fuseTakeEffect d l) s (fun t => GReq.fuse d l ∈ t.sys.gov.open_ ∧ t.sys.seq ⟨d, some l⟩ = q ∧
        (t.sys.ctx d l).reshape = .fuse ∧ CellsKept s t)))) ∧
  (∀ sl y, c.st = .saving → c.entries = [] → (s.sys.part c.part).resetting = false → (∀ x ∈ (s.sys.die d).lateSaved, x.1 ≠ l) →
    (s.sys.part c.part).slotAt c.area.toNat = some sl → ((s.sys.part c.part).slot sl).st = .saving → c.grove = [l] → c.alive = [l] →
    c.blocks.Nodup → saveImage s.sys c.part c.area.toNat (s.sys.die d) c (imageRuns (s.sys.die d) q l c 1) = some y → Ends (.saveComplete d l) s (HubThen s (fun u =>
      u.ctx d l = {} ∧ (u.die d).lateSaved = (s.sys.die d).lateSaved ++ [(l, c.part, sl)] ∧ ((u.part c.part).slot sl).st = .saving ∧ ((u.part c.part).slot sl).fn = c.fn ∧
      ((u.part c.part).slot sl).node = c.node ∧ ((u.part c.part).slot sl).inst = c.inst.toNat ∧ ((u.part c.part).slot sl).floor = c.floor ∧
      ((u.part c.part).slot sl).elapsed = c.elapsed ∧ (∀ k b, c.blocks[k]? = some b → ((u.die d).slice b).owner = some (c.part, sl, k)) ∧
      (∀ z, u.cell z = s.sys.cell z) ∧ (bitOf (s.sys.part c.part).logCfg.toNat 63 = false → u.mems = y.mems)))) ∧
  (∀ p sl, (s.sys.die d).lateSaved.find? (fun x => x.1 == l) = some (l, p, sl) → ((s.sys.part p).slot sl).st = .saving → Ends (.saveComplete d l) s (HubThen s (fun u =>
    u.posted d 5 l 0 0 0 ∧ (u.part p).slot sl = { (s.sys.part p).slot sl with st := .suspended, since := s.sys.hub.now } ∧
    (u.die d).lateSaved = (s.sys.die d).lateSaved.erase (l, p, sl) ∧ u.mems = s.sys.mems ∧ (∀ z, u.cell z = s.sys.cell z)))) ∧
  (c.st = .restoring → (s.sys.part c.part).resetting = false →
    (c.slot = none ∨ (∃ sl, c.slot = some sl ∧ (s.sys.part c.part).slotAt c.area.toNat ≠ some sl) → Ends (.restoreComplete d l) s (fun t =>
      t.sys.ctx d l = { c with st := .ready } ∧ t.sys.posted d 6 l 2 0 0 ∧ t.sys.hub = s.sys.hub ∧ CellsKept s t)) ∧
    (∀ sl hd se banks cs x y, c.slot = some sl → restoresSlot s.sys c sl = true →
      readRun s.sys c.part c.area.toNat 0 4096 = some hd → readRun s.sys c.part c.area.toNat 0x1000 2048 = some se → headGood c hd = true →
      (∀ n < 256, semGood (leNat ((se.drop (8 * n)).take 8)) = true) →
      allSome (readBank s.sys c.part c.area.toNat) (if c.shape = 7 then [] else List.range c.blocks.length) = some banks →
      readChains s.sys c.part c.area.toNat c hd = some cs → cs.all (·.1) = true →
      spillOwned c.part sl (strayed s.sys c.part (some sl) d c.shape c.lead) s.sys = (x, true) →
      restoreSlices d c.part sl (c.blocks.mapIdx (fun k b => (k, b))) x = some y → Ends (.restoreComplete d l) s (fun t =>
        t.sys.posted d 6 l 0 0 0 ∧ (t.sys.ctx d l).st = .ready ∧ (t.sys.ctx d l).restored = true ∧ (t.sys.ctx d l).chains = cs.map (·.2) ∧
        (t.sys.ctx d l).floor = wordAt hd 12 ∧ (∀ k : BitVec 5, k ≠ 0 → (t.sys.seq ⟨d, some l⟩).rg k = BitVec.ofNat 64 (wordAt hd (31 + k.toNat))) ∧
        (t.sys.seq ⟨d, some l⟩).trapPc0 = BitVec.ofNat 64 (wordAt hd 2) ∧ (t.sys.seq ⟨d, some l⟩).trapAnn = BitVec.ofNat 64 (wordAt hd 5) ∧
        (∀ k, k ∈ c.queueCodes → k < 8 → ((t.sys.ctx d l).queue k).ret = wordAt hd (144 + k)) ∧
        (t.sys.part c.part).slot sl = {} ∧ (t.sys.part c.part).slots = merase (y.part c.part).slots sl)))

/-! ## Debugging, checkpoints and replay (23) -/

/-- 23 R440 to R442, R444, R448, R449, R452, R453, R455, R456: a stop holds the contexts of its set; the cut is sealed when every member is frozen; a resumption
lets them go; a breakpoint clears itself and stops; a checkpoint stops the partition, keeps a snapshot and lets it go on; a replay starts from a retained
checkpoint and ends stopped. It rests in part on the model's choices of log entries 12, 62, 63, 65, 93, 107 and 128; that a replay is done once every logged
choice is spent is log entry 66. -/
def Obligations.DebugEvents : Prop := ∀ (s : State) (p : Nat) (v : Word) (o : Part), p < Config.partitions → o = s.sys.part p →
  (v.getLsbD 63 = true → Ends (.debugStop p v) s (fun t =>
    t.sys.part p = { o with stopGo := true, stopAll := v.getLsbD 61, stopTag := v.toNat % 2 ^ 16 } ∧
    Picked s t p (fun c => v.getLsbD 61 = true ∨ c.ctag = v.toNat % 2 ^ 16) (fun c => { c with dbgStop := true, cut := true }) ∧ CellsKept s t)) ∧
  (o.stopGo = true → (∃ x ∈ s.sys.contexts, x.2.2.part = p ∧ x.2.2.cut = true ∧ frozen s.sys x.2.2 = false) → Ends (.cutSeal p) s (fun t => t = s)) ∧
  (o.stopGo = true → (∀ x ∈ s.sys.contexts, x.2.2.part = p → x.2.2.cut = true → frozen s.sys x.2.2 = true) → Ends (.cutSeal p) s (fun t =>
    (t.sys.part p).stopGo = false ∧ Picked s t p (fun c => c.cut = true) (fun c => { c with cut := false }) ∧ CellsKept s t ∧
    (∀ x y, s.sys.contexts.filter (fun x => x.2.2.part == p && x.2.2.cut) = [x] → bitOf o.logCfg.toNat 63 = false →
      intWrite { s.sys with used := s.sys.used + 512 } p (o.dbgArea.toNat + 4096 * (s.sys.ctx x.1 x.2.1).ctag) (clean (cutRecord s.sys x.1 x.2.1)) = some y →
      (s.sys.ctx x.1 x.2.1).part = p → t.sys.mems = y.mems))) ∧
  (∀ d l k q, q = s.sys.seq ⟨d, some l⟩ →
    cutWord (s.sys.die d) (s.sys.ctx d l) q k 2 = q.pc ∧ cutWord (s.sys.die d) (s.sys.ctx d l) q k 3 = q.npc.getD 0 ∧
    cutWord (s.sys.die d) (s.sys.ctx d l) q k 4 = q.nnpc.getD 0 ∧
    cutWord (s.sys.die d) (s.sys.ctx d l) q k 6 = BitVec.ofNat 64 ((s.sys.ctx d l).queue 0).iss ∧
    cutWord (s.sys.die d) (s.sys.ctx d l) q k 28 = BitVec.ofNat 64 ((s.sys.ctx d l).queue 8).ret ∧
    ((((s.sys.ctx d l).queue 8).ents = []) → cutWord (s.sys.die d) (s.sys.ctx d l) q k 29 = 0)) ∧
  (v.getLsbD 63 = false → v.getLsbD 62 = true → Ends (.debugResume p v) s (HubThen s (fun u =>
    Picked s { s with sys := u } p (fun _ => True) (fun c => { c with dbgStop := false, cut := false }) ∧ (u.part p).stopGo = false))) ∧
  (∀ k rest d l b c, c = s.sys.ctx d l → c.isFree = false → c.part = p → hitsAt s.sys d l = k :: rest → b = o.bp k → Ends (.breakpointHit p k d l) s (fun t =>
    (t.sys.part p).stopGo = true ∧ CellsKept s t ∧
    (∀ j, (t.sys.part p).bp j = if j ∈ k :: rest then ((o.bp j).1 &&& 0x7FFF_FFFF_FFFF_FFFF, (o.bp j).2) else o.bp j) ∧
    Picked s t p (fun x => b.1.getLsbD 54 = true ∨ x.ctag = c.ctag) (fun x => { x with dbgStop := true, cut := true }))) ∧
  (o.en = true → o.resetting = false → o.ckBusy = false → o.replay = none → bitOf o.ckCfg.toNat 63 = true → bitsOf o.ckCfg.toNat 48 14 * 1000000 ≤ o.ckNs →
    Ends (.checkpointStart p) s (fun t => t.sys.part p = { o with ckBusy := true } ∧ Picked s t p (fun _ => True) (fun c => { c with ckStop := true }) ∧ CellsKept s t)) ∧
  (o.ckBusy = true → savesOpen s.sys p = false → bitsOf o.ckCfg.toNat 40 8 ≠ 0 → (∀ x ∈ s.sys.contexts, x.2.2.part = p → frozen s.sys x.2.2 = true) → Ends (.checkpointSeal p) s (HubThen s (fun u =>
    Picked s { s with sys := u } p (fun _ => True) (fun c => { c with ckStop := false }) ∧ (u.part p).ckBusy = false ∧ (u.part p).ckNs = 0 ∧
    ((u.part p).ckFail = true ∧ (u.part p).ckpts.map (·.num) = o.ckpts.map (·.num) ∧ (u.part p).ckNext = o.ckNext ∨
      ∃ ks k, (u.part p).ckpts = ks ++ [k] ∧ ks.map (·.num) <:+ o.ckpts.map (·.num) ∧ ks.length ≤ bitsOf o.ckCfg.toNat 40 8 - 1 ∧ k.num = o.ckNext ∧ (u.part p).ckNum = o.ckNext ∧
        (u.part p).ckNext = o.ckNext + 1 ∧ k.words = o.words ∧
        (∀ f ∈ k.ctxs, ((f.die, f.lead, f.ctx) ∈ s.sys.contexts ∨ f.ctx.retired = true ∨ f.ctx.away = true) ∧ f.ctx.part = p) ∧
        (∀ x ∈ s.sys.contexts, x.2.2.part = p → ∃ f ∈ k.ctxs, f.die = x.1 ∧ f.lead = x.2.1 ∧ f.ctx = x.2.2 ∧ f.seq = s.sys.seq ⟨x.1, some x.2.1⟩))))) ∧
  (v.getLsbD 63 = true → Ends (.ckFailClear p v) s (fun t => OnlyPart s p t ∧ t.sys.part p = { o with ckFail := false })) ∧
  (v.getLsbD 63 = true → (∀ k ∈ o.ckpts, k.num ≠ v.toNat % 2 ^ 32) ∨ o.ran = true ∨ o.en = false ∨
      (∃ k, o.ckpts.find? (fun k => k.num == v.toNat % 2 ^ 32) = some k ∧ grantsFit s.sys p k (v.toNat % 2 ^ 32) = false) → Ends (.replayStart p v) s (fun t => OnlyPart s p t ∧
    t.sys.part p = { o with rpStat := o.rpStat ||| 0x2000_0000_0000_0000 })) ∧
  (∀ k plans mp, v.getLsbD 63 = true → replayBad s.sys p (v.toNat % 2 ^ 32) = some (k, plans, mp) → k.log.all ownWrite = false →
    Ends (.replayStart p v) s (HubThen s (fun u =>
      (u.part p).replay = some k.log ∧ (u.part p).rpPos = 0 ∧ (u.part p).rpStat = BitVec.ofNat 64 (v.toNat % 2 ^ 32) ∧ (u.part p).ran = true ∧
      (u.part p).resident = k.resident ∧ (u.part p).pendTab = k.pendTab ∧ (u.part p).held = k.held ∧ (u.part p).psid = k.psid ∧
      ((k.ctxs.map (fun x => ((planOf plans x.die).new, (planOf plans x.die).block x.lead))).Nodup → (s.sys.dies.map (·.1)).Nodup → (∀ e, ((s.sys.die e).ctxs.map (·.1)).Nodup) → ∀ x ∈ k.ctxs, x.ctx.isFree = false → ∀ pl e, pl = planOf plans x.die → e = pl.new →
        u.seq ⟨e, some (pl.block x.lead)⟩ = x.seq ∧
        ∃ load rev c, c = reviveCtx pl (fun ps => ps - (k.semRange x.die).1 + (o.semRange e).1) x.ctx ∧
          u.ctx e (pl.block x.lead) = { c with load := load, revived := rev } ∧ (rev = true ∨ c.base ≤ load))))) ∧
  (o.spent = true → Ends (.replayDone p) s (fun t => CellsKept s t ∧ Picked s t p (fun _ => True) (fun c => { c with dbgStop := true, cut := true }) ∧
    t.sys.part p = { o with replay := none, rpStat := o.rpStat ||| 0x4000_0000_0000_0000, rpCtl := o.rpCtl &&& 0x7FFF_FFFF_FFFF_FFFF
                            stopGo := true, stopAll := true, stopTag := 0 })) ∧
  (∀ k, k < 16 → Ends (.pmselWrite p k v) s (fun t => OnlyPart s p t ∧ (∀ j, mgetD (t.sys.part p).pmsel j 0 = if j = k then v &&& 0x8000_0000_0000_FFFF else mgetD o.pmsel j 0) ∧
    (∀ j, j ≠ k → pmcWord (t.sys.part p) j = pmcWord o j) ∧ (9 < v.toNat % 2 ^ 16 → pmcWord (t.sys.part p) k = 0)))

/-! ## Encodings (03, 04) -/

/-- Words written out from the encodings of 03 R57 to R62, R70, 04 R94 to R97 (those of 03 and 04's worked examples among them) decode to the instructions they stand for, one or more of each format;
an unassigned function code, a reserved field and a reserved guard are refused by name. -/
def Obligations.DecodeWords : Prop :=
  decodeSeq 0x0052_0C04 = .ok (.add 3 4 5) ∧ decodeSeq 0x0652_0C04 = .error .illegal ∧ decodeSeq 0 = .error .illegal ∧
  decodeSeq 0x0031_0408 = .ok (.sub 1 2 3) ∧ decodeSeq 0x0273_1440 = .ok (.mulhS64 5 6 7) ∧ decodeSeq 0xFFF1_0480 = .ok (.addi 1 2 0xFFF) ∧
  decodeSeq 0x0084_9108 = .ok (.ldS16 4 9 8) ∧ decodeSeq 0xFF51_0580 = .ok (.beq 1 2 1 0x3FD) ∧ decodeSeq 0xFF71_0580 = .error .reserved ∧
  (∀ (d a : BitVec 5), a ≠ 0 → decodeSeq (0x40_0280 + 2 ^ 15 * a.toNat + 2 ^ 10 * d.toNat) = .error .reserved) ∧
  decodeSeq 0x0000_59A4 = .ok (.j 2 5) ∧ decodeSeq 0x0041_0DC0 = .ok (.nest 3 2 4) ∧ decodeSeq 0x0091_8A04 = .ok (.semSig 9 3 2) ∧
  decodeSeq 0x01C0_1A80 = .ok (.mfc 6 0x1C) ∧ decodeSeq 0x2000_021C = .ok .fenceP ∧ decodeSeq 0x0032_02CC = .ok (.clmStart 3 4) ∧
  decodeSeq 0x1234_5678_1C01 = .ok (.li 7 0x1234_5678) ∧ decodeSeq 0x0401_0C41 = .ok (.bzf 3 1 0x100) ∧
  decodeSeq 0x0000_0009_0005_8A8E = .ok (.wbnd 2 4 5 9) ∧
  decodeSeq 0x0001_10B1_0908_0C12 = .ok (.mxRun 0 0 0 0 0 ⟨2, 1, 11, 1, 9, 2, 3⟩) ∧
  decodeStrip 0x0008_1780 = .ok (.xAdd 0 0 1 0 2 15) ∧ decodeStrip 0x0388_1600 = .error .strip

/-- 03 R57 to R62, R70, 04 R94 to R97: the word of an instruction holds every operand: for every operand that the encoding admits, reading the word back gives the instruction. -/
def Obligations.DecodeEncode : Prop := ∀ (i : Instr) (w : Nat), i.wf = true → encode i = some w → readBack i w = .ok i

/-- 03 R57 to R62, R65, R70: what a word decodes to is an instruction with admitted operands, whose word is the number read, up to the length that its first parcel gives: no bit of it is ignored. -/
def Obligations.EncodeDecode : Prop := ∀ (w : Nat) (i : Instr),
  (decodeSeq w = .ok i → i.wf = true ∧ isWord i = false ∧ ∃ n, lenOf w = some n ∧ encode i = some (w % 2 ^ (8 * n))) ∧
  (decodeStrip w = .ok i → i.wf = true ∧ isWord i = true ∧ encode i = some (w % 2 ^ 32))

/-! ## The step (00 R9, 20 R396) -/

/-- 00 R2, R9, 03 R65, R75, 04 R98, R102, 20 R396: every step answers a next state. In the turn of a sequencer that is ready and has no cause pending, the instruction fetched at pc runs at that
sequencer, unless it is annulled; a word with a reserved bit set raises RESERVED_FIELD; in the turn of a strip that has its share of a group, its next word runs; an event happens while there is
power, power-good without. A turn counts a step of a task sequencer while an order log is kept, and is held or given up only where a replay forces the order (23 R452).
It rests in part on the model's choices of log entries 4 and 7. -/
def Obligations.StepRuns : Prop := ∀ (s z : State), z = { s with agenda := s.agenda.drop 1, tick := s.tick + 1 } →
  (∃ t, step s = .next t) ∧
  (∀ r y w n i, s.turn = .seq r → seqReady s.sys r = true → takePending s.sys r = none → fetchInstr s.sys r (s.sys.seq r).pc = (y, .ok (w, n)) →
    (decodeSeq w = .ok i → (s.sys.seq r).an0 = false → step s = mapNext (forced z) (mapNext (countStep r z) (exec (clmPick (s.sys.seq r) i) { z with cur := r, sys := y }))) ∧
    ((s.sys.seq r).an0 = true → step s = .next (forced z (countStep r z { z with sys := annulledStep r s.sys }))) ∧
    (decodeSeq w = .error .illegal → (s.sys.seq r).an0 = false → step s = mapNext (forced z) (mapNext (countStep r z) (exec (.illegalOp r) z))) ∧
    (decodeSeq w = .error .reserved → (s.sys.seq r).an0 = false → (y.seq r).steward = false ∨ (y.seq r).ae = true → (∀ p ∈ s.sys.hub.parts, p.2.replay = none) →
      ∃ t, step s = .next t ∧ TrapSaved (y.seq r) (t.sys.seq r) (y.die r.die).stwVec 0x02 (y.seq r).pc 0 ∧ CellsKept s t)) ∧
  (∀ r y e, s.turn = .seq r → seqReady s.sys r = true → takePending s.sys r = none → fetchInstr s.sys r (s.sys.seq r).pc = (y, .error e) →
    step s = mapNext (forced z) (mapNext (countStep r z) (exec (.fetchFault r) z))) ∧
  (∀ r, s.turn = .seq r → seqReady s.sys r = true → takePending s.sys r ≠ none → step s = mapNext (forced z) (mapNext (countStep r z) (exec (.asyncTrapEntry r) z))) ∧
  (∀ r, s.turn = .seq r → seqReady s.sys r = false → (∀ p ∈ s.sys.hub.parts, p.2.replay = none) → step s = .next z) ∧
  (∀ r h w i, s.turn = .strip r → (s.sys.ctx r.die r.ctx).engines = true → s.sys.chain? r = some h → h.running = true → (h.strip r.k).busy = true →
    (h.strip r.k).prog.words[(h.strip r.k).ip]? = some w → decodeStrip w.toNat = .ok i → step s = mapNext (forced z) (exec i { z with curStrip := r })) ∧
  (∀ i, s.turn = .ev i → isEvent i = true →
    (s.plat.power = true ∨ i = .powerGood → step s = mapNext (forced z) (exec i z)) ∧
    (s.plat.power = false → i ≠ .powerGood → (∀ p ∈ s.sys.hub.parts, p.2.replay = none) → step s = .next z)) ∧
  (∀ t : State, (∀ p ∈ t.sys.hub.parts, p.2.replay = none) → forced z t = t) ∧
  (∀ (r : SeqRef) (t : State), countStep r z t = t ∨
    ∃ k, r.idx = some k ∧ countStep r z t = { t with sys := t.sys.modCtx r.die k (fun c => { c with steps := c.steps + 1 }) })

/-! ## The platform's invariant, and reset (24 R468, R471) -/

/-- 24 R468, R469, R471, R474: at every step the boot phase is one of the seven, READY is set in the last one alone, the safe state is entered from verification or self-test alone, a bundle is in force once
verification has passed, without power nothing but the flash and the fuses holds anything, and no more than ten minutes pass between two writes of the counters to flash. -/
def Obligations.PlatformKept : Prop := ∀ (s t : State), PlatformInv s → step s = .next t → PlatformInv t

/-- 02 R52, 15 R337, R353, 17 R359, 20 R399, 23 R448, R455, 24 R468, R472: the machine at power-good: phase 0, no die in service, the registers at the Reset
column of their rules; the invariant of the platform holds. That every byte reads 0 is the model's choice (log entry 2), and that a steward sequencer has MODE 1
follows from 02 R52 and 24 R472 beside the Reset column of R399 (log entry 131). -/
def Obligations.ResetState : Prop := PlatformInv State.reset ∧ State.reset.plat.power = true ∧ State.reset.plat.phase = 0 ∧ State.reset.plat.ready = false ∧
  (∀ d, (State.reset.sys.die d).inSvc = false ∧ (State.reset.sys.die d).risemax = 32 ∧ (State.reset.sys.die d).dfloor = 0) ∧
  (∀ m, (State.reset.sys.memDie m).inSvc = false) ∧ (∀ d l, (State.reset.sys.ctx d l).isFree = true) ∧
  (∀ r, (State.reset.sys.seq r).ae = true ∧ (State.reset.sys.seq r).prq = false ∧ (State.reset.sys.seq r).steward = r.idx.isNone ∧ (State.reset.sys.seq r).trapCause = 0) ∧
  (∀ p, (State.reset.sys.part p).en = false ∧ (State.reset.sys.part p).pc1 = 0x0190_0000_0000_0001 ∧ (∀ k, (State.reset.sys.part p).word k = 0) ∧
    (State.reset.sys.part p).ckCfg = 0x0032_0400_0000_0000 ∧ (State.reset.sys.part p).psid = 1) ∧
  State.reset.sys.gov.lcap = 11280 ∧ State.reset.sys.gov.pinwin = 20 ∧
  (∀ r, seqReady State.reset.sys r = false) ∧ (∀ c, State.reset.sys.cell c = (0, false)) ∧ (∀ m a, devByte State.reset.sys m a = (0, false))
end

