-- ==== Sys2Proof/Laws/Maps.lean ====
section
/-! SUPPORT. The laws of sparse maps and byte memories: a read after a write, and the canonical form that every operation keeps. -/

namespace Sys2Proof.Machine

variable {α : Type}

/-! ## Reads after writes -/

@[simp] theorem mget?_nil (k : Nat) : mget? ([] : Map α) k = none := rfl

theorem mget?_cons (k' : Nat) (v : α) (t : Map α) (k : Nat) :
    mget? ((k', v) :: t) k = if k = k' then some v else mget? t k := rfl

@[simp] theorem mget?_mset_self (m : Map α) (k : Nat) (v : α) : mget? (mset m k v) k = some v := by
  induction m with
  | nil => simp [mset, mget?]
  | cons c t ih =>
    obtain ⟨a, b⟩ := c
    unfold mset
    split
    · simp [mget?]
    · split
      · simp [mget?]
      · rename_i _ h
        simp [mget?, h, ih]

theorem mget?_mset_ne (m : Map α) {k j : Nat} (v : α) (h : j ≠ k) : mget? (mset m k v) j = mget? m j := by
  induction m with
  | nil => simp [mset, mget?, h]
  | cons c t ih =>
    obtain ⟨a, b⟩ := c
    unfold mset
    split
    · simp [mget?, h]
    · split
      · rename_i _ e
        simp [mget?, h, ← e]
      · simp [mget?, ih]

theorem mget?_mset (m : Map α) (k j : Nat) (v : α) : mget? (mset m k v) j = if j = k then some v else mget? m j := by
  split
  · rename_i e
    rw [e, mget?_mset_self]
  · exact mget?_mset_ne m v ‹_›

@[simp] theorem mgetD_mset_self (m : Map α) (k : Nat) (v d : α) : mgetD (mset m k v) k d = v := by simp [mgetD]

theorem mgetD_mset_ne (m : Map α) {k j : Nat} (v d : α) (h : j ≠ k) : mgetD (mset m k v) j d = mgetD m j d := by
  simp [mgetD, mget?_mset_ne m v h]

theorem mgetD_mset (m : Map α) (k j : Nat) (v d : α) : mgetD (mset m k v) j d = if j = k then v else mgetD m j d := by
  unfold mgetD
  rw [mget?_mset]
  split <;> rfl

@[simp] theorem mset_mset_self (m : Map α) (k : Nat) (v w : α) : mset (mset m k v) k w = mset m k w := by
  induction m with
  | nil => simp [mset]
  | cons c t ih =>
    obtain ⟨a, b⟩ := c
    by_cases h1 : k < a
    · simp [mset, h1]
    · by_cases h2 : k = a
      · subst h2
        simp [mset]
      · simp [mset, h1, h2, ih]

@[simp] theorem mget?_merase_self (m : Map α) (k : Nat) : mget? (merase m k) k = none := by
  induction m with
  | nil => rfl
  | cons c t ih =>
    obtain ⟨a, b⟩ := c
    by_cases h : a = k
    · simpa [merase, h] using ih
    · have h' : k ≠ a := fun e => h e.symm
      simpa [merase, h, mget?, h'] using ih

theorem mget?_merase_ne (m : Map α) {k j : Nat} (h : j ≠ k) : mget? (merase m k) j = mget? m j := by
  induction m with
  | nil => rfl
  | cons c t ih =>
    obtain ⟨a, b⟩ := c
    by_cases e : a = k
    · have h' : j ≠ a := fun x => h (x.trans e)
      simpa [merase, e, mget?, h, h'] using ih
    · simp only [merase, ne_eq, bne_iff_ne, e, not_false_eq_true, List.filter_cons_of_pos, mget?]
      split
      · rfl
      · simpa [merase] using ih

@[simp] theorem rdByte_wrByte_self (m : Mem) (a : Nat) (v : Byte) : rdByte (wrByte m a v) a = v := by
  unfold wrByte rdByte mgetD
  split
  · simp_all
  · simp

theorem rdByte_wrByte_ne (m : Mem) {a b : Nat} (v : Byte) (h : b ≠ a) : rdByte (wrByte m a v) b = rdByte m b := by
  unfold wrByte rdByte mgetD
  split
  · rw [mget?_merase_ne m h]
  · rw [mget?_mset_ne m v h]

theorem rdByte_wrByte (m : Mem) (a b : Nat) (v : Byte) : rdByte (wrByte m a v) b = if b = a then v else rdByte m b := by
  split
  · rename_i e
    rw [e, rdByte_wrByte_self]
  · exact rdByte_wrByte_ne m v ‹_›

/-- What a run of bytes leaves outside it. -/
theorem rdByte_wrBytes_out (l : List Byte) (m : Mem) (a b : Nat) (h : b < a ∨ a + l.length ≤ b) :
    rdByte (wrBytes m a l) b = rdByte m b := by
  induction l generalizing m a with
  | nil => rfl
  | cons x t ih =>
    simp only [List.length_cons] at h
    rw [wrBytes, ih _ _ (by omega), rdByte_wrByte_ne _ _ (by omega)]

/-- A run of bytes reads back. -/
theorem rdByte_wrBytes_in (l : List Byte) (m : Mem) (a k : Nat) (h : k < l.length) :
    rdByte (wrBytes m a l) (a + k) = l[k] := by
  induction l generalizing m a k with
  | nil => simp at h
  | cons x t ih =>
    rw [wrBytes]
    cases k with
    | zero => simp [rdByte_wrBytes_out t _ (a + 1) a (by omega)]
    | succ n =>
      simp only [List.length_cons] at h
      have := ih (wrByte m a x) (a + 1) n (by omega)
      rw [show a + (n + 1) = a + 1 + n by omega, this]
      simp

/-! ## The canonical form -/

theorem risingFrom_of_le {m : Map α} {a b : Option Nat} (h : risingFrom b m = true)
    (hab : ∀ x, a = some x → ∃ y, b = some y ∧ x ≤ y) : risingFrom a m = true := by
  cases m with
  | nil => simp [risingFrom]
  | cons c t =>
    obtain ⟨k, v⟩ := c
    simp only [risingFrom, Bool.and_eq_true] at h ⊢
    refine ⟨?_, h.2⟩
    cases a with
    | none => rfl
    | some x =>
      obtain ⟨y, rfl, hxy⟩ := hab x rfl
      simp only [decide_eq_true_eq] at h ⊢
      omega

theorem risingFrom_mset (m : Map α) (lo : Option Nat) (k : Nat) (v : α) (h : risingFrom lo m = true)
    (hk : ∀ x, lo = some x → x < k) : risingFrom lo (mset m k v) = true := by
  induction m generalizing lo with
  | nil =>
    simp only [mset, risingFrom, Bool.and_true]
    cases lo with
    | none => rfl
    | some x => simpa using hk x rfl
  | cons c t ih =>
    obtain ⟨a, b⟩ := c
    simp only [risingFrom, Bool.and_eq_true] at h
    unfold mset
    split
    · simp only [risingFrom, Bool.and_eq_true, decide_eq_true_eq]
      refine ⟨?_, ‹_›, h.2⟩
      cases lo with
      | none => rfl
      | some x => simpa using hk x rfl
    · split
      · rename_i e
        subst e
        simpa [risingFrom] using h
      · simp only [risingFrom, Bool.and_eq_true]
        exact ⟨h.1, ih _ h.2 (fun x hx => by cases hx; omega)⟩

/-- Writing a key keeps the canonical form. -/
theorem wf_mset (m : Map α) (k : Nat) (v : α) (h : Map.wf m = true) : Map.wf (mset m k v) = true :=
  risingFrom_mset m none k v h (by simp)

theorem risingFrom_filter (p : Nat × α → Bool) (m : Map α) (lo : Option Nat) (h : risingFrom lo m = true) :
    risingFrom lo (m.filter p) = true := by
  induction m generalizing lo with
  | nil => exact h
  | cons c t ih =>
    obtain ⟨a, b⟩ := c
    simp only [risingFrom, Bool.and_eq_true] at h
    by_cases hp : p (a, b) = true
    · simp only [List.filter_cons_of_pos hp, risingFrom, Bool.and_eq_true]
      exact ⟨h.1, ih _ h.2⟩
    · rw [List.filter_cons_of_neg hp]
      refine ih _ (risingFrom_of_le h.2 (fun x hx => ⟨a, rfl, ?_⟩))
      subst hx
      have := h.1
      simp only [decide_eq_true_eq] at this
      omega

/-- Taking entries out keeps the canonical form. -/
theorem wf_filter (p : Nat × α → Bool) (m : Map α) (h : Map.wf m = true) : Map.wf (m.filter p : Map α) = true :=
  risingFrom_filter p m none h

theorem wf_merase (m : Map α) (k : Nat) (h : Map.wf m = true) : Map.wf (merase m k) = true := wf_filter _ m h

theorem mem_mset {m : Map α} {k : Nat} {v : α} {c : Nat × α} (h : c ∈ mset m k v) : c = (k, v) ∨ c ∈ m := by
  induction m with
  | nil => simpa [mset] using h
  | cons e t ih =>
    obtain ⟨a, b⟩ := e
    unfold mset at h
    split at h
    · simpa using h
    · split at h
      · simp only [List.mem_cons] at h ⊢
        tauto
      · simp only [List.mem_cons] at h ⊢
        rcases h with h | h
        · tauto
        · rcases ih h with h | h <;> tauto

theorem memory_wf_iff (m : Mem) : Memory.wf m = true ↔ Map.wf m = true ∧ ∀ c ∈ m, c.2 ≠ unlistedByte := by
  simp [Memory.wf]

/-- Writing a byte keeps the canonical form of a memory. -/
theorem wf_wrByte (m : Mem) (a : Nat) (v : Byte) (h : Memory.wf m = true) : Memory.wf (wrByte m a v) = true := by
  rw [memory_wf_iff] at h ⊢
  unfold wrByte
  split
  · refine ⟨wf_merase m a h.1, fun c hc => h.2 c ?_⟩
    simp only [merase, List.mem_filter] at hc
    exact hc.1
  · rename_i hv
    refine ⟨wf_mset m a v h.1, fun c hc => ?_⟩
    rcases mem_mset hc with rfl | hc
    · exact hv
    · exact h.2 c hc

theorem wf_wrBytes (l : List Byte) (m : Mem) (a : Nat) (h : Memory.wf m = true) : Memory.wf (wrBytes m a l) = true := by
  induction l generalizing m a with
  | nil => exact h
  | cons x t ih => exact ih _ _ (wf_wrByte m a x h)

theorem wf_clearRange (m : Mem) (lo hi : Nat) (h : Memory.wf m = true) : Memory.wf (clearRange m lo hi) = true := by
  rw [memory_wf_iff] at h ⊢
  refine ⟨wf_filter _ m h.1, fun c hc => h.2 c ?_⟩
  simp only [clearRange, List.mem_filter] at hc
  exact hc.1

theorem wf_copyIn (m src : Mem) (lo n : Nat) (h : Memory.wf m = true) : Memory.wf (copyIn m src lo n) = true := by
  unfold copyIn
  suffices ∀ (l : Mem) (m : Mem), Memory.wf m = true →
      Memory.wf (l.foldl (fun acc c => wrByte acc (lo + c.1) c.2) m) = true from this _ _ (wf_clearRange m _ _ h)
  intro l
  induction l with
  | nil => exact fun _ h => h
  | cons c t ih => exact fun m h => ih _ (wf_wrByte m _ _ h)

theorem risingFrom_map_sub (lo : Nat) (l : Mem) (b : Option Nat) (hl : ∀ c ∈ l, lo ≤ c.1)
    (hb : ∀ x, b = some x → lo ≤ x) (h : risingFrom b l = true) : risingFrom (b.map (· - lo)) (l.map (fun c => (c.1 - lo, c.2)) : Mem) = true := by
  induction l generalizing b with
  | nil => simp [risingFrom]
  | cons c t ih =>
    obtain ⟨a, v⟩ := c
    simp only [List.map_cons, risingFrom, Bool.and_eq_true] at h ⊢
    have ha := hl (a, v) List.mem_cons_self
    refine ⟨?_, ih (some a) (fun c hc => hl c (List.mem_cons_of_mem _ hc)) (by rintro x ⟨⟩; exact ha) h.2⟩
    cases b with
    | none => rfl
    | some x =>
      have h1 := h.1
      have h2 := hb x rfl
      simp only [decide_eq_true_eq, Option.map_some] at h1 ha ⊢
      omega

/-- A part of a memory, its addresses counted from the part's first, is canonical. -/
theorem wf_sliceOut (m : Mem) (lo hi : Nat) (h : Memory.wf m = true) : Memory.wf (sliceOut m lo hi) = true := by
  rw [memory_wf_iff] at h ⊢
  refine ⟨?_, ?_⟩
  · unfold sliceOut Map.wf
    have := risingFrom_map_sub lo (m.filter (fun c => lo ≤ c.1 && c.1 < hi)) none
      (fun c hc => by simp only [List.mem_filter, Bool.and_eq_true, decide_eq_true_eq] at hc; exact hc.2.1)
      (by simp) (risingFrom_filter _ m none h.1)
    simpa using this
  · intro c hc
    simp only [sliceOut, List.mem_map, List.mem_filter] at hc
    obtain ⟨e, he, rfl⟩ := hc
    exact h.2 e he.1

end Sys2Proof.Machine
end

