-- ==== Sys2Proof/Laws/State.lean ====
section
/-! SUPPORT. What each update of the state leaves: one lemma for each field of each update, so that no proof unfolds a record update. -/

namespace Sys2Proof.Machine

/-! ## The units of the package -/

@[simp] theorem Sys.die_setDie_self (y : Sys) (d : Nat) (v : Die) : (y.setDie d v).die d = v := by simp [Sys.die, Sys.setDie]
theorem Sys.die_setDie_ne (y : Sys) {d e : Nat} (v : Die) (h : e ≠ d) : (y.setDie d v).die e = y.die e := by
  simp [Sys.die, Sys.setDie, mgetD_mset_ne _ _ _ h]
theorem Sys.die_setDie (y : Sys) (d e : Nat) (v : Die) : (y.setDie d v).die e = if e = d then v else y.die e := by
  simp [Sys.die, Sys.setDie, mgetD_mset]
@[simp] theorem Sys.setDie_setDie (y : Sys) (d : Nat) (v w : Die) : (y.setDie d v).setDie d w = y.setDie d w := by
  simp [Sys.setDie]
@[simp] theorem Sys.die_modDie_self (y : Sys) (d : Nat) (f : Die → Die) : (y.modDie d f).die d = f (y.die d) := by
  simp [Sys.modDie]
theorem Sys.die_modDie_ne (y : Sys) {d e : Nat} (f : Die → Die) (h : e ≠ d) : (y.modDie d f).die e = y.die e :=
  y.die_setDie_ne _ h
theorem Sys.die_modDie (y : Sys) (d e : Nat) (f : Die → Die) :
    (y.modDie d f).die e = if e = d then f (y.die d) else y.die e := y.die_setDie d e _

@[simp] theorem Sys.memDie_setMem_self (y : Sys) (m : Nat) (v : MemDie) : (y.setMem m v).memDie m = v := by
  simp [Sys.memDie, Sys.setMem]
theorem Sys.memDie_setMem (y : Sys) (m n : Nat) (v : MemDie) : (y.setMem m v).memDie n = if n = m then v else y.memDie n := by
  simp [Sys.memDie, Sys.setMem, mgetD_mset]
@[simp] theorem Sys.memDie_modMem_self (y : Sys) (m : Nat) (f : MemDie → MemDie) : (y.modMem m f).memDie m = f (y.memDie m) := by
  simp [Sys.modMem]
theorem Sys.memDie_modMem (y : Sys) (m n : Nat) (f : MemDie → MemDie) :
    (y.modMem m f).memDie n = if n = m then f (y.memDie m) else y.memDie n := y.memDie_setMem m n _

@[simp] theorem Sys.hub_modHub (y : Sys) (f : Hub → Hub) : (y.modHub f).hub = f y.hub := rfl
@[simp] theorem Sys.part_modPart_self (y : Sys) (p : Nat) (f : Part → Part) : (y.modPart p f).part p = f (y.part p) := by
  simp [Sys.part, Sys.modPart]
theorem Sys.part_modPart (y : Sys) (p q : Nat) (f : Part → Part) :
    (y.modPart p f).part q = if q = p then f (y.part p) else y.part q := by
  simp only [Sys.part, Sys.modPart, Sys.hub_modHub, mgetD_mset]
@[simp] theorem Sys.fn_modFn_self (y : Sys) (k : Nat) (f : Fn → Fn) : (y.modFn k f).fn k = f (y.fn k) := by
  simp [Sys.fn, Sys.modFn]
theorem Sys.fn_modFn (y : Sys) (k j : Nat) (f : Fn → Fn) : (y.modFn k f).fn j = if j = k then f (y.fn k) else y.fn j := by
  simp only [Sys.fn, Sys.modFn, Sys.hub_modHub, mgetD_mset]
@[simp] theorem Sys.queue_modQueue_self (y : Sys) (k q : Nat) (f : HQueue → HQueue) :
    ((y.modQueue k q f).fn k).queue q = f ((y.fn k).queue q) := by
  simp [Sys.modQueue, Fn.queue]
@[simp] theorem Sys.part_modFn (y : Sys) (k p : Nat) (f : Fn → Fn) : (y.modFn k f).part p = y.part p := rfl
@[simp] theorem Sys.fn_modPart (y : Sys) (k p : Nat) (f : Part → Part) : (y.modPart p f).fn k = y.fn k := rfl
@[simp] theorem Sys.part_modQueue (y : Sys) (k q p : Nat) (f : HQueue → HQueue) : (y.modQueue k q f).part p = y.part p := rfl

@[simp] theorem Sys.mems_setDie (y : Sys) (d : Nat) (v : Die) : (y.setDie d v).mems = y.mems := rfl
@[simp] theorem Sys.hub_setDie (y : Sys) (d : Nat) (v : Die) : (y.setDie d v).hub = y.hub := rfl
@[simp] theorem Sys.gov_setDie (y : Sys) (d : Nat) (v : Die) : (y.setDie d v).gov = y.gov := rfl
@[simp] theorem Sys.used_setDie (y : Sys) (d : Nat) (v : Die) : (y.setDie d v).used = y.used := rfl
@[simp] theorem Sys.mems_modDie (y : Sys) (d : Nat) (f : Die → Die) : (y.modDie d f).mems = y.mems := rfl
@[simp] theorem Sys.hub_modDie (y : Sys) (d : Nat) (f : Die → Die) : (y.modDie d f).hub = y.hub := rfl
@[simp] theorem Sys.gov_modDie (y : Sys) (d : Nat) (f : Die → Die) : (y.modDie d f).gov = y.gov := rfl
@[simp] theorem Sys.used_modDie (y : Sys) (d : Nat) (f : Die → Die) : (y.modDie d f).used = y.used := rfl
@[simp] theorem Sys.dies_setMem (y : Sys) (m : Nat) (v : MemDie) : (y.setMem m v).dies = y.dies := rfl
@[simp] theorem Sys.hub_setMem (y : Sys) (m : Nat) (v : MemDie) : (y.setMem m v).hub = y.hub := rfl
@[simp] theorem Sys.gov_setMem (y : Sys) (m : Nat) (v : MemDie) : (y.setMem m v).gov = y.gov := rfl
@[simp] theorem Sys.used_setMem (y : Sys) (m : Nat) (v : MemDie) : (y.setMem m v).used = y.used := rfl
@[simp] theorem Sys.dies_modMem (y : Sys) (m : Nat) (f : MemDie → MemDie) : (y.modMem m f).dies = y.dies := rfl
@[simp] theorem Sys.hub_modMem (y : Sys) (m : Nat) (f : MemDie → MemDie) : (y.modMem m f).hub = y.hub := rfl
@[simp] theorem Sys.gov_modMem (y : Sys) (m : Nat) (f : MemDie → MemDie) : (y.modMem m f).gov = y.gov := rfl
@[simp] theorem Sys.used_modMem (y : Sys) (m : Nat) (f : MemDie → MemDie) : (y.modMem m f).used = y.used := rfl
@[simp] theorem Sys.dies_modHub (y : Sys) (f : Hub → Hub) : (y.modHub f).dies = y.dies := rfl
@[simp] theorem Sys.mems_modHub (y : Sys) (f : Hub → Hub) : (y.modHub f).mems = y.mems := rfl
@[simp] theorem Sys.gov_modHub (y : Sys) (f : Hub → Hub) : (y.modHub f).gov = y.gov := rfl
@[simp] theorem Sys.used_modHub (y : Sys) (f : Hub → Hub) : (y.modHub f).used = y.used := rfl
@[simp] theorem Sys.dies_modPart (y : Sys) (p : Nat) (f : Part → Part) : (y.modPart p f).dies = y.dies := rfl
@[simp] theorem Sys.mems_modPart (y : Sys) (p : Nat) (f : Part → Part) : (y.modPart p f).mems = y.mems := rfl
@[simp] theorem Sys.gov_modPart (y : Sys) (p : Nat) (f : Part → Part) : (y.modPart p f).gov = y.gov := rfl
@[simp] theorem Sys.used_modPart (y : Sys) (p : Nat) (f : Part → Part) : (y.modPart p f).used = y.used := rfl
@[simp] theorem Sys.dies_modFn (y : Sys) (k : Nat) (f : Fn → Fn) : (y.modFn k f).dies = y.dies := rfl
@[simp] theorem Sys.mems_modFn (y : Sys) (k : Nat) (f : Fn → Fn) : (y.modFn k f).mems = y.mems := rfl
@[simp] theorem Sys.gov_modFn (y : Sys) (k : Nat) (f : Fn → Fn) : (y.modFn k f).gov = y.gov := rfl
@[simp] theorem Sys.used_modFn (y : Sys) (k : Nat) (f : Fn → Fn) : (y.modFn k f).used = y.used := rfl
@[simp] theorem Sys.dies_modQueue (y : Sys) (k q : Nat) (f : HQueue → HQueue) : (y.modQueue k q f).dies = y.dies := rfl
@[simp] theorem Sys.mems_modQueue (y : Sys) (k q : Nat) (f : HQueue → HQueue) : (y.modQueue k q f).mems = y.mems := rfl
@[simp] theorem Sys.gov_modQueue (y : Sys) (k q : Nat) (f : HQueue → HQueue) : (y.modQueue k q f).gov = y.gov := rfl
@[simp] theorem Sys.used_modQueue (y : Sys) (k q : Nat) (f : HQueue → HQueue) : (y.modQueue k q f).used = y.used := rfl
@[simp] theorem Sys.mems_setCtx (y : Sys) (d k : Nat) (c : Ctx) : (y.setCtx d k c).mems = y.mems := rfl
@[simp] theorem Sys.hub_setCtx (y : Sys) (d k : Nat) (c : Ctx) : (y.setCtx d k c).hub = y.hub := rfl
@[simp] theorem Sys.gov_setCtx (y : Sys) (d k : Nat) (c : Ctx) : (y.setCtx d k c).gov = y.gov := rfl
@[simp] theorem Sys.used_setCtx (y : Sys) (d k : Nat) (c : Ctx) : (y.setCtx d k c).used = y.used := rfl
@[simp] theorem Sys.mems_modCtx (y : Sys) (d k : Nat) (f : Ctx → Ctx) : (y.modCtx d k f).mems = y.mems := rfl
@[simp] theorem Sys.hub_modCtx (y : Sys) (d k : Nat) (f : Ctx → Ctx) : (y.modCtx d k f).hub = y.hub := rfl
@[simp] theorem Sys.gov_modCtx (y : Sys) (d k : Nat) (f : Ctx → Ctx) : (y.modCtx d k f).gov = y.gov := rfl
@[simp] theorem Sys.used_modCtx (y : Sys) (d k : Nat) (f : Ctx → Ctx) : (y.modCtx d k f).used = y.used := rfl

@[simp] theorem Sys.memDie_setDie (y : Sys) (d : Nat) (v : Die) (e : Nat) : (y.setDie d v).memDie e = y.memDie e := rfl
@[simp] theorem Sys.part_setDie (y : Sys) (d : Nat) (v : Die) (e : Nat) : (y.setDie d v).part e = y.part e := rfl
@[simp] theorem Sys.fn_setDie (y : Sys) (d : Nat) (v : Die) (e : Nat) : (y.setDie d v).fn e = y.fn e := rfl
@[simp] theorem Sys.memDie_modDie (y : Sys) (d : Nat) (f : Die → Die) (e : Nat) : (y.modDie d f).memDie e = y.memDie e := rfl
@[simp] theorem Sys.part_modDie (y : Sys) (d : Nat) (f : Die → Die) (e : Nat) : (y.modDie d f).part e = y.part e := rfl
@[simp] theorem Sys.fn_modDie (y : Sys) (d : Nat) (f : Die → Die) (e : Nat) : (y.modDie d f).fn e = y.fn e := rfl
@[simp] theorem Sys.die_setMem (y : Sys) (m : Nat) (v : MemDie) (e : Nat) : (y.setMem m v).die e = y.die e := rfl
@[simp] theorem Sys.ctx_setMem (y : Sys) (m : Nat) (v : MemDie) (e l : Nat) : (y.setMem m v).ctx e l = y.ctx e l := rfl
@[simp] theorem Sys.seq_setMem (y : Sys) (m : Nat) (v : MemDie) (r : SeqRef) : (y.setMem m v).seq r = y.seq r := rfl
@[simp] theorem Sys.ctxOf_setMem (y : Sys) (m : Nat) (v : MemDie) (r : SeqRef) : (y.setMem m v).ctxOf r = y.ctxOf r := rfl
@[simp] theorem Sys.part_setMem (y : Sys) (m : Nat) (v : MemDie) (e : Nat) : (y.setMem m v).part e = y.part e := rfl
@[simp] theorem Sys.fn_setMem (y : Sys) (m : Nat) (v : MemDie) (e : Nat) : (y.setMem m v).fn e = y.fn e := rfl
@[simp] theorem Sys.die_modMem (y : Sys) (m : Nat) (f : MemDie → MemDie) (e : Nat) : (y.modMem m f).die e = y.die e := rfl
@[simp] theorem Sys.ctx_modMem (y : Sys) (m : Nat) (f : MemDie → MemDie) (e l : Nat) : (y.modMem m f).ctx e l = y.ctx e l := rfl
@[simp] theorem Sys.seq_modMem (y : Sys) (m : Nat) (f : MemDie → MemDie) (r : SeqRef) : (y.modMem m f).seq r = y.seq r := rfl
@[simp] theorem Sys.ctxOf_modMem (y : Sys) (m : Nat) (f : MemDie → MemDie) (r : SeqRef) : (y.modMem m f).ctxOf r = y.ctxOf r := rfl
@[simp] theorem Sys.part_modMem (y : Sys) (m : Nat) (f : MemDie → MemDie) (e : Nat) : (y.modMem m f).part e = y.part e := rfl
@[simp] theorem Sys.fn_modMem (y : Sys) (m : Nat) (f : MemDie → MemDie) (e : Nat) : (y.modMem m f).fn e = y.fn e := rfl
@[simp] theorem Sys.die_modHub (y : Sys) (f : Hub → Hub) (e : Nat) : (y.modHub f).die e = y.die e := rfl
@[simp] theorem Sys.ctx_modHub (y : Sys) (f : Hub → Hub) (e l : Nat) : (y.modHub f).ctx e l = y.ctx e l := rfl
@[simp] theorem Sys.seq_modHub (y : Sys) (f : Hub → Hub) (r : SeqRef) : (y.modHub f).seq r = y.seq r := rfl
@[simp] theorem Sys.ctxOf_modHub (y : Sys) (f : Hub → Hub) (r : SeqRef) : (y.modHub f).ctxOf r = y.ctxOf r := rfl
@[simp] theorem Sys.memDie_modHub (y : Sys) (f : Hub → Hub) (e : Nat) : (y.modHub f).memDie e = y.memDie e := rfl
@[simp] theorem Sys.die_modPart (y : Sys) (p : Nat) (f : Part → Part) (e : Nat) : (y.modPart p f).die e = y.die e := rfl
@[simp] theorem Sys.ctx_modPart (y : Sys) (p : Nat) (f : Part → Part) (e l : Nat) : (y.modPart p f).ctx e l = y.ctx e l := rfl
@[simp] theorem Sys.seq_modPart (y : Sys) (p : Nat) (f : Part → Part) (r : SeqRef) : (y.modPart p f).seq r = y.seq r := rfl
@[simp] theorem Sys.ctxOf_modPart (y : Sys) (p : Nat) (f : Part → Part) (r : SeqRef) : (y.modPart p f).ctxOf r = y.ctxOf r := rfl
@[simp] theorem Sys.memDie_modPart (y : Sys) (p : Nat) (f : Part → Part) (e : Nat) : (y.modPart p f).memDie e = y.memDie e := rfl
@[simp] theorem Sys.die_modFn (y : Sys) (k : Nat) (f : Fn → Fn) (e : Nat) : (y.modFn k f).die e = y.die e := rfl
@[simp] theorem Sys.ctx_modFn (y : Sys) (k : Nat) (f : Fn → Fn) (e l : Nat) : (y.modFn k f).ctx e l = y.ctx e l := rfl
@[simp] theorem Sys.seq_modFn (y : Sys) (k : Nat) (f : Fn → Fn) (r : SeqRef) : (y.modFn k f).seq r = y.seq r := rfl
@[simp] theorem Sys.ctxOf_modFn (y : Sys) (k : Nat) (f : Fn → Fn) (r : SeqRef) : (y.modFn k f).ctxOf r = y.ctxOf r := rfl
@[simp] theorem Sys.memDie_modFn (y : Sys) (k : Nat) (f : Fn → Fn) (e : Nat) : (y.modFn k f).memDie e = y.memDie e := rfl
@[simp] theorem Sys.die_modQueue (y : Sys) (k q : Nat) (f : HQueue → HQueue) (e : Nat) : (y.modQueue k q f).die e = y.die e := rfl
@[simp] theorem Sys.ctx_modQueue (y : Sys) (k q : Nat) (f : HQueue → HQueue) (e l : Nat) : (y.modQueue k q f).ctx e l = y.ctx e l := rfl
@[simp] theorem Sys.seq_modQueue (y : Sys) (k q : Nat) (f : HQueue → HQueue) (r : SeqRef) : (y.modQueue k q f).seq r = y.seq r := rfl
@[simp] theorem Sys.ctxOf_modQueue (y : Sys) (k q : Nat) (f : HQueue → HQueue) (r : SeqRef) : (y.modQueue k q f).ctxOf r = y.ctxOf r := rfl
@[simp] theorem Sys.memDie_modQueue (y : Sys) (k q : Nat) (f : HQueue → HQueue) (e : Nat) : (y.modQueue k q f).memDie e = y.memDie e := rfl
@[simp] theorem Sys.memDie_setCtx (y : Sys) (d k : Nat) (c : Ctx) (e : Nat) : (y.setCtx d k c).memDie e = y.memDie e := rfl
@[simp] theorem Sys.part_setCtx (y : Sys) (d k : Nat) (c : Ctx) (e : Nat) : (y.setCtx d k c).part e = y.part e := rfl
@[simp] theorem Sys.fn_setCtx (y : Sys) (d k : Nat) (c : Ctx) (e : Nat) : (y.setCtx d k c).fn e = y.fn e := rfl
@[simp] theorem Sys.memDie_modCtx (y : Sys) (d k : Nat) (f : Ctx → Ctx) (e : Nat) : (y.modCtx d k f).memDie e = y.memDie e := rfl
@[simp] theorem Sys.part_modCtx (y : Sys) (d k : Nat) (f : Ctx → Ctx) (e : Nat) : (y.modCtx d k f).part e = y.part e := rfl
@[simp] theorem Sys.fn_modCtx (y : Sys) (d k : Nat) (f : Ctx → Ctx) (e : Nat) : (y.modCtx d k f).fn e = y.fn e := rfl

/-! ## Sequencers and contexts -/

@[simp] theorem Sys.seq_setSeq_self (y : Sys) (r : SeqRef) (q : SeqSt) : (y.setSeq r q).seq r = q := by
  obtain ⟨d, i⟩ := r
  cases i <;> simp [Sys.seq, Sys.setSeq]

theorem Sys.seq_setSeq_ne (y : Sys) {r s : SeqRef} (q : SeqSt) (h : s ≠ r) : (y.setSeq r q).seq s = y.seq s := by
  obtain ⟨d, i⟩ := r
  obtain ⟨e, j⟩ := s
  by_cases hd : e = d
  · subst hd
    cases i <;> cases j <;> simp_all [Sys.seq, Sys.setSeq, mgetD_mset]
  · cases i <;> cases j <;> simp [Sys.seq, Sys.setSeq, Sys.die_modDie_ne y _ hd]

@[simp] theorem Sys.seq_modSeq_self (y : Sys) (r : SeqRef) (f : SeqSt → SeqSt) : (y.modSeq r f).seq r = f (y.seq r) := by
  simp [Sys.modSeq]

theorem Sys.seq_modSeq_ne (y : Sys) {r s : SeqRef} (f : SeqSt → SeqSt) (h : s ≠ r) : (y.modSeq r f).seq s = y.seq s :=
  y.seq_setSeq_ne _ h

@[simp] theorem Sys.setSeq_setSeq (y : Sys) (r : SeqRef) (p q : SeqSt) : (y.setSeq r p).setSeq r q = y.setSeq r q := by
  obtain ⟨d, i⟩ := r
  cases i <;> simp [Sys.setSeq, Sys.modDie]

@[simp] theorem Sys.ctx_setSeq (y : Sys) (r : SeqRef) (q : SeqSt) (d k : Nat) : (y.setSeq r q).ctx d k = y.ctx d k := by
  obtain ⟨e, i⟩ := r
  cases i <;> simp only [Sys.ctx, Sys.setSeq, Sys.die_modDie] <;> split <;> simp_all

@[simp] theorem Sys.ctx_modSeq (y : Sys) (r : SeqRef) (f : SeqSt → SeqSt) (d k : Nat) : (y.modSeq r f).ctx d k = y.ctx d k :=
  y.ctx_setSeq r _ d k

@[simp] theorem Sys.ctxOf_setSeq (y : Sys) (r s : SeqRef) (q : SeqSt) : (y.setSeq r q).ctxOf s = y.ctxOf s := by
  obtain ⟨e, i⟩ := s
  cases i <;> simp [Sys.ctxOf]

@[simp] theorem Sys.ctxOf_modSeq (y : Sys) (r s : SeqRef) (f : SeqSt → SeqSt) : (y.modSeq r f).ctxOf s = y.ctxOf s :=
  y.ctxOf_setSeq r s _

@[simp] theorem Sys.ctx_setCtx_self (y : Sys) (d k : Nat) (c : Ctx) : (y.setCtx d k c).ctx d k = c := by
  simp [Sys.ctx, Sys.setCtx]

theorem Sys.ctx_setCtx (y : Sys) (d k e l : Nat) (c : Ctx) :
    (y.setCtx d k c).ctx e l = if e = d ∧ l = k then c else y.ctx e l := by
  by_cases h : e = d
  · subst h
    simp [Sys.ctx, Sys.setCtx, mgetD_mset]
  · simp [Sys.ctx, Sys.setCtx, Sys.die_modDie_ne y _ h, h]

@[simp] theorem Sys.ctx_modCtx_self (y : Sys) (d k : Nat) (f : Ctx → Ctx) : (y.modCtx d k f).ctx d k = f (y.ctx d k) := by
  simp [Sys.modCtx]

theorem Sys.ctx_modCtx (y : Sys) (d k e l : Nat) (f : Ctx → Ctx) :
    (y.modCtx d k f).ctx e l = if e = d ∧ l = k then f (y.ctx d k) else y.ctx e l := y.ctx_setCtx d k e l _

@[simp] theorem Sys.seq_setCtx (y : Sys) (d k : Nat) (c : Ctx) (r : SeqRef) : (y.setCtx d k c).seq r = y.seq r := by
  obtain ⟨e, i⟩ := r
  cases i <;> simp only [Sys.seq, Sys.setCtx, Sys.die_modDie] <;> split <;> simp_all

@[simp] theorem Sys.seq_modCtx (y : Sys) (d k : Nat) (f : Ctx → Ctx) (r : SeqRef) : (y.modCtx d k f).seq r = y.seq r :=
  y.seq_setCtx d k _ r

@[simp] theorem Sys.seq_modCtxOf (y : Sys) (r s : SeqRef) (f : Ctx → Ctx) : (y.modCtxOf r f).seq s = y.seq s := by
  obtain ⟨e, i⟩ := r
  cases i <;> simp [Sys.modCtxOf]

@[simp] theorem Sys.ctxOf_modCtxOf_some (y : Sys) (d k : Nat) (f : Ctx → Ctx) :
    (y.modCtxOf ⟨d, some k⟩ f).ctxOf ⟨d, some k⟩ = f (y.ctxOf ⟨d, some k⟩) := by simp [Sys.ctxOf, Sys.modCtxOf]

@[simp] theorem Sys.setCtx_setCtx (y : Sys) (d k : Nat) (b c : Ctx) : (y.setCtx d k b).setCtx d k c = y.setCtx d k c := by
  simp [Sys.setCtx, Sys.modDie]

@[simp] theorem Sys.mems_setSeq (y : Sys) (r : SeqRef) (q : SeqSt) : (y.setSeq r q).mems = y.mems := by
  obtain ⟨d, i⟩ := r
  cases i <;> rfl
@[simp] theorem Sys.hub_setSeq (y : Sys) (r : SeqRef) (q : SeqSt) : (y.setSeq r q).hub = y.hub := by
  obtain ⟨d, i⟩ := r
  cases i <;> rfl
@[simp] theorem Sys.gov_setSeq (y : Sys) (r : SeqRef) (q : SeqSt) : (y.setSeq r q).gov = y.gov := by
  obtain ⟨d, i⟩ := r
  cases i <;> rfl
@[simp] theorem Sys.used_setSeq (y : Sys) (r : SeqRef) (q : SeqSt) : (y.setSeq r q).used = y.used := by
  obtain ⟨d, i⟩ := r
  cases i <;> rfl
@[simp] theorem Sys.memDie_setSeq (y : Sys) (r : SeqRef) (q : SeqSt) (m : Nat) : (y.setSeq r q).memDie m = y.memDie m := by simp [Sys.memDie]
@[simp] theorem Sys.part_setSeq (y : Sys) (r : SeqRef) (q : SeqSt) (p : Nat) : (y.setSeq r q).part p = y.part p := by simp [Sys.part]
@[simp] theorem Sys.fn_setSeq (y : Sys) (r : SeqRef) (q : SeqSt) (k : Nat) : (y.setSeq r q).fn k = y.fn k := by simp [Sys.fn]
@[simp] theorem Sys.mems_modSeq (y : Sys) (r : SeqRef) (f : SeqSt → SeqSt) : (y.modSeq r f).mems = y.mems := by
  obtain ⟨d, i⟩ := r
  cases i <;> rfl
@[simp] theorem Sys.hub_modSeq (y : Sys) (r : SeqRef) (f : SeqSt → SeqSt) : (y.modSeq r f).hub = y.hub := by
  obtain ⟨d, i⟩ := r
  cases i <;> rfl
@[simp] theorem Sys.gov_modSeq (y : Sys) (r : SeqRef) (f : SeqSt → SeqSt) : (y.modSeq r f).gov = y.gov := by
  obtain ⟨d, i⟩ := r
  cases i <;> rfl
@[simp] theorem Sys.used_modSeq (y : Sys) (r : SeqRef) (f : SeqSt → SeqSt) : (y.modSeq r f).used = y.used := by
  obtain ⟨d, i⟩ := r
  cases i <;> rfl
@[simp] theorem Sys.memDie_modSeq (y : Sys) (r : SeqRef) (f : SeqSt → SeqSt) (m : Nat) : (y.modSeq r f).memDie m = y.memDie m := by simp [Sys.memDie]
@[simp] theorem Sys.part_modSeq (y : Sys) (r : SeqRef) (f : SeqSt → SeqSt) (p : Nat) : (y.modSeq r f).part p = y.part p := by simp [Sys.part]
@[simp] theorem Sys.fn_modSeq (y : Sys) (r : SeqRef) (f : SeqSt → SeqSt) (k : Nat) : (y.modSeq r f).fn k = y.fn k := by simp [Sys.fn]
@[simp] theorem Sys.mems_modCtxOf (y : Sys) (r : SeqRef) (f : Ctx → Ctx) : (y.modCtxOf r f).mems = y.mems := by
  obtain ⟨d, i⟩ := r
  cases i <;> rfl
@[simp] theorem Sys.hub_modCtxOf (y : Sys) (r : SeqRef) (f : Ctx → Ctx) : (y.modCtxOf r f).hub = y.hub := by
  obtain ⟨d, i⟩ := r
  cases i <;> rfl
@[simp] theorem Sys.gov_modCtxOf (y : Sys) (r : SeqRef) (f : Ctx → Ctx) : (y.modCtxOf r f).gov = y.gov := by
  obtain ⟨d, i⟩ := r
  cases i <;> rfl
@[simp] theorem Sys.used_modCtxOf (y : Sys) (r : SeqRef) (f : Ctx → Ctx) : (y.modCtxOf r f).used = y.used := by
  obtain ⟨d, i⟩ := r
  cases i <;> rfl
@[simp] theorem Sys.memDie_modCtxOf (y : Sys) (r : SeqRef) (f : Ctx → Ctx) (m : Nat) : (y.modCtxOf r f).memDie m = y.memDie m := by simp [Sys.memDie]
@[simp] theorem Sys.part_modCtxOf (y : Sys) (r : SeqRef) (f : Ctx → Ctx) (p : Nat) : (y.modCtxOf r f).part p = y.part p := by simp [Sys.part]
@[simp] theorem Sys.fn_modCtxOf (y : Sys) (r : SeqRef) (f : Ctx → Ctx) (k : Nat) : (y.modCtxOf r f).fn k = y.fn k := by simp [Sys.fn]

/-! ## Fields of a die that sequencer and context updates leave -/

@[simp] theorem Sys.die_setSeq_inSvc (y : Sys) (r : SeqRef) (q : SeqSt) (d : Nat) : ((y.setSeq r q).die d).inSvc = (y.die d).inSvc := by
  obtain ⟨e, i⟩ := r
  cases i <;> simp only [Sys.setSeq, Sys.die_modDie] <;> split <;> simp_all
@[simp] theorem Sys.die_modSeq_inSvc (y : Sys) (r : SeqRef) (f : SeqSt → SeqSt) (d : Nat) : ((y.modSeq r f).die d).inSvc = (y.die d).inSvc :=
  y.die_setSeq_inSvc r _ d
@[simp] theorem Sys.die_modCtx_inSvc (y : Sys) (e l : Nat) (f : Ctx → Ctx) (d : Nat) : ((y.modCtx e l f).die d).inSvc = (y.die d).inSvc := by
  simp only [Sys.modCtx, Sys.setCtx, Sys.die_modDie]
  split <;> simp_all
@[simp] theorem Sys.die_modCtxOf_inSvc (y : Sys) (r : SeqRef) (f : Ctx → Ctx) (d : Nat) : ((y.modCtxOf r f).die d).inSvc = (y.die d).inSvc := by
  obtain ⟨e, i⟩ := r
  cases i <;> simp [Sys.modCtxOf]
@[simp] theorem Sys.die_setSeq_smem (y : Sys) (r : SeqRef) (q : SeqSt) (d : Nat) : ((y.setSeq r q).die d).smem = (y.die d).smem := by
  obtain ⟨e, i⟩ := r
  cases i <;> simp only [Sys.setSeq, Sys.die_modDie] <;> split <;> simp_all
@[simp] theorem Sys.die_modSeq_smem (y : Sys) (r : SeqRef) (f : SeqSt → SeqSt) (d : Nat) : ((y.modSeq r f).die d).smem = (y.die d).smem :=
  y.die_setSeq_smem r _ d
@[simp] theorem Sys.die_modCtx_smem (y : Sys) (e l : Nat) (f : Ctx → Ctx) (d : Nat) : ((y.modCtx e l f).die d).smem = (y.die d).smem := by
  simp only [Sys.modCtx, Sys.setCtx, Sys.die_modDie]
  split <;> simp_all
@[simp] theorem Sys.die_modCtxOf_smem (y : Sys) (r : SeqRef) (f : Ctx → Ctx) (d : Nat) : ((y.modCtxOf r f).die d).smem = (y.die d).smem := by
  obtain ⟨e, i⟩ := r
  cases i <;> simp [Sys.modCtxOf]
@[simp] theorem Sys.die_setSeq_smemBad (y : Sys) (r : SeqRef) (q : SeqSt) (d : Nat) : ((y.setSeq r q).die d).smemBad = (y.die d).smemBad := by
  obtain ⟨e, i⟩ := r
  cases i <;> simp only [Sys.setSeq, Sys.die_modDie] <;> split <;> simp_all
@[simp] theorem Sys.die_modSeq_smemBad (y : Sys) (r : SeqRef) (f : SeqSt → SeqSt) (d : Nat) : ((y.modSeq r f).die d).smemBad = (y.die d).smemBad :=
  y.die_setSeq_smemBad r _ d
@[simp] theorem Sys.die_modCtx_smemBad (y : Sys) (e l : Nat) (f : Ctx → Ctx) (d : Nat) : ((y.modCtx e l f).die d).smemBad = (y.die d).smemBad := by
  simp only [Sys.modCtx, Sys.setCtx, Sys.die_modDie]
  split <;> simp_all
@[simp] theorem Sys.die_modCtxOf_smemBad (y : Sys) (r : SeqRef) (f : Ctx → Ctx) (d : Nat) : ((y.modCtxOf r f).die d).smemBad = (y.die d).smemBad := by
  obtain ⟨e, i⟩ := r
  cases i <;> simp [Sys.modCtxOf]
@[simp] theorem Sys.die_setSeq_lateSaved (y : Sys) (r : SeqRef) (q : SeqSt) (d : Nat) : ((y.setSeq r q).die d).lateSaved = (y.die d).lateSaved := by
  obtain ⟨e, i⟩ := r
  cases i <;> simp only [Sys.setSeq, Sys.die_modDie] <;> split <;> simp_all
@[simp] theorem Sys.die_modSeq_lateSaved (y : Sys) (r : SeqRef) (f : SeqSt → SeqSt) (d : Nat) : ((y.modSeq r f).die d).lateSaved = (y.die d).lateSaved :=
  y.die_setSeq_lateSaved r _ d
@[simp] theorem Sys.die_modCtx_lateSaved (y : Sys) (e l : Nat) (f : Ctx → Ctx) (d : Nat) : ((y.modCtx e l f).die d).lateSaved = (y.die d).lateSaved := by
  simp only [Sys.modCtx, Sys.setCtx, Sys.die_modDie]
  split <;> simp_all
@[simp] theorem Sys.die_modCtxOf_lateSaved (y : Sys) (r : SeqRef) (f : Ctx → Ctx) (d : Nat) : ((y.modCtxOf r f).die d).lateSaved = (y.die d).lateSaved := by
  obtain ⟨e, i⟩ := r
  cases i <;> simp [Sys.modCtxOf]
@[simp] theorem Sys.die_setSeq_stwVec (y : Sys) (r : SeqRef) (q : SeqSt) (d : Nat) : ((y.setSeq r q).die d).stwVec = (y.die d).stwVec := by
  obtain ⟨e, i⟩ := r
  cases i <;> simp only [Sys.setSeq, Sys.die_modDie] <;> split <;> simp_all
@[simp] theorem Sys.die_modSeq_stwVec (y : Sys) (r : SeqRef) (f : SeqSt → SeqSt) (d : Nat) : ((y.modSeq r f).die d).stwVec = (y.die d).stwVec :=
  y.die_setSeq_stwVec r _ d
@[simp] theorem Sys.die_modCtx_stwVec (y : Sys) (e l : Nat) (f : Ctx → Ctx) (d : Nat) : ((y.modCtx e l f).die d).stwVec = (y.die d).stwVec := by
  simp only [Sys.modCtx, Sys.setCtx, Sys.die_modDie]
  split <;> simp_all
@[simp] theorem Sys.die_modCtxOf_stwVec (y : Sys) (r : SeqRef) (f : Ctx → Ctx) (d : Nat) : ((y.modCtxOf r f).die d).stwVec = (y.die d).stwVec := by
  obtain ⟨e, i⟩ := r
  cases i <;> simp [Sys.modCtxOf]
@[simp] theorem Sys.die_setSeq_image (y : Sys) (r : SeqRef) (q : SeqSt) (d : Nat) : ((y.setSeq r q).die d).image = (y.die d).image := by
  obtain ⟨e, i⟩ := r
  cases i <;> simp only [Sys.setSeq, Sys.die_modDie] <;> split <;> simp_all
@[simp] theorem Sys.die_modSeq_image (y : Sys) (r : SeqRef) (f : SeqSt → SeqSt) (d : Nat) : ((y.modSeq r f).die d).image = (y.die d).image :=
  y.die_setSeq_image r _ d
@[simp] theorem Sys.die_modCtx_image (y : Sys) (e l : Nat) (f : Ctx → Ctx) (d : Nat) : ((y.modCtx e l f).die d).image = (y.die d).image := by
  simp only [Sys.modCtx, Sys.setCtx, Sys.die_modDie]
  split <;> simp_all
@[simp] theorem Sys.die_modCtxOf_image (y : Sys) (r : SeqRef) (f : Ctx → Ctx) (d : Nat) : ((y.modCtxOf r f).die d).image = (y.die d).image := by
  obtain ⟨e, i⟩ := r
  cases i <;> simp [Sys.modCtxOf]
@[simp] theorem Sys.die_setSeq_imageX (y : Sys) (r : SeqRef) (q : SeqSt) (d : Nat) : ((y.setSeq r q).die d).imageX = (y.die d).imageX := by
  obtain ⟨e, i⟩ := r
  cases i <;> simp only [Sys.setSeq, Sys.die_modDie] <;> split <;> simp_all
@[simp] theorem Sys.die_modSeq_imageX (y : Sys) (r : SeqRef) (f : SeqSt → SeqSt) (d : Nat) : ((y.modSeq r f).die d).imageX = (y.die d).imageX :=
  y.die_setSeq_imageX r _ d
@[simp] theorem Sys.die_modCtx_imageX (y : Sys) (e l : Nat) (f : Ctx → Ctx) (d : Nat) : ((y.modCtx e l f).die d).imageX = (y.die d).imageX := by
  simp only [Sys.modCtx, Sys.setCtx, Sys.die_modDie]
  split <;> simp_all
@[simp] theorem Sys.die_modCtxOf_imageX (y : Sys) (r : SeqRef) (f : Ctx → Ctx) (d : Nat) : ((y.modCtxOf r f).die d).imageX = (y.die d).imageX := by
  obtain ⟨e, i⟩ := r
  cases i <;> simp [Sys.modCtxOf]
@[simp] theorem Sys.die_setSeq_events (y : Sys) (r : SeqRef) (q : SeqSt) (d : Nat) : ((y.setSeq r q).die d).events = (y.die d).events := by
  obtain ⟨e, i⟩ := r
  cases i <;> simp only [Sys.setSeq, Sys.die_modDie] <;> split <;> simp_all
@[simp] theorem Sys.die_modSeq_events (y : Sys) (r : SeqRef) (f : SeqSt → SeqSt) (d : Nat) : ((y.modSeq r f).die d).events = (y.die d).events :=
  y.die_setSeq_events r _ d
@[simp] theorem Sys.die_modCtx_events (y : Sys) (e l : Nat) (f : Ctx → Ctx) (d : Nat) : ((y.modCtx e l f).die d).events = (y.die d).events := by
  simp only [Sys.modCtx, Sys.setCtx, Sys.die_modDie]
  split <;> simp_all
@[simp] theorem Sys.die_modCtxOf_events (y : Sys) (r : SeqRef) (f : Ctx → Ctx) (d : Nat) : ((y.modCtxOf r f).die d).events = (y.die d).events := by
  obtain ⟨e, i⟩ := r
  cases i <;> simp [Sys.modCtxOf]
@[simp] theorem Sys.die_setSeq_heldEvents (y : Sys) (r : SeqRef) (q : SeqSt) (d : Nat) : ((y.setSeq r q).die d).heldEvents = (y.die d).heldEvents := by
  obtain ⟨e, i⟩ := r
  cases i <;> simp only [Sys.setSeq, Sys.die_modDie] <;> split <;> simp_all
@[simp] theorem Sys.die_modSeq_heldEvents (y : Sys) (r : SeqRef) (f : SeqSt → SeqSt) (d : Nat) : ((y.modSeq r f).die d).heldEvents = (y.die d).heldEvents :=
  y.die_setSeq_heldEvents r _ d
@[simp] theorem Sys.die_modCtx_heldEvents (y : Sys) (e l : Nat) (f : Ctx → Ctx) (d : Nat) : ((y.modCtx e l f).die d).heldEvents = (y.die d).heldEvents := by
  simp only [Sys.modCtx, Sys.setCtx, Sys.die_modDie]
  split <;> simp_all
@[simp] theorem Sys.die_modCtxOf_heldEvents (y : Sys) (r : SeqRef) (f : Ctx → Ctx) (d : Nat) : ((y.modCtxOf r f).die d).heldEvents = (y.die d).heldEvents := by
  obtain ⟨e, i⟩ := r
  cases i <;> simp [Sys.modCtxOf]
@[simp] theorem Sys.die_setSeq_sems (y : Sys) (r : SeqRef) (q : SeqSt) (d : Nat) : ((y.setSeq r q).die d).sems = (y.die d).sems := by
  obtain ⟨e, i⟩ := r
  cases i <;> simp only [Sys.setSeq, Sys.die_modDie] <;> split <;> simp_all
@[simp] theorem Sys.die_modSeq_sems (y : Sys) (r : SeqRef) (f : SeqSt → SeqSt) (d : Nat) : ((y.modSeq r f).die d).sems = (y.die d).sems :=
  y.die_setSeq_sems r _ d
@[simp] theorem Sys.die_modCtx_sems (y : Sys) (e l : Nat) (f : Ctx → Ctx) (d : Nat) : ((y.modCtx e l f).die d).sems = (y.die d).sems := by
  simp only [Sys.modCtx, Sys.setCtx, Sys.die_modDie]
  split <;> simp_all
@[simp] theorem Sys.die_modCtxOf_sems (y : Sys) (r : SeqRef) (f : Ctx → Ctx) (d : Nat) : ((y.modCtxOf r f).die d).sems = (y.die d).sems := by
  obtain ⟨e, i⟩ := r
  cases i <;> simp [Sys.modCtxOf]
@[simp] theorem Sys.die_setSeq_slices (y : Sys) (r : SeqRef) (q : SeqSt) (d : Nat) : ((y.setSeq r q).die d).slices = (y.die d).slices := by
  obtain ⟨e, i⟩ := r
  cases i <;> simp only [Sys.setSeq, Sys.die_modDie] <;> split <;> simp_all
@[simp] theorem Sys.die_modSeq_slices (y : Sys) (r : SeqRef) (f : SeqSt → SeqSt) (d : Nat) : ((y.modSeq r f).die d).slices = (y.die d).slices :=
  y.die_setSeq_slices r _ d
@[simp] theorem Sys.die_modCtx_slices (y : Sys) (e l : Nat) (f : Ctx → Ctx) (d : Nat) : ((y.modCtx e l f).die d).slices = (y.die d).slices := by
  simp only [Sys.modCtx, Sys.setCtx, Sys.die_modDie]
  split <;> simp_all
@[simp] theorem Sys.die_modCtxOf_slices (y : Sys) (r : SeqRef) (f : Ctx → Ctx) (d : Nat) : ((y.modCtxOf r f).die d).slices = (y.die d).slices := by
  obtain ⟨e, i⟩ := r
  cases i <;> simp [Sys.modCtxOf]
@[simp] theorem Sys.die_setSeq_banks (y : Sys) (r : SeqRef) (q : SeqSt) (d : Nat) : ((y.setSeq r q).die d).banks = (y.die d).banks := by
  obtain ⟨e, i⟩ := r
  cases i <;> simp only [Sys.setSeq, Sys.die_modDie] <;> split <;> simp_all
@[simp] theorem Sys.die_modSeq_banks (y : Sys) (r : SeqRef) (f : SeqSt → SeqSt) (d : Nat) : ((y.modSeq r f).die d).banks = (y.die d).banks :=
  y.die_setSeq_banks r _ d
@[simp] theorem Sys.die_modCtx_banks (y : Sys) (e l : Nat) (f : Ctx → Ctx) (d : Nat) : ((y.modCtx e l f).die d).banks = (y.die d).banks := by
  simp only [Sys.modCtx, Sys.setCtx, Sys.die_modDie]
  split <;> simp_all
@[simp] theorem Sys.die_modCtxOf_banks (y : Sys) (r : SeqRef) (f : Ctx → Ctx) (d : Nat) : ((y.modCtxOf r f).die d).banks = (y.die d).banks := by
  obtain ⟨e, i⟩ := r
  cases i <;> simp [Sys.modCtxOf]
@[simp] theorem Sys.die_setSeq_bmat (y : Sys) (r : SeqRef) (q : SeqSt) (d : Nat) : ((y.setSeq r q).die d).bmat = (y.die d).bmat := by
  obtain ⟨e, i⟩ := r
  cases i <;> simp only [Sys.setSeq, Sys.die_modDie] <;> split <;> simp_all
@[simp] theorem Sys.die_modSeq_bmat (y : Sys) (r : SeqRef) (f : SeqSt → SeqSt) (d : Nat) : ((y.modSeq r f).die d).bmat = (y.die d).bmat :=
  y.die_setSeq_bmat r _ d
@[simp] theorem Sys.die_modCtx_bmat (y : Sys) (e l : Nat) (f : Ctx → Ctx) (d : Nat) : ((y.modCtx e l f).die d).bmat = (y.die d).bmat := by
  simp only [Sys.modCtx, Sys.setCtx, Sys.die_modDie]
  split <;> simp_all
@[simp] theorem Sys.die_modCtxOf_bmat (y : Sys) (r : SeqRef) (f : Ctx → Ctx) (d : Nat) : ((y.modCtxOf r f).die d).bmat = (y.die d).bmat := by
  obtain ⟨e, i⟩ := r
  cases i <;> simp [Sys.modCtxOf]
@[simp] theorem Sys.die_setSeq_pend (y : Sys) (r : SeqRef) (q : SeqSt) (d : Nat) : ((y.setSeq r q).die d).pend = (y.die d).pend := by
  obtain ⟨e, i⟩ := r
  cases i <;> simp only [Sys.setSeq, Sys.die_modDie] <;> split <;> simp_all
@[simp] theorem Sys.die_modSeq_pend (y : Sys) (r : SeqRef) (f : SeqSt → SeqSt) (d : Nat) : ((y.modSeq r f).die d).pend = (y.die d).pend :=
  y.die_setSeq_pend r _ d
@[simp] theorem Sys.die_modCtx_pend (y : Sys) (e l : Nat) (f : Ctx → Ctx) (d : Nat) : ((y.modCtx e l f).die d).pend = (y.die d).pend := by
  simp only [Sys.modCtx, Sys.setCtx, Sys.die_modDie]
  split <;> simp_all
@[simp] theorem Sys.die_modCtxOf_pend (y : Sys) (r : SeqRef) (f : Ctx → Ctx) (d : Nat) : ((y.modCtxOf r f).die d).pend = (y.die d).pend := by
  obtain ⟨e, i⟩ := r
  cases i <;> simp [Sys.modCtxOf]
@[simp] theorem Sys.die_setSeq_pool (y : Sys) (r : SeqRef) (q : SeqSt) (d : Nat) : ((y.setSeq r q).die d).pool = (y.die d).pool := by
  obtain ⟨e, i⟩ := r
  cases i <;> simp only [Sys.setSeq, Sys.die_modDie] <;> split <;> simp_all
@[simp] theorem Sys.die_modSeq_pool (y : Sys) (r : SeqRef) (f : SeqSt → SeqSt) (d : Nat) : ((y.modSeq r f).die d).pool = (y.die d).pool :=
  y.die_setSeq_pool r _ d
@[simp] theorem Sys.die_modCtx_pool (y : Sys) (e l : Nat) (f : Ctx → Ctx) (d : Nat) : ((y.modCtx e l f).die d).pool = (y.die d).pool := by
  simp only [Sys.modCtx, Sys.setCtx, Sys.die_modDie]
  split <;> simp_all
@[simp] theorem Sys.die_modCtxOf_pool (y : Sys) (r : SeqRef) (f : Ctx → Ctx) (d : Nat) : ((y.modCtxOf r f).die d).pool = (y.die d).pool := by
  obtain ⟨e, i⟩ := r
  cases i <;> simp [Sys.modCtxOf]
@[simp] theorem Sys.die_setSeq_risemax (y : Sys) (r : SeqRef) (q : SeqSt) (d : Nat) : ((y.setSeq r q).die d).risemax = (y.die d).risemax := by
  obtain ⟨e, i⟩ := r
  cases i <;> simp only [Sys.setSeq, Sys.die_modDie] <;> split <;> simp_all
@[simp] theorem Sys.die_modSeq_risemax (y : Sys) (r : SeqRef) (f : SeqSt → SeqSt) (d : Nat) : ((y.modSeq r f).die d).risemax = (y.die d).risemax :=
  y.die_setSeq_risemax r _ d
@[simp] theorem Sys.die_modCtx_risemax (y : Sys) (e l : Nat) (f : Ctx → Ctx) (d : Nat) : ((y.modCtx e l f).die d).risemax = (y.die d).risemax := by
  simp only [Sys.modCtx, Sys.setCtx, Sys.die_modDie]
  split <;> simp_all
@[simp] theorem Sys.die_modCtxOf_risemax (y : Sys) (r : SeqRef) (f : Ctx → Ctx) (d : Nat) : ((y.modCtxOf r f).die d).risemax = (y.die d).risemax := by
  obtain ⟨e, i⟩ := r
  cases i <;> simp [Sys.modCtxOf]
@[simp] theorem Sys.die_setSeq_dfloor (y : Sys) (r : SeqRef) (q : SeqSt) (d : Nat) : ((y.setSeq r q).die d).dfloor = (y.die d).dfloor := by
  obtain ⟨e, i⟩ := r
  cases i <;> simp only [Sys.setSeq, Sys.die_modDie] <;> split <;> simp_all
@[simp] theorem Sys.die_modSeq_dfloor (y : Sys) (r : SeqRef) (f : SeqSt → SeqSt) (d : Nat) : ((y.modSeq r f).die d).dfloor = (y.die d).dfloor :=
  y.die_setSeq_dfloor r _ d
@[simp] theorem Sys.die_modCtx_dfloor (y : Sys) (e l : Nat) (f : Ctx → Ctx) (d : Nat) : ((y.modCtx e l f).die d).dfloor = (y.die d).dfloor := by
  simp only [Sys.modCtx, Sys.setCtx, Sys.die_modDie]
  split <;> simp_all
@[simp] theorem Sys.die_modCtxOf_dfloor (y : Sys) (r : SeqRef) (f : Ctx → Ctx) (d : Nat) : ((y.modCtxOf r f).die d).dfloor = (y.die d).dfloor := by
  obtain ⟨e, i⟩ := r
  cases i <;> simp [Sys.modCtxOf]
@[simp] theorem Sys.die_setSeq_dark (y : Sys) (r : SeqRef) (q : SeqSt) (d : Nat) : ((y.setSeq r q).die d).dark = (y.die d).dark := by
  obtain ⟨e, i⟩ := r
  cases i <;> simp only [Sys.setSeq, Sys.die_modDie] <;> split <;> simp_all
@[simp] theorem Sys.die_modSeq_dark (y : Sys) (r : SeqRef) (f : SeqSt → SeqSt) (d : Nat) : ((y.modSeq r f).die d).dark = (y.die d).dark :=
  y.die_setSeq_dark r _ d
@[simp] theorem Sys.die_modCtx_dark (y : Sys) (e l : Nat) (f : Ctx → Ctx) (d : Nat) : ((y.modCtx e l f).die d).dark = (y.die d).dark := by
  simp only [Sys.modCtx, Sys.setCtx, Sys.die_modDie]
  split <;> simp_all
@[simp] theorem Sys.die_modCtxOf_dark (y : Sys) (r : SeqRef) (f : Ctx → Ctx) (d : Nat) : ((y.modCtxOf r f).die d).dark = (y.die d).dark := by
  obtain ⟨e, i⟩ := r
  cases i <;> simp [Sys.modCtxOf]
@[simp] theorem Sys.die_setSeq_skewed (y : Sys) (r : SeqRef) (q : SeqSt) (d : Nat) : ((y.setSeq r q).die d).skewed = (y.die d).skewed := by
  obtain ⟨e, i⟩ := r
  cases i <;> simp only [Sys.setSeq, Sys.die_modDie] <;> split <;> simp_all
@[simp] theorem Sys.die_modSeq_skewed (y : Sys) (r : SeqRef) (f : SeqSt → SeqSt) (d : Nat) : ((y.modSeq r f).die d).skewed = (y.die d).skewed :=
  y.die_setSeq_skewed r _ d
@[simp] theorem Sys.die_modCtx_skewed (y : Sys) (e l : Nat) (f : Ctx → Ctx) (d : Nat) : ((y.modCtx e l f).die d).skewed = (y.die d).skewed := by
  simp only [Sys.modCtx, Sys.setCtx, Sys.die_modDie]
  split <;> simp_all
@[simp] theorem Sys.die_modCtxOf_skewed (y : Sys) (r : SeqRef) (f : Ctx → Ctx) (d : Nat) : ((y.modCtxOf r f).die d).skewed = (y.die d).skewed := by
  obtain ⟨e, i⟩ := r
  cases i <;> simp [Sys.modCtxOf]
@[simp] theorem Sys.die_setSeq_cycles (y : Sys) (r : SeqRef) (q : SeqSt) (d : Nat) : ((y.setSeq r q).die d).cycles = (y.die d).cycles := by
  obtain ⟨e, i⟩ := r
  cases i <;> simp only [Sys.setSeq, Sys.die_modDie] <;> split <;> simp_all
@[simp] theorem Sys.die_modSeq_cycles (y : Sys) (r : SeqRef) (f : SeqSt → SeqSt) (d : Nat) : ((y.modSeq r f).die d).cycles = (y.die d).cycles :=
  y.die_setSeq_cycles r _ d
@[simp] theorem Sys.die_modCtx_cycles (y : Sys) (e l : Nat) (f : Ctx → Ctx) (d : Nat) : ((y.modCtx e l f).die d).cycles = (y.die d).cycles := by
  simp only [Sys.modCtx, Sys.setCtx, Sys.die_modDie]
  split <;> simp_all
@[simp] theorem Sys.die_modCtxOf_cycles (y : Sys) (r : SeqRef) (f : Ctx → Ctx) (d : Nat) : ((y.modCtxOf r f).die d).cycles = (y.die d).cycles := by
  obtain ⟨e, i⟩ := r
  cases i <;> simp [Sys.modCtxOf]
@[simp] theorem Sys.die_setSeq_powered (y : Sys) (r : SeqRef) (q : SeqSt) (d : Nat) : ((y.setSeq r q).die d).powered = (y.die d).powered := by
  obtain ⟨e, i⟩ := r
  cases i <;> simp only [Sys.setSeq, Sys.die_modDie] <;> split <;> simp_all
@[simp] theorem Sys.die_modSeq_powered (y : Sys) (r : SeqRef) (f : SeqSt → SeqSt) (d : Nat) : ((y.modSeq r f).die d).powered = (y.die d).powered :=
  y.die_setSeq_powered r _ d
@[simp] theorem Sys.die_modCtx_powered (y : Sys) (e l : Nat) (f : Ctx → Ctx) (d : Nat) : ((y.modCtx e l f).die d).powered = (y.die d).powered := by
  simp only [Sys.modCtx, Sys.setCtx, Sys.die_modDie]
  split <;> simp_all
@[simp] theorem Sys.die_modCtxOf_powered (y : Sys) (r : SeqRef) (f : Ctx → Ctx) (d : Nat) : ((y.modCtxOf r f).die d).powered = (y.die d).powered := by
  obtain ⟨e, i⟩ := r
  cases i <;> simp [Sys.modCtxOf]

/-! ## A fragment as an entry was issued (09 R182) -/

@[simp] theorem Ctx.asIssued_none (c : Ctx) : c.asIssued none = c := rfl
@[simp] theorem Ctx.asIssued_some_shape (c : Ctx) (s l h w : Nat) : (c.asIssued (some (s, l, h, w))).shape = s := rfl
@[simp] theorem Ctx.asIssued_some_lead (c : Ctx) (s l h w : Nat) : (c.asIssued (some (s, l, h, w))).lead = l := rfl
@[simp] theorem Ctx.asIssued_some_h (c : Ctx) (s l h w : Nat) : (c.asIssued (some (s, l, h, w))).h = h := rfl
@[simp] theorem Ctx.asIssued_some_w (c : Ctx) (s l h w : Nat) : (c.asIssued (some (s, l, h, w))).w = w := rfl
@[simp] theorem Ctx.asIssued_queues (c : Ctx) (g : Option (Nat × Nat × Nat × Nat)) : (c.asIssued g).queues = c.queues := by cases g <;> rfl
@[simp] theorem Ctx.asIssued_chains (c : Ctx) (g : Option (Nat × Nat × Nat × Nat)) : (c.asIssued g).chains = c.chains := by cases g <;> rfl
@[simp] theorem Ctx.asIssued_links (c : Ctx) (g : Option (Nat × Nat × Nat × Nat)) : (c.asIssued g).links = c.links := by cases g <;> rfl
@[simp] theorem Ctx.asIssued_bypass (c : Ctx) (g : Option (Nat × Nat × Nat × Nat)) : (c.asIssued g).bypass = c.bypass := by cases g <;> rfl
@[simp] theorem Ctx.asIssued_grove (c : Ctx) (g : Option (Nat × Nat × Nat × Nat)) : (c.asIssued g).grove = c.grove := by cases g <;> rfl
@[simp] theorem Ctx.asIssued_piece (c : Ctx) (g : Option (Nat × Nat × Nat × Nat)) : (c.asIssued g).piece = c.piece := by cases g <;> rfl
@[simp] theorem Ctx.asIssued_part (c : Ctx) (g : Option (Nat × Nat × Nat × Nat)) : (c.asIssued g).part = c.part := by cases g <;> rfl
@[simp] theorem Ctx.asIssued_fn (c : Ctx) (g : Option (Nat × Nat × Nat × Nat)) : (c.asIssued g).fn = c.fn := by cases g <;> rfl
@[simp] theorem Ctx.asIssued_copies (c : Ctx) (g : Option (Nat × Nat × Nat × Nat)) : (c.asIssued g).copies = c.copies := by cases g <;> rfl
@[simp] theorem Ctx.asIssued_params (c : Ctx) (g : Option (Nat × Nat × Nat × Nat)) : (c.asIssued g).params = c.params := by cases g <;> rfl
@[simp] theorem Ctx.asIssued_routing (c : Ctx) (g : Option (Nat × Nat × Nat × Nat)) : (c.asIssued g).routing = c.routing := by cases g <;> rfl
@[simp] theorem Ctx.asIssued_away (c : Ctx) (g : Option (Nat × Nat × Nat × Nat)) : (c.asIssued g).away = c.away := by cases g <;> rfl
@[simp] theorem Ctx.asIssued_retired (c : Ctx) (g : Option (Nat × Nat × Nat × Nat)) : (c.asIssued g).retired = c.retired := by cases g <;> rfl
@[simp] theorem Ctx.queue_asIssued (c : Ctx) (g : Option (Nat × Nat × Nat × Nat)) (q : Nat) : (c.asIssued g).queue q = c.queue q := by cases g <;> rfl
@[simp] theorem Sys.ctxFor_of_none (y : Sys) (d l : Nat) {e : Entry} (h : e.geo = none) : y.ctxFor d l e = y.ctx d l := by simp [Sys.ctxFor, h]

/-! ## Registers of a sequencer -/

@[simp] theorem SeqSt.rg_zero (q : SeqSt) : q.rg 0 = 0 := rfl
@[simp] theorem SeqSt.wg_zero (q : SeqSt) (v : Word) : q.wg 0 v = q := rfl
@[simp] theorem SeqSt.tag_zero (q : SeqSt) : q.tag 0 = false := rfl

theorem SeqSt.rg_wg_self (q : SeqSt) {d : BitVec 5} (v : Word) (h : d ≠ 0) : (q.wg d v).rg d = v := by
  have h' : ¬d = 0#5 := h
  simp [SeqSt.rg, SeqSt.wg, h']

theorem SeqSt.rg_wg_ne (q : SeqSt) {d a : BitVec 5} (v : Word) (h : a ≠ d) : (q.wg d v).rg a = q.rg a := by
  unfold SeqSt.rg SeqSt.wg
  split
  · rfl
  · split
    · rfl
    · have : d.toNat ≠ a.toNat := fun e => h (BitVec.eq_of_toNat_eq e.symm)
      simp [Vector.getElem_set_ne, this]

@[simp] theorem SeqSt.wg_walks (q : SeqSt) (d : BitVec 5) (v : Word) : (q.wg d v).walks = q.walks := by unfold SeqSt.wg; split <;> rfl
@[simp] theorem SeqSt.wgPoison_walks (q : SeqSt) (d : BitVec 5) (v : Word) : (q.wgPoison d v).walks = q.walks := by unfold SeqSt.wgPoison; split <;> rfl
@[simp] theorem SeqSt.wg_pc (q : SeqSt) (d : BitVec 5) (v : Word) : (q.wg d v).pc = q.pc := by unfold SeqSt.wg; split <;> rfl
@[simp] theorem SeqSt.wgPoison_pc (q : SeqSt) (d : BitVec 5) (v : Word) : (q.wgPoison d v).pc = q.pc := by unfold SeqSt.wgPoison; split <;> rfl
@[simp] theorem SeqSt.wg_npc (q : SeqSt) (d : BitVec 5) (v : Word) : (q.wg d v).npc = q.npc := by unfold SeqSt.wg; split <;> rfl
@[simp] theorem SeqSt.wgPoison_npc (q : SeqSt) (d : BitVec 5) (v : Word) : (q.wgPoison d v).npc = q.npc := by unfold SeqSt.wgPoison; split <;> rfl
@[simp] theorem SeqSt.wg_nnpc (q : SeqSt) (d : BitVec 5) (v : Word) : (q.wg d v).nnpc = q.nnpc := by unfold SeqSt.wg; split <;> rfl
@[simp] theorem SeqSt.wgPoison_nnpc (q : SeqSt) (d : BitVec 5) (v : Word) : (q.wgPoison d v).nnpc = q.nnpc := by unfold SeqSt.wgPoison; split <;> rfl
@[simp] theorem SeqSt.wg_an0 (q : SeqSt) (d : BitVec 5) (v : Word) : (q.wg d v).an0 = q.an0 := by unfold SeqSt.wg; split <;> rfl
@[simp] theorem SeqSt.wgPoison_an0 (q : SeqSt) (d : BitVec 5) (v : Word) : (q.wgPoison d v).an0 = q.an0 := by unfold SeqSt.wgPoison; split <;> rfl
@[simp] theorem SeqSt.wg_an1 (q : SeqSt) (d : BitVec 5) (v : Word) : (q.wg d v).an1 = q.an1 := by unfold SeqSt.wg; split <;> rfl
@[simp] theorem SeqSt.wgPoison_an1 (q : SeqSt) (d : BitVec 5) (v : Word) : (q.wgPoison d v).an1 = q.an1 := by unfold SeqSt.wgPoison; split <;> rfl
@[simp] theorem SeqSt.wg_steward (q : SeqSt) (d : BitVec 5) (v : Word) : (q.wg d v).steward = q.steward := by unfold SeqSt.wg; split <;> rfl
@[simp] theorem SeqSt.wgPoison_steward (q : SeqSt) (d : BitVec 5) (v : Word) : (q.wgPoison d v).steward = q.steward := by unfold SeqSt.wgPoison; split <;> rfl
@[simp] theorem SeqSt.wg_ae (q : SeqSt) (d : BitVec 5) (v : Word) : (q.wg d v).ae = q.ae := by unfold SeqSt.wg; split <;> rfl
@[simp] theorem SeqSt.wgPoison_ae (q : SeqSt) (d : BitVec 5) (v : Word) : (q.wgPoison d v).ae = q.ae := by unfold SeqSt.wgPoison; split <;> rfl
@[simp] theorem SeqSt.wg_prq (q : SeqSt) (d : BitVec 5) (v : Word) : (q.wg d v).prq = q.prq := by unfold SeqSt.wg; split <;> rfl
@[simp] theorem SeqSt.wgPoison_prq (q : SeqSt) (d : BitVec 5) (v : Word) : (q.wgPoison d v).prq = q.prq := by unfold SeqSt.wgPoison; split <;> rfl
@[simp] theorem SeqSt.wg_nestStat (q : SeqSt) (d : BitVec 5) (v : Word) : (q.wg d v).nestStat = q.nestStat := by unfold SeqSt.wg; split <;> rfl
@[simp] theorem SeqSt.wgPoison_nestStat (q : SeqSt) (d : BitVec 5) (v : Word) : (q.wgPoison d v).nestStat = q.nestStat := by unfold SeqSt.wgPoison; split <;> rfl
@[simp] theorem SeqSt.wg_nestTop (q : SeqSt) (d : BitVec 5) (v : Word) : (q.wg d v).nestTop = q.nestTop := by unfold SeqSt.wg; split <;> rfl
@[simp] theorem SeqSt.wgPoison_nestTop (q : SeqSt) (d : BitVec 5) (v : Word) : (q.wgPoison d v).nestTop = q.nestTop := by unfold SeqSt.wgPoison; split <;> rfl
@[simp] theorem SeqSt.wg_nestBuf (q : SeqSt) (d : BitVec 5) (v : Word) : (q.wg d v).nestBuf = q.nestBuf := by unfold SeqSt.wg; split <;> rfl
@[simp] theorem SeqSt.wgPoison_nestBuf (q : SeqSt) (d : BitVec 5) (v : Word) : (q.wgPoison d v).nestBuf = q.nestBuf := by unfold SeqSt.wgPoison; split <;> rfl
@[simp] theorem SeqSt.wg_trapCause (q : SeqSt) (d : BitVec 5) (v : Word) : (q.wg d v).trapCause = q.trapCause := by unfold SeqSt.wg; split <;> rfl
@[simp] theorem SeqSt.wgPoison_trapCause (q : SeqSt) (d : BitVec 5) (v : Word) : (q.wgPoison d v).trapCause = q.trapCause := by unfold SeqSt.wgPoison; split <;> rfl
@[simp] theorem SeqSt.wg_trapPc0 (q : SeqSt) (d : BitVec 5) (v : Word) : (q.wg d v).trapPc0 = q.trapPc0 := by unfold SeqSt.wg; split <;> rfl
@[simp] theorem SeqSt.wgPoison_trapPc0 (q : SeqSt) (d : BitVec 5) (v : Word) : (q.wgPoison d v).trapPc0 = q.trapPc0 := by unfold SeqSt.wgPoison; split <;> rfl
@[simp] theorem SeqSt.wg_trapPc1 (q : SeqSt) (d : BitVec 5) (v : Word) : (q.wg d v).trapPc1 = q.trapPc1 := by unfold SeqSt.wg; split <;> rfl
@[simp] theorem SeqSt.wgPoison_trapPc1 (q : SeqSt) (d : BitVec 5) (v : Word) : (q.wgPoison d v).trapPc1 = q.trapPc1 := by unfold SeqSt.wgPoison; split <;> rfl
@[simp] theorem SeqSt.wg_trapPc2 (q : SeqSt) (d : BitVec 5) (v : Word) : (q.wg d v).trapPc2 = q.trapPc2 := by unfold SeqSt.wg; split <;> rfl
@[simp] theorem SeqSt.wgPoison_trapPc2 (q : SeqSt) (d : BitVec 5) (v : Word) : (q.wgPoison d v).trapPc2 = q.trapPc2 := by unfold SeqSt.wgPoison; split <;> rfl
@[simp] theorem SeqSt.wg_trapAnn (q : SeqSt) (d : BitVec 5) (v : Word) : (q.wg d v).trapAnn = q.trapAnn := by unfold SeqSt.wg; split <;> rfl
@[simp] theorem SeqSt.wgPoison_trapAnn (q : SeqSt) (d : BitVec 5) (v : Word) : (q.wgPoison d v).trapAnn = q.trapAnn := by unfold SeqSt.wgPoison; split <;> rfl
@[simp] theorem SeqSt.wg_trapAddr0 (q : SeqSt) (d : BitVec 5) (v : Word) : (q.wg d v).trapAddr0 = q.trapAddr0 := by unfold SeqSt.wg; split <;> rfl
@[simp] theorem SeqSt.wgPoison_trapAddr0 (q : SeqSt) (d : BitVec 5) (v : Word) : (q.wgPoison d v).trapAddr0 = q.trapAddr0 := by unfold SeqSt.wgPoison; split <;> rfl
@[simp] theorem SeqSt.wg_trapAddr1 (q : SeqSt) (d : BitVec 5) (v : Word) : (q.wg d v).trapAddr1 = q.trapAddr1 := by unfold SeqSt.wg; split <;> rfl
@[simp] theorem SeqSt.wgPoison_trapAddr1 (q : SeqSt) (d : BitVec 5) (v : Word) : (q.wgPoison d v).trapAddr1 = q.trapAddr1 := by unfold SeqSt.wgPoison; split <;> rfl
@[simp] theorem SeqSt.wg_trapNstat (q : SeqSt) (d : BitVec 5) (v : Word) : (q.wg d v).trapNstat = q.trapNstat := by unfold SeqSt.wg; split <;> rfl
@[simp] theorem SeqSt.wgPoison_trapNstat (q : SeqSt) (d : BitVec 5) (v : Word) : (q.wgPoison d v).trapNstat = q.trapNstat := by unfold SeqSt.wgPoison; split <;> rfl
@[simp] theorem SeqSt.wg_trapNtop (q : SeqSt) (d : BitVec 5) (v : Word) : (q.wg d v).trapNtop = q.trapNtop := by unfold SeqSt.wg; split <;> rfl
@[simp] theorem SeqSt.wgPoison_trapNtop (q : SeqSt) (d : BitVec 5) (v : Word) : (q.wgPoison d v).trapNtop = q.trapNtop := by unfold SeqSt.wgPoison; split <;> rfl
@[simp] theorem SeqSt.wg_scr (q : SeqSt) (d : BitVec 5) (v : Word) : (q.wg d v).scr = q.scr := by unfold SeqSt.wg; split <;> rfl
@[simp] theorem SeqSt.wgPoison_scr (q : SeqSt) (d : BitVec 5) (v : Word) : (q.wgPoison d v).scr = q.scr := by unfold SeqSt.wgPoison; split <;> rfl
@[simp] theorem SeqSt.wg_csel (q : SeqSt) (d : BitVec 5) (v : Word) : (q.wg d v).csel = q.csel := by unfold SeqSt.wg; split <;> rfl
@[simp] theorem SeqSt.wgPoison_csel (q : SeqSt) (d : BitVec 5) (v : Word) : (q.wgPoison d v).csel = q.csel := by unfold SeqSt.wgPoison; split <;> rfl
@[simp] theorem SeqSt.wg_fetch (q : SeqSt) (d : BitVec 5) (v : Word) : (q.wg d v).fetch = q.fetch := by unfold SeqSt.wg; split <;> rfl
@[simp] theorem SeqSt.wgPoison_fetch (q : SeqSt) (d : BitVec 5) (v : Word) : (q.wgPoison d v).fetch = q.fetch := by unfold SeqSt.wgPoison; split <;> rfl
@[simp] theorem SeqSt.wg_icache (q : SeqSt) (d : BitVec 5) (v : Word) : (q.wg d v).icache = q.icache := by unfold SeqSt.wg; split <;> rfl
@[simp] theorem SeqSt.wgPoison_icache (q : SeqSt) (d : BitVec 5) (v : Word) : (q.wgPoison d v).icache = q.icache := by unfold SeqSt.wgPoison; split <;> rfl
@[simp] theorem SeqSt.wg_stopped (q : SeqSt) (d : BitVec 5) (v : Word) : (q.wg d v).stopped = q.stopped := by unfold SeqSt.wg; split <;> rfl
@[simp] theorem SeqSt.wgPoison_stopped (q : SeqSt) (d : BitVec 5) (v : Word) : (q.wgPoison d v).stopped = q.stopped := by unfold SeqSt.wgPoison; split <;> rfl

end Sys2Proof.Machine
end

