-- ==== Sys2Proof/Laws/Steps.lean ====
section
/-! SUPPORT. What the shared operations of a sequencer's step do: the advance of the PCs, and the step of an instruction that changes
general registers only. -/

namespace Sys2Proof.Machine

/-! ## Loop state -/

theorem nestIter_bump (v : Word) (i : Nat) (h : i < 2 ^ 40) :
    nestIter (v - BitVec.ofNat 64 (nestIter v) + BitVec.ofNat 64 (i % 2 ^ 40)) = i := by
  unfold nestIter bitsOf
  simp only [BitVec.toNat_add, BitVec.toNat_sub, BitVec.toNat_ofNat]
  have := v.isLt
  omega

/-! ## The advance -/

section advance
variable (q : SeqSt) (len : Nat) (j : Option Jump)

/-- The advance, by whether a loop goes round or ends here. -/
theorem SeqSt.succ_plain (h1 : q.loopsBack len = false) (h2 : q.leavesNest len = false) :
    q.succ len = (q, q.pc + BitVec.ofNat 64 len) := by
  unfold SeqSt.succ
  unfold SeqSt.loopsBack at h1
  unfold SeqSt.leavesNest at h2
  by_cases ha : nestAct q.nestStat = true ∧ q.pc + BitVec.ofNat 64 len = nestEnd q
  · rw [ha.1, ha.2] at h1 h2
    simp only [BEq.rfl, Bool.and_self, Bool.true_and, decide_eq_false_iff_not, Bool.not_eq_false', decide_eq_true_eq] at h1 h2
    omega
  · rw [← decide_eq_true_iff (p := _ = nestEnd q), ← Bool.and_eq_true] at ha
    simp only [ha, Bool.false_eq_true, if_false]

theorem SeqSt.succ_leaves (h : q.leavesNest len = true) :
    q.succ len = ({ q with nestStat := 0, nestBuf := [] }, q.pc + BitVec.ofNat 64 len) := by
  unfold SeqSt.leavesNest at h
  simp only [Bool.and_eq_true, beq_iff_eq, Bool.not_eq_true', decide_eq_false_iff_not] at h
  unfold SeqSt.succ
  simp [h.1.1, h.1.2, h.2]

theorem SeqSt.succ_loops (h : q.loopsBack len = true) :
    q.succ len = ({ (q.wg (nestDreg q.nestStat) ((q.wk (nestWalk q.nestStat)).addr (nestIter q.nestStat + 1))) with
        nestStat := q.nestStat - BitVec.ofNat 64 (nestIter q.nestStat) + BitVec.ofNat 64 ((nestIter q.nestStat + 1) % 2 ^ 40) },
      q.nestTop) := by
  unfold SeqSt.loopsBack at h
  simp only [Bool.and_eq_true, beq_iff_eq, decide_eq_true_eq] at h
  unfold SeqSt.succ
  simp only [h.1.1, h.1.2, h.2, Bool.and_self, decide_true, if_true]
  split
  · rename_i e
    rw [e]
    simp [SeqSt.wg]
  · rfl

theorem SeqSt.loops_not_leaves (h : q.loopsBack len = true) : q.leavesNest len = false := by
  unfold SeqSt.loopsBack at h
  unfold SeqSt.leavesNest
  simp only [Bool.and_eq_true] at h
  simp [h.2]

theorem SeqSt.advance_pcs : PcsMoved q (q.advance len j) len j := by
  cases h1 : q.loopsBack len
  · cases h2 : q.leavesNest len
    · constructor <;> simp [SeqSt.advance, SeqSt.succ_plain q len h1 h2, SeqSt.follow, h1] <;> cases j <;> simp
    · constructor <;> simp [SeqSt.advance, SeqSt.succ_leaves q len h2, SeqSt.follow, h1] <;> cases j <;> simp
  · constructor <;> simp [SeqSt.advance, SeqSt.succ_loops q len h1, SeqSt.follow, h1] <;> cases j <;> simp

theorem SeqSt.rg_congr {p u : SeqSt} (a : BitVec 5) (h : p.g = u.g) : p.rg a = u.rg a := by simp [SeqSt.rg, h]
theorem SeqSt.tag_congr {p u : SeqSt} (a : BitVec 5) (h : p.tags = u.tags) : p.tag a = u.tag a := by simp [SeqSt.tag, h]

theorem shl_one_getLsbD (i j : Nat) (_hi : i < 32) (hj : j < 32) : (1#32 <<< i).getLsbD j = decide (i = j) := by
  simp only [BitVec.getLsbD_shiftLeft, BitVec.getLsbD_one, hj]
  by_cases h : i = j
  · subst h
    simp
  · by_cases h2 : j < i
    · simp [h2, h]
    · have : j - i ≠ 0 := by omega
      simp [h, this]

theorem SeqSt.tag_wg_self {d : BitVec 5} (v : Word) (h : d ≠ 0) : (q.wg d v).tag d = false := by
  have h' : ¬d = 0#5 := h
  simp [SeqSt.tag, SeqSt.wg, h']

theorem SeqSt.tag_wg_ne {d a : BitVec 5} (v : Word) (h : a ≠ d) : (q.wg d v).tag a = q.tag a := by
  unfold SeqSt.tag SeqSt.wg
  split
  · rfl
  · have ha : a.toNat < 32 := a.isLt
    have hd : d.toNat < 32 := d.isLt
    have hne : ¬d.toNat = a.toNat := fun e => h (BitVec.eq_of_toNat_eq e.symm)
    rw [BitVec.getLsbD_and, BitVec.getLsbD_not, shl_one_getLsbD _ _ hd ha]
    simp [ha, hne]

theorem SeqSt.rg_wgPoison_self {d : BitVec 5} (v : Word) (h : d ≠ 0) : (q.wgPoison d v).rg d = v := by
  have h' : ¬d = 0#5 := h
  simp [SeqSt.rg, SeqSt.wgPoison, h']

theorem SeqSt.rg_wgPoison_ne {d a : BitVec 5} (v : Word) (h : a ≠ d) : (q.wgPoison d v).rg a = q.rg a := by
  unfold SeqSt.rg SeqSt.wgPoison
  split
  · rfl
  · split
    · rfl
    · have : d.toNat ≠ a.toNat := fun e => h (BitVec.eq_of_toNat_eq e.symm)
      simp [Vector.getElem_set_ne, this]

theorem SeqSt.tag_wgPoison_self {d : BitVec 5} (v : Word) (h : d ≠ 0) : (q.wgPoison d v).tag d = true := by
  have h' : ¬d = 0#5 := h
  have hd : d.toNat < 32 := d.isLt
  simp [SeqSt.tag, SeqSt.wgPoison, h', hd]

theorem SeqSt.tag_wgPoison_ne {d a : BitVec 5} (v : Word) (h : a ≠ d) : (q.wgPoison d v).tag a = q.tag a := by
  unfold SeqSt.tag SeqSt.wgPoison
  split
  · rfl
  · have ha : a.toNat < 32 := a.isLt
    have hd : d.toNat < 32 := d.isLt
    have hne : ¬d.toNat = a.toNat := fun e => h (BitVec.eq_of_toNat_eq e.symm)
    rw [BitVec.getLsbD_or, shl_one_getLsbD _ _ hd ha]
    simp [hne]

/-- What the advance leaves of the registers. -/
theorem SeqSt.advance_regs : RegsKept q (q.advance len j) len [] := by
  intro a _ hn
  cases h1 : q.loopsBack len
  · cases h2 : q.leavesNest len
    · simp only [SeqSt.advance, SeqSt.succ_plain q len h1 h2]
      exact ⟨rfl, rfl⟩
    · simp only [SeqSt.advance, SeqSt.succ_leaves q len h2]
      exact ⟨rfl, rfl⟩
  · simp only [SeqSt.advance, SeqSt.succ_loops q len h1]
    exact ⟨SeqSt.rg_wg_ne q _ (hn h1), SeqSt.tag_wg_ne q _ (hn h1)⟩

theorem SeqSt.advance_nest : NestMoved q (q.advance len j) len where
  stays h1 h2 := by simp [SeqSt.advance, SeqSt.succ_plain q len h1 h2]
  ends h2 := by simp [SeqSt.advance, SeqSt.succ_leaves q len h2]
  again h1 hi := by
    simp only [SeqSt.advance, SeqSt.succ_loops q len h1, SeqSt.wg_nestBuf, true_and]
    exact ⟨nestIter_bump _ _ hi, fun hd => SeqSt.rg_wg_self q _ hd⟩

theorem SeqSt.advance_kept : SeqKept q (q.advance len j) := by
  cases h1 : q.loopsBack len
  · cases h2 : q.leavesNest len
    · constructor <;> simp [SeqSt.advance, SeqSt.succ_plain q len h1 h2]
    · constructor <;> simp [SeqSt.advance, SeqSt.succ_leaves q len h2]
  · constructor <;> simp [SeqSt.advance, SeqSt.succ_loops q len h1]

theorem SeqSt.advance_walks : (q.advance len j).walks = q.walks := by
  cases h1 : q.loopsBack len
  · cases h2 : q.leavesNest len
    · simp [SeqSt.advance, SeqSt.succ_plain q len h1 h2]
    · simp [SeqSt.advance, SeqSt.succ_leaves q len h2]
  · simp [SeqSt.advance, SeqSt.succ_loops q len h1]

end advance

/-! ## A step that changes general registers only -/

theorem progress_seq (y : Sys) (r s : SeqRef) : (progress y r).seq s = y.seq s := by simp [progress]

theorem devByte_congr {y z : Sys} (h : z.mems = y.mems) (md pa : Nat) : devByte z md pa = devByte y md pa := by
  simp [devByte, Sys.memDie, h]

/-- A step that writes registers of the current sequencer only keeps every byte. -/
theorem bytesKept_seq (y : Sys) (r : SeqRef) (q : SeqSt) : BytesKept y (progress (y.setSeq r q) r) where
  dev md pa := devByte_congr (by simp [progress]) md pa
  cell x := by
    unfold Sys.cell
    split <;> simp [progress, Die.slice]

/-- What the advance leaves, from registers `q` that differ from `p` in the general registers of `w` only. -/
theorem seqStepped_of (p q : SeqSt) (len : Nat) (j : Option Jump) (w : List (BitVec 5))
    (h : q = { p with g := q.g, tags := q.tags }) (hr : ∀ a, a ∉ w → q.rg a = p.rg a ∧ q.tag a = p.tag a) :
    SeqStepped p (q.advance len j) len w j := by
  have hl : q.loopsBack len = p.loopsBack len := by rw [h]; rfl
  have hv : q.leavesNest len = p.leavesNest len := by rw [h]; rfl
  have hf : q.follow len = p.follow len := by rw [h]; rfl
  have e1 : q.npc = p.npc := by rw [h]
  have e2 : q.nnpc = p.nnpc := by rw [h]
  have e3 : q.an1 = p.an1 := by rw [h]
  have e4 : q.nestStat = p.nestStat := by rw [h]
  have e5 : q.nestBuf = p.nestBuf := by rw [h]
  have e6 : q.walks = p.walks := by rw [h]
  have e7 (k : BitVec 3) : q.wk k = p.wk k := by rw [h]; rfl
  refine ⟨?_, ?_, ?_, ?_, ?_⟩
  · have := q.advance_pcs len j
    exact ⟨by rw [this.pc, hf, e1], by rw [this.npc, e2], this.nnpc, by rw [this.an0, e3], this.an1⟩
  · have := q.advance_nest len j
    exact ⟨by rw [← hl, ← hv, ← e4, ← e5]; exact this.stays, by rw [← hv]; exact this.ends,
      by rw [← hl, ← e4, ← e5, ← e7]; exact this.again⟩
  · intro a ha hx
    have := q.advance_regs len j a (by simp) (by rw [hl, e4]; exact hx)
    exact ⟨this.1.trans (hr a ha).1, this.2.trans (hr a ha).2⟩
  · rw [q.advance_walks, e6]
  · have k := q.advance_kept len j
    constructor
    all_goals first
      | exact k.steward.trans (by rw [h]) | exact k.ae.trans (by rw [h]) | exact k.prq.trans (by rw [h])
      | exact k.nestTop.trans (by rw [h]) | exact k.trapCause.trans (by rw [h]) | exact k.trapPc0.trans (by rw [h])
      | exact k.trapPc1.trans (by rw [h]) | exact k.trapPc2.trans (by rw [h]) | exact k.trapAnn.trans (by rw [h])
      | exact k.trapAddr0.trans (by rw [h]) | exact k.trapAddr1.trans (by rw [h]) | exact k.trapNstat.trans (by rw [h])
      | exact k.trapNtop.trans (by rw [h]) | exact k.scr.trans (by rw [h]) | exact k.csel.trans (by rw [h])
      | exact k.fetch.trans (by rw [h]) | exact k.icache.trans (by rw [h]) | exact k.stopped.trans (by rw [h])

theorem stepped_of (s : State) (len : Nat) (j : Option Jump) (w : List (BitVec 5)) (q : SeqSt)
    (h : q = { s.now with g := q.g, tags := q.tags })
    (hr : ∀ a, a ∉ w → q.rg a = s.now.rg a ∧ q.tag a = s.now.tag a) :
    Stepped s { s with sys := progress (s.sys.setSeq s.cur (q.advance len j)) s.cur } len w j := by
  have hn : (State.now { s with sys := progress (s.sys.setSeq s.cur (q.advance len j)) s.cur }) = q.advance len j := by
    simp [State.now, progress_seq]
  refine ⟨?_, ?_, bytesKept_seq _ _ _⟩
  · rw [hn]
    exact seqStepped_of _ q len j w h hr
  · unfold OnlySeq
    rw [hn]

/-- The end of an instruction whose effect is on the general registers of its sequencer. -/
theorem commit_done (r : SeqRef) (y : Sys) (len : Nat) (f : SeqSt → SeqSt) :
    commit r y len (done y r f) = progress (y.setSeq r ((f (y.seq r)).advance len none)) r := by
  simp [commit, done, Sys.modSeq]

theorem commit_jump (r : SeqRef) (y : Sys) (len : Nat) (j : Option Jump) :
    commit r y len (.ok y j) = progress (y.setSeq r ((y.seq r).advance len j)) r := rfl

theorem wg_frame (q : SeqSt) (d : BitVec 5) (v : Word) : q.wg d v = { q with g := (q.wg d v).g, tags := (q.wg d v).tags } := by
  unfold SeqSt.wg; split <;> rfl

theorem wgPoison_frame (q : SeqSt) (d : BitVec 5) (v : Word) :
    q.wgPoison d v = { q with g := (q.wgPoison d v).g, tags := (q.wgPoison d v).tags } := by
  unfold SeqSt.wgPoison; split <;> rfl

/-- The next state after gD has been written. -/
theorem wrote_of (s : State) (len : Nat) (d : BitVec 5) (v : Word) :
    Wrote s len d v { s with sys := progress (s.sys.setSeq s.cur ((s.now.wg d v).advance len none)) s.cur } := by
  have st := stepped_of s len none [d] (s.now.wg d v) (wg_frame _ _ _)
    (fun a ha => by
      have : a ≠ d := by simpa using ha
      exact ⟨SeqSt.rg_wg_ne _ _ this, SeqSt.tag_wg_ne _ _ this⟩)
  refine ⟨⟨rfl, rfl, fun hd hl => ?_⟩, st⟩
  have hn : (State.now { s with sys := progress (s.sys.setSeq s.cur ((s.now.wg d v).advance len none)) s.cur }) =
      (s.now.wg d v).advance len none := by simp [State.now, progress_seq]
  have hb : (s.now.wg d v).loopsBack len = s.now.loopsBack len := by
    rw [wg_frame]
    rfl
  have := (s.now.wg d v).advance_regs len none d (by simp) (by rw [hb, SeqSt.wg_nestStat]; exact hl)
  unfold State.g
  rw [hn, this.1, this.2]
  exact ⟨SeqSt.rg_wg_self _ _ hd, SeqSt.tag_wg_self _ _ hd⟩

theorem carried_of (s : State) (len : Nat) (d : BitVec 5) (v : Word) :
    Carried s len d v { s with sys := progress (s.sys.setSeq s.cur ((s.now.wgPoison d v).advance len none)) s.cur } := by
  have st := stepped_of s len none [d] (s.now.wgPoison d v) (wgPoison_frame _ _ _)
    (fun a ha => by
      have : a ≠ d := by simpa using ha
      exact ⟨SeqSt.rg_wgPoison_ne _ _ this, SeqSt.tag_wgPoison_ne _ _ this⟩)
  refine ⟨⟨rfl, rfl, fun hd hl => ?_⟩, st⟩
  have hn : (State.now { s with sys := progress (s.sys.setSeq s.cur ((s.now.wgPoison d v).advance len none)) s.cur }) =
      (s.now.wgPoison d v).advance len none := by simp [State.now, progress_seq]
  have hb : (s.now.wgPoison d v).loopsBack len = s.now.loopsBack len := by
    rw [wgPoison_frame]
    rfl
  have := (s.now.wgPoison d v).advance_regs len none d (by simp) (by rw [hb, SeqSt.wgPoison_nestStat]; exact hl)
  unfold State.g
  rw [hn, this.1, this.2]
  exact ⟨SeqSt.rg_wgPoison_self _ _ hd, SeqSt.tag_wgPoison_self _ _ hd⟩

/-- The next state after a step that wrote nothing. -/
theorem passed_of (s : State) (len : Nat) (j : Option Jump) :
    Stepped s { s with sys := progress (s.sys.setSeq s.cur (s.now.advance len j)) s.cur } len [] j :=
  stepped_of s len j [] s.now rfl (fun _ _ => ⟨rfl, rfl⟩)

end Sys2Proof.Machine
end

