-- ==== Sys2Proof/Tests/Slice0.lean ====
section
/-! SUPPORT. The tests: ill-formed terms that the check refuses, words of every family written out from the spec's encodings, and for
each statement states that meet its hypotheses. -/

open Sys2Proof Sys2Proof.Machine

namespace Sys2Proof.Tests

/-! ## Ill-formed terms, one for each check of Sys2Proof/WellFormed.lean -/

def plainFields : Common := ⟨0, 0, 0, 0, 0, 0, 0⟩

/-- 05 R126: a form of 3 is reserved. -/
theorem test_illformed_branch : (Instr.beq 1 2 3 0).wf = false ∧ (Instr.dbnz 1 3 0).wf = false ∧ (Instr.j 3 0).wf = false ∧ (Instr.bzf 1 3 0).wf = false := by decide
/-- 12 R305, 15 R352, R353, 18 R387, R388, 20 R405: numbers that no rule assigns. -/
theorem test_illformed_numbers : (Instr.tlGet 1 7).wf = false ∧ (Instr.tlWait 12 1).wf = false ∧ (Instr.gvStat 1 7).wf = false ∧ (Instr.gvStat 1 11).wf = false ∧
    (Instr.gvSet 8 1).wf = false ∧ (Instr.lsAsk 1 1).wf = false ∧ (Instr.lsDrop 12).wf = false ∧ (Instr.lsStat 1 8).wf = false ∧ (Instr.mfc 1 0x0A).wf = false ∧
    (Instr.mtc 0x4C 1).wf = false := by decide
/-- 05 R121: dimensions 6 and 7 do not exist. -/
theorem test_illformed_walk : (Instr.wbnd 0 6 1 0).wf = false ∧ (Instr.wstr 0 7 1 0).wf = false := by decide
/-- 03 R66, R67: a semaphore that is not in use is 0. -/
theorem test_illformed_common : (Instr.mxSpm 0 { plainFields with wsem := 1 }).wf = false ∧ (Instr.mxSpm 0 { plainFields with ssem := 1 }).wf = false ∧
    (Instr.cpBlk 0 0 { plainFields with scope := 1 }).wf = false := by decide
/-- 09 R179, R193, R195, R198, R199: reserved codes and unused fields of the matrix commands. -/
theorem test_illformed_matrix : (Instr.mxLdb 0 3 0 plainFields).wf = false ∧ (Instr.mxRun 0 0 0 3 0 plainFields).wf = false ∧ (Instr.mxRun 0 0 0 0 3 plainFields).wf = false ∧
    (Instr.mxRun 1 0 0 0 1 plainFields).wf = false ∧ (Instr.mxClr 1 true plainFields).wf = false ∧ (Instr.mxDead 0 true { plainFields with step := 1 }).wf = false ∧
    (Instr.mxChn 1 false plainFields).wf = false ∧ (Instr.mxByp true { plainFields with step := 1 }).wf = false ∧ (Instr.mxSpl 0 { plainFields with rep := 1 }).wf = false ∧
    (Instr.mxFrm { plainFields with wth := 1 }).wf = false := by decide
/-- 10 R214: reserved codes and unused fields of the strip commands. -/
theorem test_illformed_strip : (Instr.xbBind 0 { plainFields with step := 1 }).wf = false ∧ (Instr.xbProg 0 0 { plainFields with rep := 1 }).wf = false ∧
    (Instr.xbFeed 0 0 0 0 6 plainFields).wf = false ∧ (Instr.xbFeed 0 0 1 4 0 plainFields).wf = false ∧ (Instr.xbTake 0 0 1 0 plainFields).wf = false ∧
    (Instr.xbSeed 0 0 5 plainFields).wf = false := by decide
/-- 03 R70, R71, 04 R102, 10 R208, R210, R222 to R237: guards, types, modifiers, destinations and predicate numbers of the strip words. -/
theorem test_illformed_words : (Instr.xAdd 0 0 1 0 2 12).wf = false ∧ (Instr.xAdd 0 7 1 0 2 15).wf = false ∧ (Instr.xAdd 5 0 1 0 2 15).wf = false ∧
    (Instr.xAdd 2 3 1 0 2 15).wf = false ∧ (Instr.xAdd 0 0 1 0 14 15).wf = false ∧ (Instr.xAnd 0 0 1 0 2 15).wf = false ∧ (Instr.xAbs 1 0 1 2 15).wf = false ∧
    (Instr.xFma 0 3 1 0 2 15).wf = false ∧ (Instr.xFma 5 0 1 0 2 15).wf = false ∧ (Instr.xFma 0 0 1 0 15 15).wf = false ∧ (Instr.xCvt 7 0 0 1 2 15).wf = false ∧
    (Instr.xCvtn 0 7 0 1 2 15).wf = false ∧ (Instr.xCvtn 0 5 3 1 2 15).wf = false ∧ (Instr.xCvtw 0 5 3 1 2 15).wf = false ∧ (Instr.xPack 0 1 0 0 1 0).wf = false ∧
    (Instr.xCeq 0 1 0 6 15).wf = false ∧ (Instr.xCun 3 1 0 0 15).wf = false ∧ (Instr.xSel 12 1 0 2 15).wf = false ∧ (Instr.xPand 0 12 0 0 15).wf = false ∧
    (Instr.xPmovToP 7 1 0 15).wf = false ∧ (Instr.xPmovToV 0 12 0 15).wf = false ∧ (Instr.xRsum 4 0 1 2 15).wf = false ∧ (Instr.xShp 14 1).wf = false ∧
    (Instr.xMode 7 0 1).wf = false := by decide

/-! ## Words written out from the encodings -/

/-- 05 R108: `add`, opcode 0x01: D 3 in [14:10], A 4 in [19:15], B 5 in [24:20]. -/
theorem test_decode_add : decodeSeq (1 * 2 ^ 2 + 3 * 2 ^ 10 + 4 * 2 ^ 15 + 5 * 2 ^ 20) = .ok (.add 3 4 5) := rfl
/-- 05 R110: `addi`, opcode 0x20, with the immediate in [31:20]. -/
theorem test_decode_addi : decodeSeq (0x20 * 2 ^ 2 + 1 * 2 ^ 10 + 2 * 2 ^ 15 + 0x800 * 2 ^ 20) = .ok (.addi 1 2 0x800) := rfl
/-- 05 R111: `li`, 48 bits, opcode 0x00, D in [14:10], the immediate in [47:16]. -/
theorem test_decode_li : decodeSeq (1 + 7 * 2 ^ 10 + 0x8000_0001 * 2 ^ 16) = .ok (.li 7 0x8000_0001) := rfl
/-- 05 R116: `vouch` of the spec's example. -/
theorem test_decode_vouch : decodeSeq 0x0120_8144 = .ok (.vouch 1 0x12) := rfl
/-- 05 R126: `bne.at g7, g0, -6` of the spec's example. -/
theorem test_decode_bne : decodeSeq 0xFEA0_1D84 = .ok (.bne 7 0 2 0x3FA) := rfl
/-- 05 R121: `wbnd w1, d1, g0, 2` of the spec's example. -/
theorem test_decode_wbnd : decodeSeq 0x0000_0002_0000_268E = .ok (.wbnd 1 1 0 2) := rfl
/-- 12 R305: `tl.wait tl.c0, g7` of the spec's example. -/
theorem test_decode_tlwait : decodeSeq 0x0083_8210 = .ok (.tlWait 8 7) := rfl
/-- 12 R306: `fence.p` of the spec's example. -/
theorem test_decode_fence : decodeSeq 0x2000_021C = .ok .fenceP := rfl
/-- 20 R407: `trap 5`, `brk 0`, `yield`, `tend` and `nop` as the rule writes them. -/
theorem test_decode_system : decodeSeq 0x0050_0288 = .ok (.trap 5) ∧ decodeSeq 0x28C = .ok (.brk 0) ∧ decodeSeq 0x290 = .ok .yield ∧ decodeSeq 0x294 = .ok .tend ∧
    decodeSeq 0x298 = .ok .nop := ⟨rfl, rfl, rfl, rfl, rfl⟩
/-- 20 R412: `csave self, g6` of the spec's example. -/
theorem test_decode_csave : decodeSeq 0x0FF3_02C4 = .ok (.csave 0xFF 6) := rfl
/-- 12 R274: `cp.gat c0, w2` and `cp.amor c0, w3` of the spec's examples. -/
theorem test_decode_copy : decodeSeq 0x1000_0000_0000_0112 = .ok (.cpGat 0 2 plainFields) ∧ decodeSeq 0x1800_0000_0000_012A = .ok (.cpAmor 0 3 plainFields) := ⟨rfl, rfl⟩
/-- 10 R225: `x.add.f32 v15, v14, v15` of the spec's example. -/
theorem test_decode_xadd : decodeStrip 0x007F_7F80 = .ok (.xAdd 0 0 15 14 15 15) := rfl
/-- 05 R135, 20 R414: `tret` is 0x1C4; the function of `clm` is not in its word. -/
theorem test_decode_steward : decodeSeq 0x1C4 = .ok .tret ∧ decodeSeq (3 * 2 ^ 20 + 4 * 2 ^ 15 + 0x2CC) = .ok (.clmStart 3 4) := ⟨rfl, rfl⟩
/-- 03 R57, R62, 04 R98, R102: LEN 3, an unassigned opcode, a reserved field, a reserved guard and a reserved TYPE are refused by name. -/
theorem test_decode_refused : decodeSeq 3 = .error .illegal ∧ decodeSeq (0xFF * 4) = .error .illegal ∧ decodeSeq 0x8000_0298 = .error .illegal ∧
    decodeSeq 0x0001_01C4 = .error .reserved ∧ decodeStrip 0x007F_7E00 = .error .strip ∧ decodeStrip 0x03FF_7F80 = .error .reserved := ⟨rfl, rfl, rfl, rfl, rfl, rfl⟩
/-- 95: an event has no word. -/
theorem test_encode_event : encode .governorTick = none ∧ encode (.clmPreq 1 2) = none := by decide


/-! ## Small states -/

/-- Registers by number. -/
def regs (l : List (Nat × Word)) : Vector Word 32 := l.foldl (fun v p => v.setIfInBounds p.1 p.2) (Vector.replicate 32 0)

/-- A task at 0x1000 with a few register values. -/
def tq : SeqSt := { pc := 0x1000, g := regs [(1, 0x40), (2, 7), (4, 0x8000_0000_0000_0000), (5, 0xFFFF_FFFF_FFFF_FFFF), (6, 3), (7, 0x1_0000), (8, 0x20_0000)] }
/-- The same in steward mode. -/
def sq : SeqSt := { tq with steward := true }
/-- A context of one block with a semaphore, a copy context and a chain. -/
def tc : Ctx := { st := .run, shape := 6, grove := [0], alive := [0], semMap := [3], copies := [{ engine := 0 }], chains := [{ phys := 0 }], load := 50, ctag := 9 }
/-- A state in which sequencer 0 of array die 0 executes. -/
def ts (q : SeqSt := tq) (c : Ctx := tc) (v : Die := {}) (h : Hub := {}) : State :=
  { cur := ⟨0, some 0⟩, sys := { dies := [(0, { v with inSvc := true, seqs := [(0, q)], ctxs := [(0, c)] })], hub := h } }
/-- A state in which the steward of array die 0 executes, beside that context. -/
def ss (q : SeqSt := { sq with stopped := false }) (c : Ctx := tc) (v : Die := {}) (h : Hub := {}) : State :=
  { cur := ⟨0, none⟩, sys := { dies := [(0, { v with inSvc := true, stw := q, seqs := [(0, tq)], ctxs := [(0, c)] })], hub := h } }

theorem sound_of {s : State} {l : List (BitVec 5)} (h : l.all (fun a => !s.now.tag a) = true) : s.sound l := by
  intro a ha; simpa using List.all_eq_true.1 h a ha
theorem lowest_of {s : State} {l : List (BitVec 5)} {x : BitVec 5} (h : x ∈ l) (k : s.now.tag x = true) (m : l.all (fun z => !s.now.tag z || decide (x.toNat ≤ z.toNat)) = true) :
    s.lowest l x := by
  refine ⟨h, k, fun z hz e => ?_⟩
  have := List.all_eq_true.1 m z hz
  simpa [e] using this
theorem canLoad_of {s : State} {off : Word} {n : Nat} (p : off.toNat % n = 0 ∧ off.toNat + n ≤ s.sys.wsz s.cur)
    (f : seqBlocked s.sys s.cur (spanAt off n) [] = false)
    (c : (List.range n).all (fun k => !(s.sys.cell (s.sys.cellAt s.cur (off.toNat + k))).2) = true) : CanLoad s off n :=
  ⟨p, f, fun k hk => by simpa using List.all_eq_true.1 c k (List.mem_range.2 hk)⟩

/-! ## For each statement, states and operands that meet its hypotheses -/

theorem wit_AluTwoSources : (ts).sound [1, 2] := sound_of rfl
theorem wit_Division : (ts).sound [1, 2] ∧ (ts).g 2 ≠ 0 ∧ (ts).sound [1, 3] ∧ (ts).g 3 = 0 ∧
    (ts).sound [4, 5] ∧ (ts).g 4 = 0x8000_0000_0000_0000 ∧ (ts).g 5 = 0xFFFF_FFFF_FFFF_FFFF :=
  ⟨sound_of rfl, by decide, sound_of rfl, rfl, sound_of rfl, rfl, rfl⟩
theorem wit_AluOneSourceAndImmediate : (ts).sound [1] ∧ LeadingZeros ((ts).g 1) 57 ∧ TrailingZeros ((ts).g 1) 6 ∧ LeadingZeros ((ts).g 0) 64 ∧ TrailingZeros ((ts).g 0) 64 :=
  ⟨sound_of rfl, ⟨by decide, by decide, by decide⟩, ⟨by decide, by decide, by decide⟩, ⟨by decide, by decide, by decide⟩, by decide, by decide, by decide⟩
theorem wit_PoisonCarried : (ts { tq with tags := 6 }).now.tag 1 = true ∧ (ts { tq with tags := 4 }).now.tag 1 = false ∧ (ts { tq with tags := 4 }).now.tag 2 = true := by decide
theorem wit_WindowAccesses : CanLoad (ts) ((ts).g 0 + (0x7FF : BitVec 12).signExtend 64) 1 ∧ CanLoad (ts) (0x1F_FFFE) 2 ∧ CanLoad (ts) (0x1F_FFFC) 4 ∧ CanLoad (ts) (0x1F_FFF8) 8 ∧
    CanLoad (ts) ((ts).g 1 + (ts).g 0) 8 ∧ CanStore (ts) (0x1F_FFFF) 1 ∧ CanStore (ts) (0x1F_FFFE) 2 ∧ CanStore (ts) (0x1F_FFFC) 4 ∧ CanStore (ts) ((ts).g 1 + (ts).g 0) 8 :=
  ⟨canLoad_of (by decide) rfl rfl, canLoad_of (by decide) rfl rfl, canLoad_of (by decide) rfl rfl, canLoad_of (by decide) rfl rfl, canLoad_of (by decide) rfl rfl,
    ⟨⟨by decide, by decide⟩, rfl⟩, ⟨⟨by decide, by decide⟩, rfl⟩, ⟨⟨by decide, by decide⟩, rfl⟩, ⟨by decide, by decide⟩, rfl⟩
/-- A task with an entry that still writes eight bytes at 0x40; one whose byte at 0x44 is uncorrectable. -/
def busy : State := ts tq { tc with queues := [(8, { iss := 1, ents := [{ num := 1, cmd := .cpBlk 0 0 plainFields, wr := [⟨0x40, 0x48⟩], scb := true }] })] }
def marked : State := ts tq tc { slices := [(0, { poison := [0x44] })] }
theorem wit_WindowTraps : (ts { tq with tags := 6 }).lowest [2, 1] 1 ∧ (ts { tq with tags := 4 }).lowest ([1] ++ [2]) 2 ∧ (ts).traps ∧ (ts { tq with tags := 2 }).traps ∧ (ts { tq with tags := 2 }).now.tag 1 = true ∧ (ts { tq with tags := 4 }).now.tag 1 = false ∧
    (ts { tq with tags := 4 }).now.tag 2 = true ∧ (ts { tq with tags := 4 }).sound [1] ∧ (ts).sound [1, 2] ∧
    ((ts).g 1 + (1 : BitVec 12).signExtend 64).toNat % 2 ≠ 0 ∧ ((ts).g 1 + (2 : BitVec 12).signExtend 64).toNat % 4 ≠ 0 ∧ ((ts).g 1 + (4 : BitVec 12).signExtend 64).toNat % 8 ≠ 0 ∧
    ((ts).g 1 + (ts).g 2).toNat % 8 ≠ 0 ∧ (ts).sound [8, 0] ∧ (∀ n ∈ [1, 2, 4, 8], ((ts).g 8 + (0 : BitVec 12).signExtend 64).toNat % n = 0 ∧
      (ts).sys.wsz (ts).cur < ((ts).g 8 + (0 : BitVec 12).signExtend 64).toNat + n) ∧ (ts).g 8 + (ts).g 0 = (ts).g 8 + (0 : BitVec 12).signExtend 64 ∧
    (∀ n ∈ [1, 2, 4, 8], busy.traps ∧ busy.sound [1, 2] ∧ InWindow busy 0x40 n ∧ busy.g 1 + busy.g 0 = 0x40 ∧ seqBlocked busy.sys busy.cur (spanAt 0x40 n) [] = true ∧
      seqBlocked busy.sys busy.cur [] (spanAt 0x40 n) = true) ∧
    (marked.traps ∧ marked.sound [1, 0] ∧ InWindow marked (marked.g 1 + (4 : BitVec 12).signExtend 64) 4 ∧
      seqBlocked marked.sys marked.cur (spanAt (marked.g 1 + (4 : BitVec 12).signExtend 64) 4) [] = false ∧
      ∃ k < 4, (marked.sys.cell (marked.sys.cellAt marked.cur ((marked.g 1 + (4 : BitVec 12).signExtend 64).toNat + k))).2 = true) := by
  refine ⟨lowest_of (by decide) rfl rfl, lowest_of (by decide) rfl rfl, .inl rfl, .inl rfl, rfl, rfl, rfl, sound_of rfl, sound_of rfl, by decide, by decide, by decide, by decide, sound_of rfl, by decide, by decide, ?_,
    .inl rfl, sound_of rfl, ⟨by decide, by decide⟩, rfl, 0, by decide, by decide⟩
  intro n hn
  refine ⟨.inl rfl, sound_of rfl, ⟨?_, ?_⟩, by decide, ?_, ?_⟩ <;> revert n <;> decide
theorem wit_DeferredLoads : (ts { tq with tags := 2 }).now.tag 1 = true ∧ (ts).now.tag 8 = false ∧ (ts).sys.wsz (ts).cur < ((ts).g 8 + (0 : BitVec 12).signExtend 64).toNat + 8 ∧
    (∀ k < 8, (6 : BitVec 8).getLsbD k = true → (ts).now.tag (BitVec.ofNat 5 (8 * (0 : BitVec 2).toNat + k)) = false) ∧ (ts { tq with tags := 4 }).traps ∧
    (6 : BitVec 8).getLsbD 2 = true ∧ (ts { tq with tags := 4 }).now.tag 2 = true ∧ (∀ j < 2, (6 : BitVec 8).getLsbD j = true → (ts { tq with tags := 4 }).now.tag (BitVec.ofNat 5 j) = false) ∧
    (ts { tq with tags := 6 }).lowest [2, 1] 1 ∧ (ts { tq with tags := 0x8000_0000 }).now.tag 31 = true ∧ (ts { sq with tags := 2 }).now.steward = true ∧ (ts { sq with tags := 2 }).now.tag 1 = true :=
  ⟨rfl, rfl, by decide, by decide, .inl rfl, rfl, rfl, by decide, lowest_of (by decide) rfl rfl, rfl, rfl, rfl⟩
theorem wit_WalksAndNests_walks : (ts).sound [1] ∧ (ts).traps ∧ ((ts).g 2 + (0 : BitVec 32).signExtend 64).toNat ≤ 65535 ∧ 65535 < ((ts).g 7 + (0 : BitVec 32).signExtend 64).toNat ∧
    2 ^ 31 ≤ ((ts).g 7 + (0x7FFF_FFFF : BitVec 32).signExtend 64).toInt ∧ ((ts).g 4 + (0 : BitVec 32).signExtend 64).toInt < -2 ^ 31 ∧
    CanStore (ts) 0x40 64 ∧ CanLoad (ts) 0x40 64 ∧ (∀ j < 64, ((ts).sys.cell ((ts).sys.cellAt (ts).cur (64 + j))).1 = (walkDesc {}).getD j 0) :=
  ⟨sound_of rfl, .inl rfl, by decide, by decide, by decide, by decide, ⟨⟨by decide, by decide⟩, rfl⟩, canLoad_of (by decide) rfl rfl, by decide⟩
theorem wit_BranchesAndCalls_branches : (ts).sound [1, 2] ∧ (ts).sound [1] ∧ (ts).sound [31] := ⟨sound_of rfl, sound_of rfl, sound_of rfl⟩
/-- The steward of die 0 at 0x1000 of an image whose words from there on are executable. -/
def sim : State := ss sq tc { imageX := [⟨0x1000, 0x2000⟩] }
theorem wit_BranchesAndCalls_calls : (∃ y v, linkValue sim.sys sim.cur 4 = (y, .ok v) ∧ v = 0x100C) ∧ (∃ y v, linkValue sim.sys sim.cur 6 = (y, .ok v) ∧ v = 0x100E) ∧ sim.sound [1] ∧
    (∃ y z n1 n2, sim.now.npc = none ∧ sim.now.nnpc = none ∧ nestAct sim.now.nestStat = false ∧ lengthAt sim.sys sim.cur (sim.now.pc + BitVec.ofNat 64 4) = (y, .ok n1) ∧
      lengthAt y sim.cur (sim.now.pc + BitVec.ofNat 64 (4 + n1)) = (z, .ok n2)) :=
  ⟨⟨_, _, rfl, rfl⟩, ⟨_, _, rfl, rfl⟩, sound_of rfl, _, _, _, _, rfl, rfl, rfl, rfl, rfl⟩
theorem wit_WalksAndNests_nests : ∃ (y : Sys) (l : List FByte), (2 : BitVec 8) ≠ 0 ∧ (2 : BitVec 8).toNat ≤ 128 ∧ sim.now.npc = none ∧ sim.now.nnpc = none ∧ (sim.now.wk 1).count ≤ 2 ^ 40 ∧
    codeBytes sim.cur 6 sim.sys (sim.now.pc + 4).toNat (2 * (2 : BitVec 8).toNat) = (y, l) ∧
    scanBody sim.now.steward 1 129 (sim.now.pc + 4).toNat l 0 false = .ok (1, false, true) :=
  ⟨_, _, by decide, by decide, rfl, rfl, by decide, rfl, rfl⟩
theorem wit_TrapsAndReturns_traps : (ts).traps ∧ (ts { tq with prq := true }).now.steward = false ∧ (ts { tq with prq := true }).now.prq = true ∧ (ts).now.prq = false ∧
    (ts).cur.idx = some 0 ∧ (ts).now.steward = false := ⟨.inl rfl, rfl, rfl, rfl, rfl, rfl⟩
theorem wit_TrapsAndReturns_returns : (ts sq { tc with st := .trap }).now.steward = true ∧ tretBad (ts sq { tc with st := .trap }).now = false ∧
    nestAct (ts sq { tc with st := .trap }).now.trapNstat = false ∧ (ts sq { tc with st := .trap }).ctxNow.st = .trap := by decide
theorem wit_Privilege : (ts).now.steward = false ∧ 0x10 ≤ (0x10 : BitVec 8).toNat ∧ (6 : BitVec 8).toNat ≤ 6 ∧ (ts sq).now.steward = true ∧ (ts sq).now.ae = true := by decide
/-- The steward of die 0 with `x` in g1 and CSEL at `k`. -/
def sc (k : Word) (x : Word := 0) (c : Ctx := tc) : State := ss { sq with stopped := false, g := regs [(1, x)], csel := k } c
theorem wit_ControlRegisters : (∀ q, Reaches (ts q) 0) ∧ Reaches (sc 0) 0 ∧ (ts).ctxNow.shape < 64 ∧ (ts).ctxNow.copies.length ≤ 4 ∧ (ts).ctxNow.chains.length ≤ 6 ∧ (ts).ctxNow.piece < 64 ∧
    tc.copies[0]? = some { engine := 0 } ∧ ({ tc with chains := [{ phys := 0, bound := true }, { phys := 1 }] } : Ctx).chains.map (·.bound) = [true, false] ∧
    (ts sq).now.steward = true ∧ (ts sq).now.ae = true ∧ (ts sq).now.tag 6 = false ∧ ((ts sq).g 6).toNat < 2 ^ 5 ∧ ((ts sq).g 0).getLsbD 63 = false ∧ ((ts sq).g 4).getLsbD 63 = true ∧
    bitsOf ((ts sq).g 4).toNat 46 2 = 0 ∧ bitsOf ((ts sq).g 6).toNat 46 2 = 0 ∧ (ts sq).now.tag 1 = false ∧ ((ts sq).g 1).toNat < 2 ^ 24 ∧ bitsOf ((ts sq).g 6).toNat 6 2 = 0 ∧
    ((ts sq).g 0).toNat % 2 = 0 ∧ bitsOf ((ts sq).g 0).toNat 4 3 = 0 ∧ (ss).cur.idx = none ∧ ((ss).g 1).toNat < 256 ∧ ((ss).g 1).toNat % 64 = 0 ∧
    bitsOf ((ts sq).g 6).toNat 3 5 = 0 ∧ bitsOf ((ts sq).g 0).toNat 1 7 = 0 ∧ bitsOf ((ts sq).g 6).toNat 57 7 = 0 ∧ bitsOf ((ts sq).g 6).toNat 4 17 = 0 ∧ bitsOf ((ts sq).g 6).toNat 27 10 = 0 ∧
    (∀ x ∈ [(0, 1), (4, 3), (8, 56), (32, 32), (46, 2), (6, 2), (18, 2), (24, 40), (5, 59), (3, 5), (40, 24), (30, 34), (1, 7), (56, 8), (4, 17), (57, 7), (27, 10), (0, 6)],
      bitsOf ((ts sq).g 5).toNat x.1 x.2 ≠ 0) ∧
    (ts { sq with tags := 2 }).now.tag 1 = true ∧ (ts sq).cur.idx.isSome = true ∧
    (∀ x ∈ [(200, 0), (0, 1)], ∃ s : State, s = sc x.1 0 (if x.2 = 0 then tc else {}) ∧ s.now.steward = true ∧ s.now.ae = true ∧ s.cur.idx = none ∧ s.now.tag 1 = false ∧
      (x.2 = 0 → seqsOf s.cur.die ≤ s.now.csel.toNat % 256) ∧ (x.2 = 1 → s.now.csel.toNat % 256 < seqsOf s.cur.die ∧ (s.sys.ctx s.cur.die (s.now.csel.toNat % 256)).st = .free)) := by
  refine ⟨fun _ => .inl rfl, .inr ⟨rfl, rfl, rfl, by decide, by decide⟩, by decide, by decide, by decide, by decide, rfl, rfl, rfl, rfl, rfl, by decide, by decide, by decide, by decide, by decide, rfl,
    by decide, by decide, by decide, by decide, rfl, by decide, by decide, by decide, by decide, by decide, by decide, by decide, by decide, rfl, rfl, ?_⟩
  intro x hx
  simp only [List.mem_cons, List.not_mem_nil, or_false] at hx
  rcases hx with rfl | rfl <;> exact ⟨_, rfl, rfl, rfl, rfl, rfl, by decide, by decide⟩
/-- A die with semaphore 3 at `n`, and a state on it. -/
def sm (n : Nat) (w : List Waiter := []) : State := ts tq tc { sems := [(3, { count := n, waiters := w })] }
theorem wit_SemaphoresAndTimelines_semaphores : (sm 3).cur.idx = some 0 ∧ (sm 3).sound [6] ∧ (sm 3).mapped 0 3 ∧ ((sm 3).sem 3).met 0 15 0 ((sm 3).g 6).toNat = true ∧ ((sm 2).sem 3).met 0 15 0 ((sm 2).g 6).toNat = false ∧
    ((sm 2).g 6).toNat ≠ 0 ∧ (sm 3).traps ∧ (sm 3).sound [7] ∧ 65535 < ((sm 3).g 7).toNat ∧ ((sm 3).g 6).toNat ≤ availAfter ((sm 3).sem 3).waiters ((sm 3).sem 3).count ∧
    availAfter ((sm 2).sem 3).waiters ((sm 2).sem 3).count < ((sm 2).g 6).toNat ∧ ((sm 5 [⟨1, 15, 0, 3⟩]).sem 3).waiters = [⟨1, 15, 0, 3⟩] ∧ (sm 3).ctxNow.semMap.length ≤ (1 : BitVec 8).toNat :=
  ⟨rfl, sound_of rfl, rfl, by decide, by decide, by decide, .inl rfl, sound_of rfl, by decide, by decide, by decide, by decide, by decide⟩
/-- The matrix queue has issued `a` entries, of which `b` have retired. -/
def tlc (a b : Nat) (l : List Entry := []) : Ctx := { tc with queues := [(0, { iss := a, ret := b, ents := l })] }
theorem wit_SemaphoresAndTimelines_timelines : (ts tq (tlc 7 7)).cur.idx.isSome = true ∧ (0 : BitVec 8).toNat ∈ (ts tq (tlc 7 7)).ctxNow.queueCodes ∧ (ts tq (tlc 7 7)).sound [2] ∧
    ((ts tq (tlc 7 7)).g 2).toNat ≤ ((ts tq (tlc 7 7)).ctxNow.queue 0).ret ∧ ((ts tq (tlc 7 6)).ctxNow.queue 0).ret < ((ts tq (tlc 7 6)).g 2).toNat ∧
    ((ts tq (tlc 7 6)).g 2).toNat ≤ ((ts tq (tlc 7 6)).ctxNow.queue 0).iss ∧ ((ts tq (tlc 6 6)).ctxNow.queue 0).iss < ((ts tq (tlc 6 6)).g 2).toNat ∧ (ts).traps ∧
    (2 : BitVec 8).toNat ∉ (ts).ctxNow.queueCodes ∧ (ts).ctxNow.entries = [] ∧ (ts tq (tlc 1 0 [{ num := 1, cmd := .nop }])).ctxNow.entries ≠ [] :=
  ⟨rfl, by decide, sound_of rfl, by decide, by decide, by decide, by decide, .inl rfl, by decide, rfl, by simp [Ctx.entries, Ctx.queueCodes, ts, State.ctxNow, Sys.ctxOf, Sys.ctx, Sys.die, mgetD, mget?, tlc, tc, Ctx.queue]⟩
theorem wit_DeclaredLoad : (ts).cur.idx = some 0 ∧ (ts).sound [6, 1, 7] ∧ ((ts).g 6).toNat ≤ 65535 ∧ max (ts).ctxNow.floor ((ts).g 6).toNat ≤ (ts).ctxNow.load ∧
    (ts).ctxNow.load < max (ts).ctxNow.floor ((ts).g 1).toNat ∧ (ts).traps ∧ 65535 < ((ts).g 7).toNat ∧ (ts sq).now.steward = true ∧ (ts sq).sound [6, 1, 0] ∧ 1 ≤ ((ts sq).g 6).toNat ∧
    ((ts sq).g 6).toNat ≤ 32 ∧ (ts sq).now.ae = true ∧ 32 < ((ts sq).g 1).toNat ∧ ((ts sq).g 0).toNat = 0 ∧
    ((ts sq).sys.die (ts sq).cur.die).pool < ((ts sq).g 6).toNat ∧ (ts).now.steward = false ∧ 8 ≤ (8 : BitVec 8).toNat :=
  ⟨rfl, sound_of rfl, by decide, by decide, by decide, .inl rfl, by decide, rfl, sound_of rfl, by decide, by decide, rfl, by decide, rfl, by decide, rfl, by decide⟩
theorem ok_of {α β : Type} {x : Except α β} {b : β} (h : x.toOption = some b) : x = .ok b := by
  cases x <;> simp_all [Except.toOption]
/-- Range 0 maps 64 KiB at 0x1_0000 of partition-virtual die 0 for reads and fetches. -/
def rr : Ranges := { vmb := (Vector.replicate 8 0).setIfInBounds 0 (BitVec.ofNat 64 0xF), vmi := (Vector.replicate 8 0) }
/-- A partition that owns memory die 0 as its virtual die 0. -/
def tpart : Part := { en := true, words := [(2, 0x0001_0000_0000_0000), (3, 0x0200_0000_0000_0000 + 0x3F), (15, 0xFFFF_FFFF)] }
def th : Hub := { parts := [(0, tpart)] }
def lc (r : List Route := []) (a : List Ask := []) : Ctx := { tc with ranges := rr, fetchHolder := ⟨r, a⟩ }
theorem wit_LeaseInstructions : (ts tq (lc) {} th).cur.idx = some 0 ∧ (1 : Nat) < 4 ∧ 0 < (ts tq (lc) {} th).ctxNow.copies.length ∧ (ts tq (lc) {} th).sound [1] ∧
    virtToInt (lc).ranges ((ts tq (lc) {} th).g 1) .ex = .ok 0x40 ∧ virtToInt (lc).ranges ((ts tq (lc) {} th).g 4) .ex = .error 1 ∧
    ((lc [⟨⟨0, 0, 0, false⟩, 0, 0, true, 7, leaseNs 7⟩]).holder 4).find 0 0 0x40 = some ⟨⟨0, 0, 0, false⟩, 0, 0, true, 7, leaseNs 7⟩ ∧ leaseNs 7 ≤ 4 * leaseNs 7 ∧
    ((lc [] [⟨0, 0, 0, 0, false⟩]).holder 4).asking 0 0x40 = true ∧ ((lc).holder 4).find 0 0 0x40 = none ∧ ((lc).holder 4).asking 0 0x40 = false ∧
    (lc).holderUnit 4 ∉ ((ts tq (lc) {} th).sys.die 0).skewed ∧ ((ts tq (lc) {} th).sys.part 0).vdie 0 = some 0 :=
  ⟨rfl, by decide, by decide, sound_of rfl, ok_of (by decide), rfl, by decide, by decide, by decide, by decide, by decide, by decide, by decide⟩

/-- The steward of die 0 with `x` in g1, beside context `c`. -/
def sx (x : Word) (c : Ctx := tc) (p : Part := tpart) (v : Die := {}) : State := ss { sq with g := regs [(1, x)] } c v { parts := [(0, p)] }
/-- Sequencer 0 in steward mode with `x` in g1. -/
def sy (x : Word) (c : Ctx := tc) (p : Part := tpart) : State := ts { sq with g := regs [(1, x)] } c {} { parts := [(0, p)] }
theorem names0 (x : Word) (c : Ctx) (p : Part) (v : Die) : Names (sx x c p v) 0 0 := .inr (.inr ⟨rfl, rfl, by decide, by show 0 < seqsOf 0; decide⟩)

theorem wit_SemaphoreMap :
    (∃ s : State, ∃ v : Nat, s = sx 0x5_0000 { tc with st := .ready } ∧ v = (s.g 1).toNat ∧ s.now.steward = true ∧ s.sound [1] ∧ Names s (v % 256) 0 ∧
      (s.sys.ctx 0 0).st ∈ [CtxPhase.ready, .trap, .parked] ∧ semNamed (s.sys.ctx 0 0) 1 = false ∧ bitsOf v 8 8 = 0 ∧ bitsOf v 29 3 = 0 ∧ v < 2 ^ 34 ∧ bitOf v 32 = false ∧ bitsOf v 16 13 = 5 ∧
      ((s.sys.part 0).semRange 0).1 ≤ 5 ∧ 5 < ((s.sys.part 0).semRange 0).1 + ((s.sys.part 0).semRange 0).2 ∧ (∀ m, m ≠ 1 → (s.sys.ctx 0 0).semMap[m]? ≠ some 5) ∧
      1 ≤ (s.sys.ctx 0 0).semMap.length) ∧
    (∃ s : State, ∃ v : Nat, s = sx 0x1_0000_0000 { tc with st := .parked, semMap := [3, 4] } ∧ v = (s.g 1).toNat ∧ s.sound [1] ∧ Names s (v % 256) 0 ∧
      (s.sys.ctx 0 0).st ∈ [CtxPhase.ready, .trap, .parked] ∧ semNamed (s.sys.ctx 0 0) 1 = false ∧ bitsOf v 8 8 = 0 ∧ bitsOf v 29 3 = 0 ∧ v < 2 ^ 34 ∧ bitOf v 32 = true ∧
      (1 : BitVec 8).toNat + 1 = (s.sys.ctx 0 0).semMap.length) ∧
    (∃ s : State, ∃ v : Nat, s = sx 0 ∧ v = (s.g 1).toNat ∧ v < 256 ∧ Names s (v % 256) 0 ∧ (s.sys.ctx 0 0).st ≠ .free ∧ (s.sys.ctx 0 0).semMap[(0 : BitVec 8).toNat]? = some 3 ∧
      (s.sys.ctx 0 0).semMap.length ≤ (1 : BitVec 8).toNat) :=
  ⟨⟨_, _, rfl, rfl, rfl, sound_of rfl, names0 _ _ _ _, by decide, by decide, by decide, by decide, by decide, by decide, by decide, by decide, by decide,
      by intro m _; cases m <;> simp [sx, ss, tc, Sys.ctx, Sys.die, mgetD, mget?], by decide⟩,
    ⟨_, _, rfl, rfl, sound_of rfl, names0 _ _ _ _, by decide, by decide, by decide, by decide, by decide, by decide, by decide⟩,
    ⟨_, _, rfl, rfl, by decide, names0 _ _ _ _, by decide, rfl, by decide⟩⟩
/-- One save slot at 0x400_0000. -/
def spart : Part := { tpart with psave := 0x0001_0000_0400_0000 }
theorem wit_SaveAndRestore :
    (∃ s : State, ∃ p : Part, s = sx 0x400_0000 { tc with st := .parked } spart ∧ p = s.sys.part 0 ∧ s.now.steward = true ∧ s.sound [1] ∧ Names s 0 0 ∧ (s.g 1).toNat % 4096 = 0 ∧ (s.g 1).toNat < 2 ^ 48 ∧
      (s.g 1).toNat / 2 ^ 44 < p.nvd ∧ p.slotAt (s.g 1).toNat = some 0 ∧ (p.slot 0).st = .free ∧ s.cur.idx = none ∧ (s.sys.ctx 0 0).st = .parked) ∧
    (∃ s : State, ∃ p : Part, s = sy 0x400_0000 { tc with st := .trap } spart ∧ p = s.sys.part 0 ∧ s.now.steward = true ∧ s.sound [1] ∧ Names s 0xFF 0 ∧
      p.slotAt (s.g 1).toNat = some 0 ∧ (p.slot 0).st = .free ∧ s.cur.idx = some 0 ∧ (s.sys.ctx 0 0).st = .trap) ∧
    (∃ s : State, s = sx 0x400_0000 { tc with st := .ready, slot := some 0 } spart ∧ s.sound [1] ∧ Names s 0 0 ∧ (s.sys.ctx 0 0).st = .ready ∧ (s.sys.ctx 0 0).slot = some 0 ∧
      (s.sys.part 0).slotAt (s.g 1).toNat = some 0 ∧ slotIsFor (s.sys.ctx 0 0) ((s.sys.part 0).slot 0) = true ∧ s.cur.idx = none) ∧
    (sx 0x400_0000 { tc with st := .ready } spart).sys.ctx 0 0 = { tc with st := .ready } ∧
    (∀ x ∈ [(0x500_0000, spart), (0x400_0000, { spart with slots := [(0, { st := .suspended })] })], ∃ s : State, ∃ p : Part, s = sx x.1 { tc with st := .parked } x.2 ∧ p = s.sys.part 0 ∧ s.sound [1] ∧ Names s 0 0 ∧ s.traps ∧
      (s.g 1).toNat % 4096 = 0 ∧ (s.g 1).toNat < 2 ^ 48 ∧ (s.g 1).toNat / 2 ^ 44 < p.nvd ∧ (s.sys.ctx 0 0).st = .parked ∧ s.cur.idx = none ∧
      (p.slotAt (s.g 1).toNat = none ∨ ∃ k, p.slotAt (s.g 1).toNat = some k ∧ (p.slot k).st ≠ .free)) :=
  ⟨⟨_, _, rfl, rfl, rfl, sound_of rfl, names0 _ _ _ _, by decide, by decide, by decide, by decide, by decide, rfl, rfl⟩,
    ⟨_, _, rfl, rfl, rfl, sound_of rfl, .inl ⟨rfl, rfl⟩, by decide, by decide, rfl, rfl⟩, ⟨_, rfl, sound_of rfl, names0 _ _ _ _, rfl, rfl, by decide, rfl, rfl⟩, rfl, by
      intro x hx
      simp only [List.mem_cons, List.not_mem_nil, or_false] at hx
      rcases hx with rfl | rfl
      · exact ⟨_, _, rfl, rfl, sound_of rfl, names0 _ _ _ _, .inr rfl, by decide, by decide, by decide, rfl, rfl, .inl (by decide)⟩
      · exact ⟨_, _, rfl, rfl, sound_of rfl, names0 _ _ _ _, .inr rfl, by decide, by decide, by decide, rfl, rfl, .inr ⟨0, by decide, by decide⟩⟩⟩
theorem wit_ClaimControl :
    (∃ s : State, ∃ c : Ctx, s = sx 0 { tc with st := .ready } ∧ c = s.sys.ctx 0 0 ∧ s.now.steward = true ∧ s.sound [1] ∧ (s.g 1).toNat = 0 ∧ Names s 0 0 ∧ s.cur.idx = none ∧ c.st = .ready ∧
      c.needSems ≤ c.semMap.length ∧ c.slot = none ∧ ∀ nd, s.sys.hub.node? c.node = some nd → nd.failed = none) ∧
    (∃ s : State, ∃ c : Ctx, s = sx 0 { tc with st := .ready, slot := some 0, restored := true } ∧ c = s.sys.ctx 0 0 ∧ s.cur.idx = none ∧ c.st = .ready ∧ c.needSems ≤ c.semMap.length ∧ c.slot.isSome = true ∧
      c.restored = true ∧ nestAct (s.sys.seq ⟨0, some 0⟩).trapNstat = false) ∧
    ({ tc with st := .ready, needSems := 2 } : Ctx).semMap.length < ({ tc with st := .ready, needSems := 2 } : Ctx).needSems ∧ ({ tc with st := .ready, slot := some 0 } : Ctx).restored = false ∧
    (∃ s : State, ∃ n : Node, n = { fn := 2, part := 0, record := 0, oFn := 2, oQ := 1, came := .queue, failed := some 0x18 } ∧ s = ss { sq with stopped := false, g := regs [(1, 0)] } { tc with st := .ready } {} { nodes := [(0, n)] } ∧
      s.sound [1] ∧ (s.g 1).toNat = 0 ∧ s.traps ∧ Names s 0 0 ∧ (s.sys.ctx 0 0).slot = none ∧ s.sys.hub.node? (s.sys.ctx 0 0).node = some n ∧ n.failed ≠ none) ∧
    (∀ v ∈ [1, 2, 3], (sx v).sound [1] ∧ ((sx v).g 1).toNat < 256 ∧ ((sx v).sys.ctx 0 0).st ∈ [CtxPhase.run, .trap, .parked] ∧ (⟨0, some 0⟩ : SeqRef) ≠ (sx v).cur) ∧
    (sx 4 { tc with st := .parked }).sound [1] ∧ ((sx 4 { tc with st := .parked }).sys.ctx 0 0).st = .parked ∧ (sx 5).traps ∧ 5 ≤ ((sx 5).g 1).toNat ∧ ((sx 5).g 1).toNat < 256 ∧
    ((sx 0).sys.ctx 0 0).st ≠ .ready ∧ (sx 0).sound [1] ∧ ((sx 4).sys.ctx 0 0).st ≠ .parked :=
  ⟨⟨_, _, rfl, rfl, rfl, sound_of rfl, rfl, names0 _ _ _ _, rfl, rfl, by decide, rfl, fun _ h => (nomatch h)⟩, ⟨_, _, rfl, rfl, rfl, rfl, by decide, rfl, rfl, by decide⟩, by decide, rfl,
    ⟨_, _, rfl, rfl, sound_of rfl, rfl, .inr rfl, .inr (.inr ⟨rfl, rfl, by decide, by show 0 < seqsOf 0; decide⟩), rfl, rfl, by simp⟩,
    by intro v hv; exact ⟨sound_of (by simp at hv; rcases hv with rfl | rfl | rfl <;> decide), by (simp at hv; rcases hv with rfl | rfl | rfl <;> decide), by show CtxPhase.run ∈ _; decide, by show (⟨0, some 0⟩ : SeqRef) ≠ ⟨0, none⟩; decide⟩,
    sound_of rfl, rfl, .inr rfl, by decide, by decide, by decide, sound_of rfl, by decide⟩
theorem wit_StewardActions_copies :
    (∀ n ∈ [(0 : Word), 1], ∃ s : State, ∃ c : Ctx, ∃ o : Entry, o = { num := 1, cmd := .cpSig 0 0 0 plainFields, recs := [0] } ∧ s = sx 0 { tc with copies := [{ engine := 0, stop := true, prog := n }], queues := [(8, { iss := 1, ents := [o] })] } ∧ c = s.sys.ctx 0 0 ∧ s.now.steward = true ∧ s.sound [1] ∧ Names s 0 0 ∧ c.st ≠ .free ∧ c.st ≠ .ready ∧
      c.copies[(s.g 1).toNat]? = some { engine := 0, stop := true, prog := n } ∧ (c.queue 8).ents.head? = some o ∧ cpKind o.cmd = some .sig ∧ repTotal .sig { o with rep := 0 } = 1) ∧
    (sx 0).traps ∧ ((((sx 0).sys.ctx 0 0).copies[0]?).map (·.stop)).getD false = false ∧ (sx 0).sound [1] ∧ ((sx 0).g 1).toNat < 64 ∧ ((sx 0).sys.ctx 0 0).st ≠ .free ∧
    ((sx 0).sys.ctx 0 0).st ≠ .ending ∧ ((sx 0).sys.ctx 0 0).preq = none ∧ (sy 0).sound [1] ∧ Names (sy 0) 0xFF 0 :=
  ⟨by
      intro n hn
      simp only [List.mem_cons, List.not_mem_nil, or_false] at hn
      rcases hn with rfl | rfl <;> exact ⟨_, _, _, rfl, rfl, rfl, rfl, sound_of rfl, names0 _ _ _ _, by decide, by decide, rfl, rfl, rfl, rfl⟩, .inr rfl, rfl, sound_of rfl, by decide, by decide, by decide, rfl, sound_of rfl, .inl ⟨rfl, rfl⟩⟩
theorem wit_StewardActions_events : (sx 0 tc tpart { events := [5] }).now.steward = true ∧ (sx 0 tc tpart { events := [5] }).cur.idx = none ∧ ((sx 0 tc tpart { events := [5] }).sys.die 0).events = [5] ∧
    ((sx 0).sys.die 0).events = [] ∧ (sy 0).cur.idx = some 0 ∧ (sy 0).now.steward = true ∧ ((sy 0).sys.die 0).heldEvents = [] ∧ ((sy 0).sys.die 0).events.length < 256 ∧ (sy 0).now.ae = true :=
  ⟨rfl, rfl, rfl, rfl, rfl, rfl, rfl, by decide, rfl⟩

/-! ### Engine commands -/

/-- A walk of two addresses, 64 apart; walk 0 of the task names 0 and 64, walk 1 names 128 and 192. -/
def wk (b : Word) : Walk := ⟨b, (Vector.replicate 6 0).setIfInBounds 0 2, (Vector.replicate 6 0).setIfInBounds 0 64⟩
def wq : SeqSt := { tq with walks := ((Vector.replicate 8 {}).setIfInBounds 0 (wk 0)).setIfInBounds 1 (wk 128) }
/-- Two repetitions by dimension 0. -/
def two : Common := { plainFields with rep := 1, step := 1 }
/-- That task, with `m` in slice 0 of its die. -/
def tw (m : Mem := []) (c : Ctx := tc) (v : Die := {}) : State := ts wq c { v with slices := [(0, { mem := m })] }
theorem le1_of {P : Nat → Prop} (h0 : P 0) (h1 : P 1) : ∀ i, i ≤ 1 → P i
  | 0, _ => h0
  | 1, _ => h1
  | n + 2, h => absurd h (by omega)
theorem two_of {α : Type} {a b : α} {P : Nat → α → Prop} (h0 : P 0 a) (h1 : P 1 b) : ∀ i u, [a, b][i]? = some u → P i u
  | 0, _, h => by simp at h; exact h ▸ h0
  | 1, _, h => by simp at h; exact h ▸ h1
  | _ + 2, _, h => by simp at h
theorem readable_of {s : State} {u : Unit3} {off : Word} {n : Nat} (f : s.ctxNow.stallsOn (if u = .strip then .strip else .copy) [⟨off.toNat, off.toNat + n⟩] [] = false)
    (c : (List.range n).all (fun k => !(s.sys.cell (s.sys.cellAt s.cur (off.toNat + k))).2) = true) : Readable s u off n :=
  ⟨f, fun k hk => by simpa using List.all_eq_true.1 c k (List.mem_range.2 hk)⟩
/-- Two parameter records. -/
def spmMem : Mem := wrBytes [] 0 (leBytes 64 (4 + 2 ^ 32 * 128 + 2 ^ 64 * 4) ++ leBytes 64 (1536 + 2 ^ 64 * 1536 + 2 ^ 96 * 64))
/-- `n` bytes 0x0F from `a` upward. -/
def solid (a : Nat) : Nat → Mem
  | 0 => []
  | n + 1 => (a, 0x0F) :: solid (a + 1) n
theorem rdByte_solid (n a b : Nat) (h : a ≤ b) (k : b < a + n) : rdByte (solid a n) b = 0x0F := by
  induction n generalizing a with
  | zero => omega
  | succ n ih =>
    by_cases e : b = a
    · simp [rdByte, mgetD, solid, mget?, e]
    · have := ih (a + 1) (by omega) (by omega)
      simp only [rdByte, mgetD, solid, mget?, e, if_false] at *; exact this
/-- A command with these fields passes, and nothing holds back an entry with these ranges. -/
def Takes (s : State) (c : Common) (q : Nat) (rd wr : List Span) (b : Bool) : Prop := Accepts s c ∧ Admits s q { num := 0, cmd := .nop, rd := rd, wr := wr, scb := b }
theorem acc_of {s : State} {q : Nat} {rd wr : List Span} {b : Bool} {c : Common} (h1 : c.wth = 0) (h2 : c.sinc = 0) (h3 : s.cur.idx.isSome = true) (h4 : s.ctxNow.stallsOn (unitOf q) rd wr = false)
    (h5 : (s.ctxNow.entries.filter (fun x => x.2.scb)).length < 32) (h6 : (s.ctxNow.queue q).ents.length < (if 8 ≤ q then 32 else 16)) : Takes s c q rd wr b :=
  ⟨⟨h3, fun h => absurd h1 h, fun h => absurd h2 h⟩, h4, fun _ => h5, h6⟩

/-- The head entry of the matrix queue, `i` with one repetition of one row, has started. -/
def me (i : Instr) (eB : Nat × Nat := (1, 0)) : Entry := { num := 1, cmd := i, reps := [(0, 0)], params := { mrows := 1, astr := 0, drows := 1, dstr := 0 }, eB := eB, started := true }
def mxs (e : Entry) (v : Die := {}) : State := ts tq { tc with queues := [(0, { iss := 1, ents := [e] })] } v
theorem wit_MatrixEntries : ∀ i ∈ [Instr.mxClr 0 false plainFields, .mxClr 0 true plainFields, .mxDead 0 false plainFields, .mxSpm 0 plainFields, .mxChn 1 true plainFields, .mxByp true plainFields,
      .mxLdb 0 1 0 plainFields, .mxFill 0 0 plainFields, .mxDrn 0 0 true plainFields, .mxDrnx 0 false plainFields],
    ∃ s : State, ∃ h : Ctx, ∃ e : Entry, e = me i ∧ s = mxs e ∧ StartedHead s 0 0 0 h e [] ∧ e.cmd = i ∧ e.bad = false ∧ h.blocks.Nodup ∧ h.shape ≠ 7 ∧ e.reps.getLast? = some (0, 0) ∧
      (0 : Nat) + e.params.drows ≤ 256 * h.h ∧ (∀ k < 192 * h.h * h.w * bLine 1 0, (s.sys.cell (h.cellAt 0 (0 + k))).2 = false) ∧ 0 + (e.params.drows - 1) * (768 * h.w) + 768 * h.w ≤ h.wsz ∧
      e.reps[e.rep]? = some (0, 0) ∧ h.chains.length = h.w ∧ (∀ g ∈ h.chains, (g.port 0).length < 4) ∧ (0 : Nat) + e.pos < 256 * h.h ∧ e.pos + 1 = e.params.drows ∧ e.reps.length = e.rep + 1 ∧
      4 ≤ (({ phys := 0, ports := Vector.replicate 11 (List.replicate 4 []) } : Chain).port 0).length :=
  fun i _ => ⟨_, _, _, rfl, rfl, ⟨rfl, rfl, fun _ h => (nomatch h), rfl, rfl⟩, rfl, rfl, by show tc.blocks.Nodup; decide, by show (6 : Nat) ≠ 7; decide, rfl, by show (0 : Nat) + 1 ≤ 256; decide, fun _ _ => rfl,
    by show 0 + (1 - 1) * (768 * 1) + 768 * 1 ≤ tc.wsz; decide, rfl, rfl, by show ∀ g ∈ tc.chains, (g.port 0).length < 4; decide, by show (0 : Nat) + 0 < 256 * 1; decide, rfl, rfl, by decide⟩
theorem wit_MatrixCommands :
    (∃ s : State, ∃ q : List Params, s = tw spmMem ∧ q = [⟨4, 128, 4, 0⟩, ⟨1536, 0, 1536, 64⟩] ∧ s.ctxNow.shape ≠ 7 ∧ Walks s 0 two ∧ Takes s two 0 [] [] false ∧ q.length = two.rep.toNat + 1 ∧
      (∀ i u, q[i]? = some u → Fits s (s.place 0 two i).toNat 64 ∧ Readable s .matrix (s.place 0 two i) 64 ∧
        s.word (s.place 0 two i) 64 = u.mrows + 2 ^ 32 * u.astr + 2 ^ 64 * u.drows + 2 ^ 96 * u.dstr ∧ 1 ≤ u.mrows ∧ u.mrows ≤ 1536 ∧
        1 ≤ u.drows ∧ u.drows ≤ 1536 ∧ u.astr % 64 = 0 ∧ u.dstr % 64 = 0 ∧ u.astr < 2 ^ 32 ∧ u.dstr < 2 ^ 32) ∧ q.getLast? = some ⟨1536, 0, 1536, 64⟩) ∧
    (∀ i, i ≤ 1 → ((tw).place 0 two i).toNat + (tw).ctxNow.params.drows ≤ 256 * (tw).ctxNow.h) ∧ (tw).ctxNow.chains ≠ [] ∧
    (∀ sp bw : BitVec 2, sp.toNat < 2 → bw = 1 → ∃ s : State, ∃ rd : List Span, ∃ len : Nat, s = tw (solid 0 (2 ^ 20)) ∧ len = 192 * bLine bw.toNat sp.toNat ∧ rd = [⟨0, 0 + len⟩] ∧
      Takes s plainFields 0 rd [] false ∧ Fits s (s.place 0 plainFields 0).toNat len ∧ s.ctxNow.blocks? rd [] = false ∧
      (∀ n, n < 192 → ∀ k, k < 192 * gprOf sp.toNat → ∀ z, z = s.sys.cell (s.sys.cellAt s.cur ((s.place 0 plainFields 0).toNat + n * bLine bw.toNat sp.toNat + maskLo bw.toNat sp.toNat + k)) →
        z.2 = false ∧ (sp ≠ 0 → popByte z.1 = keptOf sp.toNat))) ∧
    (∃ s : State, ∃ sp : List Span, s = tw ∧ sp = [⟨128, 896⟩, ⟨192, 960⟩] ∧ Walks s 1 two ∧ (s.ctxNow.params.dstr = 0 ∨ 768 * s.ctxNow.w ≤ s.ctxNow.params.dstr) ∧
      (∀ i, i ≤ 1 → (s.place 0 two i).toNat + s.ctxNow.params.drows ≤ 256 * s.ctxNow.h ∧ Fits s (s.place 1 two i).toNat ((s.ctxNow.params.drows - 1) * 768 + 768)) ∧
      sp = (repetitions two).flatMap (fun i => rowSpans (s.place 1 two i).toNat 768 s.ctxNow.params.drows 768) ∧
      Takes s two 0 [] sp false ∧ Takes s two 0 sp [] false) := by
  refine ⟨⟨_, _, rfl, rfl, by decide, rfl, acc_of rfl rfl rfl rfl (by decide) (by decide), rfl, ?_, rfl⟩, le1_of (by decide) (by decide), by decide, ?_,
    ⟨_, _, rfl, rfl, rfl, by decide, le1_of ⟨by decide, by decide, by decide⟩ ⟨by decide, by decide, by decide⟩, by decide,
      acc_of rfl rfl rfl rfl (by decide) (by decide), acc_of rfl rfl rfl rfl (by decide) (by decide)⟩⟩
  · exact two_of ⟨⟨by decide, by decide⟩, readable_of rfl (by decide +kernel), by decide +kernel, by decide⟩ ⟨⟨by decide, by decide⟩, readable_of rfl (by decide +kernel), by decide +kernel, by decide⟩
  · intro sp bw hs hb
    refine ⟨_, _, _, rfl, rfl, rfl, acc_of rfl rfl rfl rfl (by decide) (by decide), ⟨rfl, ?_⟩, rfl, ?_⟩
    · subst hb
      have : sp = 0 ∨ sp = 1 := by bv_omega
      rcases this with rfl | rfl <;> decide
    · intro n hn k hk z hz
      subst hb
      have b : ∀ o, o < 2 ^ 20 → (tw (solid 0 (2 ^ 20))).sys.cell ((tw (solid 0 (2 ^ 20))).sys.cellAt (tw (solid 0 (2 ^ 20))).cur o) = (0x0F, false) := by
        intro o ho
        have p : (tw (solid 0 (2 ^ 20))).sys.cellAt (tw (solid 0 (2 ^ 20))).cur o = ⟨0, some 0, o⟩ := by
          have : o / Config.sliceBytes = 0 := Nat.div_eq_of_lt (by show o < 2 ^ 21; omega)
          have m : o % Config.sliceBytes = o := Nat.mod_eq_of_lt (by show o < 2 ^ 21; omega)
          show Cell.mk 0 (some (([0] : List Nat).getD (o / Config.sliceBytes) 0)) (o % Config.sliceBytes) = _
          rw [this, m]; rfl
        rw [p]
        show (rdByte (solid 0 (2 ^ 20)) o, false) = _
        rw [rdByte_solid _ _ _ (by omega) (by omega)]
      have : sp = 0 ∨ sp = 1 := by bv_omega
      rcases this with rfl | rfl
      · have h : 0 + n * bLine 1 0 + maskLo 1 0 + k < 2 ^ 20 := by show 0 + n * 1728 + 192 + k < 1048576; have : k < 192 := hk; omega
        have := hz.trans (b _ h)
        subst this; exact ⟨rfl, fun h => absurd rfl h⟩
      · have h : 0 + n * bLine 1 1 + maskLo 1 1 + k < 2 ^ 20 := by show 0 + n * 2304 + 384 + k < 1048576; have : k < 384 := hk; omega
        have := hz.trans (b _ h)
        subst this; exact ⟨rfl, fun _ => by decide⟩
/-- A context whose task may run a matrix command. -/
theorem run_of {s : State} {wa wr : BitVec 3} {src : BitVec 2} {la : Nat} (h1 : Walks s wr two) (h2 : src = 0 → Walks s wa two ∧ ∀ i, i ≤ 1 → Fits s (s.place wa two i).toNat la)
    (h3 : src = 1 → ∃ n, leftOf s.sys s.cur.die s.ctxNow = some n) (h4 : src = 2 → s.ctxNow.chains ≠ []) :
    Walks s wr two ∧ (src = 0 → Walks s wa two ∧ ∀ i, i ≤ two.rep.toNat → Fits s (s.place wa two i).toNat la) ∧ (src = 1 → ∃ n, leftOf s.sys s.cur.die s.ctxNow = some n) ∧ (src = 2 → s.ctxNow.chains ≠ []) :=
  ⟨h1, h2, h3, h4⟩
/-- Piece 1 of a grove of two, to the right of piece 0, executes; or piece 0 does. -/
def tg (k : Nat) : State :=
  let c := { tc with grove := [0, 1], alive := [0, 1] }
  { cur := ⟨0, some k⟩, sys := { dies := [(0, { inSvc := true, seqs := [(0, wq), (1, wq)], ctxs := [(0, c), (1, { c with piece := 1, lead := 1 })] })] } }
theorem mgetD_const {α : Type} (l : List Nat) (c d : α) (k : Nat) (h : k ∈ l) : mgetD (l.map (fun r => (r, c))) k d = c := by
  induction l with
  | nil => exact nomatch h
  | cons a t ih =>
    by_cases e : k = a
    · simp [mgetD, mget?, e]
    · have := ih (by simpa [e] using h)
      simp only [mgetD, List.map_cons, mget?, e, if_false] at *; exact this
theorem blocks_tc : tc.blocks = [0] := by decide
theorem getD_const (n i : Nat) (c : Byte) (h : i < n) : (List.replicate n c).getD i 0 = c := by simp [List.getD_eq_getElem?_getD, h]
/-- A die whose block 0 holds a B of width `x.1` and sparsity `x.2`, every byte 0x0F. -/
def bdie (x : Nat × Nat) : Die := { bmat := [(0, { bw := x.1, sp := x.2, lines := (List.range 192).map (fun r => (r, List.replicate 2304 0x0F)) })] }
theorem wit_MatrixRun_executes : ∀ mode : BitVec 2, mode ≠ 3 → ∀ x ∈ [(0, 0), (1, 0), (2, 0), (1, 1)], ∃ s : State, ∃ h : Ctx, ∃ e : Entry, e = me (.mxRun 0 0 3 mode 0 plainFields) x ∧ s = mxs e (bdie x) ∧
    StartedHead s 0 0 0 h e [] ∧ h.blocks.Nodup ∧ h.shape ≠ 7 ∧ e.cmd = .mxRun 0 0 3 mode 0 plainFields ∧ e.eB = x ∧ x.1 < 3 ∧ x.2 < 4 ∧ HoldsB (s.sys.die 0) h x.1 x.2 ∧
    ∀ b r, (b, r) ∈ e.reps → r + (if x.1 = 0 then 2 else 1) * e.params.mrows ≤ 256 * h.h := by
  intro mode _ x hx
  have c : x = (0, 0) ∨ x = (1, 0) ∨ x = (2, 0) ∨ x = (1, 1) := by simpa using hx
  refine ⟨_, _, _, rfl, rfl, ⟨rfl, rfl, fun _ h => (nomatch h), rfl, rfl⟩, by show tc.blocks.Nodup; decide, by show (6 : Nat) ≠ 7; decide, rfl, rfl, ?_, ?_, ⟨?_, ?_⟩, ?_⟩
  · rcases c with rfl | rfl | rfl | rfl <;> decide
  · rcases c with rfl | rfl | rfl | rfl <;> decide
  · intro b hb
    have hb : b ∈ tc.blocks := hb
    have : b = 0 := by rw [blocks_tc] at hb; simpa using hb
    subst this
    exact ⟨rfl, rfl⟩
  · intro hs j hj k hk u hu y hy
    have e : x = (1, 1) := by rcases c with rfl | rfl | rfl | rfl <;> first | rfl | exact absurd rfl hs
    subst e
    have hj' : j < 1 := hj
    have hk' : k < 192 := hk
    have hu' : u < 2 := hu
    have l : bLineOf ((mxs (me (.mxRun 0 0 3 mode 0 plainFields) (1, 1)) (bdie (1, 1))).sys.die 0) ((mxs (me (.mxRun 0 0 3 mode 0 plainFields) (1, 1)) (bdie (1, 1))).sys.ctxFor 0 0 (me (.mxRun 0 0 3 mode 0 plainFields) (1, 1))) j k =
        List.replicate 2304 0x0F := by
      have z : k / 192 * 1 + j = 0 := by omega
      have m : k % 192 = k := Nat.mod_eq_of_lt hk'
      show mgetD (mgetD (bdie (1, 1)).bmat (tc.blocks.getD (k / 192 * 1 + j) 0) {}).lines (k % 192) [] = _
      rw [z, m, blocks_tc]
      exact mgetD_const _ _ _ _ (List.mem_range.2 hk')
    rw [l]
    have g : maskOf 1 1 (List.replicate 2304 0x0F) y u = 0x0F := by
      have : 2 * 192 + u * 192 + y % 192 < 2304 := by omega
      exact getD_const _ _ _ this
    rw [g]; decide
  · intro b r h
    have : (b, r) = (0, 0) := by simpa [me] using h
    cases this
    show 0 + (if x.1 = 0 then 2 else 1) * 1 ≤ 256 * 1
    split <;> decide
theorem wit_MatrixRun_streams : ∀ src : BitVec 2, src = 1 ∨ src = 2 → ∀ n ∈ [960, 100], ∃ s : State, ∃ h : Ctx, ∃ e : Entry, e = me (.mxRun 0 0 3 1 src plainFields) ∧
    s = ts tq { tc with queues := [(0, { iss := 1, ents := [e] })], links := [(0, List.replicate n 0)], bypass := List.replicate n 0 } ∧ StartedHead s 0 0 0 h e [] ∧ h = s.sys.ctx 0 0 ∧
    HoldsB (s.sys.die 0) h 1 0 ∧ e.reps[e.rep]? = some (0, 0) ∧ e.pos < e.params.mrows ∧ (∀ x ∈ 0 :: h.grove, ∀ g ∈ (s.sys.ctx 0 x).chains, g.outTo = []) ∧
    (runSource s.sys 0 h (src == 1)).length = n ∧ (n = 960 → e.buf.length + n = 192 * h.h * 2 ^ 0 * (1 + 4)) ∧ (n = 100 → n < 960 - e.buf.length ∧ n + 768 ≤ 12288) := by
  intro src hs n hn
  refine ⟨_, _, _, rfl, rfl, ⟨rfl, rfl, fun _ h => (nomatch h), rfl, rfl⟩, rfl, ⟨?_, fun h => absurd rfl h⟩, rfl, Nat.one_pos, ?_, ?_, ?_, ?_⟩
  · intro b hb
    exact ⟨rfl, rfl⟩
  · intro x hx g hg
    have : x = 0 := by have : x ∈ [0, 0] := hx; simpa using this
    subst this
    have : g ∈ [({ phys := 0 } : Chain)] := hg
    have : g = { phys := 0 } := by simpa using this
    rw [this]
  · rcases hs with rfl | rfl <;> exact List.length_replicate
  · rintro rfl; show 0 + 960 = 192 * 1 * 2 ^ 0 * (1 + 4); decide
  · rintro rfl; show 100 < 960 - 0 ∧ 100 + 768 ≤ 12288; decide
theorem wit_MatrixRun : ∀ src : BitVec 2, src ≠ 3 → ∃ s : State, ∃ rd : List Span, s.ctxNow.iB = (1, 0) ∧ s.ctxNow.params.astr = 0 ∧ s.ctxNow.params.mrows = 1 ∧ s.ctxNow.shape ≠ 7 ∧
    192 * s.ctxNow.h * 2 ^ 0 * (2 + (3 : BitVec 4).toNat) = 960 ∧
    (Walks s 1 two ∧ (src = 0 → Walks s 0 two ∧ ∀ i, i ≤ two.rep.toNat → Fits s (s.place 0 two i).toNat 960) ∧ (src = 1 → ∃ n, leftOf s.sys s.cur.die s.ctxNow = some n) ∧ (src = 2 → s.ctxNow.chains ≠ [])) ∧
    (∀ i, i ≤ 1 → (s.place 1 two i).toNat + s.ctxNow.params.mrows ≤ 256 * s.ctxNow.h) ∧
    rd = (if src = 0 then (repetitions two).flatMap (fun i => rowSpans (s.place 0 two i).toNat 960 1 960) else []) ∧ Takes s two 0 rd [] false := by
  intro src h
  have : src = 0 ∨ src = 1 ∨ src = 2 := by bv_omega
  rcases this with rfl | rfl | rfl
  · exact ⟨tw, _, rfl, rfl, rfl, by decide, rfl, run_of rfl (fun _ => ⟨rfl, le1_of ⟨by decide, by decide⟩ ⟨by decide, by decide⟩⟩) (fun h => absurd h (by decide)) (by decide),
      le1_of (by decide) (by decide), rfl, acc_of rfl rfl rfl rfl (by decide) (by decide)⟩
  · exact ⟨tg 1, _, rfl, rfl, rfl, by decide, rfl, run_of rfl (fun h => absurd h (by decide)) (fun _ => ⟨0, by decide⟩) (by decide),
      le1_of (by decide) (by decide), rfl, acc_of rfl rfl rfl rfl (by decide) (by decide)⟩
  · exact ⟨tw, _, rfl, rfl, rfl, by decide, rfl, run_of rfl (fun h => absurd h (by decide)) (fun h => absurd h (by decide)) (by decide),
      le1_of (by decide) (by decide), rfl, acc_of rfl rfl rfl rfl (by decide) (by decide)⟩
/-- A record that splits a fragment of shape 4 into six blocks, three of them live, from 0x2000. -/
def splMem (live : Nat := 7) (into : Nat := 6) : Mem := wrBytes [] 0 (leBytes 64 (0x2000 + 2 ^ 64 * live + 2 ^ 128 * into))
theorem wit_RoutingAndSplits : (tg 0).ctxNow.shape ≠ 7 ∧ Takes (tg 0) two 0 [] [] false ∧ (tg 0).ctxNow.chains ≠ [] ∧
    (∃ g, (tg 0).sys.piece? (tg 0).cur.die (tg 0).ctxNow (1 : BitVec 8).toNat = some g ∧ linkGeometry (tg 0).ctxNow g = true) ∧ (tg 0).cur.idx = some 0 ∧
    (∃ s : State, s = tw (splMem) { tc with shape := 4, w := 6 } ∧ s.ctxNow.grove.length = 1 ∧ s.ctxNow.piece = 0 ∧ s.ctxNow.orig = none ∧ splitAllowed s.ctxNow.shape 6 = true ∧ s.cur.idx = some 0 ∧
      s.ctxNow.shape ≠ 7 ∧ Fits s (s.now.wk 0).base.toNat 64 ∧ Readable s .matrix (s.now.wk 0).base 64 ∧ s.word (s.now.wk 0).base 64 = (0x2000 : Word).toNat + 2 ^ 64 * (7 : Word).toNat + 2 ^ 128 * 6 ∧
      (7 : Word).toNat < 2 ^ pieceCount s.ctxNow 6 ∧ canonical 0x2000 = true ∧ s.ctxNow.reshape = .none) ∧
    ({ tc with reshape := .fuse } : Ctx).reshape ≠ .none ∧
    (∃ s : State, s = tw (splMem 64) { tc with shape := 4, w := 6 } ∧ s.traps ∧ Fits s (s.now.wk 0).base.toNat 64 ∧ Readable s .matrix (s.now.wk 0).base 64 ∧
      s.word (s.now.wk 0).base 64 = (0x2000 : Word).toNat + 2 ^ 64 * (64 : Word).toNat + 2 ^ 128 * 6 ∧ splitAllowed s.ctxNow.shape 6 = true ∧ 2 ^ pieceCount s.ctxNow 6 ≤ (64 : Word).toNat) ∧
    (∃ s : State, s = tw (splMem 7 5) { tc with shape := 4, w := 6 } ∧ s.traps ∧ Fits s (s.now.wk 0).base.toNat 64 ∧ Readable s .matrix (s.now.wk 0).base 64 ∧
      s.word (s.now.wk 0).base 64 = (0x2000 : Word).toNat + 2 ^ 64 * (7 : Word).toNat + 2 ^ 128 * 5 ∧ splitAllowed s.ctxNow.shape 5 = false) ∧
    (∃ s : State, s = tw (splMem) { tc with shape := 4, w := 6, piece := 1 } ∧ s.traps ∧ Fits s (s.now.wk 0).base.toNat 64 ∧ Readable s .matrix (s.now.wk 0).base 64 ∧
      s.word (s.now.wk 0).base 64 = (0x2000 : Word).toNat + 2 ^ 64 * (7 : Word).toNat + 2 ^ 128 * 6 ∧ (7 : Word).toNat < 2 ^ pieceCount s.ctxNow 6 ∧ s.ctxNow.piece ≠ 0) ∧
    (tg 0).ctxNow.piece = 0 ∧ 2 ≤ (tg 0).ctxNow.grove.length ∧ (tg 1).traps ∧ (tg 1).ctxNow.piece ≠ 0 ∧ (ts).ctxNow.grove.length ≤ 1 ∧ (ts).cur.idx = some 0 ∧ (tg 1).cur.idx = some 1 :=
  ⟨by decide, acc_of rfl rfl rfl rfl (by decide) (by decide), by decide, ⟨_, rfl, by decide⟩, rfl,
    ⟨_, rfl, rfl, rfl, rfl, rfl, rfl, by decide, ⟨by decide, by decide⟩, readable_of rfl (by decide +kernel), by decide +kernel, by decide, by decide, rfl⟩, by decide,
    ⟨_, rfl, .inl rfl, ⟨by decide, by decide⟩, readable_of rfl (by decide +kernel), by decide +kernel, rfl, by decide⟩,
    ⟨_, rfl, .inl rfl, ⟨by decide, by decide⟩, readable_of rfl (by decide +kernel), by decide +kernel, by decide⟩,
    ⟨_, rfl, .inl rfl, ⟨by decide, by decide⟩, readable_of rfl (by decide +kernel), by decide +kernel, by decide, by decide⟩,
    rfl, by decide, .inl rfl, by decide, by decide, rfl, rfl⟩
/-- A copy record by its fields. -/
def rec (ssp dsp nrow len saddr daddr sstr dstr auxv val token esz : Nat) : BitVec 512 :=
  BitVec.ofNat 512 (dsp + 2 ^ 3 * ssp + 2 ^ 6 * esz + 2 ^ 96 * token + 2 ^ 128 * daddr + 2 ^ 192 * saddr + 2 ^ 256 * dstr + 2 ^ 288 * sstr + 2 ^ 320 * len + 2 ^ 352 * nrow + 2 ^ 384 * auxv + 2 ^ 448 * val)
/-- One record for each copy command. -/
def recs : List (CpKind × BitVec 512) :=
  [(.blk, rec 2 0 2 64 0x10 0x1000 64 64 0 0 0 0), (.walk, rec 2 0 0 8 0 0 0 0 0 0 0 0), (.fill, rec 0 0 1 8 0 0x1FFFF8 0 0 0 7 0 0), (.trn, rec 2 0 2 4 0x10 0x1000 64 64 0 0 0 1),
    (.gat, rec 2 0 2 8 0x10 0x1000 64 64 0x2000 0 0 0), (.sca, rec 0 2 2 8 0x10 0x1000 64 64 0x2000 0 0 0), (.red true, rec 0 2 2 0 0x10 0x1000 4 4 0x2000 0 0 0), (.red false, rec 0 2 2 0 0x10 0x1000 4 4 0 0 0 0),
    (.amo, rec 0 2 2 0 0x10 0x1000 4 4 0 0 0 0), (.amor, rec 0 2 2 0 0x10 0x1000 4 4 0x2000 0 0 0), (.sig, rec 0 2 0 0 0 8 0 0 0 1 0 0), (.sigw, rec 0 2 0 0 0 8 0 0 0 1 0 0),
    (.sigr, rec 0 2 0 0 16 8 0 0 0 1 0 0), (.rw 0, rec 0 4 2 64 0x10 0x1000 64 64 0 0 7 0), (.rw 1, rec 0 4 2 64 0x10 0x1000 64 64 0 0 7 0), (.rw 2, rec 0 4 2 64 0x10 0x1000 64 64 0 0 7 0),
    (.rw 3, rec 0 4 2 64 0x10 0x1000 64 64 0 0 7 0), (.land, rec 0 0 0 64 16 64 0 0 0 1 0 0), (.lrev, rec 0 0 0 0 0 0 0 0 0 0 7 0)]
/-- The bytes of a 64-byte record, listed from `a`. -/
def cells (a x : Nat) : Mem := ((List.range 64).map (fun k => (a + k, BitVec.ofNat 8 (x / 2 ^ (8 * k))))).filter (fun c => c.2 != 0)
/-- Two repetitions at one address. -/
def twice : Common := { plainFields with rep := 1 }
/-- A task with `x` at 0, and an open landing of token 7. -/
def tcp (x : BitVec 512) : State := tw (cells 0 x.toNat) { tc with landings := [⟨7, 0, 64, 1, 3, false, none⟩] }
theorem wit_CopyCommands : Walks (tw) 0 twice ∧ (∀ x ∈ recs, x.1 ≠ .walk → ∀ j, j ≤ 1 → GoodRecord (tcp x.2) x.1 ((tcp x.2).now.wk 0) ((tcp x.2).now.wk 0) j x.2) ∧
    (∀ x ∈ recs, ∃ s : State, ∃ rd wr : List Span, s = tcp x.2 ∧ (0 : BitVec 2).toNat < s.ctxNow.copies.length ∧ [x.2, x.2].length = twice.rep.toNat + 1 ∧
      (∀ j z, [x.2, x.2][j]? = some z → Fits s (s.place 0 twice j).toNat 64 ∧ Readable s .copy (s.place 0 twice j) 64 ∧ s.word (s.place 0 twice j) 64 = z.toNat ∧
        (x.1 = .land → rAuxv z % 256 < s.ctxNow.semMap.length)) ∧
      rd = hullAll ([x.2, x.2].flatMap (fun z => (winHulls x.1 z (s.now.wk 0) (s.now.wk 1)).1)) ∧ wr = hullAll ([x.2, x.2].flatMap (fun z => (winHulls x.1 z (s.now.wk 0) (s.now.wk 1)).2)) ∧
      Takes s twice (8 + (0 : BitVec 2).toNat) rd wr (!(rd.isEmpty && wr.isEmpty))) ∧
    GoodRecord (tcp (rec 2 0 0 8 0 0 0 0 0 0 0 0)) .walk ((tcp (rec 2 0 0 8 0 0 0 0 0 0 0 0)).now.wk 0) ((tcp (rec 2 0 0 8 0 0 0 0 0 0 0 0)).now.wk 1) 0 (rec 2 0 0 8 0 0 0 0 0 0 0 0) := by
  refine ⟨rfl, ?_, ?_, ?_⟩
  · intro x hx hw
    refine le1_of ?_ ?_ <;> constructor <;> revert x <;> decide +kernel
  · intro x hx
    have h : Fits (tcp x.2) ((tcp x.2).place 0 twice 0).toNat 64 ∧ Readable (tcp x.2) .copy ((tcp x.2).place 0 twice 0) 64 ∧ (tcp x.2).word ((tcp x.2).place 0 twice 0) 64 = x.2.toNat ∧
        (x.1 = .land → rAuxv x.2 % 256 < (tcp x.2).ctxNow.semMap.length) := by
      refine ⟨⟨?_, ?_⟩, readable_of rfl ?_, ?_, ?_⟩ <;> revert x <;> decide +kernel
    refine ⟨_, _, _, rfl, ?_, rfl, two_of h h, rfl, rfl, acc_of rfl rfl rfl rfl ?_ ?_⟩ <;> clear h <;> revert x <;> decide +kernel
  · constructor <;> decide +kernel
/-- The descriptor of a program of one word on strip 0, and the word, `x.add.f32 v15, v14, v15`, at 64. -/
def prgMem : Mem := cells 0 (64 + 1 * 2 ^ 32 + 2 * 2 ^ 40) ++ cells 64 0x007F_7F80
/-- A task that holds one chain, bound in issue order. -/
def tb (m : Mem := []) : State := tw m { tc with chains := [{ phys := 0, iBound := true }] }
theorem wit_StripEntries : ∀ i ∈ [Instr.xbBind 0 plainFields, .xbFree 0 plainFields, .xbSeed 0 0 2 plainFields], ∃ s : State, ∃ c : Ctx, ∃ e : Entry, e = { num := 1, cmd := i, reps := [(0x40, 0)], started := true } ∧
    s = ts tq { tc with queues := [(1, { iss := 1, ents := [e] })] } ∧ StartedHead s 0 0 (1 + 0) c e [] ∧ c.chains[0]? = some { phys := 0 } ∧ e.cmd = i ∧ (2 : BitVec 3).toNat < 5 ∧ e.reps = [(0x40, 0)] :=
  fun i _ => ⟨_, _, _, rfl, rfl, ⟨rfl, rfl, fun _ h => (nomatch h), rfl, rfl⟩, rfl, rfl, by decide, rfl⟩
theorem wit_StripCommands :
    (tw).ctxNow.chains[(0 : BitVec 3).toNat]? = some { phys := 0 } ∧ (tb).ctxNow.chains[(0 : BitVec 3).toNat]? = some { phys := 0, iBound := true } ∧
    ((tb).ctxNow.queue 1).openEntries = [] ∧ Takes (tb) plainFields 1 [] [] false ∧ Takes (tw) plainFields 1 [] [] false ∧
    (∃ rd : List Span, Walks (tb) 0 two ∧ (∀ i, i ≤ 1 → ((tb).place 0 two i).toNat % 16 = 0 ∧ ((tb).place 0 two i).toNat + 768 ≤ (tb).ctxNow.wsz) ∧
      rd = (repetitions two).map (fun i => ⟨((tb).place 0 two i).toNat, ((tb).place 0 two i).toNat + 768⟩) ∧ Takes (tb) two 1 rd [] false) ∧
    (∀ f : BitVec 3, ∃ r : List (Nat × Nat), ∃ sp : List Span, Walks (tb) 0 two ∧ Walks (tb) 1 two ∧
      r = (repetitions two).map (fun i => (((tb).place 0 two i).toNat, if 5 ≤ f.toNat then ((tb).place 1 two i).toNat else 0)) ∧
      sp = r.flatMap (fun x => ⟨x.1, x.1 + fmtBytes f.toNat⟩ :: (if 5 ≤ f.toNat then [⟨x.2, x.2 + 6⟩] else [])) ∧ (∀ x ∈ r, x.1 % 16 = 0) ∧ (∀ x ∈ sp, x.hi ≤ (tb).ctxNow.wsz) ∧
      (∀ take, ∀ x ∈ r, openClash (tb).ctxNow take (streamSpans f.toNat x) = false) ∧ Takes (tb) two 1 sp [] false ∧ Takes (tb) two 1 [] sp false ∧ (tb).ctxNow.iRouting = .dflt) ∧
    (∃ s : State, ∃ ps : List DescPart, ∃ ws : List (List Nat), s = tb prgMem ∧ ps = descParts (s.word (s.now.wk 0).base 64) ∧ Fits s (s.now.wk 0).base.toNat 64 ∧ Readable s .strip (s.now.wk 0).base 64 ∧
      descReserved (s.word (s.now.wk 0).base 64) = false ∧
      (∀ p ∈ ps, p.nw ≤ 64 ∧ p.off % 4 = 0 ∧ (p.nw ≠ 0 → p.off + 4 * p.nw ≤ s.ctxNow.wsz ∧ Readable s .strip (BitVec.ofNat 64 p.off) (4 * p.nw))) ∧
      ws = ps.map (fun p => (List.range p.nw).map (fun j => s.word (BitVec.ofNat 64 (p.off + 4 * j)) 4)) ∧ groupBad (s.ctxNow.queue 1).openEntries ps ws = false ∧
      (∀ k p l, ps[k]? = some p → ws[k]? = some l → ∀ x ∈ l, wordCause x k = none) ∧ Takes s plainFields 1 [] [] false) := by
  refine ⟨rfl, rfl, rfl, acc_of rfl rfl rfl rfl (by decide) (by decide), acc_of rfl rfl rfl rfl (by decide) (by decide),
    ⟨_, rfl, le1_of ⟨by decide, by decide⟩ ⟨by decide, by decide⟩, rfl, acc_of rfl rfl rfl rfl (by decide) (by decide)⟩, ?_, ?_⟩
  · intro f
    refine ⟨_, _, rfl, rfl, rfl, rfl, ?_, ?_, ?_, acc_of rfl rfl rfl rfl (by decide) (by decide), acc_of rfl rfl rfl rfl (by decide) (by decide), rfl⟩
    · revert f; decide
    · revert f; decide
    · intro take x _; rfl
  · have e : descParts ((tb prgMem).word ((tb prgMem).now.wk 0).base 64) = [⟨2, 1, 64⟩, ⟨0, 0, 0⟩, ⟨0, 0, 0⟩, ⟨0, 0, 0⟩, ⟨0, 0, 0⟩] := by
      rw [show (tb prgMem).word ((tb prgMem).now.wk 0).base 64 = 64 + 1 * 2 ^ 32 + 2 * 2 ^ 40 by decide +kernel]; rfl
    have w : (tb prgMem).word (BitVec.ofNat 64 (64 + 4 * 0)) 4 = 0x007F_7F80 := by decide +kernel
    refine ⟨tb prgMem, _, [[0x007F_7F80], [], [], [], []], rfl, e.symm, ⟨by decide, by decide⟩, readable_of rfl (by decide +kernel), by decide +kernel, ?_, ?_, rfl, ?_,
      acc_of rfl rfl rfl rfl (by decide) (by decide)⟩
    · simp only [List.forall_mem_cons]
      exact ⟨⟨by decide, by decide, fun _ => ⟨by decide, readable_of rfl (by decide +kernel)⟩⟩, ⟨by decide, by decide, fun h => absurd rfl h⟩, ⟨by decide, by decide, fun h => absurd rfl h⟩,
        ⟨by decide, by decide, fun h => absurd rfl h⟩, ⟨by decide, by decide, fun h => absurd rfl h⟩, by simp⟩
    · exact congrArg (fun v => [[v], [], [], [], []]) w.symm
    · intro k p l _ hl x hx
      match k, hl with
      | 0, hl => simp at hl; subst hl; simp at hx; subst hx; rfl
      | 1, hl | 2, hl | 3, hl | 4, hl => simp at hl; subst hl; simp at hx
      | n + 5, hl => simp at hl
theorem wit_CommandsAtIssue : cmdCommon (.mxClr 0 true two) = some two ∧ (∀ w, Instr.mxClr 0 true two ≠ .mxSpl w two) ∧ Instr.mxClr 0 true two ≠ .mxFrm two ∧ (tw).traps ∧
    (tw).ctxNow.semMap.length ≤ (1 : BitVec 8).toNat ∧ (∃ s : State, s = tw [] { tc with queues := [(0, { iss := 16, ents := List.replicate 16 { num := 1, cmd := .nop } })] } ∧
      s.cur.idx.isSome = true ∧ s.ctxNow.shape ≠ 7 ∧ semCheck s.ctxNow two = .ok () ∧ 16 ≤ (s.ctxNow.queue 0).ents.length) :=
  ⟨rfl, by simp, by simp, .inl rfl, by decide, _, rfl, rfl, by decide, rfl, by decide⟩

/-! ### Strip words -/

/-- A chain whose strips run a group, with a beat in every in-port. -/
def rch : Chain := { phys := 0, bound := true, running := true, strips := Vector.replicate 5 { sr := List.replicate 192 1, busy := true, p := [(3, 5)] }, ports := (Vector.replicate 11 [zeroBeat]) }
/-- Strip `k` of the chain `h` has its turn. -/
def tx (k : Nat) (h : Chain := rch) : State := { ts tq { tc with chains := [h] } with curStrip := ⟨0, 0, 0, k⟩ }
theorem zeros : zeroBeat.length = 192 := List.length_replicate
theorem pushes (k : Nat) (hk : k < 5) : rch.pushes k := by
  have c : k = 0 ∨ k = 1 ∨ k = 2 ∨ k = 3 ∨ k = 4 := by omega
  rcases c with rfl | rfl | rfl | rfl | rfl
  all_goals first | exact (by decide : 768 ≤ rch.space + (rch.strip 4).sent) | rfl
theorem runs (k : Nat) (hk : k < 5) (srcs : List (BitVec 4)) (push : Bool) : WordRuns (tx k) rch srcs push := by
  have c : k = 0 ∨ k = 1 ∨ k = 2 ∨ k = 3 ∨ k = 4 := by omega
  have p := pushes k hk
  rcases c with rfl | rfl | rfl | rfl | rfl <;>
    exact ⟨rfl, by decide, rfl, rfl, (List.length_replicate : (List.replicate 192 (1 : Lane)).length = 192), fun _ => zeros, fun _ _ => ⟨zeroBeat, [], rfl, zeros⟩, fun _ _ => ⟨zeroBeat, [], rfl, zeros⟩, fun _ h => (nomatch h), fun _ => p⟩
theorem wit_IntegerWords : ∀ k < 5, ∀ a b d g : BitVec 4, WordRuns (tx k) rch [a, b] (d == 15 && g != 14) := fun k h _ _ _ _ => runs k h _ _
theorem wit_FloatWords : ∀ k < 5, ∀ a b d g : BitVec 4, WordRuns (tx k) rch [a, b] (d == 15 && g != 14) ∧ WordRuns (tx k) rch [a] (d == 15 && g != 14) ∧
    laneFmt 0 = some fFP32 ∧ laneFmt 1 = some fBF16 ∧ laneFmt 2 = some fFP16 := fun k h _ _ _ _ => ⟨runs k h _ _, runs k h _ _, rfl, rfl, rfl⟩
theorem wit_ConversionWords : ∀ k < 5, ∀ a d g : BitVec 4, WordRuns (tx k) rch [a] (d == 15 && g != 14) ∧ (4 : BitVec 3).toNat < 5 ∧ 5 ≤ (6 : BitVec 3).toNat :=
  fun k h _ _ _ => ⟨runs k h _ _, by decide, by decide⟩
theorem wit_PredicateWords : ∀ k < 5, ∀ a b d g : BitVec 4, WordRuns (tx k) rch [a, b] false ∧ WordRuns (tx k) rch [a, b] (d == 15 && g != 14) ∧ WordRuns (tx k) rch [] false ∧
    WordRuns (tx k) rch [a] false ∧ WordRuns (tx k) rch [] (d == 15 && g != 14) ∧ laneFmt 3 = none ∧ laneFmt 6 = none :=
  fun k h _ _ _ _ => ⟨runs k h _ _, runs k h _ _, runs k h _ _, runs k h _ _, runs k h _ _, rfl, rfl⟩
theorem wit_ShapeWords : ∀ k < 5, ∀ a b d g : BitVec 4, WordRuns (tx k) rch [a] (d == 15 && g != 14) ∧ WordRuns (tx k) rch [a, b] (d == 15 && g != 14) :=
  fun k h _ _ _ _ => ⟨runs k h _ _, runs k h _ _⟩
theorem wit_ControlWords : ∀ k < 5, ∀ a d g : BitVec 4, WordRuns (tx k) rch [] false ∧ WordRuns (tx k) rch [] (d == 15 && g != 14) ∧ WordRuns (tx k) rch [a] false ∧
    (rch.strip k).packLine = [] ∧ (rch.strip k).mask 3 ≠ 0 ∧ WordRuns (tx 4) rch [a] true ∧ (∃ l : List (List Byte), l.length + 24 = 192 ∧ ∀ z ∈ l, z.length = (1 : BitVec 4).toNat + 2) := by
  intro k h a d g
  have c : k = 0 ∨ k = 1 ∨ k = 2 ∨ k = 3 ∨ k = 4 := by omega
  refine ⟨runs k h _ _, runs k h _ _, runs k h _ _, ?_, ?_, runs 4 (by decide) _ _, List.replicate 168 [0, 0, 0], by rw [List.length_replicate], fun z hz => by rw [List.eq_of_mem_replicate hz]; rfl⟩ <;>
    rcases c with rfl | rfl | rfl | rfl | rfl <;> decide
/-- The same chain with other ports, its strips' progress on their words as `x` has it. -/
def pch (ps : Vector (List Beat) 11) (x : Strip := {}) : Chain :=
  { rch with ports := ps, strips := Vector.replicate 5 { sr := List.replicate 192 1, busy := true, p := [(3, 5)], got := x.got, sent := x.sent } }
/-- Every port full. -/
def fullOut : Vector (List Beat) 11 := Vector.replicate 11 (List.replicate 4 zeroBeat)
/-- 10 R229: the flags and the draws that the clause on packing asks of the strip exist. -/
theorem wit_Packing (P : Nat → Bool) (dr : Nat → BitVec 32) : (∃ u : Strip, (∀ l < 192, u.sr.getD l 0 = dr l) ∧ u.sr.length = 192 ∧ ∀ i < 5, (u.flags.getLsbD i = true ↔ P i = true)) ∧
    ((rch.strip 4).packLine.length + 24 < (rch.strip 4).lg) ∧ ((pch fullOut).space + (rch.strip 4).sent < 17 * (rch.strip 4).lg) ∧ 2 * (rch.strip 4).lg ≤ rch.space := by
  have b : ∀ p0 p1 p2 p3 p4 : Bool, ∃ x : BitVec 5, x.getLsbD 0 = p0 ∧ x.getLsbD 1 = p1 ∧ x.getLsbD 2 = p2 ∧ x.getLsbD 3 = p3 ∧ x.getLsbD 4 = p4 := by decide
  obtain ⟨x, h0, h1, h2, h3, h4⟩ := b (P 0) (P 1) (P 2) (P 3) (P 4)
  refine ⟨⟨{ sr := (List.range 192).map dr, flags := x }, fun l h => by simp [h], by simp, fun i h => ?_⟩, by decide, by decide, by decide⟩
  have c : i = 0 ∨ i = 1 ∨ i = 2 ∨ i = 3 ∨ i = 4 := by omega
  rcases c with rfl | rfl | rfl | rfl | rfl
  · rw [← h0]
  · rw [← h1]
  · rw [← h2]
  · rw [← h3]
  · rw [← h4]
theorem wit_WordsWait : (∀ h : Chain, (tx 0 h).sys.chain? ⟨0, 0, 0, 0⟩ = some h) ∧ ({ rch with running := false } : Chain).running = false ∧
    (({ rch with strips := Vector.replicate 5 {} } : Chain).strip 0).busy = false ∧
    (∀ k < 5, (pch (Vector.replicate 11 [])).port (inA k) = [] ∧ (pch (Vector.replicate 11 [])).port (inB k) = [] ∧ ((pch (Vector.replicate 11 [])).strip k).got = none) ∧
    (∀ k < 5, ¬(pch fullOut).pushes k ∧ ∀ a b : BitVec 4, WordRuns (tx k (pch fullOut)) (pch fullOut) [a, b] false ∧ WordRuns (tx k (pch fullOut)) (pch fullOut) [a] false ∧
      WordRuns (tx k (pch fullOut)) (pch fullOut) [] false) ∧
    (∀ k < 5, ∃ h : Chain, h = pch fullOut { got := some (zeroBeat, zeroBeat) } ∧ ¬h.pushes k ∧ ∀ a b : BitVec 4, WordRuns (tx k h) h [a, b] false ∧ WordRuns (tx k h) h [a] false) := by
  refine ⟨fun _ => rfl, rfl, rfl, ?_, ?_, ?_⟩ <;> intro k hk <;> have c : k = 0 ∨ k = 1 ∨ k = 2 ∨ k = 3 ∨ k = 4 := by omega
  · rcases c with rfl | rfl | rfl | rfl | rfl <;> exact ⟨rfl, rfl, rfl⟩
  · have r : ∀ srcs : List (BitVec 4), WordRuns (tx k (pch fullOut)) (pch fullOut) srcs false := fun srcs => by
      rcases c with rfl | rfl | rfl | rfl | rfl <;>
        exact ⟨rfl, by decide, rfl, rfl, (List.length_replicate : (List.replicate 192 (1 : Lane)).length = 192), fun _ => zeros, fun _ _ => ⟨zeroBeat, List.replicate 3 zeroBeat, rfl, zeros⟩,
          fun _ _ => ⟨zeroBeat, List.replicate 3 zeroBeat, rfl, zeros⟩, fun _ h => (nomatch h), fun h => (nomatch h)⟩
    refine ⟨?_, fun _ _ => ⟨r _, r _, r _⟩⟩
    rcases c with rfl | rfl | rfl | rfl | rfl
    · exact Bool.false_ne_true
    · exact Bool.false_ne_true
    · exact Bool.false_ne_true
    · exact Bool.false_ne_true
    · exact (by decide : ¬768 ≤ (pch fullOut).space + ((pch fullOut).strip 4).sent)
  · have r : ∀ srcs : List (BitVec 4), WordRuns (tx k (pch fullOut { got := some (zeroBeat, zeroBeat) })) (pch fullOut { got := some (zeroBeat, zeroBeat) }) srcs false := fun srcs => by
      rcases c with rfl | rfl | rfl | rfl | rfl <;>
        exact ⟨rfl, by decide, rfl, rfl, (List.length_replicate : (List.replicate 192 (1 : Lane)).length = 192), fun _ => zeros, fun h => (nomatch h), fun h => (nomatch h),
          fun x h => by (cases h; exact ⟨fun _ => zeros, fun _ => zeros⟩), fun h => (nomatch h)⟩
    refine ⟨_, rfl, ?_, fun _ _ => ⟨r _, r _⟩⟩
    rcases c with rfl | rfl | rfl | rfl | rfl
    · exact Bool.false_ne_true
    · exact Bool.false_ne_true
    · exact Bool.false_ne_true
    · exact Bool.false_ne_true
    · exact (by decide : ¬768 ≤ (pch fullOut { got := some (zeroBeat, zeroBeat) }).space + ((pch fullOut { got := some (zeroBeat, zeroBeat) }).strip 4).sent)

/-! ### Events -/

/-- The sequencer and the steward of die 0. -/
def r0 : SeqRef := ⟨0, some 0⟩
def rs : SeqRef := ⟨0, none⟩
theorem wit_TrapEvents :
    (∀ p ∈ [PendCause.interrupt, .watchdog, .machineCheck 0 5], ∃ s : State, s = ts tq { tc with pend := [p] } ∧ seqReady s.sys r0 = true ∧ (s.sys.seq r0).ae = true ∧
      minRank PendCause.rank (s.sys.ctx 0 0).pend = some p) ∧
    minRank PendCause.rank [.interrupt, .machineCheck 0 5, .watchdog] = some (.machineCheck 0 5) ∧
    (∀ p ∈ [DieCause.copyFault 0 1, .leaseSkew 3, .watchdog 0, .machineCheck 2], ∃ s : State, s = ss sq tc { pend := [p] } ∧ seqReady s.sys rs = true ∧ (s.sys.seq rs).ae = true ∧
      minRank DieCause.rank (s.sys.die 0).pend = some p) ∧
    (∃ s : State, s = ts { tq with pc := 0x1001 } ∧ seqReady s.sys r0 = true ∧ takePending s.sys r0 = none ∧ (s.sys.seq r0).pc.toNat % 2 = 1 ∧ (s.sys.seq r0).steward = false) ∧
    (∃ y e, seqReady (ts).sys r0 = true ∧ takePending (ts).sys r0 = none ∧ fetchInstr (ts).sys r0 (tq).pc = (y, .error e) ∧ (y.seq r0).steward = false) ∧
    (∃ s : State, ∃ y w n, s = ss sq tc { image := [(0x1000, 0xFC), (0x1001, 0x03)], imageX := [⟨0x1000, 0x2000⟩] } ∧ seqReady s.sys rs = true ∧ takePending s.sys rs = none ∧
      fetchInstr s.sys rs 0x1000 = (y, .ok (w, n)) ∧ w = 0x3FC ∧ (s.sys.seq rs).pc = 0x1000 ∧ (s.sys.seq rs).an0 = false ∧ (y.seq rs).ae = true ∧ ∃ e, decodeSeq 0x3FC = .error e ∧ e ≠ .reserved) ∧
    ((ts).sys.ctx 0 0).st ≠ .free ∧ (((ts).sys.ctx 0 0).st = .ending → ((ts).sys.ctx 0 0).endBy = false) ∧ seqReady (ss).sys rs = true ∧
    (0x1F_FFF8 : Nat) + 8 ≤ Config.sliceBytes ∧ (8 : Nat) + 8 ≤ Config.stewardBytes ∧ (5 : Nat) < Config.partitions ∧ (35 : Nat) < 36 ∧ (11 : Nat) < 12 := by
  refine ⟨fun p _ => ⟨_, rfl, rfl, rfl, rfl⟩, by decide, fun p _ => ⟨_, rfl, rfl, rfl, rfl⟩, ⟨_, rfl, rfl, rfl, by decide, rfl⟩, ⟨_, _, rfl, rfl, rfl, rfl⟩,
    ⟨_, _, _, _, rfl, rfl, rfl, rfl, rfl, rfl, rfl, rfl, .illegal, rfl, by decide⟩, by decide, fun _ => rfl, rfl, by decide, by decide, by decide, by decide, by decide⟩
/-- A context whose queue `q` has the entry `e`. -/
def te (q : Nat) (e : Entry) (v : Die := {}) (c : Ctx := tc) : State := ts tq { c with queues := [(q, { iss := e.num, ents := [e] })] } v
/-- An entry that waits for 5 on semaphore 3. -/
def we (weight : Nat) : Entry := { num := 1, cmd := .mxClr 0 true plainFields, wait := some (3, 5), weight := weight }
def pe : Entry := { num := 1, cmd := .xbProg 0 0 plainFields, weight := 2, progs := [{ nr := 1 }] }
theorem wit_EntryEvents :
    (∀ w, w = 1 ∨ w = 60 → ∃ s : State, ∃ c : Ctx, s = te 0 (we w) { sems := [(3, { count := 5 })] } ∧ c = s.sys.ctx 0 0 ∧ (c.queue 0).ents = [we w] ∧ c.engines = true ∧ 0 ∈ c.queueCodes ∧
      (we w).started = false ∧ isStream (we w).cmd = false ∧ isProg (we w).cmd = false ∧ entryHeld s.sys 0 0 0 [we w] = false ∧ copyStopped c 0 = false ∧ (we w).wait = some (3, 5) ∧
      ((s.sys.die 0).sem 3).met 0 0 1 5 = true ∧ olderWaits s.sys 0 0 0 = false ∧ (w = 1 → (we w).weight ≤ c.ballast) ∧ (w = 60 → c.ballast < (we w).weight)) ∧
    (∃ s : State, s = te 0 (we 1) { sems := [(3, { count := 4 })] } ∧ ((s.sys.die 0).sem 3).met 0 0 1 5 = false ∧ (we 1).waited = false) ∧
    (∃ s : State, ∃ c : Ctx, s = te 1 pe ∧ c = s.sys.ctx 0 0 ∧ (c.queue 1).ents = [pe] ∧ c.engines = true ∧ 1 ∈ c.queueCodes ∧ isProg pe.cmd = true ∧ pe.wait = none ∧ entryHeld s.sys 0 0 1 [pe] = false ∧
      pe.weight ≤ c.ballast ∧ olderWaits s.sys 0 0 1 = false ∧ c.chains[0]? = some { phys := 0 }) ∧
    (∃ s : State, ∃ e : Entry, s = te 8 e ∧ e = { num := 1, cmd := .cpBlk 0 0 plainFields, started := true, done := true, signal := some (3, 2, 0) } ∧ ((s.sys.ctx 0 0).queue 8).ents = [e] ∧
      (s.sys.ctx 0 0).engines = true ∧ 8 ∈ (s.sys.ctx 0 0).queueCodes) ∧
    (∃ s : State, ∃ h : Chain, h = { phys := 0, bound := true, running := true } ∧ s = te 1 pe {} { tc with chains := [h] } ∧ (s.sys.ctx 0 0).chains = [h] ∧ h.idle = true ∧ h.outTo = []) ∧
    (∃ s : State, ∃ h : Chain, ∃ g p : Entry, h = { phys := 0, bound := true, running := true } ∧ g = { num := 1, cmd := .xbFeed 0 0 0 0 0 plainFields, reps := [(0, 0)], rep := 1, bad := true } ∧
      p = { pe with num := 2, signal := some (3, 2, 0) } ∧ s = ts tq { tc with chains := [h], queues := [(1, { iss := 2, ents := [g, p] })] } ∧ ((s.sys.ctx 0 0).queue 1).ents = [g] ++ p :: [] ∧
      ([g, p] : List Entry).Pairwise (fun x y => x.num ≠ y.num) ∧ isStream g.cmd = true ∧ g.reps.length ≤ g.rep ∧ isProg p.cmd = true ∧ h.idle = true) ∧
    (∀ f ∈ [{}, { (default : Fn) with flr := true }], ∃ s : State, ∃ x : Posted, x = ⟨0, 0, 0, 0, 0, 0, 0, []⟩ ∧ s = ts tq tc {} { posted := [x], fns := [(0, f)] } ∧ s.sys.hub.posted.find? (postedReady s.sys) = some x ∧
      (s.sys.part x.part).resetting = false ∧ (s.sys.fn x.fn) = f) ∧ recordBad 0 = false ∧ recPreds 0 = 0 ∧ recGng 0 = false :=
  ⟨fun w h => ⟨_, _, rfl, rfl, rfl, rfl, List.Mem.head _, rfl, rfl, rfl, rfl, rfl, rfl, rfl, rfl, by rintro rfl; decide, by rintro rfl; decide⟩,
    ⟨_, rfl, by decide, rfl⟩, ⟨_, _, rfl, rfl, rfl, rfl, by decide, rfl, rfl, rfl, by decide, rfl, rfl⟩, ⟨_, _, rfl, rfl, rfl, rfl, by decide⟩, ⟨_, _, rfl, rfl, rfl, by decide, rfl⟩,
    ⟨_, _, _, _, rfl, rfl, rfl, rfl, rfl, by simp [pe], rfl, by decide, rfl, by decide⟩, fun _ _ => ⟨_, _, rfl, rfl, rfl, rfl, rfl⟩, by decide +kernel, by decide +kernel, by decide +kernel⟩
/-- Tables of one page each at 0x1000, 0x2000, 0x3000 and 0x4000. -/
def tables : Mem := wrBytes (wrBytes (wrBytes (wrBytes [] 0x1000 (leBytes 8 (2 ^ 63 + 0x2000))) 0x2000 (leBytes 8 (2 ^ 63 + 0x3000))) 0x3000 (leBytes 8 (2 ^ 63 + 0x4000))) 0x4000
  (leBytes 8 (leafEntry 3 0 0x5_0000 true false))
/-- A memory die that maps the page at offset 0 of partition 0 to the frame at 0x5_0000, writable, class 3. -/
def tmem : MemDie := { inSvc := true, roots := [(0, 0x1000)], frames := [(1, .table 0), (5, .mapped)], mem := tables }
/-- A state with that die and a partition that owns it, whose context 0 of die 0 is `c`. -/
def tm (c : Ctx := tc) (h : Hub := th) (m : MemDie := tmem) (v : Die := {}) : State := { ts tq c v h with sys := { (ts tq c v h).sys with mems := [(0, m)] } }
/-- A route entry for that page. -/
def tr : Route := ⟨⟨0, 0, 0, false⟩, 0, 0x5_0000, true, 3, leaseNs 3⟩
/-- A started copy entry with the record `x`. -/
def ce (i : Instr) (x : BitVec 512) (g : Ranges := rr) : Entry := { num := 1, cmd := i, recs := [x], ranges := g, started := true }
def cc (e : Entry) (p : CopyCtx := { engine := 0 }) : Ctx := { tc with copies := [p], queues := [(8, { iss := 1, ents := [e] })], landings := [⟨7, 0, 64, 1, 3, false, none⟩] }
theorem head_of (e : Entry) (p : CopyCtx) (h : e.started = true) : CopyHead (cc e p) 0 p e [] := ⟨rfl, rfl, h, rfl⟩
theorem turns_of (i : Instr) (x : BitVec 512) (g : Ranges) : CopyTurns (cc (ce i x g)) 0 { engine := 0 } (ce i x g) [] := ⟨head_of _ _ rfl, rfl, rfl, rfl, rfl, rfl, rfl⟩
/-- A home request of that context for `q` is out. -/
def outReq : Req := { id := 7, die := 0, ctx := 0, k := 0, part := 0, va := 8, ia := 8, kind := .read 4 }
/-- A copy context at that entry. -/
def ca (k : CpKind) (i : Instr) (x : BitVec 512) (bs : List (Byte × Bool) := []) (p : CopyCtx := { engine := 0 }) : CopyAt :=
  { d := 0, l := 0, k := 0, c := cc { ce i x with carry := bs } p, f := cc { ce i x with carry := bs } p, p := p, kd := k, e := { ce i x with carry := bs }, rest := [] }
theorem turns_at (k : CpKind) (i : Instr) (x : BitVec 512) (bs : List (Byte × Bool)) : CopyTurns (ca k i x bs).c 0 { engine := 0 } (ca k i x bs).e [] := ⟨⟨rfl, rfl, rfl, rfl⟩, rfl, rfl, rfl, rfl, rfl, rfl⟩
/-- A move of each kind and of each pair of spaces that behaves in its own way. -/
def moves : List (CpKind × Instr × BitVec 512) :=
  [(.blk, .cpBlk 0 0 plainFields, rec 0 0 2 64 0x10 0x1000 64 64 0 0 0 0), (.blk, .cpBlk 0 0 plainFields, rec 2 0 2 64 0x10 0x1000 64 64 0 0 0 0), (.blk, .cpBlk 0 0 plainFields, rec 3 2 2 64 0x10 0x1000 64 64 0 0 0 0),
    (.blk, .cpBlk 0 0 plainFields, rec 0 3 2 64 0x10 0x1000 64 64 0 0 0 0), (.walk, .cpWalk 0 0 0 0 plainFields, rec 2 0 0 8 0 0 0 0 0 0 0 0), (.fill, .cpFill 0 0 plainFields, rec 0 0 1 8 0 0x1FFFF8 0 0 0 7 0 0),
    (.trn, .cpTrn 0 0 plainFields, rec 2 0 2 4 0x10 0x1000 64 64 0 0 0 1), (.gat, .cpGat 0 0 plainFields, rec 2 0 2 8 0x10 0x1000 64 64 0x2000 0 0 0), (.sca, .cpSca 0 0 plainFields, rec 0 2 2 8 0x10 0x1000 64 64 0x2000 0 0 0),
    (.rw 0, .cpRw 0 0 0 false plainFields, rec 0 4 2 64 0x10 0x1000 64 64 0 0 7 0)]
theorem wit_CopyMoves : ∀ x ∈ moves, ∀ bs ∈ [[], [((1 : Byte), false)]], ∃ s : State, ∃ m : CopyAt, m = ca x.1 x.2.1 x.2.2 bs ∧ s = tm m.c ∧ m.Moves s ∧ s.live m.c.part ∧ s.sys.outstanding m.d m.l m.k = false ∧
    (x.1 = .rw 0 → s.sys.hub.ports.getLsbD (rDhnd x.2.2) = true) := by
  intro x hx bs hb
  refine ⟨_, _, rfl, rfl, ⟨turns_at _ _ _ _, rfl, rfl, ?_, ?_, .inl rfl, ?_, ?_, ?_⟩, rfl, ?_, ?_⟩ <;> revert x bs <;> decide +kernel
theorem wit_CopySends :
    (∃ s : State, ∃ m : CopyAt, m = ca .lrev (.cpLrev 0 0 plainFields) 0 ∧ s = tm m.c { th with reqs := [outReq] } ∧ CopyTurns m.c m.k m.p m.e m.rest ∧ s.sys.outstanding m.d m.l m.k = true) ∧
    (∀ x ∈ [(CpKind.red true, Instr.cpRed 0 0 true plainFields, rec 0 2 2 0 0x10 0x1000 4 4 0x2000 0 0 0), (.amo, .cpAmo 0 0 plainFields, rec 0 2 2 0 0x10 0x1000 4 4 0 0 0 0), (.amor, .cpAmor 0 0 plainFields, rec 0 2 2 0 0x10 0x1000 4 4 0x2000 0 0 0),
      (.sig, .cpSig 0 0 0 plainFields, rec 0 2 0 0 0 8 0 0 0 1 0 0), (.sigw, .cpSigw 0 0 plainFields, rec 0 2 0 0 0 8 0 0 0 1 0 0), (.sigr, .cpSigr 0 0 plainFields, rec 0 2 0 0 16 8 0 0 0 1 0 0),
      (.land, .cpLand 0 0 plainFields, rec 0 0 0 64 16 64 0 0 0 1 0 0), (.lrev, .cpLrev 0 0 plainFields, rec 0 0 0 0 0 0 0 0 0 0 7 0)],
      ∃ s : State, ∃ m : CopyAt, m = ca x.1 x.2.1 x.2.2 ∧ s = tm m.c ∧ CopyTurns m.c m.k m.p m.e m.rest ∧ m.c = s.sys.ctx 0 0 ∧ m.f = s.sys.ctxFor 0 0 m.e ∧ cpKind m.e.cmd = some m.kd ∧
        s.sys.outstanding 0 0 0 = false ∧ m.c.semMap[rAuxv (rec 0 0 0 64 16 64 0 0 0 1 0 0)]? = some 3 ∧ s.live m.c.part ∧ m.f.holds 16 8 ∧ (s.sys.contexts.flatMap (fun z => z.2.2.landings)).length < 2 ^ 32 - 1) ∧
    (∃ m : CopyAt, m = ca .sig (.cpSig 0 0 0 plainFields) (rec 0 2 0 0 0 8 0 0 0 1 0 0) ∧ virtToInt m.e.ranges 8 .rw = .ok 8 ∧ virtToInt {} 8 .rw = .error xfRange ∧ ((tm).sys.part 0).vdie (8 / 2 ^ 44) ≠ none ∧
      ((ts).sys.part 0).vdie (8 / 2 ^ 44) = none ∧ (tm m.c).sys.routeOf 0 0 0 8 = none ∧ m.c.holderUnit 0 ∉ ((tm m.c).sys.die 0).skewed ∧ (m.c.holder 0).asking (8 / 2 ^ 44) (8 % 2 ^ 44) = false) := by
  refine ⟨⟨_, _, rfl, rfl, turns_at _ _ _ _, by decide +kernel⟩, ?_, ⟨_, rfl, ok_of (by decide +kernel), rfl, by decide, rfl, by decide, by decide, by decide⟩⟩
  intro x hx
  refine ⟨_, _, rfl, rfl, turns_at _ _ _ _, rfl, rfl, ?_, ?_, ?_, rfl, ⟨?_, ?_⟩, ?_⟩ <;> revert x <;> decide +kernel
/-- A request of copy context 0 for the byte at 8. -/
def tq1 (k : ReqKind) (d : Option (Nat × Nat) := none) (st : ReqSt := .sent) : Req := { id := 7, die := 0, ctx := 0, k := 0, part := 0, va := 8, ia := 8, kind := k, direct := d, st := st }
def thr (q : Req) : Hub := { th with reqs := [q] }
def lf : Leaf := ⟨0, 0x5_0008, 3, false, true, 0, false, 0x4000⟩
theorem wit_RequestEvents :
    (∀ k ∈ [ReqKind.read 4, .sig 1, .write [(1, false)], .ask, .atomic 0 0 5 0 true, .sigr 4, .sigw 3, .sigw (-1)], ∃ s : State, ∃ q : Req, s = tm tc (thr (tq1 k)) ∧ q = tq1 k ∧ s.sys.hub.req? 7 = some q ∧ s.live q.part ∧ q.st = .sent ∧ q.waiting = false ∧
      q.direct = none ∧ (s.sys.part q.part).vdie (q.ia / 2 ^ 44) = some 0 ∧ walkerXlate s.sys 0 q.part (q.ia % 2 ^ 44) (kindNeed q.kind) = some lf ∧
      (∀ i < 8, (devByte s.sys lf.fdie (lf.pa + i)).2 = false)) ∧
    (∃ s : State, s = tm tc (thr (tq1 (.atomic 0 0 5 0 true))) { tmem with poison := [0x5_0009] } ∧ walkerXlate s.sys 0 0 8 .rw = some lf ∧ ∃ b ∈ devRead s.sys lf.fdie lf.pa (unitSize 0), b.2 = true) ∧
    (∃ s : State, ∃ q : Req, s = tm tc { reqs := [q] } ∧ q = tq1 (.read 4) (some (0, 0x5_0008)) ∧ s.sys.hub.req? 7 = some q ∧ q.age ≤ 3000 ∧ (s.sys.memDie 0).quarOf 0x5_0008 = none ∧ s.sys.ownsChan q.part 0 (0x5_0008 / 2 ^ 31) = false) ∧
    (∃ s : State, s = tm tc (thr { tq1 .ask with ask := true }) ∧ s.sys.hub.req? 7 = some { tq1 .ask with ask := true } ∧ grantOf s.sys 0 0 0 lf = some tr) ∧
    (∃ s : State, s = tm tc (thr (tq1 (.read 4))) {} ∧ s.sys.hub.req? 7 = some (tq1 (.read 4)) ∧ (s.sys.part 0).vdie (8 / 2 ^ 44) = some 0 ∧ walkerXlate s.sys 0 0 (8 % 2 ^ 44) .rd = none) ∧
    (∃ q : Req, q = { tq1 (.read 4) (some (0, 0x5_0008)) with age := 3001 } ∧ (tm tc (thr q)).sys.hub.req? 7 = some q ∧ 3000 < q.age ∧ (tm tc (thr q)).live q.part) ∧
    (∀ quar ∈ [[], [(⟨0x5_0000, false, 0, 0, 100, 0, 0, 0, [5]⟩ : Quar)]], ∃ s : State, ∃ q : Req, s = tm tc (thr q) { tmem with quar := quar } ∧ q = tq1 (.read 4) (some (0, 0x5_0008)) ∧ s.sys.hub.req? 7 = some q ∧
      q.direct = some (0, 0x5_0008) ∧ q.age ≤ 3000 ∧ s.sys.ownsChan q.part 0 (0x5_0008 / 2 ^ 31) = true ∧ ((s.sys.memDie 0).quarOf 0x5_0008).isSome = !quar.isEmpty ∧ (s.sys.part q.part).vdie (q.ia / 2 ^ 44) = some 0 ∧ walkerXlate s.sys 0 q.part (q.ia % 2 ^ 44) .rd = some lf) ∧
    (∀ z ∈ [ReqSt.done (List.replicate 8 (1, false)), .refused 5, .reroute], ∀ x ∈ [(ReqKind.sig 1, CpKind.sig, Instr.cpSig 0 0 0 plainFields, rec 0 2 0 0 0 8 0 0 0 1 0 0), (.sigw 1, .sigw, .cpSigw 0 0 plainFields, rec 0 2 0 0 0 8 0 0 0 1 0 0),
        (.sigr 1, .sigr, .cpSigr 0 0 plainFields, rec 0 2 0 0 16 8 0 0 0 1 0 0), (.atomic 0 4 1 0 true, .amo, .cpAmo 0 0 plainFields, rec 0 2 2 0 0x10 0x1000 8 8 0 0 0 0),
        (.write [(1, false)], .fill, .cpFill 0 0 plainFields, rec 0 2 1 8 0 8 0 0 0 7 0 0)],
      ∃ s : State, ∃ m : CopyAt, m = ca x.2.1 x.2.2.1 x.2.2.2 [] { engine := 0, req := some 7 } ∧ s = tm m.c (thr (tq1 x.1 none z)) ∧ s.sys.hub.req? 7 = some (tq1 x.1 none z) ∧
        CopyHead (s.sys.ctx 0 0) 0 { engine := 0, req := some 7 } m.e [] ∧ s.live 0 ∧ (s.sys.ctx 0 0).stopped = false ∧ cpKind m.e.cmd = some m.kd ∧ (s.sys.ctxFor 0 0 m.e).holds (rSaddr m.e.record) 8 ∧
        (s.sys.ctxFor 0 0 m.e).holds (rowAddr (rSaddr m.e.record) m.e.pos (rSstr m.e.record)).toNat 8) ∧
    (∀ z ∈ [ReqSt.done (List.replicate 8 (1, false)), .refused 5], ∀ x ∈ [(CpKind.blk, Instr.cpBlk 0 0 plainFields, rec 2 0 2 64 0x10 0x1000 64 64 0 0 0 0), (.trn, .cpTrn 0 0 plainFields, rec 2 0 2 4 0x10 0x1000 64 64 0 0 0 1),
        (.blk, .cpBlk 0 0 plainFields, rec 2 2 2 64 0x10 0x1000 64 64 0 0 0 0)],
      ∃ s : State, ∃ m : CopyAt, m = ca x.1 x.2.1 x.2.2 [] { engine := 0, req := some 7 } ∧ s = tm m.c (thr (tq1 (.read 8) none z)) ∧ s.sys.hub.req? 7 = some (tq1 (.read 8) none z) ∧ rSsp m.e.record = spDev ∧
        m.Awaits s 0 0 0 (s.sys.ctx 0 0) { engine := 0, req := some 7 } m.e []) := by
  refine ⟨?_, ⟨_, rfl, by decide +kernel, by decide +kernel⟩, ⟨_, _, rfl, rfl, rfl, by decide, rfl, by decide +kernel⟩, ⟨_, rfl, rfl, by decide +kernel⟩, ⟨_, rfl, rfl, by decide, by decide +kernel⟩, ⟨_, rfl, rfl, by decide, rfl⟩, ?_, ?_, ?_⟩
  · intro k hk
    refine ⟨_, _, rfl, rfl, rfl, rfl, rfl, rfl, rfl, ?_, ?_, ?_⟩ <;> revert k <;> decide +kernel
  · intro quar hq
    refine ⟨_, _, rfl, rfl, rfl, rfl, by show 0 ≤ 3000; decide, ?_, ?_, ?_, ?_⟩ <;> revert quar <;> decide +kernel
  · intro z hz x hx
    refine ⟨_, _, rfl, rfl, rfl, ⟨rfl, rfl, rfl, rfl⟩, rfl, rfl, ?_, ⟨?_, ?_⟩, ⟨?_, ?_⟩⟩ <;> revert z x <;> decide +kernel
  · intro z hz x hx
    refine ⟨_, _, rfl, rfl, rfl, ?_, ⟨rfl, rfl, ⟨rfl, rfl, rfl, rfl⟩, ?_, ?_, .inl rfl, ?_, ?_⟩⟩ <;> revert z x <;> decide +kernel
/-- A holder that has asked for the page. -/
def askc : Ctx := { tc with copies := [{ engine := 0, holder := ⟨[], [⟨7, 0, 0, 5, false⟩]⟩ }] }
theorem wit_LeaseEvents :
    (∃ s : State, ∃ q : Req, q = { tq1 (.read 4) with ask := true, grant := some tr, st := .done [] } ∧ s = tm askc (thr q) ∧ s.sys.hub.req? 7 = some q ∧ q.k < (s.sys.ctx q.die q.ctx).copies.length ∧
      ((s.sys.ctx q.die q.ctx).holder q.k).asks.find? (fun z => z.id == 7) = some ⟨7, 0, 0, 5, false⟩ ∧ (5 : Nat) < leaseNs tr.cls) ∧
    0 < ((tm).sys.ctx 0 0).copies.length ∧ ((tm).sys.ctx 0 0).holderUnit 0 = 0 ∧ (3 : Nat) < 12 ∧ (0x8000_0000_0000_0001 : Word).getLsbD 0 = true :=
  ⟨⟨_, _, rfl, rfl, rfl, by decide, by decide, by decide⟩, by decide, rfl, by decide, by decide⟩
/-- A row of a landing's token 7 that starts 32 bytes into the landing. -/
def arr : Arrival := ⟨0, 7, 32, [1, 2], false, 32, 2, true⟩
theorem wit_ArrivalEvents :
    (∃ s : State, ∃ e : Entry, e = ce (.cpRw 0 0 0 false plainFields) (rec 0 4 2 64 0x10 0x1000 64 64 0 0 7 0) ∧ s = tm (cc e { engine := 0, ack := true }) ∧ CopyHead (s.sys.ctx 0 0) 0 { engine := 0, ack := true } e [] ∧
      s.live (s.sys.ctx 0 0).part) ∧
    (∃ s : State, ∃ e : Entry, ∃ x : BitVec 512, x = rec 3 0 2 64 0x10 0x1000 64 64 0 0 0 0 ∧ e = ce (.cpBlk 0 0 plainFields) x ∧ s = tm (cc e { engine := 0, host := some (0x10, 64) }) ∧
      CopyHead (s.sys.ctx 0 0) 0 { engine := 0, host := some (0x10, 64) } e [] ∧ rSsp x = spHost ∧
      (ca .blk e.cmd x [] { engine := 0, host := some (0x10, 64) }).Awaits s 0 0 0 (s.sys.ctx 0 0) { engine := 0, host := some (0x10, 64) } e []) ∧
    (∀ n ∈ [63999999, 64000000], ∃ s : State, ∃ e : Entry, e = ce (.cpBlk 0 0 plainFields) 0 ∧ s = tm (cc e { engine := 0, host := some (0x10, 64), hostNs := n }) ∧
      CopyHead (s.sys.ctx 0 0) 0 { engine := 0, host := some (0x10, 64), hostNs := n } e []) ∧
    (∃ s : State, ∃ a : Landing, s = tm (cc (ce (.cpLrev 0 0 plainFields) 0)) ∧ a = ⟨7, 0, 64, 1, 3, false, none⟩ ∧ landingOf s.sys arr.token = some (0, 0, s.sys.ctx 0 0, a) ∧ arr.rowOff ≤ arr.off ∧
      arr.off + arr.bytes.length ≤ arr.rowOff + arr.rowLen ∧ arr.rowOff + arr.rowLen ≤ a.len ∧ a.ports.getLsbD arr.port = true ∧ a.ports.getLsbD 1 = false ∧ a.len < 64 + arr.rowLen ∧
      (arr.off = arr.rowOff ∨ (a.lo + arr.off) % 8 = 0) ∧ (arr.off + arr.bytes.length = arr.rowOff + arr.rowLen ∨ (a.lo + arr.off + arr.bytes.length) % 8 = 0) ∧ s.sys.hub.ports.getLsbD 0 = true ∧
      ((s.sys.ctx 0 0).asIssued a.geo).holds (a.lo + arr.off) arr.bytes.length ∧ landingOf s.sys 8 = none ∧ (a.lo + 32 + [(1 : Byte), 2, 3].length) % 8 ≠ 0 ∧ 32 + [(1 : Byte), 2, 3].length ≠ arr.rowOff + arr.rowLen ∧
      ({ th with ports := 0 } : Hub).ports.getLsbD 0 = false) ∧
    (∃ s : State, s = tm { tc with fresh := false, record := BitVec.ofNat 1024 (1 * 2 ^ 52 + 0 * 2 ^ 128) } { th with fns := [(0, { ranges := rr })] } ∧ (s.sys.ctx 0 0).st = .run ∧ (s.sys.ctx 0 0).fresh = false ∧
      (s.sys.ctx 0 0).stopped = false ∧ (∀ nd, s.sys.hub.node? (s.sys.ctx 0 0).node = some nd → nd.failed = none ∧ ((s.sys.ctx 0 0).bound = true → instTurn s.sys.hub nd (s.sys.ctx 0 0).inst.toNat = true)) ∧ argLines s.sys (s.sys.ctx 0 0) = some [{ lf with pa := 0x5_0000 }] ∧ (s.sys.ctx 0 0).holds 0 (64 * [{ lf with pa := 0x5_0000 }].length)) ∧
    argLines (tm { tc with fresh := false, record := BitVec.ofNat 1024 (1 * 2 ^ 52) }).sys { tc with fresh := false, record := BitVec.ofNat 1024 (1 * 2 ^ 52) } = none ∧
    (∃ nd : Node, (tm tc { th with nodes := [(0, { fn := 2, part := 0, record := 0, oFn := 2, oQ := 1, came := .queue, failed := some 0x18 })] }).sys.hub.node? tc.node = some nd ∧ nd.failed ≠ none) :=
  ⟨⟨_, _, rfl, rfl, head_of _ _ rfl, rfl⟩, ⟨_, _, _, rfl, rfl, rfl, head_of _ _ rfl, by decide +kernel, ⟨rfl, rfl, head_of _ _ rfl, by decide, by decide +kernel, .inl rfl, by decide +kernel, by decide +kernel⟩⟩,
    fun _ _ => ⟨_, _, rfl, rfl, head_of _ _ rfl⟩,
    ⟨_, _, rfl, rfl, rfl, by decide, by decide, by decide, by decide, by decide, by decide, .inl rfl, .inl rfl, by decide, ⟨by decide, by decide +kernel⟩, rfl, by decide, by decide, by decide⟩, ⟨_, rfl, rfl, rfl, rfl, fun _ h => (nomatch h), by decide +kernel, ⟨by decide, by decide +kernel⟩⟩, by decide +kernel, ⟨_, rfl, by decide⟩⟩
/-- WKC0 with GO and a command; the die with WKC1 to WKC3. -/
def wv (op w lc : Nat) : Word := BitVec.ofNat 64 (2 ^ 63 + op * 2 ^ 60 + w * 2 ^ 58 + lc * 2 ^ 55)
def wm (off pa sig : Nat) (m : MemDie := tmem) : MemDie := { m with wkc := (((Vector.replicate 4 0).setIfInBounds 1 (BitVec.ofNat 64 off)).setIfInBounds 2 (BitVec.ofNat 64 pa)).setIfInBounds 3 (BitVec.ofNat 64 sig) }
/-- The die after a write of `v` that the idle walker takes. -/
def wy (v : Word) (m : MemDie) : Sys := (tm tc th m).sys.modMem 0 (fun m => { m with wkc := m.wkc.setIfInBounds 0 v, busy := true })
/-- The leaf of the mapped page. -/
def wl : Leaf := { lf with pa := 0x5_0000 }
/-- A migration of that page to 0x6_0000 with line 0 to copy and `d` dirty lines. -/
def wmv (d r : Nat) (die : Nat := 1) : Move := ⟨0, 0, false, 0, 0x5_0000, die, 0x6_0000, r, [0], List.range d, 0⟩
theorem wit_WalkerEvents :
    (∃ c : WkCmd, c = wkCmd ((wy (wv 1 1 3) (wm 0x1_0000 0x6_0000 0)).memDie 0) ∧ (wv 1 1 3).getLsbD 63 = true ∧ c.op = 1 ∧ badArg (wy (wv 1 1 3) (wm 0x1_0000 0x6_0000 0)) 0 c = false ∧
      rangeMapped (wm 0x1_0000 0x6_0000 0) c.part c.off c.big = false ∧ framesBusy ((tm tc th (wm 0x1_0000 0x6_0000 0)).sys.memDie c.fdie) c.pa c.big = false ∧
      (leafPlace ((wy (wv 1 1 3) (wm 0x1_0000 0x6_0000 0)).memDie 0) c.part c.off c.big).isSome = true) ∧
    (badArg (wy (wv 1 1 3) (wm 0x1_0001 0x6_0000 0)) 0 (wkCmd ((wy (wv 1 1 3) (wm 0x1_0001 0x6_0000 0)).memDie 0)) = true) ∧
    (badArg (wy (wv 1 1 3) (wm 0 0x6_0000 0)) 0 (wkCmd ((wy (wv 1 1 3) (wm 0 0x6_0000 0)).memDie 0)) = false ∧ rangeMapped (wm 0 0x6_0000 0) 0 0 false = true) ∧
    framesBusy (wm 0x1_0000 0x5_0000 0) 0x5_0000 false = true ∧ framesBusy (wm 0 0x1_0000 0) 0x1_0000 false = true ∧ (leafPlace (wm 0x20_0000 0x6_0000 0) 0 0x20_0000 false = none) ∧
    (∀ x ∈ [(2, 0, 0, 0, 0x100), (3, 0, 0, 0x6_0000, 0x100), (4, 0, 5, 0, 0)], ∃ c : WkCmd, c = wkCmd ((wy (wv x.1 x.2.1 x.2.2.1) (wm 0 x.2.2.2.1 x.2.2.2.2)).memDie 0) ∧ c.op = x.1 ∧
      badArg (wy (wv x.1 x.2.1 x.2.2.1) (wm 0 x.2.2.2.1 x.2.2.2.2)) 0 c = false ∧ leafAt (wm 0 x.2.2.2.1 x.2.2.2.2) c.part c.off c.big = some wl ∧
      ((tm tc th (wm 0 x.2.2.2.1 x.2.2.2.2)).sys.memDie wl.fdie).quar.length < 512 ∧ (x.1 = 3 → framesBusy ((tm tc th (wm 0 x.2.2.2.1 x.2.2.2.2)).sys.memDie c.fdie) c.pa c.big = false)) ∧
    leafAt (wm 0x1_0000 0 0) 0 0x1_0000 false = none ∧
    (∃ c : WkCmd, c = wkCmd ((wy (wv 5 0 0) (wm 0 0x7_0000 0)).memDie 0) ∧ c.op = 5 ∧ badArg (wy (wv 5 0 0) (wm 0 0x7_0000 0)) 0 c = false ∧ framesBusy (wm 0 0x7_0000 0) c.pa false = false) ∧
    (wm 0 0 0 { tmem with busy := true }).busy = true ∧ (∃ q : List Quar, 512 ≤ q.length) ∧ (wv 4 0 0).getLsbD 62 = true ∧
    (∃ v : Move, v = wmv 65 0 ∧ 64 < v.dirty.length ∧ v.round + 1 ≠ 16 ∧ v.oldDie ≠ v.newDie ∧ Memory.wf ((tm tc th { tmem with move := some v }).sys.memDie v.oldDie).mem = true) ∧
    (∃ v : Move, v = wmv 64 3 0 ∧ v.dirty.length ≤ 64 ∧ ((tm tc th { tmem with move := some v }).sys.memDie v.oldDie).quar.length < 512 ∧ leafAt ((copyLines v v.lines (tm tc th { tmem with move := some v }).sys).memDie 0) v.part v.off v.big = some wl) ∧
    (∃ v : Move, v = wmv 65 15 ∧ 64 < v.dirty.length ∧ v.round + 1 = 16 ∧ leafAt { tmem with move := some v } v.part v.off v.big = some wl ∧ v.newDie ≠ 0 ∧ v.oldDie ≠ v.newDie ∧
      Memory.wf ((tm tc th { tmem with move := some v }).sys.memDie v.oldDie).mem = true) ∧
    (∃ q : Quar, ∃ s : State, q = ⟨0x8_0000, false, 0, 0, 0, 0x40, 0, 0, [8]⟩ ∧ s = tm tc th { tmem with quar := [q] } ∧ (s.sys.memDie 0).quar.find? (fun x => x.left.contains (0x8_0000 / 2 ^ 16) && x.rem == 0) = some q ∧ s.live q.part ∧
      (∀ n < 12, (s.sys.memDie n).busy = true → (s.sys.memDie n).move ≠ none) ∧ q.sig ≠ 0 ∧ q.big = false ∧ intXlate s.sys q.part q.sig.toNat .rw = .ok { lf with pa := 0x5_0040 } ∧
      (∀ i < 8, (devByte s.sys 0 (0x5_0040 + i)).2 = false)) ∧
    intXlate (tm).sys 0 0x1_0000 .rw = .error xfWalk := by
  refine ⟨⟨_, rfl, by decide, by decide +kernel, by decide +kernel, by decide +kernel, by decide +kernel, by decide +kernel⟩, by decide +kernel, ⟨by decide +kernel, by decide +kernel⟩, by decide +kernel,
    by decide +kernel, by decide +kernel, ?_, by decide +kernel, ⟨_, rfl, by decide +kernel, by decide +kernel, by decide +kernel⟩, rfl,
    ⟨List.replicate 512 ⟨0, false, 0, 0, 0, 0, 0, 0, []⟩, Nat.le_of_eq List.length_replicate.symm⟩, by decide, ⟨_, rfl, by decide +kernel, by decide, by decide, by decide +kernel⟩,
    ⟨_, rfl, by decide +kernel, by decide, by decide +kernel⟩, ⟨_, rfl, by decide +kernel, rfl, by decide +kernel, by decide, by decide, by decide +kernel⟩,
    ⟨_, _, rfl, rfl, by decide +kernel, rfl, by decide +kernel, by decide, rfl, ok_of (by decide +kernel), by decide +kernel⟩, ?_⟩
  · intro x hx
    refine ⟨_, rfl, ?_, ?_, ?_, ?_, ?_⟩ <;> revert x <;> decide +kernel
  · have : walkerXlate (tm).sys 0 0 0x1_0000 .rw = none := by decide +kernel
    have p : ((tm).sys.part 0).vdie (0x1_0000 / 2 ^ 44) = some 0 := by decide
    unfold intXlate
    rw [p]
    show (match walkerXlate (tm).sys 0 0 0x1_0000 .rw with | none => Except.error xfWalk | some l => .ok l) = _
    rw [this]
/-- Function 2 is `g`, mapped to that partition. -/
def tfn (g : Fn) (h : Hub := th) (c : Ctx := tc) : State := tm c { h with fns := [(2, g)] }
def fg (u : HQueue := {}) : Fn := { map := true, part := 0, ranges := rr, queues := [(1, u)], slice := 1 }
/-- An enabled ring of 16 slots, four of them filled. -/
def ring : HQueue := { en := true, log2n := 4, head := 3, tail := 7, qbase := 0x1000 }
theorem wit_FunctionEvents : (2 : Nat) < Config.functions ∧ (1 : Nat) < Config.queuesPerFn ∧ ((tfn (fg)).sys.fn 2).queue 1 = {} ∧ ((tfn (fg ring)).sys.fn 2).queue 1 = ring ∧ (tfn (fg ring)).live 0 ∧
    ((19 : Word).truncate 32 - ring.head).toNat ≤ 2 ^ ring.log2n ∧ 2 ^ ring.log2n < ((20 : Word).truncate 32 - ring.head).toNat ∧ (fg ring).flr = false ∧
    bitsOf (0x8040_0000_0000_0000 : Word).toNat 52 5 = 4 ∧ (0x8040_0000_0000_0000 : Word).getLsbD 63 = true ∧ ({ (tfn (fg)) with plat := { phase := 6, ready := true } } : State).plat.ready = true ∧
    (tfn (fg)).plat.ready = false ∧ (0x0040_0000_0000_0000 : Word).getLsbD 63 = false ∧ (0x0040_0000_0000_0000 : Word).getLsbD 57 = ring.host ∧ bitsOf (0x0040_0000_0000_0000 : Word).toNat 52 5 = ring.log2n ∧
    bitsOf (0x0050_0000_0000_0000 : Word).toNat 52 5 ≠ ring.log2n ∧
    (∃ s : State, s = tfn { fg with watches := [(0, { a := 8, t := 0 })] } ∧ ((s.sys.fn 2).watch 0).en = false ∧ (hubXlate s.sys 2 0 ((s.sys.fn 2).watch 0).a .rd).toOption = some lf ∧ (∀ i < 8, (devByte s.sys lf.fdie (lf.pa + i)).2 = false) ∧
      (BitVec.ofNat 64 (dev64 (s.sys.memDie lf.fdie) lf.pa)).sle ((s.sys.fn 2).watch 0).t = true) ∧
    (∃ s : State, s = tfn { fg with watches := [(0, { a := 8, t := -1 })] } ∧ ((s.sys.fn 2).watch 0).t.slt (BitVec.ofNat 64 (dev64 (s.sys.memDie lf.fdie) lf.pa)) = true) ∧
    hubXlate (tfn (fg)).sys 2 0 0x100_0000 .rd = .error xfRange ∧ (0x1000 : Word).toNat % 4096 = 0 ∧ (0 : Nat) < Config.partitions ∧ (fg ring).msix.blocks 0 = true ∧
    ({ fg ring with msix := { mask := 0 } } : Fn).msix.blocks 0 = false ∧ ({ fg ring with istat := 1 } : Fn).istat.getLsbD 0 = true ∧ (fg ring).plug.left = none ∧
    ({ fg ring with plug := { left := some 9 } } : Fn).plug.left.isSome = true ∧ (2 : Nat) ≤ 3 ∧ 0x100 + [(1 : Byte), 2].length ≤ Config.stewardBytes := by
  exact ⟨by decide, by decide, rfl, rfl, rfl, by decide, by decide, rfl, by decide, by decide, rfl, rfl, by decide, by decide, by decide, by decide, ⟨_, rfl, rfl, by decide +kernel, by decide +kernel, by decide +kernel⟩,
    ⟨_, rfl, by decide +kernel⟩, rfl, by decide, by decide, by decide, by decide, by decide, rfl, rfl, by decide, by decide⟩
/-- The firmware has a command while phase 5 runs. -/
def mbs (v : Word) : State := { (ts tq tc {} { mbBusy := true, mbCmd := v }) with plat := { power := true, phase := 5 } }
theorem wit_MailboxAndPorts : (∀ v, (mbs v).sys.hub.mbBusy = true ∧ 5 ≤ (mbs v).plat.phase ∧ (mbs v).plat.safe = false ∧ (mbs v).sys.hub.mbCmd = v) ∧
    (∀ k ∈ [2, 3], bitsOf (BitVec.ofNat 64 k).toNat 0 16 = k) ∧ (2 ^ 20 : Nat) ≤ ({ lmsUsed := 2 ^ 20 } : Platform).lmsUsed ∧ ({} : Platform).lmsUsed < 2 ^ 20 ∧
    (List.replicate 97 (0 : Byte)).length = 97 ∧ 392 + 97 ≤ 3840 ∧ tc.st ≠ .free ∧
    bitsOf (1 : Word).toNat 0 16 = 1 ∧ bitsOf (4 : Word).toNat 0 16 = 4 ∧ bitsOf (6 : Word).toNat 0 16 = 6 ∧ (ts).sys.hub.mbBusy = false ∧ (List.replicate 48 (7 : Byte)).length = 48 ∧
    (∃ e : Entry, e = ce (.cpRw 0 0 0 false plainFields) (rec 0 4 2 64 0x10 0x1000 64 64 0 0 7 0) ∧ CopyHead (cc e { engine := 0, ack := true }) 0 { engine := 0, ack := true } e [] ∧
      rwPending (cc e { engine := 0, ack := true }) 0 0 = true) ∧ linkUp (ts).sys 0 24 = true ∧
    (∀ x ∈ ((ts).sys.modHub (fun h => { h with failedLinks := h.failedLinks ++ [(0, 20)] })).hub.failedLinks,
      carries ((ts).sys.modHub (fun h => { h with failedLinks := h.failedLinks ++ [(0, 20)] })) x.1 = true →
      carries ((ts).sys.modHub (fun h => { h with failedLinks := h.failedLinks ++ [(0, 20)] })) x.2 = true →
      reaches ((ts).sys.modHub (fun h => { h with failedLinks := h.failedLinks ++ [(0, 20)] })) x.1 x.2 = true) := by
  exact ⟨fun _ => ⟨rfl, Nat.le_refl 5, rfl, rfl⟩, by decide, by decide, by decide, List.length_replicate, by decide, by decide, by decide, by decide, by decide, rfl, List.length_replicate, ⟨_, rfl, head_of _ _ rfl, by decide +kernel⟩, by decide, by decide +kernel⟩
/-- A bundle that verification accepts, and what the phases find. -/
def bun : Bundle := ⟨true, true, 1, some 0x1000, [], 0, 0, 0⟩
def bin (ok : Bool := true) : BootInput := ⟨bun, bun, [], [], ok⟩
def tpl (pl : Platform) (y : Sys := {}) : State := { sys := y, plat := pl }
def poweredMems : Sys := { mems := (List.range 12).map (fun m => (m, { inSvc := true, powered := true })) }
/-- A record that verifies, of unit 3; unit 5 has none. -/
def recPl : Platform := { power := true, phase := 3, records := [(3, (7, Config.recordTag 3 7))] }
theorem wit_Training : 3 ∈ trainUnits poweredMems ∧ 5 ∈ trainUnits poweredMems ∧ recordUsed bin recPl 3 = true ∧ recordUsed bin recPl 5 = false ∧ recordUsed { bin with badChecks := [3] } recPl 3 = false ∧
    (3, 0, 0, 1) ∈ ({ bin with failed := [(3, 0, 0, 1), (0, 2, 0, 1)] } : BootInput).failed ∧ ((3, 0, 0, 1) : Nat × Nat × Nat × Nat).1 = 3 := by
  refine ⟨by decide +kernel, by decide +kernel, ?_, rfl, ?_, by decide, rfl⟩ <;> simp [recordUsed, recPl, mget?, bin]
theorem wit_PowerAndBoot : (tpl {}).plat.power = false ∧ (tpl { power := true }).plat.power = true ∧ verified 0 (bin) = some bun ∧ verified 2 (bin) = none ∧ nextDie poweredMems = some 8 ∧ nextDie {} = some 12 ∧
    nextDie { poweredMems with dies := (List.range 12).map (fun d => (d, { powered := true })) } = none ∧ (bin).failed = [] ∧ (bin false).hubOk = false ∧ servingMems {} = 0 ∧ (bin).hubOk = true ∧
    servingMems poweredMems ≠ 0 ∧ (tpl { power := true, phase := 4, bundle := some bun } poweredMems).plat.bundle = some bun ∧ bun.stwMain = some 0x1000 ∧ ((ts).sys.die 0).inSvc = true :=
  ⟨rfl, rfl, rfl, rfl, by decide +kernel, by decide +kernel, by decide +kernel, rfl, rfl, by decide, rfl, by decide +kernel, rfl, rfl, rfl⟩
def tp (o : Part) (c : Ctx := {}) (fs : Map Fn := []) : State := tm c { parts := [(0, o)], fns := fs }
def go : Part := { tpart with staged := tpart.words }
theorem wit_PartitionEvents : (0 : Nat) < Config.partitions ∧
    (∃ v : Word, v = 0x8000_0000_0000_0000 ∧ v.getLsbD 63 = true ∧ (tp { go with words := [], en := false }).plat.safe = false ∧ commitCode (tp { go with words := [], en := false }).sys 0 v.toNat = 0 ∧
      (tp { go with words := [], en := false } {} [(2, fg)]).sys.part 0 = { go with words := [], en := false } ∧ functionsOf (tp go {} [(2, fg)]).sys 0 = [2]) ∧
    ({ (tp go) with plat := { safe := true } } : State).plat.safe = true ∧ commitCode (tp go).sys 0 1 = 1 ∧ (tp go).sys.part 0 = go ∧ go.en = true ∧ commitCode (tp go).sys 0 0 = 0 ∧
    (∃ s : State, s = tp { go with resetting := true, resetNs := 100000 } tc ∧ (s.sys.ctx 0 0).part = 0 ∧ (s.sys.ctx 0 0).st ≠ .free ∧ ((s.sys.ctx 0 0).st = .ending → (s.sys.ctx 0 0).endBy = false) ∧
      (s.sys.part 0).resetting = true ∧ 100000 ≤ (s.sys.part 0).resetNs) ∧
    (∃ s : State, s = tp { go with resetting := true } {} ∧ (s.sys.part 0).resetting = true ∧ ∀ x ∈ s.sys.contexts, x.2.2.part ≠ 0) ∧
    (∃ v : Word, v = BitVec.ofNat 64 (4 + 10000 * 2 ^ 50) ∧ 1 ≤ bitsOf v.toNat 0 3 ∧ bitsOf v.toNat 0 3 ≤ 4 ∧ 1 ≤ v.toNat / 2 ^ 50 ∧ v.toNat / 2 ^ 50 ≤ 10000) ∧
    bitsOf (5 : Word).toNat 0 3 = 5 ∧
    (∀ fs ∈ [[(2, fg)], [(2, fg), (3, fg ring)]], ∃ s : State, s = tp { go with resident := some 2, sliceNs := 10000 } {} fs ∧ (s.sys.part 0).resident = some 2 ∧ (s.sys.part 0).en = true ∧ (s.sys.part 0).resetting = false ∧
      (s.sys.part 0).outgoing = false ∧ (s.sys.part 0).ckBusy = false ∧ (s.sys.fn 2).slice ≠ 0 ∧ (s.sys.fn 2).slice * 10000 ≤ (s.sys.part 0).sliceNs ∧
      nextFunction s.sys 0 2 = (if fs.length = 1 then none else some 3)) ∧
    (∃ s : State, s = tp { go with resident := some 2, outgoing := true, incoming := 3 } {} [(2, fg), (3, fg ring)] ∧ (s.sys.part 0).resident = some 2 ∧ (s.sys.part 0).outgoing = true ∧ (s.sys.part 0).ckBusy = false ∧
      outgoingDone s.sys 0 2 = true ∧ (s.sys.fn 3).map = true ∧ (s.sys.fn 3).part = 0) ∧
    vfCfgRefused (tp go).sys 2 (31 * 2 ^ 58) = true ∧ vfCfgRefused (tp go).sys 2 0 = false ∧ ((tp go {} [(2, {})]).sys.fn 2).map = false ∧ ((tp go {} [(2, fg)]).sys.fn 2).flr = false ∧
    ((tp go {} [(2, fg)]).sys.fn 2).map = true ∧ (∃ s : State, s = tp go {} [(2, { fg with flr := true })] ∧ (s.sys.fn 2).flr = true ∧ hasInstance s.sys 2 = false) := by
  refine ⟨by decide, ⟨_, rfl, by decide, rfl, by decide +kernel, rfl, by decide⟩, rfl, by decide +kernel, rfl, rfl, by decide +kernel, ⟨_, rfl, rfl, by decide, fun _ => rfl, rfl, by decide⟩,
    ⟨_, rfl, rfl, by decide +kernel⟩, ⟨_, rfl, by decide, by decide, by decide, by decide⟩, by decide, ?_, ⟨_, rfl, rfl, rfl, rfl, by decide +kernel, rfl, rfl⟩, by decide +kernel, by decide +kernel, rfl, rfl, rfl,
    ⟨_, rfl, rfl, by decide +kernel⟩⟩
  intro fs hf
  refine ⟨_, rfl, rfl, rfl, rfl, rfl, rfl, ?_, ?_, ?_⟩ <;> revert fs <;> decide +kernel
/-- A pinned start that has waited for as long as PINWIN lets it. -/
def pst : Start := { part := 0, fn := 2, node := 0, inst := 0, slot := none, place := ⟨0, 0, 6⟩, xreq := false, engines := [], sems := 1, need := 1, granted := 0, pres := 0, pinned := true, age := 20000 }
def nd : Node := { fn := 2, part := 0, record := 0, oFn := 2, oQ := 1, came := .queue, ready := true }
theorem wit_GovernorEvents : bitsOf (0x2_0000 : Word).toNat 16 16 ≠ 0 ∧ bitsOf (0 : Word).toNat 16 16 = 0 ∧ (ts).plat.sinceFlush + 50 ≤ 600000000000 ∧
    (∃ s : State, s = tm tc { th with starts := [pst], nodes := [(0, nd)] } ∧ s.sys.hub.starts.find? (fun x => x.place.die == 0 && x.place.lead == 0) = some pst ∧ pst.gang = none ∧ pst.need ≠ 0 ∧ pst.slot = none ∧
      pst.pinned = true ∧ s.sys.gov.pinNow * 1000 ≤ pst.age ∧ s.sys.hub.node? pst.node = some nd ∧ nd.failed = none) ∧ 600000000000 < (tpl { sinceFlush := 600000000000 }).plat.sinceFlush + 50 :=
  ⟨by decide, by decide, by decide, ⟨_, rfl, rfl, rfl, by decide, rfl, rfl, by decide, rfl, rfl⟩, by decide⟩
/-- A state whose governor has these requests open. -/
def tgv (q : List GReq) (c : Ctx := tc) (v : Die := {}) (h : Hub := th) : State := { tm c h tmem v with sys := { (tm c h tmem v).sys with gov := { open_ := q } } }
/-- An entry that waits for 5 units and for nothing else. -/
def wte : Entry := { num := 1, cmd := .mxClr 0 true plainFields, weight := 5, waited := true }
/-- A package in which die 0's pool draws 7 units and nothing else draws any. -/
def lonePool : Sys := { dies := [(0, { pool := 7 })] }
theorem wit_GovernorEvents_loads :
    (∃ s : State, s = tgv [.floor 0 0] { tc with load := 5, floor := 9 } ∧ s.plat.sinceFlush + 50 ≤ 600000000000 ∧ s.sys.gov.open_ = [.floor 0 0] ∧ (s.sys.die 0).dark = false ∧ (s.sys.ctx 0 0).isFree = false ∧
      (s.sys.ctx 0 0).load < (s.sys.ctx 0 0).base) ∧
    (∃ s : State, s = tgv [.entry 0 0 0] { tc with load := 1, queues := [(0, { iss := 1, ents := [wte] })] } ∧ s.sys.gov.open_ = [.entry 0 0 0] ∧ (s.sys.die 0).dark = false ∧ 0 ∈ (s.sys.ctx 0 0).queueCodes ∧
      (s.sys.ctx 0 0).isFree = false ∧ (s.sys.ctx 0 0).ballast < sumWeight ((s.sys.ctx 0 0).queue 0).waiting) ∧
    (∃ s : State, s = tgv [.dfloor 0] tc { dfloor := 4 } ∧ s.sys.gov.open_ = [.dfloor 0] ∧ (s.sys.die 0).pool < (s.sys.die 0).dfloor) ∧
    (∃ s : State, s = tgv [.start (64 * 0 + 0)] {} {} { th with starts := [{ pst with age := 0 }] } ∧ s.sys.gov.open_ = [.start (64 * 0 + 0)] ∧ s.sys.hub.starts = [{ pst with age := 0 }] ∧
      ({ pst with age := 0 } : Start).age + 50 ≤ s.sys.gov.pinwin * 1000) ∧
    (∃ s : State, s = { sys := lonePool } ∧ s.sys.gov.open_ = [] ∧ (0, none) ∈ holders s.sys ∧ excessOf s.sys (0, none) = 7 ∧ ∀ x, x ≠ (0, none) → excessOf s.sys x = 0) := by
  refine ⟨⟨_, rfl, by decide, rfl, rfl, rfl, by decide +kernel⟩, ⟨_, rfl, rfl, rfl, by decide, rfl, by decide +kernel⟩, ⟨_, rfl, rfl, by decide⟩, ⟨_, rfl, rfl, rfl, by decide⟩, ⟨_, rfl, rfl, by decide, rfl, ?_⟩⟩
  rintro ⟨d, o⟩ h
  by_cases e : d = 0
  · subst e
    cases o with
    | none => exact absurd rfl h
    | some l => rfl
  · have k : (lonePool.die d) = {} := by simp [lonePool, Sys.die, mgetD, mget?, e]
    cases o with
    | none => exact (congrArg (fun v : Die => v.pool - v.dfloor) k).trans rfl
    | some l => exact (congrArg (fun v : Die => if (mgetD v.ctxs l {}).isFree then 0 else (mgetD v.ctxs l {}).load - (mgetD v.ctxs l {}).target) k).trans rfl
theorem some_of {α β : Type} {x : Option (α × β)} {b : β} (h : x.map (·.2) = some b) : ∃ a, x = some (a, b) := by
  cases x with
  | none => simp at h
  | some p => simp at h; exact ⟨p.1, by rw [← h]⟩
theorem isSome_of {α : Type} {x : Option α} (h : x.isSome = true) : ∃ a, x = some a := Option.isSome_iff_exists.1 h
/-- The partition with an engine, whose function 2 is resident; its claims take no copy context, so that no choice of the device is met. -/
def gp : Part := { tpart with words := [(2, 0x0001_0000_0000_0000), (3, 0x0200_0400_0000_003F), (15, 0xFFFF_FFFF)], resident := some 2, pc1 := 0 }
/-- A record of shape 6, taken from queue 1 of function 2. -/
def gn : Node := { nd with record := BitVec.ofNat 1024 (6 * 2 ^ 48), count := some 1 }
def hb (h : Hub) : State := tm {} { h with parts := [(0, gp)], fns := [(2, fg ring)] }
theorem wit_RecordEvents :
    (∃ s : State, s = hb {} ∧ takeOpen s.sys 2 1 = true ∧ s.live (s.sys.fn 2).part ∧ ((s.sys.fn 2).queue 1).host = false ∧
      ∃ bs, hubRead s.sys 2 (s.sys.fn 2).part (slotAddr ((s.sys.fn 2).queue 1)) 128 = some bs ∧ recordBad (recordOf bs) = false ∧ recPreds (recordOf bs) = 0 ∧ recGng (recordOf bs) = false) ∧
    (∃ s : State, s = tm {} { parts := [(0, gp)], fns := [(2, fg ring)] } { tmem with mem := wrByte tables 0x5_11A5 1 } ∧ takeOpen s.sys 2 1 = true ∧
      ∃ bs, hubRead s.sys 2 (s.sys.fn 2).part (slotAddr ((s.sys.fn 2).queue 1)) 128 = some bs ∧ recPreds (recordOf bs) ≠ 0) ∧
    (∃ s : State, s = tm {} { parts := [(0, gp)], fns := [(2, { fg ring with ranges := {} })] } ∧ takeOpen s.sys 2 1 = true ∧
      hubRead s.sys 2 (s.sys.fn 2).part (slotAddr ((s.sys.fn 2).queue 1)) 128 = none) ∧
    (∃ s : State, ∃ r : Release, ∃ e : Pending, s = tm {} { parts := [(0, { gp with held := [r], pendTab := [e] })] } ∧ (s.sys.part 0).held.find? (releaseOpen (s.sys.part 0)) = some r ∧
      (s.sys.part 0).pendTab.find? (fun z => z.isFor r) = some e ∧ 2 ≤ e.left) ∧
    (∃ s : State, s = tm {} { parts := [(0, gp)], fns := [(2, fg { ring with qwd := 1 })], nodes := [(0, nd)], now := 1000000 } ∧ s.sys.hub.node? 0 = some nd ∧ nd.came = .queue ∧ nd.ready = true ∧ nd.begun = 0 ∧
      nd.failed = none ∧ nd.stalled = false ∧ ((s.sys.fn nd.oFn).queue nd.oQ).qwd ≠ 0 ∧ ((s.sys.fn nd.oFn).queue nd.oQ).qwd * 1000000 ≤ s.sys.hub.now - nd.readyAt) := by
  have z : (hubRead (hb {}).sys 2 ((hb {}).sys.fn 2).part (slotAddr (((hb {}).sys.fn 2).queue 1)) 128) = some (List.replicate 128 0) := by decide +kernel
  refine ⟨⟨_, rfl, by decide +kernel, rfl, rfl, _, z, by decide +kernel, by decide +kernel, by decide +kernel⟩, ⟨_, rfl, by decide +kernel, ?_⟩, ⟨_, rfl, by decide +kernel, by decide +kernel⟩,
    ⟨_, ⟨2, 0x1000, false, 2, 1⟩, ⟨2, 0x1000, 2, false, 0, 2, 1⟩, rfl, rfl, rfl, by decide⟩, ⟨_, rfl, rfl, rfl, rfl, rfl, rfl, rfl, by decide, by decide⟩⟩
  obtain ⟨bs, h⟩ := isSome_of (x := (hubRead (tm {} { parts := [(0, gp)], fns := [(2, fg ring)] } { tmem with mem := wrByte tables 0x5_11A5 1 }).sys 2 0 (slotAddr ring) 128)) (by decide +kernel)
  have p : (hubRead (tm {} { parts := [(0, gp)], fns := [(2, fg ring)] } { tmem with mem := wrByte tables 0x5_11A5 1 }).sys 2 0 (slotAddr ring) 128).map (fun b => recPreds (recordOf b)) = some 1 := by decide +kernel
  refine ⟨bs, h, ?_⟩
  rw [h] at p
  intro e; simp [e] at p
/-- A gang of that record, and its item. -/
def gg : Gang := { gid := 5, mcnt := 1, members := [(0, 0)], asm := 1, age := 100000 }
def hg (g : Gang) (l : List Start := []) : State := hb { nodes := [(0, { gn with gang := some 0 })], gangs := [(0, g)], starts := l }
def gi : Item := { cand := .fresh, nodeNo := 0, node := gn, inst := 0, shape := 6, sems := 1, die := none, since := 0, prio := 0 }
theorem wit_ClaimEvents :
    (∃ s : State, s = hg gg ∧ s.sys.hub.heldGang 5 = some (0, gg) ∧ mget? s.sys.hub.gangs 0 = some gg ∧ gg.assembled = false ∧ gg.asm ≠ 0 ∧ gg.asm * 100000 ≤ gg.age) ∧
    (∃ s : State, ∃ g : Gang, ∃ pl y, g = { gg with assembled := true } ∧ s = hg g ∧ g.asked = false ∧ g.reserving = false ∧ gangReady s.sys g = true ∧ gangPlaces s.sys g [(0, 0, 0, 6)] = some pl ∧
      holdAll 0 pl s.sys = some y ∧ (y.hub.starts.filter (fun w => w.gang == some 0)).length = pl.length ∧ ∀ x ∈ pl, ownedSlices s.sys x.2.2.die x.2.2.cls x.2.2.lead = 0) ∧
    (∃ s : State, ∃ g : Gang, g = { gg with assembled := true, asked := true } ∧ s = hg g [{ pst with need := 0, gang := some 0 }] ∧ s.sys.hub.heldGang 5 = some (0, g) ∧ g.asked = true ∧
      ∀ w ∈ s.sys.hub.starts, w.gang = some 0 → commitOpen s.sys w = true) ∧
    (∃ s : State, ∃ g : Gang, g = { gg with committed := true, sinceCommit := 2001 } ∧ s = tm { tc with st := .ready, node := 0 } { parts := [(0, gp)], nodes := [(0, gn)], gangs := [(0, g)] } ∧
      s.sys.hub.gangs.find? (fun x => x.2.gid == 5 && x.2.committed) = some (0, g) ∧ mget? s.sys.hub.gangs 0 = some g ∧ gangUnbegun s.sys g = true ∧ 2000 < g.sinceCommit) ∧
    gangUnbegun (hg { gg with committed := true }).sys { gg with committed := true } = false ∧
    (∃ s : State, s = hb { nodes := [(0, gn)], now := 2 ^ 40 } ∧ itemOf s.sys 0 = some (0, gi) ∧ (s.sys.hub.node? 0).isSome = true ∧ placeStands s.sys 0 gi = false ∧ (∀ z, gi.cand ≠ .slot z) ∧ legalPlace s.sys 0 (gi.ask 0) ⟨0, 5, 6⟩ = true ∧ mayReserve s.sys 0 gi = true) ∧
    (∃ s : State, ∃ n : Node, n = { gn with reserving := true, resv := some ⟨0, 5, 6⟩ } ∧ s = hb { nodes := [(0, n)], now := 2 ^ 40 } ∧ itemOf s.sys 0 = some (0, { gi with node := n }) ∧
      placeStands s.sys 0 { gi with node := n } = true) ∧
    (∃ s : State, ∃ y, s = hb { nodes := [(0, gn)] } ∧ reservedItem s.sys 0 0 6 5 = none ∧ offered s.sys 0 0 = some (y, gi) ∧ (6, 5) ∈ grantPlaces s.sys 0 0 gi ∧ s.live 0 ∧
      ∀ b ∈ placeBlocks 6 5, ((s.sys.die 0).slice b).owner = none) ∧
    (∃ y : Sys, ∃ w : Start, w = { pst with need := 0 } ∧ y = (hb { nodes := [(0, { gn with started := 1, live := 1 })], starts := [w] }).sys ∧ settleOne y = none ∧ y.hub.starts = [w] ∧ w.gang = none ∧
      (y.hub.node? w.node).map (·.failed) = some none ∧ (y.die w.place.die).inSvc = true ∧ orderOpen y w = true ∧ (y.part w.part).ckBusy = false ∧ (y.ctx w.place.die w.place.lead).away = false) := by
  refine ⟨⟨_, rfl, rfl, rfl, rfl, by decide, by decide⟩, ?_, ⟨_, _, rfl, rfl, rfl, rfl, fun w h _ => ?_⟩, ⟨_, _, rfl, rfl, rfl, rfl, by decide +kernel, by decide⟩, by decide +kernel,
    ⟨_, rfl, by decide +kernel, rfl, by decide +kernel, fun _ h => (nomatch h), by decide +kernel, by decide +kernel⟩, ⟨_, _, rfl, rfl, by decide +kernel, by decide +kernel⟩, ?_,
    ⟨_, _, rfl, rfl, by decide +kernel, rfl, rfl, rfl, rfl, by decide +kernel, rfl, rfl⟩⟩
  · obtain ⟨y, h⟩ := isSome_of (x := holdAll 0 [(0, 0, ⟨0, 0, 6⟩)] (hg { gg with assembled := true }).sys) (by decide +kernel)
    have p : (holdAll 0 [(0, 0, ⟨0, 0, 6⟩)] (hg { gg with assembled := true }).sys).map (fun y => (y.hub.starts.filter (fun w => w.gang == some 0)).length) = some 1 := by decide +kernel
    rw [h] at p
    exact ⟨_, _, _, y, rfl, rfl, rfl, rfl, by decide +kernel, by decide +kernel, h, by simpa using p, by decide +kernel⟩
  · have e : w = { pst with need := 0, gang := some 0 } := List.mem_singleton.1 h
    rw [e]; decide +kernel
  · obtain ⟨y, h⟩ := some_of (x := offered (hb { nodes := [(0, gn)] }).sys 0 0) (b := gi) (by decide +kernel)
    exact ⟨_, y, rfl, by decide +kernel, h, by decide +kernel, rfl, by decide +kernel⟩
/-- What an error says. -/
def errOf {α β : Type} : Except α β → Option α
  | .error e => some e
  | .ok _ => none
theorem err_of {α β : Type} {x : Except α β} {e : α} (h : errOf x = some e) : x = .error e := by
  cases x <;> simp_all [errOf]
/-- Context 0 of a partition whose record is running. -/
def hi (c : Ctx) (f : Fn := fg) : State := tm c { parts := [(0, gp)], fns := [(0, f)], nodes := [(0, { gn with started := 1, live := 1 })] }
/-- The same, its gang having faulted. -/
def ho (c : Ctx) : State := tm c { parts := [(0, gp)], fns := [(0, fg)], nodes := [(0, { gn with started := 1, live := 1, gangOut := true })] }
/-- It has executed `tend`; `x` is its record. -/
def ec (x : Nat := 0) : Ctx := { tc with st := .ending, tended := true, record := BitVec.ofNat 1024 x }
theorem wit_InstanceEvents :
    (∃ s : State, ∃ c : Ctx, ∃ n, s = hi (ec) ∧ c = s.sys.ctx 0 0 ∧ c.st = .ending ∧ c.tended = true ∧ c.endBy = false ∧ c.entries = [] ∧ c.stopped = false ∧ c.piece = 0 ∧ c.alive = [0] ∧ c.grove = [0] ∧
      c.groveErr = none ∧ c.groveKill = false ∧ s.sys.hub.node? c.node = some n ∧ decPlace s.sys c = .ok none) ∧
    (∃ s : State, ∃ c : Ctx, s = hi (ec (2 ^ 448 + 8 * 2 ^ 384)) ∧ c = s.sys.ctx 0 0 ∧ decPlace s.sys c = .ok (some (lf, 8)) ∧ s.live c.part ∧ (∀ i < 8, (devByte s.sys lf.fdie (lf.pa + i)).2 = false) ∧
      bitOf (s.sys.part c.part).logCfg.toNat 63 = false ∧ (s.sys.hub.node? c.node).map (·.gangOut) = some false) ∧
    ((ho (ec (2 ^ 448 + 8 * 2 ^ 384))).sys.hub.node? 0).map (·.gangOut) = some true ∧
    (∃ s : State, ∃ c : Ctx, s = hi { ec with tended := false, endBy := true, endCause := some 0x18, endSub := 0xFF, saveSlot := some 0 } ∧ c = s.sys.ctx 0 0 ∧ c.st = .ending ∧ c.endBy = true ∧ c.endSub = 0xFF ∧
      c.endCause = some 0x18 ∧ c.saveSlot = some 0 ∧ (s.sys.hub.node? c.node).isSome = true) ∧
    (∃ s : State, s = hi (ec (2 ^ 448 + 8 * 2 ^ 384)) {} ∧ decPlace s.sys (s.sys.ctx 0 0) = .error xfRange) ∧
    (∃ s : State, ∃ c : Ctx, s = hi { ec with piece := 1, grove := [5, 0], alive := [5, 0] } ∧ c = s.sys.ctx 0 0 ∧ c.piece ≠ 0 ∧ c.grove.Nodup ∧ c.alive.erase 0 ≠ [] ∧ c.entries = [] ∧ c.endBy = false) ∧
    (∀ e ∈ [none, some 0x17], ∃ s : State, ∃ c : Ctx, ∃ n, s = hi { ec with tended := false, endBy := true, endCause := e, endSub := 3 } ∧ c = s.sys.ctx 0 0 ∧ c.st = .ending ∧ c.endBy = true ∧ c.stopped = false ∧
      (∀ x ∈ c.entries, 8 ≤ x.1) ∧ c.grove = [0] ∧ c.alive = [0] ∧ c.groveErr = none ∧ c.groveKill = false ∧ c.endSub ≠ 0xFF ∧ s.sys.hub.node? c.node = some n ∧ c.endCause = e ∧ n.failed = none) ∧
    (∀ b : Bool, ∃ s : State, ∃ c : Ctx, s = hi { tc with tended := b, wdDue := true, wdEn := true, wdLimit := 1, wdCycles := 1024 } ∧ c = s.sys.ctx 0 0 ∧ c.wdDue = true ∧ c.wdEn = true ∧ c.wdLimit ≠ 0 ∧
      c.wdLimit ≤ c.wdCycles / 1024 ∧ c.st ≠ .free ∧ c.stopped = false ∧ c.tended = b) ∧
    (∃ s : State, s = ts tq tc { heldEvents := [5], events := [1] } ∧ (s.sys.die 0).heldEvents = 5 :: [] ∧ (s.sys.die 0).events.length < 256) := by
  refine ⟨⟨_, _, _, rfl, rfl, rfl, rfl, rfl, by decide +kernel, rfl, rfl, rfl, rfl, rfl, rfl, rfl, ok_of (by decide +kernel)⟩, ⟨_, _, rfl, rfl, ok_of (by decide +kernel), rfl, by decide +kernel, by decide, rfl⟩, rfl,
    ⟨_, _, rfl, rfl, rfl, rfl, rfl, rfl, rfl, rfl⟩, ⟨_, rfl, err_of (by decide +kernel)⟩, ⟨_, _, rfl, rfl, by decide, by decide, by decide, rfl, rfl⟩, fun e _ => ⟨_, _, _, rfl, rfl, rfl, rfl, rfl, ?_, rfl, rfl, rfl, rfl, by show 3 ≠ 0xFF; decide, rfl, rfl, rfl⟩,
    fun b => ⟨_, _, rfl, rfl, rfl, rfl, by show 1 ≠ 0; decide, by show 1 ≤ 1024 / 1024; decide, by show CtxPhase.run ≠ .free; decide, rfl, rfl⟩, ⟨_, rfl, rfl, by decide⟩⟩
  intro x hx
  simp [Ctx.entries, Ctx.queue, hi, ec, tc, tm, ts, Sys.ctx, Sys.die, mgetD, mget?] at hx
/-- The partition whose save slots begin at 0. -/
def svp (st : SlotSt) : Part := { gp with psave := 0x0001_0000_0000_0000, slots := [(0, { st := st, owned := [(0, 0, 0)] })] }
def svc (st : CtxPhase) (sl : Option Nat := none) : Ctx := { tc with st := st, slot := sl, area := 0, chains := [], copies := [] }
/-- The image of a context of one block with one semaphore stands at 0x5_0000. -/
def img : MemDie := { tmem with mem := wrBytes tables 0x5_0000 (leBytes 8 (2 ^ 8 + 6 * 2 ^ 20)) }
def imgHead : List Byte := leBytes 8 (2 ^ 8 + 6 * 2 ^ 20) ++ List.replicate 4088 0
theorem leNat_zeros (n : Nat) : leNat (List.replicate n (0 : Byte)) = 0 := by
  induction n with
  | zero => rfl
  | succ n ih => simp only [List.replicate_succ, leNat, ih]; rfl
theorem rdByte_unlisted (m : Mem) (a : Nat) (h : ∀ c ∈ m, c.1 < a) : rdByte m a = 0 := by
  induction m with
  | nil => rfl
  | cons c t ih =>
    have e : a ≠ c.1 := Nat.ne_of_gt (h c (.head _))
    have := ih (fun x hx => h x (.tail _ hx))
    simp only [rdByte, mgetD, mget?, e, if_false] at *; exact this
def rst : State := tm (svc .restoring (some 0)) { parts := [(0, svp .restoring)] } img
theorem devRead_add (y : Sys) (d a m n : Nat) : devRead y d a (m + n) = devRead y d a m ++ devRead y d (a + m) n := by
  simp [devRead, List.range_add, Function.comp_def, Nat.add_assoc]
theorem img_zeros (a n : Nat) (h : 0x5_0008 ≤ a) : devRead rst.sys 0 a n = List.replicate n (0, false) := by
  refine List.eq_replicate_iff.2 ⟨by simp [devRead], fun b hb => ?_⟩
  obtain ⟨i, -, rfl⟩ := List.mem_map.1 hb
  have : rdByte img.mem (a + i) = 0 := rdByte_unlisted _ _ (by
    intro c hc
    have : c.1 < 0x5_0008 := (by decide +kernel : ∀ c ∈ img.mem, c.1 < 0x5_0008) c hc
    omega)
  show (rdByte img.mem (a + i), false) = _
  rw [this]
/-- A run that lies in one frame. -/
theorem readRun_one (y : Sys) (off n : Nat) (l : Leaf) (hx : intXlate y 0 (0 + off) .rd = .ok l) (r : off % 2 ^ 16 = off) (hn : n ≤ 2 ^ 16 - off) :
    readRun y 0 0 off n = some ((devRead y l.fdie l.pa n).map (·.1)) := by
  have q : n - (2 ^ 16 - off) = 0 := by omega
  have m : min n (2 ^ 16 - off) = n := by omega
  have e : readMarked y 0 0 off n = some (devRead y l.fdie l.pa n) := by
    simp only [readMarked, intRead, r, m, q, hx]
    split
    · rename_i a b h1 h2
      split at h2
      · simp at h2
      · simp [devRead] at h2; subst h2; simp at h1; subst h1; simp
    · rename_i a h1 h2
      simp at h1; subst h1; simp; omega
    · rename_i h; simp at h
  simp only [readRun, e, Option.map_some]
theorem wit_ReshapeAndSaveEvents :
    (∃ s : State, ∃ c : Ctx, s = tm { tc with shape := 4, w := 6, reshape := .split 6 7 0x2000 } { parts := [(0, gp)] } ∧ c = s.sys.ctx 0 0 ∧ c.st = .run ∧ c.stopped = false ∧ c.reshape = .split 6 7 0x2000 ∧
      splitDrained c = true ∧ splitServes s.sys 0 c (pieceCount c 6) = true ∧ c.lead = 0 ∧ (pieceLeads c 6).Nodup) ∧
    (∀ n ∈ [50, 1], ∃ s : State, ∃ c : Ctx, s = tm { tc with grove := [0, 1], orig := some (4, 0, 1, 6), reshape := .fuse, load := n } ∧ c = s.sys.ctx 0 0 ∧ c.st = .run ∧ c.stopped = false ∧ c.reshape = .fuse ∧
      c.alive = [0] ∧ c.groveErr = none ∧ c.groveKill = false ∧ c.orig = some (4, 0, 1, 6) ∧ (n = 50 → c.fuseNeed ≤ c.ballast) ∧ (n = 1 → c.ballast + (s.sys.die 0).pool < c.fuseNeed)) ∧
    (∃ s : State, ∃ c : Ctx, ∃ y, s = tm (svc .saving) { parts := [(0, svp .saving)] } ∧ c = s.sys.ctx 0 0 ∧ c.st = .saving ∧ c.entries = [] ∧ (s.sys.part c.part).slotAt c.area.toNat = some 0 ∧
      ((s.sys.part c.part).slot 0).st = .saving ∧ c.grove = [0] ∧ c.alive = [0] ∧ c.blocks.Nodup ∧ (s.sys.part c.part).resetting = false ∧ (∀ x ∈ (s.sys.die 0).lateSaved, x.1 ≠ 0) ∧
      saveImage s.sys c.part c.area.toNat (s.sys.die 0) c (imageRuns (s.sys.die 0) (s.sys.seq r0) 0 c 1) = some y ∧ bitOf (s.sys.part c.part).logCfg.toNat 63 = false) ∧
    (∃ s : State, s = tm {} { parts := [(0, svp .saving)] } tmem { lateSaved := [(0, 0, 0)] } ∧ (s.sys.die 0).lateSaved.find? (fun x => x.1 == 0) = some (0, 0, 0) ∧ ((s.sys.part 0).slot 0).st = .saving) ∧
    (∃ s : State, s = tm (svc .restoring) ∧ (s.sys.ctx 0 0).st = .restoring ∧ (s.sys.ctx 0 0).slot = none ∧ (s.sys.part (s.sys.ctx 0 0).part).resetting = false) ∧
    (∃ s : State, ∃ c : Ctx, ∃ hd se banks cs y, s = tm (svc .restoring (some 0)) { parts := [(0, svp .restoring)] } img ∧ c = s.sys.ctx 0 0 ∧ c.st = .restoring ∧ c.slot = some 0 ∧
      restoresSlot s.sys c 0 = true ∧ spillOwned c.part 0 (strayed s.sys c.part (some 0) 0 c.shape c.lead) s.sys = (s.sys, true) ∧ readRun s.sys c.part c.area.toNat 0 4096 = some hd ∧
      readRun s.sys c.part c.area.toNat 0x1000 2048 = some se ∧ headGood c hd = true ∧ (∀ n < 256, semGood (leNat ((se.drop (8 * n)).take 8)) = true) ∧
      allSome (readBank s.sys c.part c.area.toNat) (if c.shape = 7 then [] else List.range c.blocks.length) = some banks ∧ readChains s.sys c.part c.area.toNat c hd = some cs ∧ cs.all (·.1) = true ∧
      restoreSlices 0 c.part 0 (c.blocks.mapIdx (fun k b => (k, b))) s.sys = some y) := by
  refine ⟨⟨_, _, rfl, rfl, rfl, rfl, rfl, by decide +kernel, by decide +kernel, rfl, by decide +kernel⟩, ?_, ?_, ⟨_, rfl, rfl, rfl⟩, ⟨_, rfl, rfl, rfl, rfl⟩, ?_⟩
  · intro n hn
    refine ⟨_, _, rfl, rfl, rfl, rfl, rfl, rfl, rfl, rfl, rfl, ?_, ?_⟩
    · rintro rfl; decide +kernel
    · rintro rfl; decide +kernel
  · obtain ⟨y, h⟩ := isSome_of (x := saveImage (tm (svc .saving) { parts := [(0, svp .saving)] }).sys 0 0 ((tm (svc .saving) { parts := [(0, svp .saving)] }).sys.die 0) (svc .saving)
      (imageRuns ((tm (svc .saving) { parts := [(0, svp .saving)] }).sys.die 0) ((tm (svc .saving) { parts := [(0, svp .saving)] }).sys.seq r0) 0 (svc .saving) 1)) (by decide +kernel)
    exact ⟨_, _, y, rfl, rfl, rfl, by decide +kernel, by decide +kernel, rfl, rfl, rfl, by decide, rfl, fun _ h => (nomatch h), h, by decide⟩
  · have h1 : readRun rst.sys 0 0 0 4096 = some imgHead := by
      rw [readRun_one rst.sys 0 4096 ⟨0, 0x5_0000, 3, false, true, 0, false, 0x4000⟩ (ok_of (by decide +kernel)) rfl (by decide)]
      show some ((devRead rst.sys 0 0x5_0000 (8 + 4088)).map (·.1)) = _
      rw [devRead_add, img_zeros (0x5_0000 + 8) _ (by decide), List.map_append, List.map_replicate]
      have : (devRead rst.sys 0 0x5_0000 8).map (·.1) = leBytes 8 (2 ^ 8 + 6 * 2 ^ 20) := by decide +kernel
      rw [this]; rfl
    have g1 : headGood (svc .restoring (some 0)) imgHead = true := by decide +kernel
    have h2 : readRun rst.sys 0 0 0x1000 2048 = some (List.replicate 2048 0) := by
      rw [readRun_one rst.sys 0x1000 2048 ⟨0, 0x5_1000, 3, false, true, 0, false, 0x4000⟩ (ok_of (by decide +kernel)) rfl (by decide), img_zeros _ _ (by decide), List.map_replicate]
    obtain ⟨b, h3⟩ := isSome_of (x := allSome (readBank rst.sys 0 0) [0]) (by decide +kernel)
    obtain ⟨y, h4⟩ := isSome_of (x := restoreSlices 0 0 0 [(0, 0)] rst.sys) (by decide +kernel)
    refine ⟨rst, _, _, _, b, [], y, rfl, rfl, rfl, rfl, by decide +kernel, ?_, h1, h2, g1, ?_, h3, rfl, rfl, h4⟩
    · show spillOwned 0 0 (strayed rst.sys 0 (some 0) 0 6 0) rst.sys = _
      rw [show strayed rst.sys 0 (some 0) 0 6 0 = [] by decide +kernel]; rfl
    · intro n _
      rw [List.drop_replicate, List.take_replicate, leNat_zeros]; decide
/-- Context 0 of the partition `o`. -/
def hd (o : Part) (c : Ctx := tc) : State := tm c { parts := [(0, o)] }
/-- A retained checkpoint with one choice in its log. -/
def ck : Checkpoint := { num := 5, words := gp.words, log := [.token 0 0], ctxs := [⟨0, 0, { tc with chains := [] }, tq⟩] }
theorem wit_DebugEvents :
    (0 : Nat) < Config.partitions ∧ (0x8000_0000_0000_0009 : Word).getLsbD 63 = true ∧
    (∃ s : State, s = hd { gp with stopGo := true } { tc with cut := true, copies := [{ engine := 0, ack := true }] } ∧ (s.sys.part 0).stopGo = true ∧
      ∃ x ∈ s.sys.contexts, x.2.2.part = 0 ∧ x.2.2.cut = true ∧ frozen s.sys x.2.2 = false) ∧
    (∃ s : State, ∃ x y, s = hd { gp with stopGo := true } { tc with cut := true } ∧ (s.sys.part 0).stopGo = true ∧ (∀ x ∈ s.sys.contexts, x.2.2.part = 0 → x.2.2.cut = true → frozen s.sys x.2.2 = true) ∧
      s.sys.contexts.filter (fun x => x.2.2.part == 0 && x.2.2.cut) = [x] ∧ bitOf (s.sys.part 0).logCfg.toNat 63 = false ∧
      intWrite { s.sys with used := s.sys.used + 512 } 0 ((s.sys.part 0).dbgArea.toNat + 4096 * (s.sys.ctx x.1 x.2.1).ctag) (clean (cutRecord s.sys x.1 x.2.1)) = some y ∧ (s.sys.ctx x.1 x.2.1).part = 0) ∧
    ((0x4000_0000_0000_0000 : Word).getLsbD 63 = false ∧ (0x4000_0000_0000_0000 : Word).getLsbD 62 = true) ∧
    (∃ s : State, s = hd { gp with dbp := [(1, (0x8080_0000_0000_0000, 0x1000)), (3, (0x8000_0000_0000_0009, 0x1000))] } ∧ (s.sys.ctx 0 0).isFree = false ∧ (s.sys.ctx 0 0).part = 0 ∧ hitsAt s.sys 0 0 = 1 :: [3]) ∧
    (∃ s : State, ∃ o : Part, o = { gp with ckCfg := 0x8032_0400_0000_0000, ckNs := 50000000 } ∧ s = hd o ∧ o.en = true ∧ o.resetting = false ∧ o.ckBusy = false ∧ o.replay = none ∧ bitOf o.ckCfg.toNat 63 = true ∧
      bitsOf o.ckCfg.toNat 48 14 * 1000000 ≤ o.ckNs) ∧
    (∃ s : State, s = hd { gp with ckBusy := true, ckCfg := 0x8032_0400_0000_0000 } ∧ (s.sys.part 0).ckBusy = true ∧ savesOpen s.sys 0 = false ∧ bitsOf (s.sys.part 0).ckCfg.toNat 40 8 ≠ 0 ∧ ∀ x ∈ s.sys.contexts, x.2.2.part = 0 → frozen s.sys x.2.2 = true) ∧
    (∃ v : Word, v = 0x8000_0000_0000_0005 ∧ v.getLsbD 63 = true ∧ (∀ k ∈ gp.ckpts, k.num ≠ v.toNat % 2 ^ 32) ∧
      ∃ k plans mp, replayBad (hd { gp with ckpts := [ck] }).sys 0 (v.toNat % 2 ^ 32) = some (k, plans, mp) ∧ k.log.all ownWrite = false ∧
        (k.ctxs.map (fun x => ((planOf plans x.die).new, (planOf plans x.die).block x.lead))).Nodup ∧ k.ctxs ≠ []) ∧
    (∃ s : State, s = hd { gp with ran := true } ∧ (s.sys.part 0).ran = true) ∧
    ((hd { gp with replay := some [] }).sys.part 0).spent = true ∧
    9 < (10 : Word).toNat % 2 ^ 16 := by
  refine ⟨by decide, by decide, ⟨_, rfl, rfl, (0, 0, { tc with cut := true, copies := [{ engine := 0, ack := true }] }), by decide +kernel, rfl, rfl, by decide⟩, ?_, ⟨by decide, by decide⟩,
    ⟨_, rfl, rfl, rfl, by decide +kernel⟩, ⟨_, _, rfl, rfl, rfl, rfl, rfl, rfl, by decide, by decide⟩, ⟨_, rfl, rfl, by decide +kernel, by decide, by decide +kernel⟩,
    ⟨_, rfl, by decide, by decide, ck, [⟨0, 0, [(⟨6, 0, 1, 1, false⟩, 0)], [], [(0, [0])]⟩], [], by decide +kernel, by decide +kernel, by decide +kernel, by decide⟩,
    ⟨_, rfl, rfl⟩, by decide +kernel, by decide⟩
  obtain ⟨y, h⟩ := isSome_of (x := intWrite { (hd { gp with stopGo := true } { tc with cut := true }).sys with used := (hd { gp with stopGo := true } { tc with cut := true }).sys.used + 512 } 0 (0 + 4096 * 9)
    (clean (cutRecord (hd { gp with stopGo := true } { tc with cut := true }).sys 0 0))) (by decide +kernel)
  exact ⟨_, (0, 0, { tc with cut := true }), y, rfl, rfl, by decide +kernel, by decide +kernel, by decide, h, rfl⟩
/-- 03 R57 to R62: the hypotheses of both directions, at words of each length and at a strip word. -/
theorem wit_DecodeEncode : (Instr.add 3 4 5).wf = true ∧ encode (.add 3 4 5) = some 0x0052_0C04 ∧ (Instr.li 7 0x1234_5678).wf = true ∧ encode (.li 7 0x1234_5678) = some 0x1234_5678_1C01 ∧
    (Instr.mxRun 0 0 0 0 0 ⟨2, 1, 11, 1, 9, 2, 3⟩).wf = true ∧ encode (.mxRun 0 0 0 0 0 ⟨2, 1, 11, 1, 9, 2, 3⟩) = some 0x0001_10B1_0908_0C12 ∧
    (Instr.xAdd 0 0 1 0 2 15).wf = true ∧ encode (.xAdd 0 0 1 0 2 15) = some 0x0008_1780 := by decide
theorem wit_EncodeDecode : decodeSeq 0x0052_0C04 = .ok (.add 3 4 5) ∧ decodeSeq (0x1234_5678_1C01 + 2 ^ 50) = .ok (.li 7 0x1234_5678) ∧ decodeStrip 0x0008_1780 = .ok (.xAdd 0 0 1 0 2 15) := ⟨rfl, rfl, rfl⟩
/-- The steward of die 0 has its turn at the word `w`. -/
def si (w : Nat) (an : Bool := false) (pend : List DieCause := []) : State :=
  { ss { sq with an0 := an } tc { image := wrBytes [] 0x1000 (leBytes 4 w), imageX := [⟨0x1000, 0x2000⟩], pend := pend } with agenda := [.seq rs] }
theorem wit_StepRuns :
    (∃ y w n, (si 0x298).turn = .seq rs ∧ seqReady (si 0x298).sys rs = true ∧ takePending (si 0x298).sys rs = none ∧ fetchInstr (si 0x298).sys rs ((si 0x298).sys.seq rs).pc = (y, .ok (w, n)) ∧ w = 0x298 ∧
      decodeSeq 0x298 = .ok .nop ∧ ((si 0x298).sys.seq rs).an0 = false) ∧
    (∃ y w n, (si 0x298 true).turn = .seq rs ∧ seqReady (si 0x298 true).sys rs = true ∧ fetchInstr (si 0x298 true).sys rs ((si 0x298 true).sys.seq rs).pc = (y, .ok (w, n)) ∧ ((si 0x298 true).sys.seq rs).an0 = true) ∧
    (∃ y w n, (si 0x3FC).turn = .seq rs ∧ fetchInstr (si 0x3FC).sys rs ((si 0x3FC).sys.seq rs).pc = (y, .ok (w, n)) ∧ w = 0x3FC ∧ decodeSeq 0x3FC = .error .illegal) ∧
    (∃ y w n, (si 0x1_01C4).turn = .seq rs ∧ fetchInstr (si 0x1_01C4).sys rs ((si 0x1_01C4).sys.seq rs).pc = (y, .ok (w, n)) ∧ decodeSeq w = .error .reserved ∧ (y.seq rs).ae = true ∧ seqReady (si 0x1_01C4).sys rs = true ∧
      takePending (si 0x1_01C4).sys rs = none ∧ ((si 0x1_01C4).sys.seq rs).an0 = false ∧ ∀ p ∈ (si 0x1_01C4).sys.hub.parts, p.2.replay = none) ∧
    (∃ s : State, ∃ y e, s = { ts with agenda := [.seq r0] } ∧ s.turn = .seq r0 ∧ seqReady s.sys r0 = true ∧ takePending s.sys r0 = none ∧ fetchInstr s.sys r0 (s.sys.seq r0).pc = (y, .error e)) ∧
    takePending (si 0x298 false [.watchdog 0]).sys rs ≠ none ∧ seqReady (ts tq { tc with st := .parked }).sys r0 = false ∧
    (∃ s : State, ∃ h : Chain, h = { phys := 0, bound := true, running := true, strips := Vector.replicate 5 { busy := true, prog := { nr := 1, words := [0x0008_1780] } } } ∧
      s = { ts tq { tc with chains := [h] } with agenda := [.strip ⟨0, 0, 0, 0⟩] } ∧ s.turn = .strip ⟨0, 0, 0, 0⟩ ∧ (s.sys.ctx 0 0).engines = true ∧ s.sys.chain? ⟨0, 0, 0, 0⟩ = some h ∧ h.running = true ∧
      (h.strip 0).busy = true ∧ (h.strip 0).prog.words[(h.strip 0).ip]? = some 0x0008_1780 ∧ decodeStrip (0x0008_1780 : BitVec 32).toNat = .ok (.xAdd 0 0 1 0 2 15)) ∧
    (∃ s : State, s = { State.reset with agenda := [.ev .governorTick] } ∧ s.turn = .ev .governorTick ∧ isEvent .governorTick = true ∧ s.plat.power = true) ∧
    (∃ s : State, s = { tpl {} with agenda := [.ev .powerLoss] } ∧ s.turn = .ev .powerLoss ∧ isEvent .powerLoss = true ∧ s.plat.power = false) :=
  ⟨⟨_, _, _, rfl, rfl, rfl, rfl, rfl, rfl, rfl⟩, ⟨_, _, _, rfl, rfl, rfl, rfl⟩, ⟨_, _, _, rfl, rfl, rfl, rfl⟩, ⟨_, _, _, rfl, rfl, rfl, rfl, rfl, rfl, rfl, by decide +kernel⟩, ⟨_, _, _, rfl, rfl, rfl, rfl, rfl⟩, by decide +kernel, rfl,
    ⟨_, _, rfl, rfl, rfl, rfl, rfl, rfl, rfl, rfl, rfl⟩, ⟨_, rfl, rfl, rfl, rfl⟩, ⟨_, rfl, rfl, rfl, rfl⟩⟩
theorem wit_PlatformKept : ∃ s t : State, s = { State.reset with agenda := [.ev .wearFlush] } ∧ PlatformInv s ∧ step s = .next t :=
  ⟨_, _, rfl, ⟨by decide, by decide, by decide, by decide, by decide, by decide, by decide⟩, rfl⟩
/-- The cut of a number is that of a real. -/
theorem cut_sound (r : Rat) : (Cut.of r).Sound :=
  ⟨fun _ _ h k => Rat.le_trans h k, fun _ _ h k => Rat.not_le.1 fun z => Rat.not_le.2 h (Rat.le_trans k z), fun _ h => Rat.le_of_lt h⟩
/-- 3/2 exactly, and a value between 2^60 and 2^60 + 1. -/
def x32 : Ext := .fin false 3 (-1) false
theorem gives_exact : Ext.Gives x32 false (Cut.of (3 / 2)) :=
  ⟨3, -1, false, rfl, by decide, cut_sound _, fun _ => ⟨by show (_ : Rat) ≤ _; decide +kernel, by show ¬(_ : Rat) < _; decide +kernel⟩, fun h => absurd h (by decide)⟩
theorem gives_more : Ext.Gives (.fin true (2 ^ 60) 0 true) true (Cut.of (2 ^ 60 + 1 / 2)) :=
  ⟨2 ^ 60, 0, true, rfl, by decide, cut_sound _, (fun h => absurd h (by decide)), fun _ => ⟨Nat.le_refl _, by show (_ : Rat) < _; decide +kernel, by show ¬(_ : Rat) ≤ _; decide +kernel⟩⟩
theorem wit_FloatRounding : fE2M1 ∈ [fFP32, fFP16, fBF16, fE4M3, fE5M2, fE3M2, fE2M3, fE2M1] ∧ (0x9 : Nat) < 2 ^ fE2M1.width ∧ (∃ x n v, Ext.Gives x n v) ∧ laneFmt 0 = some fFP32 ∧
    ([x32, .nan true] : List Ext).find? Ext.isNan = some (.nan true) ∧ ([x32] : List Ext).find? Ext.isNan = none ∧ x32.exact = true ∧ x32.isNan = false ∧ (Ext.inf true).num = .inf true ∧
    (Ext.fin true 0 5 false).num = .real true 0 :=
  ⟨by decide, by decide, ⟨_, _, _, gives_more⟩, rfl, rfl, rfl, rfl, rfl, rfl, by decide +kernel⟩
theorem wit_ExactResults : x32.exact = true ∧ x32.num = .real false (3 / 2) ∧ (Ext.fin true 0 0 false).num = .real true 0 ∧ (Ext.fin true 1 0 false).num = .real true 1 ∧ (Ext.fin false 1 2 false).num = .real false ((2 : Rat) ^ (2 : Int)) ∧
    (Ext.fin true 1 0 false).num.below x32.num ∧ eqExt (.fin true 0 0 false) (.fin false 0 3 false) = true ∧ (Ext.nan true).num.isNan = true ∧ (Ext.inf true).num = .inf true ∧
    (∃ m e w, x32 = .fin false m e false ∧ m < 2 ^ 32 ∧ w ∈ [512, 1024, 2048, 4096, 8192] ∧
      (log2Bits w 192 (m * 2 ^ w / 2 ^ Nat.log2 m) (m * 2 ^ w / 2 ^ Nat.log2 m + (if m * 2 ^ w % 2 ^ Nat.log2 m = 0 then 0 else 1)) 0).isSome = true) ∧
    (∀ n : Bool, ∃ m e w i j r, Ext.fin n 3 (-1) false = .fin n m e false ∧ e < 0 ∧ w ∈ [384, 768, 1536, 3072, 6144] ∧ i = (-e).toNat ∧
      j = ((if n then -(m : Int) else m) % (2 ^ i : Nat)).toNat ∧ r = exp2Bounds w i j (2 * 2 ^ w) (2 * 2 ^ w) (2 ^ w) (2 ^ w) ∧ r.1 / 2 ^ 64 = r.2 / 2 ^ 64) ∧
    (∃ k : Int, (Ext.fin false 1 2 false).num.val = k) ∧ (1 : Rat) < 3 / 2 ∧ (∃ n v, (Ext.fin false 1 (-1) false).num = .real n v ∧ v < 1 ∧ v ≠ 0) :=
  ⟨rfl, by decide +kernel, by decide +kernel, by decide +kernel, by decide +kernel, by show (_ : Rat) < _; decide +kernel, by decide +kernel, rfl, rfl, ⟨3, -1, 512, rfl, by decide, by decide, by decide +kernel⟩,
    fun n => ⟨3, -1, 384, _, _, _, rfl, by decide, by decide, rfl, rfl, rfl, by cases n <;> decide +kernel⟩, ⟨4, by decide +kernel⟩, by decide +kernel, ⟨false, 1 / 2, by decide +kernel, by decide +kernel, by decide +kernel⟩⟩
theorem wit_ConversionValues : laneFmt 0 = some fFP32 ∧ (∃ t : BitVec 3, t ≠ 7 ∧ laneFmt t = none) ∧
    (∀ f ∈ [fFP32, fFP16, fBF16, fE4M3, fE5M2, fE3M2, fE2M3, fE2M1], ∃ mx, f.num f.maxBits = .real false mx) ∧ x32.num = .real false (3 / 2) ∧ (Ext.zero true).num = .real true 0 ∧ (Ext.zero true).num.val = 0 ∧
    (Cut.of (3 / 2)).scale 0 ∧ (∃ x : Ext, x.num.isReal = false) ∧
    (∀ n : Nat, n < 8 → ∃ im, (unpackAll 1 true 24 (List.replicate 48 (BitVec.ofNat 8 (255 * (n % 2)))))[n]? = some im ∧ ((List.replicate 48 (BitVec.ofNat 8 (255 * (n % 2)))).getD (n * 2) (0 : Byte)).toNat = 255 * (n % 2)) ∧
    (∃ g fl, packIngot ([1, -2, 3, 4, 5, 6, 7, 100].map Ext.ofInt) 7 false false [] = (g, fl)) ∧
    (∃ (m : Rat) (emax e0 : Int) (xs : List Ext) (r : Int → List Int), xs = List.replicate 8 x32 ∧ (∀ x ∈ xs, x.num.isReal = true) ∧ (∃ x ∈ xs, m = (x.num.val).abs) ∧ (∀ x ∈ xs, (x.num.val).abs ≤ m) ∧ (Cut.of m).scale emax ∧
      e0 = min 254 (max 0 (emax + 129 - (2 : Nat))) ∧ (∀ e, (r e).length = 8) ∧ ∀ e j x, e = e0 ∨ e = e0 + 1 → xs[j]? = some x → ∃ (k y : Nat),
        (Cut.of ((x.num.val).abs * (2 : Rat) ^ (127 - e))).toMultiple 1 x.num.neg 0 (([] : List Nat).getD j 0) k y ∧ (r e)[j]? = some (if x.num.neg then -(y : Int) else y)) := by
  have v : x32.num = .real false (3 / 2) := by decide +kernel
  have w : x32.num.val.abs = 3 / 2 := by decide +kernel
  refine ⟨rfl, ⟨4, by decide, by decide⟩, ?_, v, by decide +kernel, by decide +kernel, ⟨by show (_ : Rat) ≤ _; decide +kernel, by show ¬(_ : Rat) ≤ _; decide +kernel⟩, ⟨.inf true, rfl⟩, ?_, ⟨_, _, rfl⟩,
    ⟨3 / 2, 0, 127, _, fun e => List.replicate 8 (if e = 127 then 2 else 1), rfl, ?_, ⟨x32, by simp, w.symm⟩, ?_, ⟨by show (_ : Rat) ≤ _; decide +kernel, by show ¬(_ : Rat) ≤ _; decide +kernel⟩, by decide, fun _ => List.length_replicate, ?_⟩⟩
  · intro f hf
    revert f
    simp only [List.forall_mem_cons]
    exact ⟨⟨_, rfl⟩, ⟨_, rfl⟩, ⟨_, rfl⟩, ⟨_, rfl⟩, ⟨_, rfl⟩, ⟨_, rfl⟩, ⟨_, rfl⟩, ⟨_, rfl⟩, fun _ h => nomatch h⟩
  · intro n hn
    have : n = 0 ∨ n = 1 ∨ n = 2 ∨ n = 3 ∨ n = 4 ∨ n = 5 ∨ n = 6 ∨ n = 7 := by omega
    rcases this with rfl | rfl | rfl | rfl | rfl | rfl | rfl | rfl <;> exact ⟨_, rfl, by decide⟩
  · intro x hx
    rw [(List.mem_replicate.1 hx).2, v]; rfl
  · intro x hx
    rw [(List.mem_replicate.1 hx).2]; exact (congrArg (fun z : Rat => z ≤ 3 / 2) w).mpr Rat.le_refl
  · intro e j x he hx
    obtain ⟨hj, rfl⟩ := List.getElem?_eq_some_iff.1 hx
    have hj : j < 8 := by simpa using hj
    simp only [List.getElem_replicate, w]
    have g : ∀ z : Int, (List.replicate 8 z)[j]? = some z := fun z => List.getElem?_eq_some_iff.2 ⟨by simpa using hj, List.getElem_replicate _⟩
    rcases he with rfl | rfl
    · refine ⟨1, 2, ⟨by show (_ : Rat) ≤ _; decide +kernel, by show ¬(_ : Rat) ≤ _; decide +kernel, fun h => absurd (by show (_ : Rat) < _; decide +kernel) h, fun _ => ⟨fun _ => ⟨fun _ => rfl, fun h => absurd (by show (_ : Rat) ≤ _; decide +kernel) h, fun _ _ => rfl⟩,
        (fun h => absurd h (by decide)), (fun h => absurd h (by decide)), (fun h => absurd h (by decide)), (fun h => absurd h (by decide))⟩⟩, g _⟩
    · refine ⟨0, 1, ⟨by show (_ : Rat) ≤ _; decide +kernel, by show ¬(_ : Rat) ≤ _; decide +kernel, fun h => absurd (by show (_ : Rat) < _; decide +kernel) h, fun _ => ⟨fun _ => ⟨fun _ => rfl, fun h => absurd (by show (_ : Rat) ≤ _; decide +kernel) h, fun _ h => absurd (by show (_ : Rat) < _; decide +kernel) h⟩,
        (fun h => absurd h (by decide)), (fun h => absurd h (by decide)), (fun h => absurd h (by decide)), (fun h => absurd h (by decide))⟩⟩, g _⟩
theorem wit_Reshapes : (∃ c : Ctx, c = { tc with shape := 4, w := 6, reshape := .split 6 7 0x2000 } ∧ c.realWeight ≤ c.load) ∧
    (∃ s : State, ∃ c : Ctx, s = tm { tc with grove := [0, 1], orig := some (4, 0, 1, 6), reshape := .fuse, load := 5 } { parts := [(0, gp)] } tmem { pool := 100 } ∧ c = s.sys.ctx 0 0 ∧ c.realWeight ≤ c.load ∧
      c.fuseNeed ≤ c.ballast + (s.sys.die 0).pool ∧ c.ballast < c.fuseNeed) := by
  refine ⟨⟨_, rfl, by decide +kernel⟩, ⟨_, _, rfl, rfl, by decide +kernel, by decide +kernel, by decide +kernel⟩⟩
/-- An ELF file of function 2 with `n` segments, the first of 4 bytes at address 8, readable and writable, from the 4 bytes at 120. -/
def elf (n : Nat) (m : Nat := 1) : List Byte :=
  leBytes 16 (0x464C457F + 2 ^ 32 * 2 + 2 ^ 40) ++ leBytes 16 (2 + 2 ^ 16 * 0xC7A2) ++ leBytes 16 64 ++ leBytes 16 (m + 2 ^ 48 * 56 + 2 ^ 64 * n) ++
  leBytes 16 (1 + 2 ^ 32 * 6 + 2 ^ 64 * 120) ++ leBytes 16 (8) ++ leBytes 16 (4 + 2 ^ 64 * 4) ++ leBytes 8 0 ++ leBytes 4 0xA1B2C3D4
/-- The firmware has LOADIMG for function `f`, of `n` bytes. -/
def mbl (f n : Nat) : State := { (tm tc { mbBusy := true, mbCmd := 5, mbData := wrBytes [] 0 (leBytes 24 (f + 2 ^ 128 * n)), parts := [(0, tpart)], fns := [(2, { fg with ranges := {} })] }) with plat := { power := true, phase := 5 } }
theorem wit_LoadImage : (∀ f, f = 600 % 512 ∨ f = 2 → ∃ s : State, s = mbl f 124 ∧ s.sys.hub.mbBusy = true ∧ 5 ≤ s.plat.phase ∧ s.plat.safe = false ∧ bitsOf s.sys.hub.mbCmd.toNat 0 16 = 5 ∧
      leNat (rdBytes s.sys.hub.mbData 0 2) % 512 = f ∧ leNat (rdBytes s.sys.hub.mbData 16 8) = 124 ∧ (s.sys.fn f).map = decide (f = 2)) ∧
    (2 : Nat) < Config.functions ∧ (elf 1).length = 124 ∧ elfGood (elf 1) = true ∧ loadsGood (elf 1) = true ∧ elfGood (elf 1 2) = false ∧ (elf 1 2).length = 124 ∧ (elf 0).length = 124 ∧ elfGood (elf 0) = true ∧
    loadsGood (elf 0) = true ∧ (elfLoads (elf 0)).length = 0 ∧ ([] : List Byte).length ≠ 124 ∧
    (∃ x : Load, elfLoads (elf 1) = [x] ∧ 0 < x.size ∧ x.addr / 2 ^ 16 = (x.addr + x.size - 1) / 2 ^ 16 ∧ x.bytes = [0xD4, 0xC3, 0xB2, 0xA1]) ∧ (elfLoads (elf 1)).length ≤ 8 ∧
    (freeRanges { fg with ranges := {} }).length = 8 ∧ (freeRanges { fg with ranges := { vmb := Vector.replicate 8 8 } }).length < 1 :=
  ⟨fun f h => ⟨_, rfl, rfl, Nat.le_refl 5, rfl, by show bitsOf (5 : Word).toNat 0 16 = 5; decide, by rcases h with rfl | rfl <;> decide +kernel, by rcases h with rfl | rfl <;> decide +kernel, by rcases h with rfl | rfl <;> decide +kernel⟩,
    by decide, by decide +kernel, by decide +kernel, by decide +kernel, by decide +kernel, by decide +kernel, by decide +kernel, by decide +kernel, by decide +kernel, by decide +kernel, by decide, ⟨_, rfl, by decide +kernel, by decide +kernel, by decide +kernel⟩, by decide +kernel, by decide +kernel, by decide +kernel⟩
/-- Grants of class 4 that the log of that checkpoint holds. -/
def ckGrant : Checkpoint := { ck with log := [.grant 0 0 4 (1, 6) []], inSvc := [0, 1] }
theorem wit_Replays : (∃ s : State, ∃ k, s = hd { gp with ckpts := [ckGrant], words := [(2, 0x0001_0000_0000_0000)] } ∧ (s.sys.part 0).ckpts.find? (fun k => k.num == 5) = some k ∧ grantsFit s.sys 0 k 5 = false) ∧
    ((hd { gp with ckpts := [ck] }).sys.dies.map (·.1)).Nodup ∧ (∀ e, (((hd { gp with ckpts := [ck] }).sys.die e).ctxs.map (·.1)).Nodup) ∧ (∀ x ∈ ck.ctxs, x.ctx.isFree = false) := by
  refine ⟨⟨_, ckGrant, rfl, rfl, by decide +kernel⟩, by decide, fun e => ?_, by decide +kernel⟩
  by_cases h : e = 0
  · subst h; decide
  · have k : (hd { gp with ckpts := [ck] }).sys.die e = {} := by simp [hd, tm, ts, Sys.die, mgetD, mget?, h]
    rw [k]; exact List.nodup_nil
/-- The context whose chain runs a group with the stream entry `i`, one repetition of which is left, `b` in in-port 0 and `o` in the out-port. -/
def sgc (i : Instr) (b o : List Beat := []) : Ctx :=
  { tc with chains := [{ phys := 0, bound := true, running := true, ports := ((Vector.replicate 11 []).setIfInBounds 0 b).setIfInBounds 10 o, outTo := o.map (fun _ => (.dflt, 0)) }]
            queues := [(1, { iss := 1, ents := [{ num := 1, cmd := i, reps := [(0, 0x1000)], started := true }] })] }
theorem wit_StreamBeats : (∀ n ∈ [0, 4], ∃ s : State, ∃ c : Ctx, ∃ h : Chain, ∃ e : Entry, s = ts tq (sgc (.xbFeed 0 1 2 5 0 plainFields) (List.replicate n zeroBeat)) ∧ c = s.sys.ctx 0 0 ∧ c.engines = true ∧ c.chains[0]? = some h ∧
      h.running = true ∧ (c.queue 1).ents = [e] ∧ (c.queue 1).unit = [e] ∧ e.started = true ∧ isStream e.cmd = true ∧ NextStream [e] e ∧ e.cmd = .xbFeed 0 1 2 5 0 plainFields ∧ e.reps[e.rep]? = some (0, 0x1000) ∧
      (h.port 0).length = n ∧ h.port 10 = []) ∧
    (∀ f ∈ [0, 3, 7], ∃ s : State, ∃ c w : Ctx, ∃ h : Chain, ∃ e : Entry, s = ts tq (sgc (.xbTake 0 1 2 f plainFields) [] [zeroBeat]) ∧ c = s.sys.ctx 0 0 ∧ c.engines = true ∧ c.chains[0]? = some h ∧ h.running = true ∧
      (c.queue 1).unit = [e] ∧ NextStream [e] e ∧ e.cmd = .xbTake 0 1 2 f plainFields ∧ e.reps[e.rep]? = some (0, 0x1000) ∧ w = s.sys.ctxFor 0 0 e ∧ w.blocks.Nodup ∧ 0 + 24 * streamBits f ≤ w.wsz ∧ 0x1000 + 6 ≤ w.wsz ∧
      h.port 10 = [zeroBeat] ∧ zeroBeat.length = 192 ∧ h.outTo ≠ [] ∧ ∀ z ∈ h.outTo, z.1 = .dflt) := by
  refine ⟨fun n hn => ⟨_, _, _, _, rfl, rfl, rfl, rfl, rfl, rfl, rfl, rfl, rfl, ⟨[], [], rfl, by decide, fun _ h => nomatch h⟩, rfl, rfl, List.length_replicate, rfl⟩,
    fun f hf => ⟨_, _, _, _, _, rfl, rfl, rfl, rfl, rfl, rfl, ⟨[], [], rfl, Nat.one_pos, fun _ h => nomatch h⟩, rfl, rfl, rfl, by show tc.blocks.Nodup; decide, ?_, by show 0x1000 + 6 ≤ tc.wsz; decide, rfl, List.length_replicate, List.cons_ne_nil _ _, ?_⟩⟩
  · revert f; show ∀ f : BitVec 3, _ → 0 + 24 * streamBits f ≤ tc.wsz; decide
  · intro z hz
    have : z ∈ [(Routing.dflt, 0)] := hz
    rw [List.mem_singleton.1 this]
/-- 24 R468, 20 R399, 17 R359: at power-good the machine is in phase 0, no die serves, a steward sequencer is stopped in steward mode, and PC1 has its Reset column. -/
theorem test_reset : State.reset.plat.power = true ∧ State.reset.plat.phase = 0 ∧ (State.reset.sys.die 3).inSvc = false ∧ (State.reset.sys.seq ⟨3, none⟩).steward = true ∧
    (State.reset.sys.part 4).pc1 = 0x0190_0000_0000_0001 := by decide
/-- Steward words placed by `withFetchWord` run as the next step: `addi g5, g0, 3`, then `nop`. -/
theorem test_place : (match step (State.reset.withFetchWord 32 (0x20 * 2 ^ 2 + 5 * 2 ^ 10 + 3 * 2 ^ 20)) with
    | .next t => t.now.rg 5
    | _ => 0) = 3 := rfl

end Sys2Proof.Tests
end

/-! SUPPORT. One step of the machine (00 R9): it always answers a next state, and what it does in the turn of each kind of unit. -/

namespace Sys2Proof.Machine

/-! ## Every turn answers a next state -/

/-- Each arm of the dispatcher ends in `.next`, whatever the state it computes. -/
theorem exec_next (i : Instr) (s : State) : ∃ t, exec i s = .next t := by
  cases i <;> exact ⟨_, rfl⟩

@[simp] theorem mapNext_next (f : State → State) (t : State) : mapNext f (.next t) = .next (f t) := rfl

theorem mapNext_of_next {f : State → State} {o : Host.Outcome State Fault Refusal} (h : ∃ t, o = .next t) :
    ∃ t, mapNext f o = .next t := by
  obtain ⟨t, rfl⟩ := h
  exact ⟨f t, rfl⟩

theorem seqTurn_next (r : SeqRef) (s : State) : ∃ t, seqTurn r s = .next t := by
  unfold seqTurn
  split
  · exact ⟨_, rfl⟩
  · exact ⟨_, rfl⟩
  · exact ⟨_, rfl⟩
  · exact ⟨_, rfl⟩
  · exact ⟨_, rfl⟩
  · exact ⟨_, rfl⟩
  · exact exec_next _ _

theorem stripTurn_next (r : StripRef) (s : State) : ∃ t, stripTurn r s = .next t := by
  unfold stripTurn
  split
  · exact ⟨_, rfl⟩
  · split
    · exact ⟨_, rfl⟩
    · split
      · exact ⟨_, rfl⟩
      · split
        · exact ⟨_, rfl⟩
        · exact exec_next _ _

theorem evTurn_next (i : Instr) (s : State) : ∃ t, evTurn i s = .next t := by
  unfold evTurn
  split
  · exact exec_next i s
  · exact ⟨s, rfl⟩

theorem step_next (s : State) : ∃ t, step s = .next t := by
  unfold step runTurn
  apply mapNext_of_next
  split
  · exact mapNext_of_next (seqTurn_next _ _)
  · exact stripTurn_next _ _
  · exact evTurn_next _ _

/-! ## The step, by the kind of turn -/

section
variable {s : State}

theorem step_of_seq {r : SeqRef} (h : s.turn = .seq r) :
    step s = mapNext (forced s.taken) (mapNext (countStep r s.taken) (seqTurn r s.taken)) := by
  simp only [step, runTurn, h]

theorem step_of_strip {r : StripRef} (h : s.turn = .strip r) : step s = mapNext (forced s.taken) (stripTurn r s.taken) := by
  simp only [step, runTurn, h]

theorem step_of_ev {i : Instr} (h : s.turn = .ev i) : step s = mapNext (forced s.taken) (evTurn i s.taken) := by
  simp only [step, runTurn, h]

end

/-! ## What a sequencer does next (20 R396) -/

section
variable {y y' : Sys} {r : SeqRef} {w n : Nat}

theorem nextTodo_idle (h : seqReady y r = false) : nextTodo y r = (y, .idle) := by simp [nextTodo, h]

theorem nextTodo_async (h : seqReady y r = true) (hp : takePending y r ≠ none) : nextTodo y r = (y, .async) := by
  simp [nextTodo, h, Option.isSome_iff_ne_none.2 hp]

theorem nextTodo_fetchFault {e : Trap} (h : seqReady y r = true) (hp : takePending y r = none)
    (hf : fetchInstr y r (y.seq r).pc = (y', .error e)) : nextTodo y r = (y', .fetchFault e) := by
  simp [nextTodo, h, hp, hf]

theorem nextTodo_annulled (h : seqReady y r = true) (hp : takePending y r = none)
    (hf : fetchInstr y r (y.seq r).pc = (y', .ok (w, n))) (ha : (y.seq r).an0 = true) : nextTodo y r = (y', .annulled n) := by
  simp [nextTodo, h, hp, hf, ha]

theorem nextTodo_illegal (h : seqReady y r = true) (hp : takePending y r = none)
    (hf : fetchInstr y r (y.seq r).pc = (y', .ok (w, n))) (ha : (y.seq r).an0 = false) (hd : decodeSeq w = .error .illegal) :
    nextTodo y r = (y', .illegal) := by
  simp [nextTodo, h, hp, hf, ha, hd]

theorem nextTodo_reserved (h : seqReady y r = true) (hp : takePending y r = none)
    (hf : fetchInstr y r (y.seq r).pc = (y', .ok (w, n))) (ha : (y.seq r).an0 = false) (hd : decodeSeq w = .error .reserved) :
    nextTodo y r = (y', .reserved) := by
  simp [nextTodo, h, hp, hf, ha, hd]

theorem nextTodo_run {i : Instr} (h : seqReady y r = true) (hp : takePending y r = none)
    (hf : fetchInstr y r (y.seq r).pc = (y', .ok (w, n))) (ha : (y.seq r).an0 = false) (hd : decodeSeq w = .ok i) :
    nextTodo y r = (y', .run (clmPick (y.seq r) i)) := by
  simp [nextTodo, h, hp, hf, ha, hd]

end

section
variable {s : State} {y : Sys} {r : SeqRef}

theorem seqTurn_idle (h : nextTodo s.sys r = (y, .idle)) : seqTurn r s = .next s := by simp only [seqTurn, h]
theorem seqTurn_async (h : nextTodo s.sys r = (y, .async)) : seqTurn r s = exec (.asyncTrapEntry r) s := by simp only [seqTurn, h, exec]
theorem seqTurn_fetchFault {e : Trap} (h : nextTodo s.sys r = (y, .fetchFault e)) : seqTurn r s = exec (.fetchFault r) s := by simp only [seqTurn, h, exec]
theorem seqTurn_illegal (h : nextTodo s.sys r = (y, .illegal)) : seqTurn r s = exec (.illegalOp r) s := by simp only [seqTurn, h, exec]
theorem seqTurn_annulled {n : Nat} (h : nextTodo s.sys r = (y, .annulled n)) : seqTurn r s = .next { s with sys := annulledStep r s.sys } := by
  simp only [seqTurn, h]
theorem seqTurn_run {i : Instr} (h : nextTodo s.sys r = (y, .run i)) : seqTurn r s = exec i { s with cur := r, sys := y } := by
  simp only [seqTurn, h, runAt]
theorem seqTurn_reserved (h : nextTodo s.sys r = (y, .reserved)) :
    seqTurn r s = .next { s with sys := takeTrap y r (y.seq r).pc { code := cReserved } } := by
  simp only [seqTurn, h, reservedStep]

/-- A strip with a word at its place runs it (10 R206). -/
theorem stripTurn_word {t : StripRef} {h : Chain} {w : BitVec 32} {i : Instr} (he : (s.sys.ctx t.die t.ctx).engines = true)
    (hc : s.sys.chain? t = some h) (hr : h.running = true) (hb : (h.strip t.k).busy = true)
    (hw : (h.strip t.k).prog.words[(h.strip t.k).ip]? = some w) (hd : decodeStrip w.toNat = .ok i) :
    stripTurn t s = exec i { s with curStrip := t } := by
  have hne : (h.strip t.k).prog.words ≠ [] := by
    intro hnil
    simp [hnil] at hw
  simp [stripTurn, stripReady, Strip.nextWord, he, hc, hr, hb, hw, hd, hne]

theorem evTurn_happens {i : Instr} (hi : isEvent i = true) (hp : s.plat.power = true ∨ i = .powerGood) : evTurn i s = exec i s := by
  rcases hp with hp | rfl
  · simp [evTurn, hi, hp]
  · simp [evTurn, hi]

theorem evTurn_unpowered {i : Instr} (hp : s.plat.power = false) (hi : i ≠ .powerGood) : evTurn i s = .next s := by
  simp [evTurn, hp, hi]

end

/-! ## The count of steps -/

theorem countStep_cases (r : SeqRef) (z t : State) : countStep r z t = t ∨
    ∃ k, r.idx = some k ∧ countStep r z t = { t with sys := t.sys.modCtx r.die k (fun c => { c with steps := c.steps + 1 }) } := by
  unfold countStep
  split
  case _ => exact .inl rfl
  case _ k hk =>
    dsimp only
    split
    · exact .inl rfl
    · exact .inr ⟨k, hk, rfl⟩

/-- A turn that changes nothing is no step. -/
theorem countStep_self (r : SeqRef) (z : State) : countStep r z z = z := by
  unfold countStep
  split <;> simp

@[simp] theorem countStep_hub (r : SeqRef) (z t : State) : (countStep r z t).sys.hub = t.sys.hub := by
  rcases countStep_cases r z t with h | ⟨k, -, h⟩ <;> simp [h]

@[simp] theorem countStep_seq (r q : SeqRef) (z t : State) : (countStep r z t).sys.seq q = t.sys.seq q := by
  rcases countStep_cases r z t with h | ⟨k, -, h⟩ <;> simp [h]

/-! ## Cells -/

theorem Sys.cell_of_dies {y z : Sys} (h : z.dies = y.dies) (x : Cell) : z.cell x = y.cell x := by
  simp [Sys.cell, Sys.die, h]

@[simp] theorem Sys.cell_setCtx (y : Sys) (d k : Nat) (c : Ctx) (x : Cell) : (y.setCtx d k c).cell x = y.cell x := by
  unfold Sys.cell Sys.setCtx
  rw [Sys.die_modDie]
  split <;> split <;> simp_all [Die.slice]

@[simp] theorem Sys.cell_modCtx (y : Sys) (d k : Nat) (f : Ctx → Ctx) (x : Cell) : (y.modCtx d k f).cell x = y.cell x :=
  y.cell_setCtx d k _ x

@[simp] theorem Sys.cell_modCtxOf (y : Sys) (r : SeqRef) (f : Ctx → Ctx) (x : Cell) : (y.modCtxOf r f).cell x = y.cell x := by
  obtain ⟨d, i⟩ := r
  cases i <;> simp [Sys.modCtxOf]

@[simp] theorem Sys.cell_setSeq (y : Sys) (r : SeqRef) (q : SeqSt) (x : Cell) : (y.setSeq r q).cell x = y.cell x := by
  simp [Sys.cell, Die.slice]

@[simp] theorem Sys.cell_setSem (y : Sys) (d ps : Nat) (f : Die → Sem) (x : Cell) :
    (y.modDie d (fun v => v.setSem ps (f v))).cell x = y.cell x := by
  unfold Sys.cell
  rw [Sys.die_modDie]
  split <;> split <;> simp_all [Die.slice, Die.setSem]

@[simp] theorem countStep_cell (r : SeqRef) (z t : State) (x : Cell) : (countStep r z t).sys.cell x = t.sys.cell x := by
  rcases countStep_cases r z t with h | ⟨k, -, h⟩ <;> simp [h]

/-! ## Replays (23 R452) -/

/-- No partition replays. -/
def Sys.NoReplay (y : Sys) : Prop := ∀ p ∈ y.hub.parts, p.2.replay = none

theorem forced_of_noReplay (z : State) {t : State} (h : t.sys.NoReplay) : forced z t = t := by
  have hany : t.sys.hub.parts.any (fun p => p.2.replay.isSome) = false := by
    simp only [List.any_eq_false]
    intro p hp
    simp [h p hp]
  simp [forced, hany]

theorem Sys.noReplay_of_parts {y z : Sys} (h : z.hub.parts = y.hub.parts) (hy : y.NoReplay) : z.NoReplay := by
  unfold Sys.NoReplay
  rwa [h]

theorem mem_of_mget? {α : Type} {m : Map α} {k : Nat} {v : α} (h : mget? m k = some v) : (k, v) ∈ m := by
  induction m with
  | nil => simp at h
  | cons c m ih =>
    rw [mget?_cons] at h
    split at h
    case isTrue hk =>
      obtain rfl := Option.some.inj h
      exact hk ▸ List.mem_cons_self
    case isFalse => exact List.mem_cons_of_mem _ (ih h)

theorem Sys.noReplay_part {y : Sys} (h : y.NoReplay) (p : Nat) : (y.part p).replay = none := by
  unfold Sys.part mgetD
  cases hg : mget? y.hub.parts p with
  | none => rfl
  | some o => exact h (p, o) (mem_of_mget? hg)

theorem Sys.noReplay_modPart {y : Sys} (p : Nat) {f : Part → Part} (hf : (f (y.part p)).replay = (y.part p).replay) (h : y.NoReplay) :
    (y.modPart p f).NoReplay := by
  intro x hx
  rcases mem_mset hx with rfl | hx
  · exact hf.trans (Sys.noReplay_part h p)
  · exact h x hx

/-! ## The debug log (23 R445) -/

@[simp] theorem objCheck_dies (y : Sys) (md pa : Nat) : (objCheck y md pa).dies = y.dies := rfl
@[simp] theorem objCheck_parts (y : Sys) (md pa : Nat) : (objCheck y md pa).hub.parts = y.hub.parts := rfl

/-- A write to device memory leaves the dies and the partitions. -/
theorem devWrite_kept (y : Sys) (md pa : Nat) (bs : List (Byte × Bool)) :
    (devWrite y md pa bs).dies = y.dies ∧ (devWrite y md pa bs).hub.parts = y.hub.parts := by
  unfold devWrite
  dsimp only
  split
  · exact ⟨rfl, rfl⟩
  · refine List.foldlRecOn (motive := fun z : Sys => z.dies = y.dies ∧ z.hub.parts = y.hub.parts) _ _ ⟨rfl, rfl⟩ ?_
    intro z hz i _
    exact ⟨hz.1, hz.2⟩

theorem note_noReplay {y : Sys} (part : Nat) (c : Choice) (h : y.NoReplay) : (note y part c).NoReplay :=
  Sys.noReplay_modPart part (by split <;> rfl) h

theorem noteLines_kept (y : Sys) (part ia n : Nat) :
    (noteLines y part ia n).dies = y.dies ∧ (y.NoReplay → (noteLines y part ia n).NoReplay) := by
  unfold noteLines
  split
  · exact ⟨rfl, id⟩
  · refine List.foldlRecOn (motive := fun z : Sys => z.dies = y.dies ∧ (y.NoReplay → z.NoReplay)) _ _ ⟨rfl, id⟩ ?_
    intro z hz i _
    exact ⟨hz.1, fun h => note_noReplay part _ (hz.2 h)⟩

theorem intWrite_kept {y z : Sys} {part ia : Nat} {bs : List (Byte × Bool)} (h : intWrite y part ia bs = some z) :
    z.dies = y.dies ∧ (y.NoReplay → z.NoReplay) := by
  unfold intWrite at h
  split at h
  case h_1 => exact absurd h (by simp)
  case h_2 l _ =>
    obtain rfl := Option.some.inj h
    obtain ⟨hd, hp⟩ := devWrite_kept y l.fdie l.pa bs
    obtain ⟨hd', hr⟩ := noteLines_kept (devWrite y l.fdie l.pa bs) part ia bs.length
    exact ⟨hd'.trans hd, fun h => hr (Sys.noReplay_of_parts hp h)⟩

/-- A record of the debug log leaves the dies, and starts no replay. -/
theorem writeRecord_kept (y : Sys) (part kind que ctag ent : Nat) (d1 d2 : Word) (ts : Nat) :
    (writeRecord y part kind que ctag ent d1 d2 ts).dies = y.dies ∧
      (y.NoReplay → (writeRecord y part kind que ctag ent d1 d2 ts).NoReplay) := by
  unfold writeRecord
  dsimp only
  split
  · exact ⟨rfl, id⟩
  · split
    case h_1 z hz =>
      obtain ⟨hd, hr⟩ := intWrite_kept hz
      exact ⟨hd, fun h => Sys.noReplay_modPart part rfl (hr h)⟩
    case h_2 => exact ⟨rfl, Sys.noReplay_modPart part rfl⟩

/-! ## Trap entry (20 R393) -/

@[simp] theorem Sys.stwVec_setSem (y : Sys) (d ps e : Nat) (f : Die → Sem) :
    ((y.modDie d (fun v => v.setSem ps (f v))).die e).stwVec = (y.die e).stwVec := by
  rw [Sys.die_modDie]
  split <;> simp_all [Die.setSem]

@[simp] theorem Sys.seq_setSem (y : Sys) (d ps : Nat) (f : Die → Sem) (r : SeqRef) :
    (y.modDie d (fun v => v.setSem ps (f v))).seq r = y.seq r := by
  unfold Sys.seq
  rw [Sys.die_modDie]
  split <;> split <;> simp_all [Die.setSem]

/-- A trap that ends the wait of a `sem.wait` leaves the sequencers, the cells and the hub. -/
theorem leaveSemWait_kept (y : Sys) (r : SeqRef) : (∀ q, (leaveSemWait y r).seq q = y.seq q) ∧
    (∀ x, (leaveSemWait y r).cell x = y.cell x) ∧ (∀ d, ((leaveSemWait y r).die d).stwVec = (y.die d).stwVec) ∧
    (leaveSemWait y r).hub = y.hub := by
  unfold leaveSemWait
  split
  · refine ⟨fun q => ?_, fun x => ?_, fun d => ?_, ?_⟩ <;> simp
  · exact ⟨fun _ => rfl, fun _ => rfl, fun _ => rfl, rfl⟩

theorem annWord_toNat (q : SeqSt) : (annWord q).toNat =
    q.an0.toNat + 2 * q.an1.toNat + 4 * q.steward.toNat + 8 * q.npc.isNone.toNat + 16 * q.nnpc.isNone.toNat := by
  have h0 := q.an0.toNat_le
  have h1 := q.an1.toNat_le
  have h2 := q.steward.toNat_le
  have h3 := q.npc.isNone.toNat_le
  have h4 := q.nnpc.isNone.toNat_le
  rw [annWord, BitVec.toNat_ofNat]
  omega

theorem SeqSt.enterTrap_saved (q : SeqSt) (vec cause addr0 addr1 : Word) :
    TrapSaved q (q.enterTrap vec cause addr0 addr1) vec cause addr0 addr1 where
  cause := rfl
  addr0 := rfl
  addr1 := rfl
  pc0 := rfl
  pc1 := rfl
  pc2 := rfl
  ann := annWord_toNat q
  nstat := rfl
  ntop := rfl
  steward := rfl
  ae := rfl
  nest := rfl
  pc := rfl
  npc := rfl
  nnpc := rfl
  annul := ⟨rfl, rfl⟩
  g := rfl
  tags := rfl
  walks := rfl
  scr := rfl

/-- `enterTrap` before its record of the debug log. -/
def trapEntered (y : Sys) (r : SeqRef) (cause addr0 addr1 : Word) : Sys :=
  ((leaveSemWait y r).setSeq r ((y.seq r).enterTrap (y.die r.die).stwVec cause addr0 addr1)).modCtxOf r (fun c => syncPhase true { c with reshape := .none })

theorem enterTrap_kept (y : Sys) (r : SeqRef) (cause addr0 addr1 : Word) :
    (enterTrap y r cause addr0 addr1).dies = (trapEntered y r cause addr0 addr1).dies ∧
      (y.NoReplay → (enterTrap y r cause addr0 addr1).NoReplay) := by
  obtain ⟨hseq, -, hvec, hhub⟩ := leaveSemWait_kept y r
  have hparts : (trapEntered y r cause addr0 addr1).hub.parts = y.hub.parts := by simp [trapEntered, hhub]
  unfold enterTrap
  simp only [hseq, hvec]
  rw [← trapEntered]
  split
  · obtain ⟨hd, hr⟩ := writeRecord_kept (trapEntered y r cause addr0 addr1) ((leaveSemWait y r).ctxOf r).part 7 15
      ((leaveSemWait y r).ctxOf r).ctag 0 cause (y.seq r).pc ((trapEntered y r cause addr0 addr1).die r.die).cycles
    exact ⟨hd, fun h => hr (Sys.noReplay_of_parts hparts h)⟩
  · exact ⟨rfl, Sys.noReplay_of_parts hparts⟩

theorem Sys.seq_of_dies {y z : Sys} (h : z.dies = y.dies) (r : SeqRef) : z.seq r = y.seq r := by
  simp [Sys.seq, Sys.die, h]

/-- The sequencer that enters a trap has its control state saved. -/
theorem enterTrap_saved (y : Sys) (r : SeqRef) (cause addr0 addr1 : Word) :
    TrapSaved (y.seq r) ((enterTrap y r cause addr0 addr1).seq r) (y.die r.die).stwVec cause addr0 addr1 := by
  have hseq : (enterTrap y r cause addr0 addr1).seq r = (y.seq r).enterTrap (y.die r.die).stwVec cause addr0 addr1 := by
    rw [Sys.seq_of_dies (enterTrap_kept y r cause addr0 addr1).1]
    simp [trapEntered]
  rw [hseq]
  exact SeqSt.enterTrap_saved _ _ _ _ _

theorem enterTrap_cell (y : Sys) (r : SeqRef) (cause addr0 addr1 : Word) (x : Cell) :
    (enterTrap y r cause addr0 addr1).cell x = y.cell x := by
  rw [Sys.cell_of_dies (enterTrap_kept y r cause addr0 addr1).1]
  simp [trapEntered, (leaveSemWait_kept y r).2.1]

/-- A sequencer in task mode, or one that allows asynchronous entry, takes its own cause by entering its trap (20 R395). -/
theorem takeTrap_enters {y : Sys} {r : SeqRef} (h : (y.seq r).steward = false ∨ (y.seq r).ae = true) (pc0 : Word) (t : Trap) :
    takeTrap y r pc0 t = enterTrap y r (causeWord t.code false false 0 0) (t.addr0.getD pc0) t.addr1 := by
  unfold takeTrap
  rcases h with h | h <;> simp [h]

/-! ## Fetch (03 R73 to R76) -/

/-- What a fetch may touch: the instruction cache, the leases of the fetch path and their holds, and the count of free values; never the hub
or a byte of a memory. -/
structure FetchKept (y z : Sys) : Prop where
  hub : z.hub = y.hub
  bytes : BytesKept y z

namespace FetchKept
variable {x y z : Sys}

theorem refl (y : Sys) : FetchKept y y := ⟨rfl, fun _ _ => rfl, fun _ => rfl⟩

theorem trans (h : FetchKept x y) (k : FetchKept y z) : FetchKept x z :=
  ⟨k.hub.trans h.hub, fun md pa => (k.bytes.dev md pa).trans (h.bytes.dev md pa), fun c => (k.bytes.cell c).trans (h.bytes.cell c)⟩

theorem noReplay (h : FetchKept y z) (hy : y.NoReplay) : z.NoReplay := Sys.noReplay_of_parts (by rw [h.hub]) hy

end FetchKept

theorem fetchKept_setCtx (y : Sys) (d k : Nat) (c : Ctx) : FetchKept y (y.setCtx d k c) :=
  ⟨rfl, fun _ _ => rfl, y.cell_setCtx d k c⟩

theorem fetchKept_modSeq (y : Sys) (r : SeqRef) (f : SeqSt → SeqSt) : FetchKept y (y.modSeq r f) :=
  ⟨y.hub_modSeq r f, devByte_congr (y.mems_modSeq r f), y.cell_setSeq r _⟩

theorem fetchKept_used (y : Sys) (n : Nat) : FetchKept y { y with used := n } := ⟨rfl, fun _ _ => rfl, fun _ => rfl⟩

theorem fetchKept_noteHold (y : Sys) (home part off cls : Nat) : FetchKept y (y.modMem home (fun m => noteHold m part off cls)) := by
  refine ⟨rfl, fun md pa => ?_, fun _ => rfl⟩
  rw [devByte, Sys.memDie_modMem]
  split
  case isTrue h => rw [h]; rfl
  case isFalse => rfl

theorem fetchGrant_kept (y : Sys) (d lead home vdie : Nat) (l : Option Leaf) : FetchKept y (fetchGrant y d lead home vdie l) := by
  unfold fetchGrant
  dsimp only
  split
  · exact .refl y
  · exact (fetchKept_noteHold y _ _ _ _).trans (fetchKept_setCtx _ d lead _)

theorem fetchHome_kept (y : Sys) (d lead home vdie off : Nat) : FetchKept y (fetchHome y d lead home vdie off).1 := by
  unfold fetchHome
  dsimp only
  split
  · exact fetchKept_setCtx y d lead _
  · dsimp only
    split
    · exact (fetchKept_setCtx y d lead _).trans (fetchGrant_kept _ d lead home vdie _)
    · exact fetchKept_setCtx y d lead _

theorem fetchDirect_kept (y : Sys) (d lead home vdie off : Nat) (t : Route) : FetchKept y (fetchDirect y d lead home vdie off t).1 := by
  unfold fetchDirect
  dsimp only
  split
  · split <;> exact fetchKept_setCtx y d lead _
  · exact fetchKept_setCtx y d lead _

theorem fetchXlate_kept (y : Sys) (d lead ia : Nat) : FetchKept y (fetchXlate y d lead ia).1 := by
  unfold fetchXlate
  dsimp only
  split
  · exact .refl y
  · split
    · exact fetchHome_kept y d lead _ _ _
    · split
      · exact ((fetchDirect_kept y d lead _ _ _ _).trans (fetchKept_setCtx _ d lead _)).trans (fetchGrant_kept _ d lead _ _ _)
      · exact fetchDirect_kept y d lead _ _ _ _

theorem fillLine_kept (y : Sys) (r : SeqRef) (la : Nat) : FetchKept y (fillLine y r la).1 := by
  unfold fillLine
  dsimp only
  split
  · exact .refl y
  · rename_i ia _
    have hx := fetchXlate_kept y r.die (r.idx.getD 0) ia
    split
    case h_1 hz => rwa [hz] at hx
    case h_2 hz =>
      rw [hz] at hx
      dsimp only
      split
      · exact hx
      · exact hx.trans ((fetchKept_used _ _).trans (fetchKept_modSeq _ r _))

theorem codeLine_kept (y : Sys) (r : SeqRef) (la : Nat) : FetchKept y (codeLine y r la).1 := by
  unfold codeLine taskLine
  dsimp only
  split
  · exact .refl y
  · split
    · split
      · exact fetchKept_used y _
      · exact (fetchKept_used y _).trans (fillLine_kept _ r la)
    · exact fillLine_kept y r la

theorem codeBytes_kept (r : SeqRef) (fuel : Nat) (y : Sys) (a n : Nat) : FetchKept y (codeBytes r fuel y a n).1 := by
  induction fuel generalizing y a n with
  | zero => exact .refl y
  | succ fuel ih =>
    unfold codeBytes
    dsimp only
    split
    · exact .refl y
    · exact (codeLine_kept y r _).trans (ih _ _ _)

theorem fetchInstr_kept (y : Sys) (r : SeqRef) (a : Word) : FetchKept y (fetchInstr y r a).1 := by
  have hfirst := codeBytes_kept r 1 y a.toNat lineSize
  unfold fetchInstr
  dsimp only
  split
  · exact .refl y
  · split
    · exact .refl y
    · split
      · exact hfirst
      · split
        · split
          · exact hfirst.trans (codeBytes_kept r 1 _ _ _)
          · exact hfirst
        · split
          · exact hfirst.trans (codeBytes_kept r 1 _ _ _)
          · exact hfirst

/-! ## The obligation -/

/-- 00 R2, 03 R65: a word with a reserved bit set raises RESERVED_FIELD at a sequencer that may take a synchronous trap. -/
theorem step_reserved {s : State} {r : SeqRef} {y : Sys} (ht : s.turn = .seq r) (htodo : nextTodo s.sys r = (y, .reserved)) (hy : FetchKept s.sys y)
    (htrap : (y.seq r).steward = false ∨ (y.seq r).ae = true) (hn : s.sys.NoReplay) :
    ∃ t, step s = .next t ∧ TrapSaved (y.seq r) (t.sys.seq r) (y.die r.die).stwVec 0x02 (y.seq r).pc 0 ∧ CellsKept s t := by
  have hturn : seqTurn r s.taken = .next { s.taken with sys := enterTrap y r 0x02 (y.seq r).pc 0 } := by
    rw [seqTurn_reserved (s := s.taken) htodo, takeTrap_enters htrap]
    rfl
  refine ⟨countStep r s.taken { s.taken with sys := enterTrap y r 0x02 (y.seq r).pc 0 }, ?_, ?_, fun x => ?_⟩
  · rw [step_of_seq ht, hturn, mapNext_next, mapNext_next, forced_of_noReplay]
    exact Sys.noReplay_of_parts (by rw [countStep_hub]) ((enterTrap_kept y r _ _ _).2 (hy.noReplay hn))
  · rw [countStep_seq]
    exact enterTrap_saved y r _ _ _
  · rw [countStep_cell]
    exact (enterTrap_cell y r _ _ _ x).trans (hy.bytes.cell x)

/-- Settles O58: a turn is what its unit does next, the order of causes deciding for a sequencer; a RESERVED_FIELD trap starts no replay, so its step stands. -/
theorem stepRuns : Obligations.StepRuns := by
  unfold Obligations.StepRuns
  intro s z hz
  obtain rfl : z = s.taken := hz
  refine ⟨step_next s, ?_, ?_, ?_, ?_, ?_, ?_, fun t => forced_of_noReplay _, fun r t => countStep_cases r _ t⟩
  · intro r y w n i ht hr hp hf
    refine ⟨fun hd ha => ?_, fun ha => ?_, fun hd ha => ?_, fun hd ha htrap hn => ?_⟩
    · rw [step_of_seq ht, seqTurn_run (s := s.taken) (nextTodo_run hr hp hf ha hd)]
      rfl
    · rw [step_of_seq ht, seqTurn_annulled (s := s.taken) (nextTodo_annulled hr hp hf ha)]
      rfl
    · rw [step_of_seq ht, seqTurn_illegal (s := s.taken) (nextTodo_illegal hr hp hf ha hd)]
    · have hy : FetchKept s.sys y := by simpa only [hf] using fetchInstr_kept s.sys r (s.sys.seq r).pc
      exact step_reserved ht (nextTodo_reserved hr hp hf ha hd) hy htrap hn
  · intro r y e ht hr hp hf
    rw [step_of_seq ht, seqTurn_fetchFault (s := s.taken) (nextTodo_fetchFault hr hp hf)]
  · intro r ht hr hp
    rw [step_of_seq ht, seqTurn_async (s := s.taken) (nextTodo_async hr hp)]
  · intro r ht hr hn
    rw [step_of_seq ht, seqTurn_idle (s := s.taken) (nextTodo_idle hr), mapNext_next, mapNext_next, countStep_self, forced_of_noReplay s.taken (t := s.taken) hn]
  · intro r h w i ht he hc hr hb hw hd
    rw [step_of_strip ht, stripTurn_word (s := s.taken) he hc hr hb hw hd]
  · intro i ht hi
    refine ⟨fun hp => ?_, fun hp hg hn => ?_⟩
    · rw [step_of_ev ht, evTurn_happens (s := s.taken) hi hp]
    · rw [step_of_ev ht, evTurn_unpowered (s := s.taken) hp hg, mapNext_next, forced_of_noReplay s.taken (t := s.taken) hn]

end Sys2Proof.Machine

/-! SUPPORT. The boot phases (24 R468 to R472): how a phase without an accepted bundle ends, and what the safe state does beyond the hub. -/

namespace Sys2Proof.Machine

/-! ## The end of a boot phase -/

theorem ends_iff_of_exec {i : Instr} {s t : State} {P : State → Prop} (h : exec i s = .next t) : Ends i s P ↔ P t := by
  constructor
  · rintro ⟨u, hu, hP⟩
    obtain rfl : t = u := Host.Outcome.next.inj (h.symm.trans hu)
    exact hP
  · exact fun hP => ⟨t, h, hP⟩

theorem exec_bootPhaseComplete (x : BootInput) (s : State) :
    exec (.bootPhaseComplete x) s = .next { s with plat := (phaseEnds x s.plat s.sys).1, sys := (phaseEnds x s.plat s.sys).2 } := rfl

/-! ## The counterexample -/

/-- A bundle of which neither signature verifies. -/
def unsignedBundle : Bundle :=
  { ecdsa := false, lms := false, secver := 0, stwMain := none, image := [], monitorSha := 0, schedulerSha := 0, stewardSha := 0 }

/-- A boot that finds no bundle to accept. -/
def noBundleBoot : BootInput := { primary := unsignedBundle, secondary := unsignedBundle, badChecks := [], failed := [], hubOk := true }

/-- Partition 0 is enabled while phase 1 is in progress, and context 0 of die 0 runs in it. -/
def enabledInPhase1 : State :=
  { plat := { power := true, phase := 1 }, sys := { dies := [(0, { ctxs := [(0, { st := .run, part := 0 })] })], hub := { parts := [(0, { en := true })] } } }

/-- 24 R469: neither bundle is accepted, so phase 1 ends in the safe state. -/
theorem phaseEnds_noBundle : phaseEnds noBundleBoot enabledInPhase1.plat enabledInPhase1.sys = goSafe enabledInPhase1.plat enabledInPhase1.sys := rfl

/-- 21 R433: the safe state disables partition 0 by its reset, which posts QREQ to the context. -/
theorem goSafe_posts_qreq : ((goSafe enabledInPhase1.plat enabledInPhase1.sys).2.ctx 0 0).qreq = some 0 := rfl

/-- Refutes O47: that nothing but the hub differs when phase 1 ends in the safe state fails where a partition is enabled, since its reset posts QREQ to
its contexts, which are the dies'. No hypothesis of the statement excludes an enabled partition in phase 1. -/
theorem not_powerAndBoot : ¬ Obligations.PowerAndBoot := by
  intro h
  obtain ⟨-, hpowered, -⟩ := h enabledInPhase1 _ rfl
  obtain ⟨-, -, -, -, -, hboot, -⟩ := hpowered rfl
  obtain ⟨-, hphase1, -⟩ := hboot rfl noBundleBoot
  obtain ⟨-, honly⟩ := (ends_iff_of_exec (exec_bootPhaseComplete _ _)).1 ((hphase1 rfl).1 rfl)
  rw [phaseEnds_noBundle] at honly
  have hsame : (goSafe enabledInPhase1.plat enabledInPhase1.sys).2.ctx 0 0 = enabledInPhase1.sys.ctx 0 0 :=
    congrArg (fun t : State => t.sys.ctx 0 0) honly
  have hqreq : none = some 0 := (congrArg Ctx.qreq hsame).symm.trans goSafe_posts_qreq
  exact Option.some_ne_none 0 hqreq.symm

end Sys2Proof.Machine

/-! SUPPORT. The state at power-good (24 R468): every map of the machine is empty, so each unit reads as its default. -/

namespace Sys2Proof.Machine

/-! ## Each unit at reset is its default -/

@[simp] theorem reset_die (d : Nat) : State.reset.sys.die d = {} := rfl
@[simp] theorem reset_memDie (m : Nat) : State.reset.sys.memDie m = {} := rfl
@[simp] theorem reset_ctx (d l : Nat) : State.reset.sys.ctx d l = {} := rfl
@[simp] theorem reset_part (p : Nat) : State.reset.sys.part p = {} := rfl

/-- A task sequencer holds the default registers, a steward sequencer the same in steward mode, stopped (20 R399, 24 R472). -/
theorem reset_seq (r : SeqRef) : State.reset.sys.seq r = { steward := r.idx.isNone, stopped := r.idx.isNone } := by
  obtain ⟨d, i⟩ := r
  cases i <;> rfl

theorem reset_cell (c : Cell) : State.reset.sys.cell c = (0, false) := by
  obtain ⟨d, i, off⟩ := c
  cases i <;> rfl

theorem reset_devByte (m a : Nat) : devByte State.reset.sys m a = (0, false) := rfl

/-! ## What follows of the machine -/

/-- No sequencer is ready: a steward's die is out of service, and a task sequencer's context is free. -/
theorem reset_seqReady (r : SeqRef) : seqReady State.reset.sys r = false := by
  obtain ⟨d, i⟩ := r
  cases i <;> rfl

theorem reset_platformInv : PlatformInv State.reset where
  phase := Nat.zero_le 6
  ready := by decide
  safe := by decide
  bundle := by decide
  off := by decide
  flush := Nat.zero_le flushLimit
  bins := fun _ hx => absurd hx List.not_mem_nil

/-- Settles O60: each field is read off the default of its unit. -/
theorem resetState : Obligations.ResetState := by
  unfold Obligations.ResetState
  refine ⟨reset_platformInv, rfl, rfl, rfl, fun d => ?_, fun m => ?_, fun d l => ?_, fun r => ?_, fun p => ?_, rfl, rfl, reset_seqReady,
    reset_cell, reset_devByte⟩
  · simp only [reset_die, and_self]
  · simp only [reset_memDie]
  · rw [reset_ctx]; rfl
  · simp only [reset_seq, and_self]
  · simp only [reset_part, true_and]
    exact ⟨fun _ => rfl, trivial⟩

end Sys2Proof.Machine

/-! SUPPORT. What the ends of an instruction leave: a cause taken before or after its step, a plain pass, a stall (05 R134, 20 R393). -/

namespace Sys2Proof.Machine

/-! ## Progress (14 R332) -/

@[simp] theorem progress_cell (y : Sys) (r : SeqRef) (x : Cell) : (progress y r).cell x = y.cell x := y.cell_modCtxOf r _ x
@[simp] theorem progress_stwVec (y : Sys) (r : SeqRef) (d : Nat) : ((progress y r).die d).stwVec = (y.die d).stwVec := y.die_modCtxOf_stwVec r _ d
@[simp] theorem progress_hub (y : Sys) (r : SeqRef) : (progress y r).hub = y.hub := y.hub_modCtxOf r _
@[simp] theorem progress_mems (y : Sys) (r : SeqRef) : (progress y r).mems = y.mems := y.mems_modCtxOf r _

@[simp] theorem Sys.cell_modSeq (y : Sys) (r : SeqRef) (f : SeqSt → SeqSt) (x : Cell) : (y.modSeq r f).cell x = y.cell x := y.cell_setSeq r _ x

/-! ## Traps -/

@[simp] theorem causeWord_sync (code : Nat) : causeWord code false false 0 0 = BitVec.ofNat 64 code := by simp [causeWord]

theorem enterTrap_seq (y : Sys) (r : SeqRef) (cause addr0 addr1 : Word) :
    (enterTrap y r cause addr0 addr1).seq r = (y.seq r).enterTrap (y.die r.die).stwVec cause addr0 addr1 := by
  rw [Sys.seq_of_dies (enterTrap_kept y r cause addr0 addr1).1]
  simp [trapEntered]

/-- A sequencer that may take a synchronous cause saves its control state and enters the handler. -/
theorem takeTrap_saved {y : Sys} {r : SeqRef} (h : (y.seq r).steward = false ∨ (y.seq r).ae = true) (pc0 : Word) (code : Nat) (a : Word) :
    TrapSaved (y.seq r) ((takeTrap y r pc0 { code := code, addr1 := a }).seq r) (y.die r.die).stwVec (BitVec.ofNat 64 code) pc0 a ∧
      ((takeTrap y r pc0 { code := code, addr1 := a }).seq r).prq = (y.seq r).prq ∧ ∀ x, (takeTrap y r pc0 { code := code, addr1 := a }).cell x = y.cell x := by
  rw [takeTrap_enters h, causeWord_sync]
  exact ⟨enterTrap_saved y r _ _ _, by rw [enterTrap_seq]; rfl, enterTrap_cell y r _ _ _⟩

/-- A cause with the state before the step (05 R134). -/
theorem trapped_of {s : State} (h : s.traps) (len code : Nat) (a : Word) :
    Trapped s code a { s with sys := commit s.cur s.sys len (.trap { code := code, addr1 := a }) } := by
  obtain ⟨hsaved, -, hcell⟩ := takeTrap_saved h s.now.pc code a
  exact ⟨hsaved, hcell⟩

/-- A cause with the state after the step of an instruction of `len` bytes that left `z`, which differs in the sequencer's registers only. -/
theorem trapAfter_saved {s : State} {q : SeqSt} (h : q.steward = false ∨ q.ae = true) (len code : Nat) (a : Word) (t : State)
    (ht : t = { s with sys := commit s.cur s.sys len (.trapAfter (s.sys.setSeq s.cur q) { code := code, addr1 := a }) }) :
    CellsKept s t ∧ t.now.prq = (q.advance len none).prq ∧ TrapSaved (q.advance len none) t.now (s.sys.die s.cur.die).stwVec (BitVec.ofNat 64 code) s.now.pc a := by
  subst ht
  have hkept := q.advance_kept len none
  have hseq : (progress ((s.sys.setSeq s.cur q).modSeq s.cur (fun q => q.advance len none)) s.cur).seq s.cur = q.advance len none := by
    rw [progress_seq, Sys.seq_modSeq_self, Sys.seq_setSeq_self]
  obtain ⟨hsaved, hprq, hcell⟩ := takeTrap_saved (y := progress ((s.sys.setSeq s.cur q).modSeq s.cur (fun q => q.advance len none)) s.cur) (r := s.cur)
    (by rwa [hseq, hkept.steward, hkept.ae]) s.now.pc code a
  rw [hseq, progress_stwVec, Sys.die_modSeq_stwVec, Sys.die_setSeq_stwVec] at hsaved
  rw [hseq] at hprq
  refine ⟨fun x => (hcell x).trans ?_, hprq, hsaved⟩
  rw [progress_cell, Sys.cell_modSeq, Sys.cell_setSeq]

theorem Sys.setSeq_self_commit (y : Sys) (r : SeqRef) (len : Nat) (t : Trap) :
    commit r y len (.trapAfter (y.setSeq r (y.seq r)) t) = commit r y len (.trapAfter y t) := by
  simp [commit, Sys.modSeq]


/-! ## The system instructions (20 R407) -/

section
variable {s : State}

/-- `trap` and `brk` save the state after their step (05 R134). -/
theorem trapAfter_same (h : s.traps) (len code : Nat) (a : Word) (t : State)
    (ht : t = { s with sys := commit s.cur s.sys len (.trapAfter s.sys { code := code, addr1 := a }) }) :
    CellsKept s t ∧ TrapSaved (s.now.advance len none) t.now (s.sys.die s.cur.die).stwVec (BitVec.ofNat 64 code) s.now.pc a := by
  obtain ⟨hcells, -, hsaved⟩ := trapAfter_saved h len code a t (by rw [ht, ← Sys.setSeq_self_commit]; rfl)
  exact ⟨hcells, hsaved⟩

/-- What PRQ holds plays no part in the advance. -/
theorem SeqSt.advance_prq (q : SeqSt) (len : Nat) (b : Bool) :
    SeqSt.advance { q with prq := b } len none = { q.advance len none with prq := b } := by
  cases h1 : q.loopsBack len
  · cases h2 : q.leavesNest len
    · simp only [SeqSt.advance, SeqSt.succ_plain q len h1 h2, SeqSt.succ_plain { q with prq := b } len h1 h2]
    · simp only [SeqSt.advance, SeqSt.succ_leaves q len h2, SeqSt.succ_leaves { q with prq := b } len h2]
  · simp only [SeqSt.advance, SeqSt.succ_loops q len h1, SeqSt.succ_loops { q with prq := b } len h1, SeqSt.wg]
    split <;> rfl

/-- A pending request that `yield` clears is no part of what its trap saves, and the trap does not bring it back. -/
theorem yield_preempts (hm : s.now.steward = false) (hp : s.now.prq = true) :
    Ends .yield s (fun t => CellsKept s t ∧ t.now.prq = false ∧
      TrapSaved (s.now.advance 4 none) t.now (s.sys.die s.cur.die).stwVec 0x15 s.now.pc 0) := by
  have hm' : (s.sys.seq s.cur).steward = false := hm
  have hp' : (s.sys.seq s.cur).prq = true := hp
  have hstep : yieldStep s.cur s.sys = .trapAfter (s.sys.setSeq s.cur { s.now with prq := false }) { code := cPreempt } := by
    simp [yieldStep, hm', hp', Sys.modSeq, State.now]
  refine ⟨_, rfl, ?_⟩
  rw [hstep]
  obtain ⟨hcells, hprq, hsaved⟩ := trapAfter_saved (s := s) (q := { s.now with prq := false }) (.inl hm) 4 cPreempt 0 _ rfl
  rw [SeqSt.advance_prq] at hsaved hprq
  exact ⟨hcells, hprq, { hsaved with }⟩

theorem yield_passes (h : s.now.steward = true ∨ s.now.prq = false) : Ends .yield s (Passed s 4) := by
  have h' : (!(s.sys.seq s.cur).steward && (s.sys.seq s.cur).prq) = false := by
    rcases h with h | h
    · simp [show (s.sys.seq s.cur).steward = true from h]
    · simp [show (s.sys.seq s.cur).prq = false from h]
  have hstep : yieldStep s.cur s.sys = .ok s.sys none := by simp [yieldStep, h']
  refine ⟨_, rfl, ?_⟩
  rw [hstep]
  exact passed_of s 4 none

/-- `tend` leaves a context that no sequencer steps any more (02 R53). -/
theorem tend_ends {k : Nat} (hk : s.cur.idx = some k) (hm : s.now.steward = false) :
    Ends .tend s (fun t => t.ctxNow = { s.ctxNow with st := .ending, tended := true, wdCycles := 0 } ∧ t.now = s.now ∧ CellsKept s t ∧
      seqReady t.sys s.cur = false) := by
  have hm' : (s.sys.seq s.cur).steward = false := hm
  have hstep : tendStep s.cur s.sys = .stop (progress (s.sys.modCtxOf s.cur (fun c => { c with st := .ending, tended := true })) s.cur) := by
    simp [tendStep, hm']
  have hctx : (progress (s.sys.modCtxOf s.cur (fun c => { c with st := .ending, tended := true })) s.cur).ctx s.cur.die k =
      { s.sys.ctx s.cur.die k with st := .ending, tended := true, wdCycles := 0 } := by
    simp [progress, Sys.modCtxOf, hk]
  refine ⟨_, rfl, ?_⟩
  rw [hstep]
  refine ⟨?_, ?_, fun x => ?_, ?_⟩
  · simpa [State.ctxNow, Sys.ctxOf, hk, commit] using hctx
  · simp [State.now, commit, progress_seq]
  · simp [commit]
  · simp [seqReady, hk, commit, hctx]

end

/-! ## `tret` (05 R135, 20 R394) -/

theorem bitOf_toNat (v : Word) (n : Nat) : bitOf v.toNat n = v.getLsbD n := by
  rw [bitOf, BitVec.getLsbD, Nat.testBit_eq_decide_div_mod_eq]
  rfl

/-- A restored control state with no active nest refills nothing. -/
theorem refill_plain {y : Sys} {r : SeqRef} (h : nestAct (y.seq r).nestStat = false) : refill y r = y := by simp [refill, h]

/-- The mode that a task sequencer goes on in is the phase of its context (20 R408). -/
theorem syncPhase_trap (b : Bool) {c : Ctx} (h : c.st = .trap) : syncPhase b c = { c with st := if b then .trap else .run } := by
  simp [syncPhase, h]

/-- What `tret` leaves where it refills no nest. -/
def tretLeft (y : Sys) (r : SeqRef) : Sys :=
  let q := (y.seq r).tret r.idx.isSome (y.ctxOf r).ranges
  progress ((y.modSeq r (fun _ => q)).modCtxOf r (syncPhase q.steward)) r

theorem tretLeft_seq (y : Sys) (r : SeqRef) : (tretLeft y r).seq r = (y.seq r).tret r.idx.isSome (y.ctxOf r).ranges := by
  simp [tretLeft, progress_seq]

theorem tretLeft_ctxOf (y : Sys) {r : SeqRef} (h : r.idx.isSome = true) :
    (tretLeft y r).ctxOf r = { syncPhase ((tretLeft y r).seq r).steward (y.ctxOf r) with wdCycles := 0 } := by
  obtain ⟨d, i⟩ := r
  obtain ⟨k, rfl⟩ := Option.isSome_iff_exists.1 h
  rw [tretLeft_seq]
  simp [tretLeft, progress]

theorem tretLeft_cell (y : Sys) (r : SeqRef) (x : Cell) : (tretLeft y r).cell x = y.cell x := by simp [tretLeft]

theorem tretStep_restores {y : Sys} {r : SeqRef} (hm : (y.seq r).steward = true) (hbad : tretBad (y.seq r) = false)
    (hnest : nestAct (y.seq r).trapNstat = false) : tretStep r y = .stop (tretLeft y r) := by
  unfold tretStep
  simp only [hm, hbad, stewardOnly, if_true, Bool.false_eq_true, if_false]
  rw [refill_plain (by rw [Sys.seq_modCtxOf, Sys.seq_modSeq_self]; exact hnest), Sys.seq_modSeq_self]
  rfl

theorem tret_restores {s : State} (hm : s.now.steward = true) (hbad : tretBad s.now = false) (hnest : nestAct s.now.trapNstat = false) :
    Ends .tret s (fun t => t.now = s.now.tret s.cur.idx.isSome s.ctxNow.ranges ∧
      (s.cur.idx.isSome = true → t.ctxNow = { syncPhase t.now.steward s.ctxNow with wdCycles := 0 }) ∧ CellsKept s t) := by
  refine ⟨_, rfl, ?_⟩
  rw [tretStep_restores hm hbad hnest]
  exact ⟨tretLeft_seq _ _, tretLeft_ctxOf _, tretLeft_cell _ _⟩

/-- Settles O10: a cause after the step saves the advanced state; `tend` and `tret` replace the control state themselves. -/
theorem trapsAndReturns : Obligations.TrapsAndReturns := by
  unfold Obligations.TrapsAndReturns
  refine ⟨⟨fun s n => ⟨fun h => ⟨⟨_, rfl, ?_⟩, ⟨_, rfl, ?_⟩⟩, yield_preempts, yield_passes, ⟨_, rfl, passed_of s 4 none⟩⟩, fun s k => tend_ends⟩,
    fun s hm hbad hnest => ?_⟩
  · exact trapAfter_same h 4 cTrapInstr _ _ rfl
  · exact trapAfter_same h 4 cBreakpoint _ _ rfl
  · obtain ⟨t, ht, hnow, hctx, hcells⟩ := tret_restores hm hbad hnest
    refine ⟨t, ht, ?_⟩
    rw [hnow] at hctx ⊢
    simp only [SeqSt.tret, bitOf_toNat, Option.not_isSome, true_and] at hctx ⊢
    refine ⟨fun hk hst => ?_, hcells⟩
    rw [hctx hk, syncPhase_trap _ hst, if_pos hk, ← Option.not_isSome, hk]
    exact ⟨rfl, rfl⟩

end Sys2Proof.Machine

/-! SUPPORT. The steward instructions: how one that passes the checks of its mode, its operand and its context ends (20 R409, R414). -/

namespace Sys2Proof.Machine

/-! ## Checks -/

theorem SeqSt.firstPoison_none {q : SeqSt} {l : List (BitVec 5)} (h : ∀ a ∈ l, q.tag a = false) : q.firstPoison l = none := by
  induction l with
  | nil => rfl
  | cons a l ih =>
    rw [SeqSt.firstPoison, h a List.mem_cons_self, if_neg Bool.false_ne_true]
    exact ih fun b hb => h b (List.mem_cons_of_mem _ hb)

theorem SeqSt.lowPoison_none {q : SeqSt} {l : List (BitVec 5)} (h : ∀ a ∈ l, q.tag a = false) : q.lowPoison l = none :=
  SeqSt.firstPoison_none fun a ha => h a (by simpa using (List.mem_filter.1 ha).2)

theorem unpoisoned_sound {s : State} {l : List (BitVec 5)} (h : s.sound l) (k : Res) : unpoisoned s.now l k = k := by
  simp only [unpoisoned, SeqSt.lowPoison_none h]

theorem stewardStep_sound {s : State} {a : BitVec 5} (hm : s.now.steward = true) (h : s.sound [a]) (k : SeqSt → Word → Res) :
    stewardStep a s.cur s.sys k = k s.now (s.g a) := by
  have hm' : (s.sys.seq s.cur).steward = true := hm
  unfold stewardStep
  rw [stewardOnly, hm', if_pos rfl]
  exact unpoisoned_sound h _

theorem ctxOperand_names {s : State} {n l : Nat} (h : Names s n l) : ctxOperand s.sys s.cur n = some l := by
  unfold ctxOperand
  rcases h with ⟨hi, rfl⟩ | ⟨hi, rfl, rfl, hl⟩ | ⟨hi, rfl, hn, hl⟩
  · simp [hi]
  · simp only [hi]
    exact if_pos hl
  · have hne : n ≠ 0xFE := by omega
    simp [hi, hne, hn, hl]

/-- The context that the operand names decides, where no reserved bit is set. -/
theorem withCtx_names {s : State} {n l : Nat} (h : Names s n l) (ok : Ctx → Bool) (k : Nat → Ctx → Res) :
    withCtx s.sys s.cur n false ok k = if ok (s.sys.ctx s.cur.die l) then k l (s.sys.ctx s.cur.die l) else .trap (operandCode 0x41) := by
  simp only [withCtx, ctxOperand_names h]
  cases ok (s.sys.ctx s.cur.die l) <;> rfl

/-- A `clm` word whose gA gives function `f` (20 R414). -/
theorem clmStep_names {s : State} {a : BitVec 5} {n l : Nat} (hm : s.now.steward = true) (hs : s.sound [a]) (hv : (s.g a).toNat < 256)
    {N : BitVec 8} (hN : N.toNat = n) (hn : Names s n l) (f : Nat) (ok : Sys → Ctx → Bool) (eff : Sys → Nat → Nat → Sys) :
    clmStep f ok eff N a s.cur s.sys =
      if (s.g a).toNat = f then if ok s.sys (s.sys.ctx s.cur.die l) then .ok (eff s.sys s.cur.die l) none else .trap (operandCode 0x41)
      else .trap (operandCode 0x45) := by
  have h0 : (s.g a).toNat / 256 = 0 := Nat.div_eq_of_lt hv
  have h1 : (s.g a).toNat % 256 = (s.g a).toNat := Nat.mod_eq_of_lt hv
  unfold clmStep
  rw [stewardStep_sound hm hs, hN]
  simp only [h0, h1, bne_self_eq_false, withCtx_names hn]
  by_cases hf : (s.g a).toNat = f
  · simp [hf]
  · simp [hf]

/-! ## Ends -/

/-- The step of an instruction that changed the machine to `y`, without a transfer. -/
def State.stepTo (s : State) (y : Sys) (len : Nat) : State :=
  { s with sys := progress (y.modSeq s.cur (fun q => q.advance len none)) s.cur }

@[simp] theorem State.stepTo_now (s : State) (y : Sys) (len : Nat) : (s.stepTo y len).now = (y.seq s.cur).advance len none := by
  simp [State.stepTo, State.now, progress_seq]

theorem State.stepTo_seq (s : State) (y : Sys) (len : Nat) {r : SeqRef} (h : r ≠ s.cur) : (s.stepTo y len).sys.seq r = y.seq r := by
  simp only [State.stepTo, progress_seq, Sys.seq_modSeq_ne y _ h]

@[simp] theorem State.stepTo_cell (s : State) (y : Sys) (len : Nat) (x : Cell) : (s.stepTo y len).sys.cell x = y.cell x := by
  simp [State.stepTo]

/-- A context after the step: of the sequencer's own one the watchdog starts again (14 R332). -/
theorem State.stepTo_ctx (s : State) (y : Sys) (len d l : Nat) :
    (s.stepTo y len).sys.ctx d l = { y.ctx d l with wdCycles := ((s.stepTo y len).sys.ctx d l).wdCycles } := by
  rcases hr : s.cur with ⟨e, i⟩
  cases i with
  | none => simp [State.stepTo, hr, progress, Sys.modCtxOf]
  | some k =>
    simp only [State.stepTo, hr, progress, Sys.modCtxOf, Sys.ctx_modCtx, Sys.ctx_modSeq]
    split
    case isTrue h => rw [h.1, h.2]
    case isFalse => rfl

theorem State.stepTo_ctx_steward {s : State} (h : s.cur.idx = none) (y : Sys) (len d l : Nat) : (s.stepTo y len).sys.ctx d l = y.ctx d l := by
  simp [State.stepTo, progress, Sys.modCtxOf, h]

/-- The registers of a sequencer that its instruction left alone, but for the PCs and the loop. -/
theorem State.stepTo_stepped {s : State} {y : Sys} (h : y.seq s.cur = s.now) (len : Nat) : SeqStepped s.now (s.stepTo y len).now len [] none := by
  rw [State.stepTo_now, h]
  exact seqStepped_of s.now s.now len none [] rfl fun _ _ => ⟨rfl, rfl⟩

theorem commit_trap_of {s : State} {r : Res} {len code : Nat} (h : r = .trap (operandCode code)) (ht : s.traps) :
    Trapped s 0x08 (BitVec.ofNat 64 code) { s with sys := commit s.cur s.sys len r } := by
  rw [h]
  exact trapped_of ht len cOperand _

/-! ## Start registers (02 R49) -/

section
variable (q : SeqSt) (c : Ctx) (e : Word)

theorem SeqSt.start_rg_zero {k : BitVec 5} (h : k = 0 ∨ 6 ≤ k.toNat) : (q.start c e).rg k = 0 := by
  rcases h with rfl | h
  · rfl
  · have hk := k.isLt
    simp only [SeqSt.rg, SeqSt.start]
    split
    · rfl
    · simp only [Vector.getElem_set, Vector.getElem_replicate]
      repeat rw [if_neg (by omega)]

end

/-- The fields of a launch record that a start gives the sequencer (02 R33, R49). -/
theorem recEntry_eq (x : BitVec 1024) : recEntry x = BitVec.ofNat 64 (x.toNat / 2 ^ 64) :=
  BitVec.eq_of_toNat_eq (by simp [recEntry, lfld, bitsOf])

theorem recArg_eq (x : BitVec 1024) : recArg x = BitVec.ofNat 64 (x.toNat / 2 ^ 128) :=
  BitVec.eq_of_toNat_eq (by simp [recArg, lfld, bitsOf])

/-! ## START (20 R414) -/

theorem mayStart_iff (y : Sys) (c : Ctx) : mayStart y c = true ↔ c.slot.isSome = true ∨ ∀ nd, y.hub.node? c.node = some nd → nd.failed = none := by
  unfold mayStart Hub.node?
  cases mget? y.hub.nodes c.node <;> simp

theorem startReady_iff (y : Sys) (c : Ctx) : startReady y c = true ↔ c.st = .ready ∧ c.needSems ≤ c.semMap.length ∧ (c.slot = none ∨ c.restored = true) ∧
    (c.slot.isSome = true ∨ ∀ nd, y.hub.node? c.node = some nd → nd.failed = none) := by
  simp [startReady, mayStart_iff, and_assoc]

/-- The START record leaves the dies. -/
theorem logStart_dies (y : Sys) (d l : Nat) : (logStart y d l).dies = y.dies := (writeRecord_kept y _ _ _ _ _ _ _ _).1

theorem Sys.ctx_of_dies {y z : Sys} (h : z.dies = y.dies) (d l : Nat) : z.ctx d l = y.ctx d l := by simp [Sys.ctx, Sys.die, h]

theorem startFresh_seq (y : Sys) (d l : Nat) :
    (startFresh y d l).seq ⟨d, some l⟩ = (y.seq ⟨d, some l⟩).start (y.ctx d l) (recEntry (y.ctx d l).record) := by
  simp [startFresh]

theorem startFresh_seq_ne (y : Sys) (d l : Nat) {r : SeqRef} (h : r ≠ ⟨d, some l⟩) : (startFresh y d l).seq r = y.seq r := by
  simp [startFresh, Sys.seq_modSeq_ne _ _ h]

theorem startFresh_ctx (y : Sys) (d l : Nat) : (startFresh y d l).ctx d l = { y.ctx d l with st := .run, fresh := false, wdCycles := 0 } := by
  simp [startFresh]

theorem startFresh_cell (y : Sys) (d l : Nat) (x : Cell) : (startFresh y d l).cell x = y.cell x := by simp [startFresh]

/-- The registers of a restored context that goes on. -/
def SeqSt.resumed (q : SeqSt) (g : Ranges) : SeqSt := { q.tret true g with icache := [], prq := false }

section
variable {y : Sys} {d l : Nat} (hn : nestAct (y.seq ⟨d, some l⟩).trapNstat = false)
include hn

theorem startRestored_dies : (startRestored y d l).dies = ((y.modSeq ⟨d, some l⟩ (fun q => q.resumed (y.ctx d l).ranges)).modCtx d l
    (fun c => syncPhase ((y.seq ⟨d, some l⟩).resumed (y.ctx d l).ranges).steward { c with st := .run })).dies := by
  have hbad : tretBad (y.seq ⟨d, some l⟩) = false := by simp [tretBad, hn]
  unfold startRestored
  simp only [hbad, Bool.false_eq_true, if_false]
  rw [refill_plain, logStart_dies]
  · simp [SeqSt.resumed]
  · rw [Sys.seq_of_dies (logStart_dies _ d l)]
    simpa [SeqSt.tret] using hn

theorem startRestored_seq : (startRestored y d l).seq ⟨d, some l⟩ = (y.seq ⟨d, some l⟩).resumed (y.ctx d l).ranges := by
  rw [Sys.seq_of_dies (startRestored_dies hn)]
  simp

theorem startRestored_seq_ne {r : SeqRef} (h : r ≠ ⟨d, some l⟩) : (startRestored y d l).seq r = y.seq r := by
  rw [Sys.seq_of_dies (startRestored_dies hn)]
  simp [Sys.seq_modSeq_ne _ _ h]

theorem startRestored_ctx : (startRestored y d l).ctx d l =
    { y.ctx d l with st := if (y.seq ⟨d, some l⟩).trapAnn.getLsbD 2 then .trap else .run } := by
  rw [Sys.ctx_of_dies (startRestored_dies hn)]
  simp [SeqSt.resumed, SeqSt.tret, syncPhase, bitOf_toNat]

theorem startRestored_cell (x : Cell) : (startRestored y d l).cell x = y.cell x := by
  rw [Sys.cell_of_dies (startRestored_dies hn)]
  simp

end

/-! ## The functions -/

section
variable {s : State} {a : BitVec 5} {n : BitVec 8} {l : Nat}

/-- What a `clm` word meets before its function: steward mode, a sound gA below 256, and an operand that names context `l`. -/
structure ClmRuns (s : State) (n : BitVec 8) (a : BitVec 5) (l : Nat) : Prop where
  mode : s.now.steward = true
  sound : s.sound [a]
  small : (s.g a).toNat < 256
  names : Names s n.toNat l

/-- A function whose context accepts it takes effect and the step ends. -/
theorem clm_takes (h : ClmRuns s n a l) {f : Nat} {ok : Sys → Ctx → Bool} {eff : Sys → Nat → Nat → Sys} (hf : (s.g a).toNat = f)
    (hok : ok s.sys (s.sys.ctx s.cur.die l) = true) : runSeq s 4 (clmStep f ok eff n a) = .next (s.stepTo (eff s.sys s.cur.die l) 4) := by
  rw [runSeq, clmStep_names h.mode h.sound h.small rfl h.names, if_pos hf, if_pos hok]
  rfl

/-- A state that the function does not accept is code 0x41. -/
theorem clm_refuses (h : ClmRuns s n a l) {f : Nat} {ok : Sys → Ctx → Bool} {eff : Sys → Nat → Nat → Sys} (hf : (s.g a).toNat = f)
    (hok : ok s.sys (s.sys.ctx s.cur.die l) = false) (ht : s.traps) :
    ∃ t, runSeq s 4 (clmStep f ok eff n a) = .next t ∧ Trapped s 0x08 0x41 t := by
  refine ⟨_, rfl, commit_trap_of ?_ ht⟩
  rw [clmStep_names h.mode h.sound h.small rfl h.names, if_pos hf, hok, if_neg Bool.false_ne_true]

theorem clmStart_other (h : ClmRuns s n a l) (hf : 5 ≤ (s.g a).toNat) (ht : s.traps) : Ends (.clmStart n a) s (Trapped s 0x08 0x45) := by
  refine ⟨_, rfl, commit_trap_of ?_ ht⟩
  rw [clmStep_names h.mode h.sound h.small rfl h.names, if_neg (by omega)]

/-- START of a fresh claim (02 R49): its sequencer waits for the argument block. -/
theorem clmStart_fresh (h : ClmRuns s n a l) (hf : (s.g a).toNat = 0) (hi : s.cur.idx = none) {c : Ctx} (hc : c = s.sys.ctx s.cur.die l)
    (hok : startReady s.sys c = true) (hslot : c.slot = none) :
    Ends (.clmStart n a) s (fun t => SeqStepped s.now t.now 4 [] none ∧ t.sys.ctx s.cur.die l = { c with st := .run, fresh := false, wdCycles := 0 } ∧
      t.sys.seq ⟨s.cur.die, some l⟩ = (s.sys.seq ⟨s.cur.die, some l⟩).start c (recEntry c.record) ∧ CellsKept s t) := by
  subst hc
  have hne : s.cur ≠ ⟨s.cur.die, some l⟩ := fun e => Option.some_ne_none l ((congrArg SeqRef.idx e).symm.trans hi)
  refine ⟨_, clm_takes h hf hok, ?_⟩
  rw [if_neg (by rw [hslot]; exact Bool.false_ne_true)]
  refine ⟨State.stepTo_stepped (startFresh_seq_ne _ _ _ hne) 4, ?_, ?_, fun x => ?_⟩
  · exact (State.stepTo_ctx_steward hi _ _ _ _).trans (startFresh_ctx _ _ _)
  · exact (State.stepTo_seq s _ 4 hne.symm).trans (startFresh_seq _ _ _)
  · exact (State.stepTo_cell s _ 4 x).trans (startFresh_cell _ _ _ x)

/-- START of a restored claim: it goes on as `tret` does (21 R431). -/
theorem clmStart_restored (h : ClmRuns s n a l) (hf : (s.g a).toNat = 0) (hi : s.cur.idx = none) {c : Ctx} (hc : c = s.sys.ctx s.cur.die l)
    (hok : startReady s.sys c = true) (hslot : c.slot.isSome = true) {q : SeqSt} (hq : q = s.sys.seq ⟨s.cur.die, some l⟩)
    (hnest : nestAct q.trapNstat = false) :
    Ends (.clmStart n a) s (fun t => SeqStepped s.now t.now 4 [] none ∧
      t.sys.ctx s.cur.die l = { c with st := if q.trapAnn.getLsbD 2 then .trap else .run } ∧
      t.sys.seq ⟨s.cur.die, some l⟩ = q.resumed c.ranges ∧ CellsKept s t) := by
  subst hc hq
  have hne : s.cur ≠ ⟨s.cur.die, some l⟩ := fun e => Option.some_ne_none l ((congrArg SeqRef.idx e).symm.trans hi)
  refine ⟨_, clm_takes h hf hok, ?_⟩
  rw [if_pos hslot]
  refine ⟨State.stepTo_stepped (startRestored_seq_ne hnest hne) 4, ?_, ?_, fun x => ?_⟩
  · exact (State.stepTo_ctx_steward hi _ _ _ _).trans (startRestored_ctx hnest)
  · exact (State.stepTo_seq s _ 4 hne.symm).trans (startRestored_seq hnest)
  · exact (State.stepTo_cell s _ 4 x).trans (startRestored_cell hnest x)

/-- PREQ and PCLR write PRQ of the context's sequencer. -/
theorem stepTo_prq (b : Bool) {r : SeqRef} {c : Ctx} (hc : c = s.sys.ctx s.cur.die l) {t : State}
    (ht : t = s.stepTo (s.sys.modSeq r (fun q => { q with prq := b })) 4) :
    (t.sys.seq r).prq = b ∧ t.sys.ctx s.cur.die l = { c with wdCycles := (t.sys.ctx s.cur.die l).wdCycles } ∧ CellsKept s t ∧
      (r ≠ s.cur → SeqStepped s.now t.now 4 [] none ∧ t.sys.seq r = { s.sys.seq r with prq := b }) := by
  subst ht hc
  refine ⟨?_, (State.stepTo_ctx _ _ _ _ _).trans (by rw [Sys.ctx_modSeq]), fun x => by simp, fun hne => ⟨?_, ?_⟩⟩
  · by_cases hrc : r = s.cur
    · have hnow := congrArg SeqSt.prq (State.stepTo_now s (s.sys.modSeq s.cur (fun q => { q with prq := b })) 4)
      rw [Sys.seq_modSeq_self, SeqSt.advance_prq] at hnow
      rw [hrc]
      exact hnow
    · rw [State.stepTo_seq s _ 4 hrc, Sys.seq_modSeq_self]
  · exact State.stepTo_stepped (Sys.seq_modSeq_ne _ _ (Ne.symm hne)) 4
  · rw [State.stepTo_seq s _ 4 hne, Sys.seq_modSeq_self]

theorem stepTo_onlyCtx (c : Ctx) : OnlyCtx s l c (s.stepTo (s.sys.setCtx s.cur.die l c) 4) := by
  refine ⟨State.stepTo_stepped (Sys.seq_setCtx _ _ _ _ _) 4, ?_⟩
  rw [State.stepTo_now]
  rfl

theorem clmRuns_of {y : Sys} {c : Ctx} (h : c.st ∈ [CtxPhase.run, .trap, .parked]) : clmRuns y c = true := by
  simpa [clmRuns, inPhase] using h

end

/-- Settles O18: each function by the states that accept it. -/
theorem claimControl : Obligations.ClaimControl := by
  unfold Obligations.ClaimControl
  intro s a n l v c r hm hs hv hsmall hn hc hr
  subst hv
  have h : ClmRuns s n a l := ⟨hm, hs, hsmall, hn⟩
  refine ⟨fun hf hi hst hsem hslot hnode => ?_, fun q hq hf hi hst hsem hslot hrest hnest => ?_, fun hst => ⟨fun hf => ?_, fun hf => ?_, fun hf => ?_⟩,
    fun hf hst => ?_, fun ht => ⟨fun hf => clmStart_other h hf ht, fun hf hbad => ?_, fun hf hst => ?_⟩⟩
  · obtain ⟨t, ht, hseq, hctx, hstart, hcells⟩ := clmStart_fresh h hf hi hc
      ((startReady_iff _ _).2 ⟨hst, hsem, .inl hslot, .inr hnode⟩) hslot
    refine ⟨t, ht, hseq, hctx, ?_⟩
    rw [hr, hstart]
    refine ⟨recEntry_eq _, rfl, rfl, rfl, rfl, rfl, rfl, rfl, rfl, rfl, recArg_eq _, rfl, rfl, rfl, rfl, fun k hk => SeqSt.start_rg_zero _ _ _ hk, ?_, hcells⟩
    simp [seqReady, hctx]
  · subst hr
    obtain ⟨t, ht, hseq, hctx, hres, hcells⟩ := clmStart_restored h hf hi hc
      ((startReady_iff _ _).2 ⟨hst, hsem, .inr hrest, .inl hslot⟩) hslot hq hnest
    refine ⟨t, ht, hseq, hctx, ?_⟩
    rw [hres]
    simp only [SeqSt.resumed, SeqSt.tret, bitOf_toNat, Bool.not_true, Bool.false_or, if_true, true_and]
    exact hcells
  · subst hc
    exact ⟨_, clm_takes h hf (clmRuns_of hst), stepTo_prq true rfl (hr ▸ rfl)⟩
  · subst hc
    exact ⟨_, clm_takes h hf (clmRuns_of hst), stepTo_prq false rfl (hr ▸ rfl)⟩
  · subst hc
    refine ⟨_, clm_takes h hf (clmRuns_of hst), ?_⟩
    have heff : addPend s.sys s.cur.die l .interrupt = s.sys.setCtx s.cur.die l { s.sys.ctx s.cur.die l with
        pend := if (s.sys.ctx s.cur.die l).pend.contains .interrupt then (s.sys.ctx s.cur.die l).pend else (s.sys.ctx s.cur.die l).pend ++ [.interrupt] } := by
      unfold addPend Sys.modCtx
      congr 1
      dsimp only
      split <;> rfl
    rw [heff]
    exact stepTo_onlyCtx _
  · subst hc
    exact ⟨_, clm_takes h hf (by simp [inPhase, hst]), stepTo_onlyCtx _⟩
  · subst hc
    refine clm_refuses h hf (Bool.eq_false_iff.2 fun hok => ?_) ht
    obtain ⟨h1, h2, h3, h4⟩ := (startReady_iff _ _).1 hok
    rcases hbad with hb | hb | ⟨hb, hb'⟩ | ⟨hb, nd, hnd, hb'⟩
    · exact hb h1
    · exact absurd h2 (by omega)
    · rcases h3 with h3 | h3
      · simp [h3] at hb
      · simp [h3] at hb'
    · rcases h4 with h4 | h4
      · simp [hb] at h4
      · exact hb' (h4 nd hnd)
  · subst hc
    exact clm_refuses h hf (by simp [inPhase, hst]) ht

end Sys2Proof.Machine

/-! SUPPORT. The acknowledgement of a row of `cp.rw` whose copy context has read on into the next row (12 R273, R293). -/

namespace Sys2Proof.Machine

/-! ## Rows and acknowledgements -/

/-- What a completion from outside reaches: the started head entry, when its copy context awaits it. -/
theorem awaiting_of {y : Sys} {d l k : Nat} {p : CopyCtx} {e : Entry} {rest : List Entry} (h : CopyHead (y.ctx d l) k p e rest)
    (f : CopyCtx → Bool) : awaiting y d l k f = if f p then some (e, p) else none := by
  have hstarted : startedHead (y.ctx d l) (8 + k) = some e := by simp [startedHead, h.queue, h.started]
  simp only [awaiting, h.copies, hstarted]

@[simp] theorem Ctx.queue_copies (c : Ctx) (l : List CopyCtx) (q : Nat) : ({ c with copies := l } : Ctx).queue q = c.queue q := rfl
@[simp] theorem Ctx.queue_wdCycles (c : Ctx) (n q : Nat) : ({ c with wdCycles := n } : Ctx).queue q = c.queue q := rfl
@[simp] theorem Ctx.queue_modQueue_self (c : Ctx) (q : Nat) (f : EQueue → EQueue) : (c.modQueue q f).queue q = f (c.queue q) := by
  simp [Ctx.modQueue, Ctx.setQueue, Ctx.queue]
@[simp] theorem countEvent_ctx (y : Sys) (part ev n d l : Nat) : (countEvent y part ev n).ctx d l = y.ctx d l := by
  unfold countEvent; split <;> rfl

/-- The acknowledgement of a row ends the row, and what is left of the bytes carried stays. -/
theorem rwAck_head {s t : State} {d l k : Nat} {p : CopyCtx} {e : Entry} {rest : List Entry} (h : CopyHead (s.sys.ctx d l) k p e rest)
    (hack : p.ack = true) (ht : exec (.rwAck d l k 0) s = .next t) :
    t.sys.copyQueue d l k ({ e with pass := 0 }.advance (rLen e.record - e.pos % rLen e.record) (rLen e.record * rNrow e.record)) rest := by
  cases ht
  show ((rwAckStep d l k 0 s.sys).ctx d l |>.queue (8 + k)).ents = _
  simp [rwAckStep, awaiting_of h, hack, Sys.modHead, Sys.modCopy, h.queue, lmod]

/-! ## Bytes read ahead of an acknowledged row -/

/-- Two rows of one byte each: LEN 1 and NROW 2 (12 R276). -/
def twoRows : BitVec 512 := 0x2_0000_0001_0000_0000_0000_0000_0000_0000_0000_0000_0000_0000_0000_0000_0000_0000_0000_0000_0000_0000_0000_0000

theorem rLen_twoRows : rLen twoRows = 1 := by decide +kernel
theorem rNrow_twoRows : rNrow twoRows = 2 := by decide +kernel

/-- The first row has been sent, and the byte of the second has been read. -/
def rowSent : Entry :=
  { num := 1, cmd := .cpRw 0 0 0 false { scope := 0, step := 0, rep := 0, sinc := 0, ssem := 0, wth := 0, wsem := 0 }
    recs := [twoRows], started := true, pass := 1, carry := [(0, false)] }

/-- A machine whose copy context 0 awaits the acknowledgement of the first row. -/
def awaitsAck : State :=
  { sys := { dies := [(0, { ctxs := [(0, { st := .run, copies := [{ engine := 0, ack := true }], queues := [(8, { iss := 1, ents := [rowSent] })] })] })] } }

theorem awaitsAck_head : CopyHead (awaitsAck.sys.ctx 0 0) 0 { engine := 0, ack := true } rowSent [] := ⟨rfl, rfl, rfl, rfl⟩

/-- Refutes O43: after RW_ACK the statement has the entry drop as many carried bytes as the acknowledged row had left, though these were dropped when
they were sent; a byte of the next row that has been read already stays carried. -/
theorem not_arrivalEvents : ¬ Obligations.ArrivalEvents := by
  unfold Obligations.ArrivalEvents
  intro h
  obtain ⟨hcopy, -⟩ := h awaitsAck 0 0 0 _ rfl rfl
  obtain ⟨t, ht, hstated, -⟩ := ((hcopy _ rowSent [] _ rfl awaitsAck_head).1 rfl).1
  have hmodel := rwAck_head awaitsAck_head rfl ht
  have hrec : rowSent.record = twoRows := rfl
  have hpos : rowSent.pos = 0 := rfl
  simp only [hrec, hpos, rLen_twoRows, rNrow_twoRows, Nat.zero_mod, Nat.sub_zero, Nat.one_mul] at hmodel hstated
  have hcarry := congrArg (fun l => (l.map Entry.carry).head?) (hmodel.symm.trans hstated)
  simp only [List.map_cons, List.head?_cons] at hcarry
  exact absurd hcarry (by decide)

end Sys2Proof.Machine

/-! SUPPORT. A strip command of a chain beyond the six of a die: the queue code that the statement gives it is one of a copy context's (20 R398). -/

namespace Sys2Proof.Machine

/-! ## An open take beside a seed of chain 7 -/

/-- An unconditional command of one repetition. -/
def plainCommon : Common := { scope := 0, step := 0, rep := 0, sinc := 0, ssem := 0, wth := 0, wsem := 0 }

/-- An issued `xb.take` of chain 0, of a group that is open, whose beat goes to window offset 0. -/
def openTake : Entry := { num := 1, cmd := .xbTake 0 0 0 0 plainCommon, reps := [(0, 0)], wr := [⟨0, 768⟩], weight := 1 }

/-- A context with eight bound chains, and the open take in the queue of chain 0. -/
def eightChains : Ctx :=
  { st := .run, chains := (List.range 8).map (fun k => { phys := k, bound := true, iBound := true }), queues := [(1, { iss := 1, ents := [openTake] })] }

/-- A machine whose task sequencer 0 is about to seed a strip of chain 7 from window offset 0. -/
def seedsChain7 : State := { cur := ⟨0, some 0⟩, sys := { dies := [(0, { ctxs := [(0, eightChains)] })] } }

/-- What the statement has the seed put into queue 8. -/
def seedEntry : Entry := { num := 0, cmd := .nop, reps := [(0, 0)], rd := [⟨0, 768⟩], weight := 1 }

/-- A copy command would wait for the take, which the statement takes queue 8 to hold commands of. -/
theorem not_admits_seedEntry : ¬ Admits seedsChain7 8 seedEntry := fun h => absurd h.free (by decide)

/-- A strip command does not heed an entry of an open group (10 R220): the seed joins its queue. -/
theorem seed_joins {t : State} (h : exec (.xbSeed 7 0 0 plainCommon) seedsChain7 = .next t) : ((t.sys.ctx 0 0).queue 8).ents.length = 1 := by
  cases h
  decide

/-- Refutes O24: on a context with eight chains the statement has `xb.seed` of chain 7 wait for an entry of an open group, as a copy command would. -/
theorem not_stripCommands : ¬ Obligations.StripCommands := by
  unfold Obligations.StripCommands
  intro h
  obtain ⟨-, hseed, -⟩ := h.1 seedsChain7 plainCommon 7 { phys := 7, bound := true, iBound := true } 8 rfl rfl
  obtain ⟨t, ht, -, hwaits⟩ := hseed 0 0 [⟨0, 768⟩] rfl rfl rfl (by decide) rfl ⟨rfl, by decide, by decide⟩
  have hjoined := seed_joins ht
  rw [show t = seedsChain7 from hwaits not_admits_seedEntry] at hjoined
  exact absurd hjoined (by decide)

end Sys2Proof.Machine

/-! SUPPORT. Errors and choices at the hub: what posting one and recording the other leave as they were (14 R313, 23 R451), and the taking of records
(14 R315). -/

namespace Sys2Proof.Machine

/-! ## QERR (14 R313) -/

/-- QERR after the first error. -/
theorem HQueue.post_first {u : HQueue} (h : u.qerr.getLsbD 63 = false) (kind cause node graph : Nat) : (u.post kind cause node graph).qerr =
    BitVec.ofNat 64 (2 ^ 63 + (bitOf u.qerr.toNat 62).toNat * 2 ^ 62 + kind * 2 ^ 58 + cause % 64 * 2 ^ 52 + node % 2 ^ 16 * 2 ^ 32 + graph % 2 ^ 32) := by
  simp only [HQueue.post, bitOf_toNat u.qerr 63, h, Bool.false_eq_true, if_false]

/-- QERR is set after any error. -/
theorem HQueue.post_set (u : HQueue) {kind : Nat} (hk : kind < 16) (cause node graph : Nat) :
    (u.post kind cause node graph).qerr.getLsbD 63 = true := by
  cases h : u.qerr.getLsbD 63 with
  | false =>
    have hb := Bool.toNat_lt (bitOf u.qerr.toNat 62)
    rw [u.post_first h, ← bitOf_toNat, BitVec.toNat_ofNat, bitOf, beq_iff_eq]
    omega
  | true =>
    have h63 : bitOf u.qerr.toNat 63 = true := by rw [bitOf_toNat, h]
    have hq := u.qerr.isLt
    have hpost : (u.post kind cause node graph).qerr =
        BitVec.ofNat 64 (if bitOf u.qerr.toNat 62 then u.qerr.toNat else u.qerr.toNat + 2 ^ 62) := by
      simp only [HQueue.post, h63, if_true]
    rw [hpost, ← bitOf_toNat, BitVec.toNat_ofNat]
    simp only [bitOf, beq_iff_eq] at h63 ⊢
    split <;> omega

/-- The fields of QERR after the first error. -/
theorem HQueue.post_fields {u : HQueue} (h : u.qerr.getLsbD 63 = false) {kind : Nat} (hk : kind < 16) (cause node graph : Nat) :
    bitsOf (u.post kind cause node graph).qerr.toNat 58 4 = kind ∧ bitsOf (u.post kind cause node graph).qerr.toNat 52 6 = cause % 64 ∧
      bitsOf (u.post kind cause node graph).qerr.toNat 32 16 = node % 2 ^ 16 := by
  have hb := Bool.toNat_lt (bitOf u.qerr.toNat 62)
  rw [u.post_first h, BitVec.toNat_ofNat]
  refine ⟨?_, ?_, ?_⟩ <;> simp only [bitsOf] <;> omega

@[simp] theorem HQueue.post_head (u : HQueue) (kind cause node graph : Nat) : (u.post kind cause node graph).head = u.head := rfl
@[simp] theorem HQueue.post_en (u : HQueue) (kind cause node graph : Nat) : (u.post kind cause node graph).en = u.en := rfl

/-- The bit of an interrupt status is set once its interrupt has been raised (24 R460). -/
theorem raiseIstat_zero (v : Fn) : (raiseIstat v 0).istat.getLsbD 0 = true := by
  have hset : ∀ x : BitVec 5, (x ||| BitVec.ofNat 5 (2 ^ 0)).getLsbD 0 = true := by decide
  have hkept : ∀ x : BitVec 5, x &&& BitVec.ofNat 5 (2 ^ 0) ≠ 0 → x.getLsbD 0 = true := by decide
  simp only [raiseIstat]
  split
  · exact hset v.istat
  · next h => exact hkept v.istat h

@[simp] theorem raiseIstat_queue (v : Fn) (k q : Nat) : (raiseIstat v k).queue q = v.queue q := by
  simp only [raiseIstat]; split <;> rfl

/-! ## Errors posted to a queue -/

section
variable (f q kind cause node graph : Nat) (y : Sys)

theorem postErr_queue : ((postErr f q kind cause node graph y).fn f).queue q = ((y.fn f).queue q).post kind cause node graph := by
  simp [postErr]

theorem postErr_istat : ((postErr f q kind cause node graph y).fn f).istat.getLsbD 0 = true := by simp [postErr, raiseIstat_zero]

@[simp] theorem postErr_dies : (postErr f q kind cause node graph y).dies = y.dies := rfl
@[simp] theorem postErr_mems : (postErr f q kind cause node graph y).mems = y.mems := rfl
@[simp] theorem postErr_nodes : (postErr f q kind cause node graph y).hub.nodes = y.hub.nodes := rfl
@[simp] theorem postErr_parts : (postErr f q kind cause node graph y).hub.parts = y.hub.parts := rfl

end

/-- How an event ends whose step at the units is known. -/
theorem ends_of_ev {i : Instr} {s : State} {f : Sys → Sys} {z : Sys} {P : State → Prop} (hi : exec i s = runEv s f) (hz : f s.sys = z)
    (hP : P { s with sys := z }) : Ends i s P := ⟨_, hi, hz ▸ hP⟩

/-! ## Choices (23 R451) -/

section
variable (y : Sys) (part : Nat) (c : Choice)

@[simp] theorem recordChoice_dies : (recordChoice y part c).dies = y.dies := rfl
@[simp] theorem recordChoice_mems : (recordChoice y part c).mems = y.mems := rfl
@[simp] theorem recordChoice_gov : (recordChoice y part c).gov = y.gov := rfl
@[simp] theorem recordChoice_fn (f : Nat) : (recordChoice y part c).fn f = y.fn f := rfl
@[simp] theorem recordChoice_nodes : (recordChoice y part c).hub.nodes = y.hub.nodes := rfl
@[simp] theorem recordChoice_nodeNext : (recordChoice y part c).hub.nodeNext = y.hub.nodeNext := rfl
@[simp] theorem recordChoice_starts : (recordChoice y part c).hub.starts = y.hub.starts := rfl

variable {y part}

/-- Where no replay forces the choices, one is made and recorded. -/
theorem gate_live (h : (y.part part).replay = none) : gate y part c = .go (recordChoice y part c) := by simp only [gate, h]

theorem gated_live (h : (y.part part).replay = none) (f : Sys → Sys) : gated y part c f = f (recordChoice y part c) := by
  simp only [gated, gate_live c h]

/-- No choice is taken from a log then. -/
theorem logged_live (h : (y.part part).replay = none) : (y.part part).logged c = none := by simp [Part.logged, h]

end

/-! ## Records are taken (14 R313, R315) -/

section
variable {f q : Nat}

/-- A ring that cannot be read. -/
theorem recordTakeStep_unread {y : Sys} (hopen : takeOpen y f q = true) (hring : ringBytes y f q = none) :
    recordTakeStep f q y = ringError f q { y with used := y.used + 1 } := by
  simp [recordTakeStep, hopen, hring]

/-- A slot that has been read, in a live run. -/
theorem recordTakeStep_read {y : Sys} {bs : List Byte} (hopen : takeOpen y f q = true) (hlive : (y.part (y.fn f).part).replay = none)
    (hring : ringBytes y f q = some bs) : recordTakeStep f q y = settleHub (takeRecord f q (recordOf bs)
      (recordChoice { y with used := y.used + 1 } (y.fn f).part (.record f q (recordOf bs)))) := by
  have hlive' : ((Sys.part { y with used := y.used + 1 } (y.fn f).part)).replay = none := hlive
  have hrec : takenRecord { y with used := y.used + 1 } f q bs = recordOf bs := by
    have hlog : (Sys.part { y with used := y.used + 1 } (Sys.fn { y with used := y.used + 1 } f).part).logged (.record f q 0) = none :=
      logged_live _ hlive'
    simp only [takenRecord, hlog]
  have hgated := gated_live (.record f q (recordOf bs)) hlive' (takeRecord f q (recordOf bs))
  simp only [recordTakeStep, hopen, hring, hrec, Bool.not_true, Bool.false_eq_true, if_false]
  exact congrArg settleHub hgated

end

/-- A record that is refused: KIND REFUSED, CAUSE operand error, with its node number. -/
theorem takeRecord_refused {f q : Nat} {x : BitVec 1024} (h : recordBad x = true ∨ recPreds x ≠ 0) (y : Sys) : takeRecord f q x y =
    postErr f q eRefused cOperand (recNode x) (recGraph x) (y.modQueue f q (fun u => { u with head := u.head + 1, taken := u.taken + 1 })) := by
  have hbad : (recordBad x || recPreds x != 0 || (recGng x && memberBad (y.modQueue f q (fun u => { u with head := u.head + 1, taken := u.taken + 1 }))
      f (y.fn f).part x)) = true := by
    rcases h with h | h <;> simp [h]
  simp only [takeRecord, hbad, if_true]

/-- A record that is taken, a member of no gang. -/
theorem takeRecord_taken {f q : Nat} {x : BitVec 1024} (hbad : recordBad x = false) (hpreds : recPreds x = 0) (hgng : recGng x = false) (y : Sys) :
    takeRecord f q x y = addNode { fn := f, part := (y.fn f).part, record := x, oFn := f, oQ := q, came := .queue, seqNo := ((y.fn f).queue q).taken }
      (y.modQueue f q (fun u => { u with head := u.head + 1, taken := u.taken + 1 })) := by
  simp [takeRecord, hbad, hpreds, hgng]

theorem recNode_lt (x : BitVec 1024) : recNode x < 2 ^ 16 := by
  simp only [recNode, lfld, bitsOf]
  omega

/-- A later release of a successor that still waits for another. -/
theorem applyRelease_later {p : Nat} {r : Release} {y : Sys} {e : Pending} (he : (y.part p).pendTab.find? (fun z => z.isFor r) = some e)
    (hleft : 2 ≤ e.left) : ((applyRelease p r y).part p).held = (y.part p).held.erase r ∧
      { e with left := e.left - 1, err := e.err || r.err } ∈ ((applyRelease p r y).part p).pendTab := by
  have hmem := List.mem_of_find?_eq_some he
  have hfor : e.isFor r = true := by simpa using List.find?_some he
  have happly : applyRelease p r y = laterRelease p e r (y.modPart p (fun p => { p with held := p.held.erase r })) := by
    simp only [applyRelease, Sys.part_modPart_self, he]
  have hlater : ¬ e.left ≤ 1 := by omega
  simp only [happly, laterRelease, hlater, if_false, Sys.part_modPart_self, true_and]
  exact List.mem_map.2 ⟨e, hmem, by simp [hfor]⟩

/-- What HELD_RELEASE_APPLY does at the hub. -/
def heldReleaseStep (p : Nat) (y : Sys) : Sys :=
  match (y.part p).held.find? (releaseOpen (y.part p)) with
  | some r => settleHub (applyRelease p r y)
  | none => settleHub y

theorem heldReleaseApply_exec (p : Nat) (s : State) : exec (.heldReleaseApply p) s = runEv s (heldReleaseStep p) := rfl

theorem heldReleaseStep_open {p : Nat} {y : Sys} {r : Release} (h : (y.part p).held.find? (releaseOpen (y.part p)) = some r) :
    heldReleaseStep p y = settleHub (applyRelease p r y) := by simp only [heldReleaseStep, h]

@[simp] theorem addNode_fn (n : Node) (y : Sys) (f : Nat) : (addNode n y).fn f = y.fn f := rfl

section
variable {y : Sys} {k : Nat} {n : Node} (hn : y.hub.node? k = some n) (f : Node → Node)
include hn

theorem modNode_hub : (y.modNode k f).hub = { y.hub with nodes := mset y.hub.nodes k (f n) } := by
  have hn' : mget? y.hub.nodes k = some n := hn
  simp [Sys.modNode, hn']

theorem modNode_node : (y.modNode k f).hub.node? k = some (f n) := by rw [modNode_hub hn]; exact mget?_mset_self _ _ _

theorem modNode_fn (j : Nat) : (y.modNode k f).fn j = y.fn j := by rw [Sys.fn, modNode_hub hn]; rfl

end

/-- Settles O50: the take, the releases and the queue watchdog, each by the operation of the hub that it makes. -/
theorem recordEvents : Obligations.RecordEvents := by
  unfold Obligations.RecordEvents
  intro s f q g u hg hu
  subst hg hu
  refine ⟨fun hopen hlive hhost => ?_, fun p r hr => ?_, ?_⟩
  · have hring : ringBytes s.sys f q = hubRead s.sys f (s.sys.fn f).part (slotAddr ((s.sys.fn f).queue q)) 128 := by simp [ringBytes, hhost]
    refine ⟨fun hnone => ends_of_ev rfl (recordTakeStep_unread hopen (hring.trans hnone)) ?_, fun bs x hbs hx => ?_⟩
    · simp only [ringError, postErr_queue, Sys.queue_modQueue_self]
      exact ⟨rfl, rfl, HQueue.post_set _ (by decide) _ _ _, fun h => (HQueue.post_fields h (by decide) _ _ _).1, rfl, fun _ => rfl⟩
    · subst hx
      have hstep := recordTakeStep_read hopen hlive (hring.trans hbs)
      refine ⟨fun hbad => ends_of_ev rfl hstep ⟨_, ?_, rfl⟩, fun hgood hpreds hgng => ends_of_ev rfl hstep ⟨_, ?_, rfl⟩⟩
      · simp only [takeRecord_refused hbad, postErr_queue, Sys.queue_modQueue_self]
        refine ⟨rfl, HQueue.post_set _ (by decide) _ _ _, fun h => ?_, rfl, rfl, rfl⟩
        obtain ⟨hkind, hcause, hnode⟩ := HQueue.post_fields (u := { (s.sys.fn f).queue q with
          head := ((s.sys.fn f).queue q).head + 1, taken := ((s.sys.fn f).queue q).taken + 1 }) h (kind := eRefused) (by decide) cOperand
          (recNode (recordOf bs)) (recGraph (recordOf bs))
        exact ⟨hkind, hcause, hnode.trans (Nat.mod_eq_of_lt (recNode_lt _))⟩
      · rw [takeRecord_taken hgood hpreds hgng]
        refine ⟨?_, mget?_mset_self _ _ _, rfl, rfl, rfl⟩
        rw [addNode_fn, Sys.queue_modQueue_self]
        rfl
  · exact ends_of_ev (heldReleaseApply_exec p s) (heldReleaseStep_open hr) ⟨_, ⟨rfl, fun e he hleft => applyRelease_later he hleft⟩, rfl⟩
  · intro k n w hn hcame hready hbegun hfailed hstalled hw hqwd hlate
    subst hw
    have hstep : queueWatchdogStep k s.sys = postNode n eStall cWatchdog (s.sys.modNode k (fun n => { n with stalled := true })) := by
      simp [queueWatchdogStep, hn, hcame, hready, hbegun, hfailed, hstalled, hqwd, hlate]
    refine ends_of_ev rfl hstep ⟨modNode_node hn _, ?_, fun h => ?_, postErr_istat _ _ _ _ _ _ _, rfl, rfl⟩
    · simp only [postNode, postErr_queue]
      exact HQueue.post_set _ (by decide) _ _ _
    · simp only [postNode, postErr_queue, modNode_fn hn]
      exact (HQueue.post_fields h (by decide) _ _ _).1

end Sys2Proof.Machine

/-! SUPPORT. What the debug log and the order logs leave as they were (23 R445, R451), and what the loss of a claim changes on its die (02 R53). -/

namespace Sys2Proof.Machine

/-! ## Maps -/

theorem mget?_map {α β : Type} (f : α → β) (m : Map α) (k : Nat) : mget? (m.map (fun e => (e.1, f e.2))) k = (mget? m k).map f := by
  induction m with
  | nil => rfl
  | cons e m ih =>
    obtain ⟨j, v⟩ := e
    simp only [List.map_cons, mget?_cons, ih]
    split <;> rfl

theorem mget?_foldl_merase {α : Type} (bs : List Nat) (m : Map α) (b : Nat) :
    mget? (bs.foldl merase m) b = if b ∈ bs then none else mget? m b := by
  induction bs generalizing m with
  | nil => simp
  | cons a bs ih =>
    by_cases hab : b = a
    · subst hab; simp [ih]
    · simp [ih, hab, mget?_merase_ne m hab]

/-! ## The logs -/

/-- What writing to a log leaves as it was: the dies, the governor, and at the hub everything but the requests that wait on a value, the watches,
and of a partition its log. -/
structure LogKept (y z : Sys) : Prop where
  dies : z.dies = y.dies
  gov : z.gov = y.gov
  hub : ∃ ps rs fs, z.hub = { y.hub with parts := ps, reqs := rs, fns := fs }
  part : ∀ p, ∃ ks ms n, z.part p = { y.part p with ckpts := ks, made := ms, logHead := n }

namespace LogKept

variable {x y z : Sys}

theorem refl (y : Sys) : LogKept y y := ⟨rfl, rfl, ⟨_, _, _, rfl⟩, fun _ => ⟨_, _, _, rfl⟩⟩

theorem trans (h : LogKept x y) (k : LogKept y z) : LogKept x z := by
  refine ⟨k.dies.trans h.dies, k.gov.trans h.gov, ?_, fun p => ?_⟩
  · obtain ⟨_, _, _, hh⟩ := h.hub
    obtain ⟨_, _, _, hk⟩ := k.hub
    exact ⟨_, _, _, by rw [hk, hh]⟩
  · obtain ⟨_, _, _, hh⟩ := h.part p
    obtain ⟨_, _, _, hk⟩ := k.part p
    exact ⟨_, _, _, by rw [hk, hh]⟩

variable (h : LogKept y z)
include h

theorem ctx (d l : Nat) : z.ctx d l = y.ctx d l := Sys.ctx_of_dies h.dies d l
theorem cell (x : Cell) : z.cell x = y.cell x := Sys.cell_of_dies h.dies x
theorem die (d : Nat) : z.die d = y.die d := by simp only [Sys.die, h.dies]
theorem seq (r : SeqRef) : z.seq r = y.seq r := Sys.seq_of_dies h.dies r
theorem nodes : z.hub.nodes = y.hub.nodes := by obtain ⟨_, _, _, e⟩ := h.hub; rw [e]
theorem starts : z.hub.starts = y.hub.starts := by obtain ⟨_, _, _, e⟩ := h.hub; rw [e]
theorem gangs : z.hub.gangs = y.hub.gangs := by obtain ⟨_, _, _, e⟩ := h.hub; rw [e]
theorem now : z.hub.now = y.hub.now := by obtain ⟨_, _, _, e⟩ := h.hub; rw [e]
theorem logCfg (p : Nat) : (z.part p).logCfg = (y.part p).logCfg := by obtain ⟨_, _, _, e⟩ := h.part p; rw [e]

end LogKept

theorem logKept_modPart {y : Sys} {p : Nat} {f : Part → Part}
    (hf : ∃ ks ms n, f (y.part p) = { y.part p with ckpts := ks, made := ms, logHead := n }) : LogKept y (y.modPart p f) := by
  refine ⟨rfl, rfl, ⟨_, _, _, rfl⟩, fun q => ?_⟩
  rw [Sys.part_modPart]
  split
  · next h => subst h; exact hf
  · exact ⟨_, _, _, rfl⟩

theorem logKept_recordChoice (y : Sys) (p : Nat) (c : Choice) : LogKept y (recordChoice y p c) := logKept_modPart ⟨_, _, _, rfl⟩

theorem logKept_note (y : Sys) (p : Nat) (c : Choice) : LogKept y (note y p c) := logKept_modPart (by split <;> exact ⟨_, _, _, rfl⟩)

theorem logKept_of_parts {y z : Sys} (hd : z.dies = y.dies) (hg : z.gov = y.gov) (hh : ∃ rs fs, z.hub = { y.hub with reqs := rs, fns := fs }) :
    LogKept y z := by
  obtain ⟨_, _, e⟩ := hh
  have hp : ∀ p, z.part p = y.part p := fun p => by simp only [Sys.part, e]
  exact ⟨hd, hg, ⟨_, _, _, e⟩, fun p => ⟨_, _, _, hp p⟩⟩

theorem logKept_objCheck (y : Sys) (md pa : Nat) : LogKept y (objCheck y md pa) := logKept_of_parts rfl rfl ⟨_, _, rfl⟩

theorem logKept_devWrite (y : Sys) (md pa : Nat) (bs : List (Byte × Bool)) : LogKept y (devWrite y md pa bs) := by
  unfold devWrite
  dsimp only
  split
  · exact logKept_of_parts rfl rfl ⟨_, _, rfl⟩
  · refine List.foldlRecOn (motive := fun z : Sys => LogKept y z) _ _ (logKept_of_parts rfl rfl ⟨_, _, rfl⟩) ?_
    exact fun z hz i _ => hz.trans (logKept_objCheck z _ _)

theorem logKept_noteLines (y : Sys) (part ia n : Nat) : LogKept y (noteLines y part ia n) := by
  unfold noteLines
  split
  · exact .refl y
  · exact List.foldlRecOn (motive := fun z : Sys => LogKept y z) _ _ (.refl y) fun z hz i _ => hz.trans (logKept_note z _ _)

theorem logKept_intWrite {y z : Sys} {part ia : Nat} {bs : List (Byte × Bool)} (h : intWrite y part ia bs = some z) : LogKept y z := by
  unfold intWrite at h
  split at h
  case h_1 => exact absurd h (by simp)
  case h_2 l _ =>
    obtain rfl := Option.some.inj h
    exact (logKept_devWrite y l.fdie l.pa bs).trans (logKept_noteLines _ _ _ _)

theorem logKept_writeRecord (y : Sys) (part kind que ctag ent : Nat) (d1 d2 : Word) (ts : Nat) :
    LogKept y (writeRecord y part kind que ctag ent d1 d2 ts) := by
  unfold writeRecord
  dsimp only
  split
  · exact .refl y
  · split
    case h_1 z hz => exact (logKept_intWrite hz).trans (logKept_modPart ⟨_, _, _, rfl⟩)
    case h_2 => exact logKept_modPart ⟨_, _, _, rfl⟩

theorem logKept_logEnd (d l how cause : Nat) (y : Sys) : LogKept y (logEnd d l how cause y) := logKept_writeRecord y _ _ _ _ _ _ _ _

/-- With its log off, a partition has no record written. -/
theorem logEnd_off {y : Sys} {d l : Nat} (h : bitOf (y.part (y.ctx d l).part).logCfg.toNat 63 = false) (how cause : Nat) : logEnd d l how cause y = y := by
  simp [logEnd, debugLog, writeRecord, h]

/-! ## Contexts of one die -/

/-- Nothing differs but the contexts of the dies. -/
structure CtxsOnly (y z : Sys) : Prop where
  hub : z.hub = y.hub
  mems : z.mems = y.mems
  gov : z.gov = y.gov
  die : ∀ e, z.die e = { y.die e with ctxs := (z.die e).ctxs }

namespace CtxsOnly

variable {x y z : Sys}

theorem refl (y : Sys) : CtxsOnly y y := ⟨rfl, rfl, rfl, fun _ => rfl⟩
theorem trans (h : CtxsOnly x y) (k : CtxsOnly y z) : CtxsOnly x z :=
  ⟨k.hub.trans h.hub, k.mems.trans h.mems, k.gov.trans h.gov, fun e => by rw [k.die e, h.die e]⟩

/-- A field of a die that is not its contexts. -/
theorem field (h : CtxsOnly y z) {α : Type} (g : Die → α) (hg : ∀ v cs, g { v with ctxs := cs } = g v) (e : Nat) : g (z.die e) = g (y.die e) := by
  rw [h.die e]; exact hg _ _

theorem cell (h : CtxsOnly y z) (x : Cell) : z.cell x = y.cell x := by
  obtain ⟨e, _ | b, o⟩ := x
  · simp only [Sys.cell, h.field Die.smem (fun _ _ => rfl), h.field Die.smemBad (fun _ _ => rfl)]
  · simp only [Sys.cell, h.field (fun v => v.slice b) (fun _ _ => rfl)]

end CtxsOnly

theorem ctxsOnly_modCtx (y : Sys) (d l : Nat) (f : Ctx → Ctx) : CtxsOnly y (y.modCtx d l f) := by
  refine ⟨rfl, rfl, rfl, fun e => ?_⟩
  simp only [Sys.modCtx, Sys.setCtx, Sys.die_modDie]
  split <;> simp_all

/-- Contexts of one die changed one after another. -/
theorem ctxsOnly_foldl (d : Nat) (f : Ctx → Ctx) (ms : List Nat) (y : Sys) : CtxsOnly y (ms.foldl (fun y m => y.modCtx d m f) y) :=
  List.foldlRecOn (motive := fun z : Sys => CtxsOnly y z) _ _ (.refl y) fun z hz m _ => hz.trans (ctxsOnly_modCtx z d m f)

theorem foldl_modCtx_notMem {d l : Nat} {f : Ctx → Ctx} {ms : List Nat} (h : l ∉ ms) (y : Sys) :
    (ms.foldl (fun y m => y.modCtx d m f) y).ctx d l = y.ctx d l := by
  refine List.foldlRecOn (motive := fun z : Sys => z.ctx d l = y.ctx d l) _ _ rfl fun z hz m hm => ?_
  rw [Sys.ctx_modCtx, if_neg (by rintro ⟨-, rfl⟩; exact h hm), hz]

theorem foldl_modCtx_mem {d l : Nat} {f : Ctx → Ctx} {ms : List Nat} (hnd : ms.Nodup) (h : l ∈ ms) (y : Sys) :
    (ms.foldl (fun y m => y.modCtx d m f) y).ctx d l = f (y.ctx d l) := by
  induction ms generalizing y with
  | nil => exact absurd h List.not_mem_nil
  | cons m ms ih =>
    obtain ⟨hm, hms⟩ := List.nodup_cons.1 hnd
    rw [List.foldl_cons]
    rcases List.mem_cons.1 h with rfl | h'
    · rw [foldl_modCtx_notMem hm, Sys.ctx_modCtx_self]
    · rw [ih hms h', Sys.ctx_modCtx, if_neg (by rintro ⟨-, rfl⟩; exact hm h')]

/-! ## A claim goes back (02 R53) -/

/-- What a piece that leaves its grove does to each of the grove's contexts. -/
def leftBy (l : Nat) (c k : Ctx) : Ctx :=
  { k with alive := k.alive.erase l, fuseBack := if k.piece = 0 && c.piece != 0 then k.fuseBack + c.load else k.fuseBack }

section
variable (d l : Nat) (y : Sys)

theorem endCtx_eq : endCtx d l y = (y.ctx d l).grove.foldl (fun z m => z.modCtx d m (leftBy l (y.ctx d l)))
    ((givenBack d l (y.ctx d l) y).modCtx d l (fun k => { k with retired := true })) := rfl

theorem givenBack_die (c : Ctx) : (givenBack d l c y).die d =
    { dropWaiters (y.die d) l with pool := (y.die d).pool + c.load, ctxs := mset (y.die d).ctxs l c.left } := by
  simp [givenBack, Sys.setCtx, dropWaiters]

theorem givenBack_ctx (c : Ctx) : (givenBack d l c y).ctx d l = c.left := Sys.ctx_setCtx_self _ _ _ _

theorem givenBack_ctx_ne (c : Ctx) {m : Nat} (h : m ≠ l) : (givenBack d l c y).ctx d m = y.ctx d m := by
  simp [Sys.ctx, givenBack_die, mgetD_mset_ne _ _ _ h]

theorem givenBack_die_ne (c : Ctx) {e : Nat} (h : e ≠ d) : (givenBack d l c y).die e = y.die e := by
  simp [givenBack, Sys.setCtx, Sys.die_modDie, h]

theorem givenBack_reqs (c : Ctx) : ∀ q ∈ (givenBack d l c y).hub.reqs, ¬(q.die = d ∧ q.ctx = l) := by
  intro q hq
  have hq' : q ∈ (y.hub.reqs.filter (fun q => !(q.die == d && q.ctx == l))) := hq
  simpa [← not_and_or] using (List.mem_filter.1 hq').2

theorem dropWaiters_count (v : Die) (ps : Nat) : ((dropWaiters v l).sem ps).count = (v.sem ps).count := by
  have hmap := mget?_map (fun s : Sem => { s with waiters := s.waiters.filter (fun w => w.ctx != l) }) v.sems ps
  simp only [Die.sem, dropWaiters, mgetD] at hmap ⊢
  rw [hmap]
  cases mget? v.sems ps <;> rfl

end

/-- The last piece of a grove, alone in it, has given its claim back. -/
structure ClaimBack (y : Sys) (d l : Nat) (u : Sys) : Prop where
  ctx : u.ctx d l = {}
  pool : (u.die d).pool = (y.die d).pool + (y.ctx d l).load
  banks : ∀ b ∈ (y.ctx d l).blocks, mgetD (u.die d).banks b [] = []
  reqs : ∀ q ∈ u.hub.reqs, ¬(q.die = d ∧ q.ctx = l)
  sems : ∀ ps, ((u.die d).sem ps).count = ((y.die d).sem ps).count
  slice : ∀ e b, (u.die e).slice b = (y.die e).slice b
  late : ∀ e, (u.die e).lateSaved = (y.die e).lateSaved
  cell : ∀ z, u.cell z = y.cell z
  mems : u.mems = y.mems
  nodes : u.hub.nodes = y.hub.nodes
  parts : u.hub.parts = y.hub.parts

section
variable {d l : Nat} {y : Sys}

theorem endCtx_ctxsOnly (d l : Nat) (y : Sys) : CtxsOnly (givenBack d l (y.ctx d l) y) (endCtx d l y) :=
  (ctxsOnly_modCtx _ _ _ _).trans (ctxsOnly_foldl _ _ _ _)

variable (hg : (y.ctx d l).grove = [l])
include hg

theorem endCtx_sole : (endCtx d l y).ctx d l = leftBy l (y.ctx d l) { (y.ctx d l).left with retired := true } := by
  rw [endCtx_eq, hg, List.foldl_cons, List.foldl_nil, Sys.ctx_modCtx_self, Sys.ctx_modCtx_self, givenBack_ctx]

theorem claimBack_sole : ClaimBack y d l (freeGrove d l (endCtx d l y)) := by
  have hend := endCtx_ctxsOnly d l y
  have hgrove : ((endCtx d l y).ctx d l).grove = [l] := by rw [endCtx_sole hg]; exact hg
  have hblocks : ((endCtx d l y).ctx d l).blocks = (y.ctx d l).blocks := by rw [endCtx_sole hg]; rfl
  have hb : (mgetD ((endCtx d l y).die d).ctxs l {}).blocks = (y.ctx d l).blocks := hblocks
  have hdie : (freeGrove d l (endCtx d l y)).die d = { (endCtx d l y).die d with
      banks := (y.ctx d l).blocks.foldl merase ((endCtx d l y).die d).banks, ctxs := merase ((endCtx d l y).die d).ctxs l } := by
    simp only [freeGrove, hgrove, Sys.die_modDie_self, List.foldl_cons, List.foldl_nil, hb]
  have hother : ∀ e, e ≠ d → (freeGrove d l (endCtx d l y)).die e = (endCtx d l y).die e := fun e he => by
    simp [freeGrove, Sys.die_modDie, he]
  /- A field that neither the contexts, the pool, the waiters nor the banks are. -/
  have hfield : ∀ {α : Type} (g : Die → α), (∀ v cs bs ss p, g { v with ctxs := cs, banks := bs, sems := ss, pool := p } = g v) →
      ∀ e, g ((freeGrove d l (endCtx d l y)).die e) = g (y.die e) := fun g hgk e => by
    have hgc : ∀ v cs, g { v with ctxs := cs } = g v := fun v cs => hgk v cs v.banks v.sems v.pool
    by_cases he : e = d
    · subst he
      rw [hdie]
      exact (hgk _ _ _ ((endCtx e l y).die e).sems ((endCtx e l y).die e).pool).trans
        ((hend.field g hgc e).trans (by rw [givenBack_die]; exact hgk (y.die e) _ (y.die e).banks (dropWaiters (y.die e) l).sems _))
    · rw [hother e he, hend.field g hgc e, givenBack_die_ne _ _ _ _ he]
  have hslice : ∀ e b, ((freeGrove d l (endCtx d l y)).die e).slice b = (y.die e).slice b :=
    fun e b => hfield (fun v => v.slice b) (fun _ _ _ _ _ => rfl) e
  refine ⟨?_, ?_, fun b hb => ?_, ?_, fun ps => ?_, hslice, hfield Die.lateSaved (fun _ _ _ _ _ => rfl), ?_, hend.mems, ?_, ?_⟩
  · simp [Sys.ctx, hdie, mgetD]
  · rw [hdie]
    show ((endCtx d l y).die d).pool = _
    rw [hend.field Die.pool (fun _ _ => rfl), givenBack_die]
  · rw [hdie]
    simp only [mgetD, mget?_foldl_merase, hb, if_true, Option.getD_none]
  · show ∀ q ∈ (endCtx d l y).hub.reqs, _
    rw [hend.hub]
    exact givenBack_reqs d l y _
  · rw [hdie]
    show (((endCtx d l y).die d).sem ps).count = _
    rw [hend.field (fun v => v.sem ps) (fun _ _ => rfl), givenBack_die]
    exact dropWaiters_count l (y.die d) ps
  · rintro ⟨e, _ | b, o⟩
    · simp only [Sys.cell, hfield Die.smem (fun _ _ _ _ _ => rfl), hfield Die.smemBad (fun _ _ _ _ _ => rfl)]
    · simp only [Sys.cell, hslice]
  · show (endCtx d l y).hub.nodes = _
    rw [hend.hub]; rfl
  · show (endCtx d l y).hub.parts = _
    rw [hend.hub]; rfl

/-- One of the instances ends with a context that is alone in its grove. -/
theorem leaveGrove_sole (ha : (y.ctx d l).alive = [l]) (f : Fate) : leaveGrove d l f y =
    endInstance (y.ctx d l).node (y.ctx d l).inst.toNat (groveFate (y.ctx d l) f) (freeGrove d l (endCtx d l y)) := by
  have halive : ((endCtx d l y).ctx d l).alive.isEmpty = true := by rw [endCtx_sole hg]; simp [leftBy, Ctx.left, ha]
  simp only [leaveGrove, halive, if_true]
  rw [endCtx_sole hg]
  rfl

end

end Sys2Proof.Machine

/-! SUPPORT. How instances end (02 R47, R53, R54, 14 R331, R332, 20 R416, R417): the hub's account of instances, the retirement of a claim that is alone in
its grove, and that of a piece. -/

namespace Sys2Proof.Machine

/-! ## Events and requests to a steward -/

section
variable (y : Sys) (d kind ctx sub need arg : Nat)

@[simp] theorem postEvent_hub : (postEvent y d kind ctx sub need arg).hub = y.hub := rfl
@[simp] theorem postEvent_mems : (postEvent y d kind ctx sub need arg).mems = y.mems := rfl
@[simp] theorem postEvent_gov : (postEvent y d kind ctx sub need arg).gov = y.gov := rfl

/-- A field of a die that its events are not. -/
theorem postEvent_field {α : Type} (g : Die → α) (hg : ∀ v es hs, g { v with events := es, heldEvents := hs } = g v) (e : Nat) :
    g ((postEvent y d kind ctx sub need arg).die e) = g (y.die e) := by
  rw [postEvent, Sys.die_modDie]
  split
  · next h =>
    subst h
    unfold Die.post
    split
    · exact hg (y.die e) _ (y.die e).heldEvents
    · exact hg (y.die e) (y.die e).events _
  · rfl

@[simp] theorem postEvent_ctx (e l : Nat) : (postEvent y d kind ctx sub need arg).ctx e l = y.ctx e l :=
  postEvent_field y d kind ctx sub need arg (fun v => mgetD v.ctxs l {}) (fun _ _ _ => rfl) e

@[simp] theorem postEvent_cell (x : Cell) : (postEvent y d kind ctx sub need arg).cell x = y.cell x := by
  obtain ⟨e, _ | b, o⟩ := x
  · simp only [Sys.cell, postEvent_field y d kind ctx sub need arg Die.smem (fun _ _ _ => rfl),
      postEvent_field y d kind ctx sub need arg Die.smemBad (fun _ _ _ => rfl)]
  · simp only [Sys.cell, postEvent_field y d kind ctx sub need arg (fun v => v.slice b) (fun _ _ _ => rfl)]

theorem posted_postEvent : (postEvent y d kind ctx sub need arg).posted d kind ctx sub need arg := by
  simp only [Sys.posted, postEvent, Sys.die_modDie_self, Die.post]
  split <;> simp

end

/-- What a QREQ leaves as it was. -/
structure QreqKept (y z : Sys) : Prop where
  hub : z.hub = y.hub
  mems : z.mems = y.mems
  gov : z.gov = y.gov
  free : ∀ d l, (y.ctx d l).isFree = true → z.ctx d l = y.ctx d l

theorem qreqKept_postQreqs (pick : Ctx → Bool) (cause : Nat) (y : Sys) : QreqKept y (postQreqs pick cause y) := by
  refine List.foldlRecOn (motive := fun z : Sys => QreqKept y z) _ _ ⟨rfl, rfl, rfl, fun _ _ _ => rfl⟩ fun z hz x _ => ?_
  show QreqKept y (if pick x.2.2 then postQreq x.1 x.2.1 cause z else z)
  split
  case isFalse => exact hz
  case isTrue =>
    unfold postQreq
    split
    case isTrue => exact hz
    case isFalse hbusy =>
      refine ⟨hz.hub, hz.mems, hz.gov, fun d l hfree => ?_⟩
      rw [postEvent_ctx, Sys.ctx_modCtx, ← hz.free d l hfree, if_neg]
      rintro ⟨rfl, rfl⟩
      exact hbusy (by rw [hz.free _ _ hfree]; exact hfree)

/-! ## The account of instances (14 R331) -/

theorem Node.fail_failed (n : Node) (cause kind : Nat) : (n.fail cause kind).failed = some (n.failed.getD cause) := by
  unfold Node.fail; split <;> simp_all

theorem Node.fail_again (n : Node) (cause kind : Nat) : (n.fail cause kind).rerun = [] ∧ (n.fail cause kind).again = [] := by
  unfold Node.fail; split <;> exact ⟨rfl, rfl⟩

theorem Node.fail_count (n : Node) (cause kind : Nat) : (n.fail cause kind).live = n.live ∧ (n.fail cause kind).ended = n.ended := by
  unfold Node.fail; split <;> exact ⟨rfl, rfl⟩

/-- The node has one of its instances less, ended in error, and the stewards of those that have not started are asked to give them back. -/
def failInstance (k cause : Nat) (y : Sys) : Sys :=
  recallUnstarted k cause (y.modNode k (fun n => { n with live := n.live - 1, ended := n.ended + 1 }.fail cause eEcomp))

theorem endInstance_error (k inst cause : Nat) (y : Sys) : endInstance k inst (.error cause) y = hubGo (failInstance k cause y) := rfl

theorem endedWith_failInstance {k : Nat} {y : Sys} {n : Node} (hn : y.hub.node? k = some n) (cause : Nat) :
    EndedWith (failInstance k cause y) k n cause := by
  refine ⟨{ n with live := n.live - 1, ended := n.ended + 1 }.fail cause eEcomp, ?_, (Node.fail_count _ _ _).1, (Node.fail_count _ _ _).2,
    Node.fail_failed _ _ _, (Node.fail_again _ _ _).1, (Node.fail_again _ _ _).2⟩
  rw [failInstance, recallUnstarted, (qreqKept_postQreqs _ _ _).hub, modNode_node hn]

theorem failInstance_ctx {d l : Nat} {y : Sys} (h : y.ctx d l = {}) (k cause : Nat) : (failInstance k cause y).ctx d l = {} :=
  ((qreqKept_postQreqs _ _ _).free d l (by show (y.ctx d l).isFree = true; rw [h]; rfl)).trans h

theorem failInstance_part (k cause : Nat) (y : Sys) (p : Nat) : (failInstance k cause y).part p = y.part p := by
  rw [failInstance, recallUnstarted, Sys.part, (qreqKept_postQreqs _ _ _).hub]
  unfold Sys.modNode
  simp only [Sys.hub_modHub]
  split <;> rfl

/-! ## The decrement of SIGOBJ (02 R53) -/

theorem length_leSplit (n v : Nat) : (leSplit n v).length = n := by
  induction n generalizing v with
  | zero => rfl
  | succ n ih => simp [leSplit, ih]

theorem leNat_leSplit (n v : Nat) : leNat (leSplit n v) = v % 256 ^ n := by
  induction n generalizing v with
  | zero => simp [leSplit, leNat, Nat.mod_one]
  | succ n ih =>
    have hhead : (BitVec.ofNat 8 v).toNat = v % 256 := BitVec.toNat_ofNat v 8
    rw [leSplit, leNat, ih, hhead, Nat.pow_succ', Nat.mod_mul]

theorem memPut_mem (m : MemDie) (pa : Nat) (bs : List (Byte × Bool)) : (memPut m pa bs).mem = wrBytes m.mem pa (bs.map (·.1)) := by
  induction bs generalizing m pa with
  | nil => rfl
  | cons b bs ih => rw [memPut, ih]; rfl

/-- What has been written reads back. -/
theorem rdBytes_wrBytes (m : Mem) (a : Nat) (l : List Byte) : rdBytes (wrBytes m a l) a l.length = l := by
  refine List.ext_getElem (by simp [rdBytes]) fun k hk hl => ?_
  simp only [rdBytes, List.getElem_map, List.getElem_range]
  rw [rdByte_wrBytes_in l m a k hl]

theorem memDie_devWrite (y : Sys) (md pa : Nat) (bs : List (Byte × Bool)) :
    ((devWrite y md pa bs).memDie md).mem = wrBytes (y.memDie md).mem pa (bs.map (·.1)) := by
  have hmems : (devWrite y md pa bs).mems = (y.modMem md (fun m => memPut m pa bs)).mems.map
      (fun mv => (mv.1, { mv.2 with move := mv.2.move.map (fun v => noteDirty v md pa bs.length) })) := by
    unfold devWrite
    dsimp only
    split
    · rfl
    · exact List.foldlRecOn (motive := fun z : Sys => z.mems = _) _ _ rfl fun z hz i _ => hz
  have hmap := mget?_map (fun m : MemDie => { m with move := m.move.map (fun v => noteDirty v md pa bs.length) })
    (y.modMem md (fun m => memPut m pa bs)).mems md
  have hself : mget? (y.modMem md (fun m => memPut m pa bs)).mems md = some (memPut (y.memDie md) pa bs) := mget?_mset_self _ _ _
  rw [hself, ← hmems] at hmap
  show ((mget? (devWrite y md pa bs).mems md).getD {}).mem = _
  rw [hmap]
  exact memPut_mem _ _ _

/-- A decrement, performed on a value without an uncorrectable byte. -/
theorem performReq_sig {y : Sys} {md pa : Nat} (h : ∀ i < 8, (devByte y md (pa + i)).2 = false) (v : Word) :
    LogKept y (performReq y (.sig v) md pa).1 ∧
      dev64 ((performReq y (.sig v) md pa).1.memDie md) pa = (dev64 (y.memDie md) pa + 2 ^ 64 - v.toNat) % 2 ^ 64 := by
  have hclean : (devRead y md pa 8).any (·.2) = false := by
    simp only [devRead, List.any_map, List.any_eq_false, List.mem_range]
    intro i hi
    simp [h i hi]
  have hold : leNat ((devRead y md pa 8).map (·.1)) = dev64 (y.memDie md) pa := by simp only [devRead, devByte, dev64, rdBytes, List.map_map]; rfl
  have hdone : (performReq y (.sig v) md pa).1 = devWrite y md pa (clean (leSplit 8 ((dev64 (y.memDie md) pa + 2 ^ 64 - v.toNat) % 2 ^ 64))) := by
    simp only [performReq, performUnit, hclean, Bool.false_eq_true, if_false, hold]
  have hbytes : ∀ l : List Byte, (clean l).map (·.1) = l := fun l => by simp [clean, List.map_map, Function.comp_def]
  refine ⟨by rw [hdone]; exact logKept_devWrite _ _ _ _, ?_⟩
  rw [hdone, dev64, memDie_devWrite, hbytes]
  have h8 := rdBytes_wrBytes (y.memDie md).mem pa (leSplit 8 ((dev64 (y.memDie md) pa + 2 ^ 64 - v.toNat) % 2 ^ 64))
  rw [length_leSplit] at h8
  rw [h8, leNat_leSplit]
  omega

/-! ## A context alone in its grove -/

/-- Where context `l` of die `d` is alone in its grove, which has met no error. -/
structure Sole (y : Sys) (d l : Nat) : Prop where
  grove : (y.ctx d l).grove = [l]
  alive : (y.ctx d l).alive = [l]

theorem Sole.of_ctx {y z : Sys} {d l : Nat} (h : Sole y d l) (k : z.ctx d l = y.ctx d l) : Sole z d l := ⟨by rw [k, h.grove], by rw [k, h.alive]⟩

/-- What ran in it ends with it, and its claim has gone back before that. -/
theorem Sole.leaves {y : Sys} {d l : Nat} (h : Sole y d l) (f : Fate) : ∃ z, ClaimBack y d l z ∧
    leaveGrove d l f y = endInstance (y.ctx d l).node (y.ctx d l).inst.toNat (groveFate (y.ctx d l) f) z :=
  ⟨_, claimBack_sole h.grove, leaveGrove_sole h.grove h.alive f⟩

theorem groveFate_plain {c : Ctx} (he : c.groveErr = none) (hk : c.groveKill = false) (f : Fate) : groveFate c f = f := by
  simp [groveFate, he, hk]

/-! ## Retirement (02 R53) -/

/-- The retirement of a context alone in its grove, once the record of its end has been logged. -/
theorem retireWith_sole {y : Sys} {d l : Nat} (hs : Sole y d l) (he : (y.ctx d l).groveErr = none) (hk : (y.ctx d l).groveKill = false) (f : Fate) (cause : Nat) :
    ∃ z, ClaimBack (logEnd d l 0 cause y) d l z ∧
      retireWith d l f cause y = postEvent (endInstance (y.ctx d l).node (y.ctx d l).inst.toNat f z) d 8 l 0 0 0 := by
  have hlog := logKept_logEnd d l 0 cause y
  obtain ⟨z, hz, hleave⟩ := (hs.of_ctx (hlog.ctx d l)).leaves f
  refine ⟨z, hz, ?_⟩
  rw [retireWith, hleave, hlog.ctx, groveFate_plain he hk]

/-- What INSTANCE_RETIRE asks of a context. -/
structure Retires (y : Sys) (d l : Nat) (n : Node) : Prop where
  sole : Sole y d l
  st : (y.ctx d l).st = .ending
  tended : (y.ctx d l).tended = true
  going : (y.ctx d l).endBy = false
  entries : (y.ctx d l).entries = []
  stopped : (y.ctx d l).stopped = false
  piece : (y.ctx d l).piece = 0
  err : (y.ctx d l).groveErr = none
  kill : (y.ctx d l).groveKill = false
  node : y.hub.node? (y.ctx d l).node = some n

section
variable {y : Sys} {d l : Nat} {n : Node} (h : Retires y d l n)
include h

theorem Retires.step : instanceRetireStep d l y = retireInstance d l y := by
  simp [instanceRetireStep, Ctx.drained, h.st, h.tended, h.going, h.entries, h.stopped, h.piece, h.sole.alive]

/-- Members of a gang that has faulted, and instances without a decrement, end without one. -/
theorem Retires.plain (hdec : n.gangOut = true ∨ decPlace y (y.ctx d l) = .ok none) : retireInstance d l y = retireWith d l .retired 0 y := by
  simp only [retireInstance, h.err, h.kill, h.node, Option.isSome_none, Bool.or_false, Bool.false_or, Option.map_some, Option.getD_some]
  by_cases hg : n.gangOut = true
  · rw [if_pos hg]
  · rw [if_neg hg, hdec.resolve_left hg]

theorem Retires.fails (hg : n.gangOut = false) {e : Nat} (hdec : decPlace y (y.ctx d l) = .error e) :
    retireInstance d l y = retireWith d l (.error cCopyFault) cCopyFault y := by
  simp [retireInstance, h.err, h.kill, h.node, hg, hdec]

theorem Retires.decrements (hg : n.gangOut = false) {f : Leaf} {ia : Nat} (hdec : decPlace y (y.ctx d l) = .ok (some (f, ia)))
    (hlive : (y.part (y.ctx d l).part).replay = none) : retireInstance d l y = retireWith d l .retired 0
      (performReq (recordChoice y (y.ctx d l).part (.line (ia / 64) (y.ctx d l).ctag 15)) (.sig (BitVec.ofNat 64 (recDec (y.ctx d l).record))) f.fdie f.pa).1 := by
  simp [retireInstance, h.err, h.kill, h.node, hg, hdec, gated_live _ hlive]

/-- How one of the instances ends after its entries, with what has happened to `z` in between. -/
theorem Retires.ends {z : Sys} (hz : LogKept y z) (f : Fate) (cause : Nat) : ∃ u, ClaimBack (logEnd d l 0 cause z) d l u ∧
    LogKept y (logEnd d l 0 cause z) ∧ u.hub.node? (y.ctx d l).node = some n ∧
      retireWith d l f cause z = postEvent (endInstance (y.ctx d l).node (y.ctx d l).inst.toNat f u) d 8 l 0 0 0 := by
  have hctx := hz.ctx d l
  have hlog := hz.trans (logKept_logEnd d l 0 cause z)
  obtain ⟨u, hu, hret⟩ := retireWith_sole (h.sole.of_ctx hctx) (by rw [hctx, h.err]) (by rw [hctx, h.kill]) f cause
  refine ⟨u, hu, hlog, ?_, by rw [hret, hctx]⟩
  rw [Hub.node?, hu.nodes, hlog.nodes]
  exact h.node

end

/-- One of the instances less, ended as it should. -/
def countEnded (k : Nat) (y : Sys) : Sys := y.modNode k (fun n => { n with live := n.live - 1, ended := n.ended + 1 })

/-- What the account of instances leaves as it was. -/
theorem modNode_kept (k : Nat) (f : Node → Node) (y : Sys) : (y.modNode k f).dies = y.dies ∧ (y.modNode k f).mems = y.mems ∧
    (y.modNode k f).hub.reqs = y.hub.reqs ∧ (y.modNode k f).hub.parts = y.hub.parts := by
  simp only [Sys.modNode, Sys.dies_modHub, Sys.mems_modHub, Sys.hub_modHub, true_and]
  split <;> exact ⟨rfl, rfl⟩

/-! ## Pieces (02 R47) -/

section
variable {d l : Nat} {y : Sys} {c : Ctx}

theorem endCtx_self (hc : c = y.ctx d l) (hnd : c.grove.Nodup) : ((endCtx d l y).ctx d l).st = .free ∧ ((endCtx d l y).ctx d l).retired = true ∧
    (c.alive.erase l ≠ [] → ((endCtx d l y).ctx d l).alive ≠ []) := by
  subst hc
  rw [endCtx_eq]
  by_cases hl : l ∈ (y.ctx d l).grove
  · rw [foldl_modCtx_mem hnd hl, Sys.ctx_modCtx_self, givenBack_ctx]
    exact ⟨rfl, rfl, id⟩
  · rw [foldl_modCtx_notMem hl, Sys.ctx_modCtx_self, givenBack_ctx]
    refine ⟨rfl, rfl, fun h hnil => h ?_⟩
    have hnil' : (y.ctx d l).alive = [] := hnil
    rw [hnil', List.erase_nil]

theorem endCtx_sibling (hc : c = y.ctx d l) (hnd : c.grove.Nodup) {m : Nat} (hm : m ∈ c.grove) (hne : m ≠ l) :
    (endCtx d l y).ctx d m = leftBy l c (y.ctx d m) := by
  subst hc
  rw [endCtx_eq, foldl_modCtx_mem hnd hm, Sys.ctx_modCtx, if_neg (by rintro ⟨-, rfl⟩; exact hne rfl), givenBack_ctx_ne _ _ _ _ hne]

theorem endCtx_pool (hc : c = y.ctx d l) : ((endCtx d l y).die d).pool = (y.die d).pool + c.load := by
  subst hc
  rw [(endCtx_ctxsOnly d l y).field Die.pool (fun _ _ => rfl), givenBack_die]

/-- A field of a die that a claim given back leaves as it was. -/
theorem givenBack_field {α : Type} (g : Die → α) (hg : ∀ v cs ss p, g { v with ctxs := cs, sems := ss, pool := p } = g v) (e : Nat) :
    g ((givenBack d l c y).die e) = g (y.die e) := by
  by_cases he : e = d
  · subst he
    rw [givenBack_die]
    exact hg (y.die e) _ (dropWaiters (y.die e) l).sems _
  · rw [givenBack_die_ne _ _ _ _ he]

theorem endCtx_cell (x : Cell) : (endCtx d l y).cell x = y.cell x := by
  rw [(endCtx_ctxsOnly d l y).cell]
  obtain ⟨e, _ | b, o⟩ := x
  · simp only [Sys.cell, givenBack_field Die.smem (fun _ _ _ _ => rfl), givenBack_field Die.smemBad (fun _ _ _ _ => rfl)]
  · simp only [Sys.cell, givenBack_field (fun v => v.slice b) (fun _ _ _ _ => rfl)]

/-- A piece leaves its siblings, of whom one still runs. -/
theorem pieceRetire_leaves (hc : c = y.ctx d l) (hnd : c.grove.Nodup) (ha : c.alive.erase l ≠ []) (f : Fate) (cause : Nat) :
    retireWith d l f cause y = postEvent (noteExcess (endCtx d l (logEnd d l 0 cause y))) d 8 l 0 0 0 := by
  have hctx := (logKept_logEnd d l 0 cause y).ctx d l
  have halive := (endCtx_self (y := logEnd d l 0 cause y) (d := d) (l := l) rfl (by rw [hctx, ← hc]; exact hnd)).2.2 (by rw [hctx, ← hc]; exact ha)
  simp only [retireWith, leaveGrove, List.isEmpty_iff, halive, if_false]

end

/-! ## Quiescence (20 R416) -/

/-- What QUIESCE_COMPLETE asks of a context. -/
structure Quiesces (y : Sys) (d l : Nat) : Prop where
  sole : Sole y d l
  st : (y.ctx d l).st = .ending
  ends : (y.ctx d l).endBy = true
  entries : ∀ x ∈ (y.ctx d l).entries, 8 ≤ x.1
  stopped : (y.ctx d l).stopped = false
  err : (y.ctx d l).groveErr = none
  kill : (y.ctx d l).groveKill = false

@[simp] theorem markGrove_grove (c k : Ctx) : (markGrove c k).grove = k.grove := by unfold markGrove; split <;> rfl
@[simp] theorem markGrove_alive (c k : Ctx) : (markGrove c k).alive = k.alive := by unfold markGrove; split <;> rfl
@[simp] theorem markGrove_node (c k : Ctx) : (markGrove c k).node = k.node := by unfold markGrove; split <;> rfl
@[simp] theorem markGrove_inst (c k : Ctx) : (markGrove c k).inst = k.inst := by unfold markGrove; split <;> rfl

/-- The fate of instances that a quiescence ends. -/
def quiescedFate (c : Ctx) : Fate :=
  match c.endCause with
  | some e => .error e
  | none => .killed

theorem groveFate_marked {c : Ctx} (he : c.groveErr = none) : groveFate (markGrove c c) .killed = quiescedFate c := by
  cases h : c.endCause <;> simp [groveFate, markGrove, quiescedFate, h, he]

theorem groveFate_quiesced {c : Ctx} (he : c.groveErr = none) : groveFate (markGrove c c) (quiescedFate c) = quiescedFate c := by
  cases h : c.endCause <;> simp [groveFate, markGrove, quiescedFate, h, he]

/-- The slot of a save that a quiescence ends is free. -/
theorem endSave_kept (c : Ctx) (y : Sys) : (endSave c y).dies = y.dies ∧ (endSave c y).hub.nodes = y.hub.nodes ∧
    ∀ sl, c.saveSlot = some sl → ((endSave c y).part c.part).slot sl = {} := by
  unfold endSave
  split
  case h_1 h => exact ⟨rfl, rfl, fun sl hsl => by rw [h] at hsl; exact absurd hsl (by simp)⟩
  case h_2 sl' h =>
    refine ⟨rfl, rfl, fun sl hsl => ?_⟩
    obtain rfl := Option.some.inj (h.symm.trans hsl)
    simp [Part.slot, mgetD]

section
variable {y : Sys} {d l : Nat} (h : Quiesces y d l)
include h

/-- A quiesced context that is alone in its grove gives its claim back and ends what ran in it. -/
theorem Quiesces.step : ∃ z, (∀ k, z.hub.node? k = y.hub.node? k) ∧ z.ctx d l = {} ∧
    (∀ sl, (y.ctx d l).saveSlot = some sl → (z.part (y.ctx d l).part).slot sl = {}) ∧
    quiesceCompleteStep d l y = postQuiesced d l (y.ctx d l).endSub
      (endInstance (y.ctx d l).node (y.ctx d l).inst.toNat (quiescedFate (y.ctx d l)) z) := by
  have hlog := logKept_logEnd d l (if (y.ctx d l).killed then 3 else 2) ((y.ctx d l).endCause.getD 0) y
  have hentries : (y.ctx d l).entries.any (fun qe => qe.1 < 8) = false := by
    simp only [List.any_eq_false, decide_eq_true_eq, Nat.not_lt]
    exact h.entries
  have hstep : quiesceCompleteStep d l y = postQuiesced d l (y.ctx d l).endSub (leaveGrove d l (quiescedFate (y.ctx d l))
      (modGrove d l (markGrove (y.ctx d l)) (endSave (y.ctx d l)
        (logEnd d l (if (y.ctx d l).killed then 3 else 2) ((y.ctx d l).endCause.getD 0) y)))) := by
    simp [quiesceCompleteStep, h.st, h.ends, h.stopped, hentries, groveFate_marked h.err]
  revert hlog hstep
  generalize logEnd d l (if (y.ctx d l).killed then 3 else 2) ((y.ctx d l).endCause.getD 0) y = x
  intro hlog hstep
  obtain ⟨hsdies, hsnodes, hsslot⟩ := endSave_kept (y.ctx d l) x
  have hsctx : (endSave (y.ctx d l) x).ctx d l = y.ctx d l := (Sys.ctx_of_dies hsdies d l).trans (hlog.ctx d l)
  have hgrove : modGrove d l (markGrove (y.ctx d l)) (endSave (y.ctx d l) x) = (endSave (y.ctx d l) x).modCtx d l (markGrove (y.ctx d l)) := by
    rw [modGrove, hsctx, h.sole.grove]; rfl
  have hmark : ((endSave (y.ctx d l) x).modCtx d l (markGrove (y.ctx d l))).ctx d l = markGrove (y.ctx d l) (y.ctx d l) := by
    rw [Sys.ctx_modCtx_self, hsctx]
  obtain ⟨z, hz, hleave⟩ := Sole.leaves (y := (endSave (y.ctx d l) x).modCtx d l (markGrove (y.ctx d l))) (d := d) (l := l)
    ⟨by rw [hmark, markGrove_grove, h.sole.grove], by rw [hmark, markGrove_alive, h.sole.alive]⟩ (quiescedFate (y.ctx d l))
  refine ⟨z, fun k => ?_, hz.ctx, fun sl hsl => ?_, ?_⟩
  · rw [Hub.node?, hz.nodes, Hub.node?, ← hlog.nodes, ← hsnodes]; rfl
  · rw [← hsslot sl hsl, Sys.part, hz.parts]; rfl
  · rw [hstep, hgrove, hleave, hmark, markGrove_node, markGrove_inst, groveFate_quiesced h.err]

end

section
variable {y : Sys} {d l : Nat} {n : Node} (h : Retires y d l n)
include h

/-- One of the instances ends as it should, with what has happened to `z` in between. -/
theorem Retires.retired {z : Sys} (hz : LogKept y z) : ∃ u, ClaimBack (logEnd d l 0 0 z) d l u ∧ LogKept y (logEnd d l 0 0 z) ∧
    (countEnded (y.ctx d l).node u).hub.node? (y.ctx d l).node = some { n with live := n.live - 1, ended := n.ended + 1 } ∧
      retireWith d l .retired 0 z = postEvent (hubGo (countEnded (y.ctx d l).node u)) d 8 l 0 0 0 := by
  obtain ⟨u, hback, hlog, hnode, hret⟩ := h.ends hz .retired 0
  exact ⟨u, hback, hlog, modNode_node hnode _, hret⟩

end

/-- One of the instances less, to run again unless its record has failed. -/
def rerunInstance (k inst : Nat) (y : Sys) : Sys :=
  y.modNode k (fun n => { n with live := n.live - 1, rerun := if n.failed.isSome then [] else n.rerun ++ [inst] })

theorem endInstance_killed (k inst : Nat) (y : Sys) : endInstance k inst .killed y = hubGo (rerunInstance k inst y) := rfl

/-- What the account of instances reads from a claim. -/
theorem countEnded_claim {y u : Sys} {d l : Nat} (h : ClaimBack y d l u) (k : Nat) : (countEnded k u).ctx d l = {} ∧
    ((countEnded k u).die d).pool = (y.die d).pool + (y.ctx d l).load ∧ (∀ b ∈ (y.ctx d l).blocks, mgetD ((countEnded k u).die d).banks b [] = []) ∧
    (∀ q ∈ (countEnded k u).hub.reqs, ¬(q.die = d ∧ q.ctx = l)) ∧ (∀ ps, (((countEnded k u).die d).sem ps).count = ((y.die d).sem ps).count) ∧
    (∀ z, (countEnded k u).cell z = y.cell z) ∧ (countEnded k u).mems = y.mems := by
  obtain ⟨hdies, hmems, hreqs, -⟩ := modNode_kept k (fun n => { n with live := n.live - 1, ended := n.ended + 1 }) u
  have hdie : (countEnded k u).die d = u.die d := by simp only [Sys.die, countEnded, hdies]
  refine ⟨(Sys.ctx_of_dies hdies d l).trans h.ctx, hdie ▸ h.pool, hdie ▸ h.banks, ?_, hdie ▸ h.sems, fun z => ?_, hmems.trans h.mems⟩
  · rw [countEnded, hreqs]; exact h.reqs
  · exact (Sys.cell_of_dies hdies z).trans (h.cell z)

/-- A piece that retires while a sibling runs. -/
theorem pieceRetireStep_leaves {y : Sys} {d l : Nat} {c : Ctx} (hc : c = y.ctx d l) (hst : c.st = .ending) (ht : c.tended = true) (he : c.endBy = false)
    (hentries : c.entries = []) (hstop : c.stopped = false) (hp : c.piece ≠ 0) (hnd : c.grove.Nodup) (ha : c.alive.erase l ≠ []) :
    pieceRetireStep d l y = postEvent (noteExcess (endCtx d l (logEnd d l 0 0 y))) d 8 l 0 0 0 := by
  rw [← pieceRetire_leaves hc hnd ha .retired 0]
  subst hc
  simp [pieceRetireStep, Ctx.drained, hst, ht, he, hentries, hstop, hp]

@[simp] theorem noteExcess_die (y : Sys) (e : Nat) : (noteExcess y).die e = y.die e := rfl
@[simp] theorem noteExcess_ctx (y : Sys) (e m : Nat) : (noteExcess y).ctx e m = y.ctx e m := rfl
@[simp] theorem noteExcess_cell (y : Sys) (x : Cell) : (noteExcess y).cell x = y.cell x := rfl

theorem watchdogStep_due {y : Sys} {d l : Nat} {c : Ctx} (hc : c = y.ctx d l) (hdue : c.wdDue = true) (hen : c.wdEn = true) (hlim : c.wdLimit ≠ 0)
    (hlate : c.wdLimit ≤ c.wdCycles / 1024) (hst : c.st ≠ .free) (hstop : c.stopped = false) : watchdogStep d l y =
      if c.tended then addDiePend (y.modCtx d l (fun c => { c with wdDue := false })) d (.watchdog l)
      else addPend (y.modCtx d l (fun c => { c with wdDue := false })) d l .watchdog := by
  subst hc
  simp [watchdogStep, Ctx.isFree, hdue, hen, hlim, hlate, hst, hstop]

/-- A cause that is pending on a die's steward. -/
theorem addDiePend_mem (y : Sys) (d : Nat) (p : DieCause) : p ∈ ((addDiePend y d p).die d).pend := by
  rw [addDiePend, Sys.die_modDie_self]
  split
  · next h => exact List.contains_iff_mem.1 h
  · exact List.mem_append_right _ (List.mem_singleton_self p)

theorem addDiePend_ctx (y : Sys) (d l : Nat) (p : DieCause) : (addDiePend y d p).ctx d l = y.ctx d l := by
  simp only [Sys.ctx, addDiePend, Sys.die_modDie_self]
  split <;> rfl

/-- Settles O52: each event by the rule for how instances, pieces and quiesced contexts end. -/
theorem instanceEvents : Obligations.InstanceEvents := by
  unfold Obligations.InstanceEvents
  intro s d l c hc
  subst hc
  refine ⟨fun hst ht he hentries hstop => ⟨fun n hp ha hg herr hkill hn => ?_, fun hp hnd ha => ?_⟩,
    fun hst he hstop hentries hg ha herr hkill n hn => ?_, fun hdue hen hlim hlate hst hstop => ?_, fun e rest hheld hroom => ?_⟩
  · have h : Retires s.sys d l n := ⟨⟨hg, ha⟩, hst, ht, he, hentries, hstop, hp, herr, hkill, hn⟩
    refine ⟨fun hdec => ?_, fun hout hlog => ?_, fun f ia hout hdec hlive hbad hlog => ?_, fun e hout hdec => ?_⟩
    · obtain ⟨u, hback, hlog, hnode, hret⟩ := h.retired (.refl s.sys)
      obtain ⟨hctx, hpool, hbanks, hreqs, hsems, hcells, -⟩ := countEnded_claim hback (s.sys.ctx d l).node
      simp only [hlog.ctx, hlog.die, hlog.cell] at hpool hbanks hsems hcells
      exact ends_of_ev rfl (h.step.trans ((h.plain (.inr hdec)).trans hret)) ⟨_, rfl, hctx, hpool, hnode, hbanks, hreqs, hsems, hcells⟩
    · obtain ⟨u, hback, -, hnode, hret⟩ := h.retired (.refl s.sys)
      obtain ⟨hctx, -, -, -, -, -, hmems⟩ := countEnded_claim hback (s.sys.ctx d l).node
      rw [logEnd_off hlog] at hmems
      exact ends_of_ev rfl (h.step.trans ((h.plain (.inl hout)).trans hret)) ⟨_, rfl, hctx, hmems, hnode⟩
    · have hkept := logKept_recordChoice s.sys (s.sys.ctx d l).part (.line (ia / 64) (s.sys.ctx d l).ctag 15)
      obtain ⟨hperf, hval⟩ := performReq_sig (y := recordChoice s.sys (s.sys.ctx d l).part (.line (ia / 64) (s.sys.ctx d l).ctag 15)) (md := f.fdie)
        (pa := f.pa) hbad (BitVec.ofNat 64 (recDec (s.sys.ctx d l).record))
      have hz := hkept.trans hperf
      obtain ⟨u, hback, -, hnode, hret⟩ := h.retired hz
      obtain ⟨hctx, -, -, -, -, -, hmems⟩ := countEnded_claim hback (s.sys.ctx d l).node
      rw [logEnd_off (by rw [hz.ctx, hz.logCfg]; exact hlog)] at hmems
      refine ends_of_ev rfl (h.step.trans ((h.decrements hout hdec hlive).trans hret)) ⟨_, rfl, hctx, ?_⟩
      have hdec64 : (BitVec.ofNat 64 (recDec (s.sys.ctx d l).record)).toNat = recDec (s.sys.ctx d l).record := by
        rw [BitVec.toNat_ofNat]
        exact Nat.mod_eq_of_lt (by simp only [recDec, lfld, bitsOf]; omega)
      rw [hdec64] at hval
      simp only [Sys.memDie, hmems]
      exact hval
    · obtain ⟨u, hback, -, hnode, hret⟩ := h.ends (.refl s.sys) (.error cCopyFault) cCopyFault
      exact ends_of_ev rfl (h.step.trans ((h.fails hout hdec).trans hret))
        ⟨_, rfl, failInstance_ctx hback.ctx _ _, endedWith_failInstance hnode _⟩
  · have hlog := logKept_logEnd d l 0 0 s.sys
    have hctx : (logEnd d l 0 0 s.sys).ctx d l = s.sys.ctx d l := hlog.ctx d l
    obtain ⟨hfree, hret, -⟩ := endCtx_self hctx.symm hnd
    refine ends_of_ev rfl (pieceRetireStep_leaves rfl hst ht he hentries hstop hp hnd ha) ⟨posted_postEvent _ _ _ _ _ _ _, ?_, ?_, ?_, fun x => ?_, fun m hm hne => ?_⟩
    · rw [postEvent_ctx]; exact hfree
    · rw [postEvent_ctx]; exact hret
    · rw [postEvent_field _ _ _ _ _ _ _ Die.pool (fun _ _ _ => rfl), noteExcess_die, endCtx_pool hctx.symm, hlog.die]
    · rw [postEvent_cell, noteExcess_cell, endCtx_cell, hlog.cell]
    · rw [postEvent_ctx, noteExcess_ctx, endCtx_sibling hctx.symm hnd hm hne, hlog.ctx]
      exact ⟨rfl, rfl, fun hz => by simp [leftBy, hz, hp]⟩
  · have h : Quiesces s.sys d l := ⟨⟨hg, ha⟩, hst, he, hentries, hstop, herr, hkill⟩
    obtain ⟨z, hnodes, hctx, hslot, hstep⟩ := h.step
    have hnz : z.hub.node? (s.sys.ctx d l).node = some n := (hnodes _).trans hn
    refine ⟨fun e sl hsub hcause hsl => ends_of_ev rfl hstep ?_, fun e hsub hcause => ends_of_ev rfl hstep ?_, fun hsub hcause hfailed => ends_of_ev rfl hstep ?_⟩
    · refine ⟨failInstance (s.sys.ctx d l).node e z, ?_, failInstance_ctx hctx _ _, ?_, endedWith_failInstance hnz e⟩
      · simp [postQuiesced, hsub, savedRefused, quiescedFate, hcause, endInstance_error]
      · rw [failInstance_part]; exact hslot sl hsl
    · refine ⟨failInstance (s.sys.ctx d l).node e z, ?_, failInstance_ctx hctx _ _, endedWith_failInstance hnz e⟩
      simp [postQuiesced, hsub, savedRefused, quiescedFate, hcause, endInstance_error]
    · refine ⟨rerunInstance (s.sys.ctx d l).node (s.sys.ctx d l).inst.toNat z, ?_, ?_, ?_⟩
      · simp [postQuiesced, hsub, savedRefused, quiescedFate, hcause, endInstance_killed]
      · rw [← hctx]; exact Sys.ctx_of_dies (modNode_kept _ _ _).1 d l
      · rw [rerunInstance, modNode_node hnz, hfailed]; rfl
  · have hstep := watchdogStep_due (y := s.sys) rfl hdue hen hlim hlate hst hstop
    refine ⟨fun ht => ends_of_ev rfl (hstep.trans (if_neg (by simp [ht]))) ?_, fun ht => ends_of_ev rfl (hstep.trans (if_pos ht)) ?_⟩
    · refine ⟨⟨rfl, fun e hne => (Sys.die_modDie_ne _ _ hne).trans (Sys.die_modDie_ne _ _ hne)⟩, ?_⟩
      simp only [addPend, Sys.ctx_modCtx_self]
      by_cases hp : (s.sys.ctx d l).pend.contains .watchdog = true
      · simp only [hp, if_true]
      · simp only [hp]
        rfl
    · refine ⟨⟨rfl, fun e hne => (Sys.die_modDie_ne _ _ hne).trans (Sys.die_modDie_ne _ _ hne)⟩, ?_, addDiePend_mem _ _ _⟩
      rw [addDiePend_ctx, Sys.ctx_modCtx_self]
  · refine ends_of_ev (f := fun y => y.modDie d Die.unhold) rfl rfl ⟨⟨rfl, fun e hne => Sys.die_modDie_ne _ _ hne⟩, ?_⟩
    simp [Die.unhold, hheld, hroom]

end Sys2Proof.Machine

/-! SUPPORT. Reservations, gangs and grants (14 R321 to R330): what the governor's accounts, the requests to stewards, the opening of a start and its grant
each change. -/

namespace Sys2Proof.Machine

/-! ## The governor's accounts -/

section
variable (y : Sys)

@[simp] theorem openDue_hub : (openDue y).hub = y.hub := rfl
@[simp] theorem openDue_dies : (openDue y).dies = y.dies := rfl
@[simp] theorem govGo_hub : (govGo y).hub = y.hub := rfl
@[simp] theorem govGo_dies : (govGo y).dies = y.dies := rfl
@[simp] theorem govGo_die (d : Nat) : (govGo y).die d = y.die d := rfl
@[simp] theorem govGo_ctx (d l : Nat) : (govGo y).ctx d l = y.ctx d l := rfl

theorem mem_openReq {g : Gov} {r q : GReq} (h : r ∈ g.open_) : r ∈ (g.openReq q).open_ := by
  unfold Gov.openReq
  split
  · exact h
  · exact List.mem_append_left _ h

theorem mem_openReq_self (g : Gov) (q : GReq) : q ∈ (g.openReq q).open_ := by
  unfold Gov.openReq
  split
  · next h => exact List.contains_iff_mem.1 h
  · exact List.mem_append_right _ (List.mem_singleton_self q)

/-- A request that is open stays so when what is due is opened. -/
theorem mem_govGo {y : Sys} {r : GReq} (h : r ∈ y.gov.open_) : r ∈ (govGo y).gov.open_ :=
  List.foldlRecOn (motive := fun g : Gov => r ∈ g.open_) _ _ h fun _ hg _ _ => mem_openReq hg

end

/-! ## Requests to stewards -/

/-- Nothing differs but contexts, and events that have been posted. -/
structure Told (y z : Sys) : Prop where
  hub : z.hub = y.hub
  mems : z.mems = y.mems
  gov : z.gov = y.gov
  die : ∀ e, ∃ cs es hs, z.die e = { y.die e with ctxs := cs, events := es, heldEvents := hs }
  posted : ∀ e kind ctx sub need arg, y.posted e kind ctx sub need arg → z.posted e kind ctx sub need arg

namespace Told

variable {x y z : Sys}

theorem refl (y : Sys) : Told y y := ⟨rfl, rfl, rfl, fun _ => ⟨_, _, _, rfl⟩, fun _ _ _ _ _ _ => id⟩

theorem trans (h : Told x y) (k : Told y z) : Told x z := by
  refine ⟨k.hub.trans h.hub, k.mems.trans h.mems, k.gov.trans h.gov, fun e => ?_, fun e _ _ _ _ _ hp => k.posted _ _ _ _ _ _ (h.posted _ _ _ _ _ _ hp)⟩
  obtain ⟨_, _, _, hh⟩ := h.die e
  obtain ⟨_, _, _, hk⟩ := k.die e
  exact ⟨_, _, _, by rw [hk, hh]⟩

/-- A field of a die that neither its contexts nor its events are. -/
theorem field (h : Told y z) {α : Type} (g : Die → α) (hg : ∀ v cs es hs, g { v with ctxs := cs, events := es, heldEvents := hs } = g v) (e : Nat) :
    g (z.die e) = g (y.die e) := by
  obtain ⟨cs, es, hs, hh⟩ := h.die e
  rw [hh]
  exact hg _ _ _ _

theorem cell (h : Told y z) (x : Cell) : z.cell x = y.cell x := by
  obtain ⟨e, _ | b, o⟩ := x
  · simp only [Sys.cell, h.field Die.smem (fun _ _ _ _ => rfl), h.field Die.smemBad (fun _ _ _ _ => rfl)]
  · simp only [Sys.cell, h.field (fun v => v.slice b) (fun _ _ _ _ => rfl)]

end Told

theorem told_modCtx (y : Sys) (d l : Nat) (f : Ctx → Ctx) : Told y (y.modCtx d l f) := by
  have hdie : ∀ e, (y.modCtx d l f).die e = if e = d then { y.die d with ctxs := mset (y.die d).ctxs l (f (mgetD (y.die d).ctxs l {})) } else y.die e :=
    fun e => by rw [Sys.modCtx, Sys.setCtx, Sys.die_modDie]; rfl
  refine ⟨rfl, rfl, rfl, fun e => ?_, fun e kind ctx sub need arg hp => ?_⟩
  · rw [hdie]
    split
    · next h => subst h; exact ⟨_, _, _, rfl⟩
    · exact ⟨_, _, _, rfl⟩
  · unfold Sys.posted at hp ⊢
    rw [hdie]
    split
    · next h => subst h; exact hp
    · exact hp

theorem told_postEvent (y : Sys) (d kind ctx sub need arg : Nat) : Told y (postEvent y d kind ctx sub need arg) := by
  refine ⟨rfl, rfl, rfl, fun e => ?_, fun e kind' ctx' sub' need' arg' hp => ?_⟩
  · rw [postEvent, Sys.die_modDie]
    split
    · next h =>
      subst h
      unfold Die.post
      split <;> exact ⟨_, _, _, rfl⟩
    · exact ⟨_, _, _, rfl⟩
  · unfold Sys.posted at hp ⊢
    rw [postEvent, Sys.die_modDie]
    split
    · next h =>
      subst h
      unfold Die.post
      split <;> (simp only [List.mem_append, List.mem_singleton] at hp ⊢; tauto)
    · exact hp

/-- The victims of a position are asked for, and nothing that does not run changes. -/
structure Asked (y z : Sys) : Prop extends Told y z where
  idle : ∀ d l, (y.ctx d l).running = false → z.ctx d l = y.ctx d l

theorem Asked.refl (y : Sys) : Asked y y := ⟨.refl y, fun _ _ _ => rfl⟩

theorem Asked.trans {x y z : Sys} (h : Asked x y) (k : Asked y z) : Asked x z :=
  ⟨h.toTold.trans k.toTold, fun d l hi => (k.idle d l (by rw [h.idle d l hi]; exact hi)).trans (h.idle d l hi)⟩

theorem asked_preq {y : Sys} {d m : Nat} (hrun : (y.ctx d m).running = true) (pol : Nat) :
    Asked y (postEvent (y.modCtx d m (fun c => { c with preq := some pol })) d 2 m pol 0 0) := by
  refine ⟨(told_modCtx y d m _).trans (told_postEvent _ _ _ _ _ _ _), fun e l hi => ?_⟩
  rw [postEvent_ctx, Sys.ctx_modCtx, if_neg]
  rintro ⟨rfl, rfl⟩
  simp [hrun] at hi

theorem asked_postPreq (d l tokens : Nat) (y : Sys) : Asked y (postPreq d l tokens y) := by
  unfold postPreq
  dsimp only
  split
  · exact .refl y
  · refine List.foldlRecOn (motive := fun z : Sys => Asked y z) _ _ (.refl y) fun z hz m _ => ?_
    split
    · next h => exact hz.trans (asked_preq (Bool.and_eq_true_iff.1 h).1 _)
    · exact hz

theorem asked_findVictims (part : Nat) (pl : Place) (prio tokens : Nat) (y : Sys) : Asked y (findVictims part pl prio tokens y) := by
  refine List.foldlRecOn (motive := fun z : Sys => Asked y z) _ _ (.refl y) fun z hz x _ => ?_
  split
  · exact hz.trans (asked_postPreq _ _ _ _)
  · exact hz

theorem asked_victimsGo (y : Sys) : Asked y (victimsGo y) := by
  refine List.foldlRecOn (motive := fun z : Sys => Asked y z) _ _ (.refl y) fun z hz r _ => ?_
  split
  · exact hz
  · exact hz.trans (asked_findVictims _ _ _ _ _)

/-! ## Live contexts -/

/-- The machine lists each context that is not free. -/
theorem mem_contexts {y : Sys} {d l : Nat} (h : (y.ctx d l).isFree = false) : (d, l, y.ctx d l) ∈ y.contexts := by
  cases hd : mget? y.dies d with
  | none => exact absurd h (by simp [Sys.ctx, Sys.die, mgetD, hd, Ctx.isFree])
  | some v =>
    have hv : y.die d = v := by simp [Sys.die, mgetD, hd]
    cases hl : mget? v.ctxs l with
    | none => exact absurd h (by simp [Sys.ctx, hv, mgetD, hl, Ctx.isFree])
    | some c =>
      have hc : y.ctx d l = c := by simp [Sys.ctx, hv, mgetD, hl]
      rw [hc] at h ⊢
      simp only [Sys.contexts, List.mem_flatMap, List.mem_map, List.mem_filter]
      exact ⟨(d, v), mem_of_mget? hd, (l, c), ⟨mem_of_mget? hl, by simp [h]⟩, rfl⟩

theorem postQreq_ctx (d l cause : Nat) (y : Sys) (e m : Nat) : (postQreq d l cause y).ctx e m =
    if (e = d ∧ m = l) ∧ (y.ctx e m).isFree = false then { y.ctx e m with qreq := some y.hub.now } else y.ctx e m := by
  unfold postQreq
  by_cases hfree : (y.ctx d l).isFree = true
  · rw [if_pos hfree, if_neg]
    rintro ⟨⟨rfl, rfl⟩, h⟩
    simp [hfree] at h
  · rw [if_neg hfree, postEvent_ctx, Sys.ctx_modCtx]
    by_cases heq : e = d ∧ m = l
    · obtain ⟨rfl, rfl⟩ := heq
      simp [hfree]
    · simp [heq]

@[simp] theorem postQreq_hub (d l cause : Nat) (y : Sys) : (postQreq d l cause y).hub = y.hub := by
  unfold postQreq; split <;> rfl

/-- Each context that a test picks has been asked. -/
theorem postQreqs_qreq {pick : Ctx → Bool} {cause : Nat} {y : Sys} {d l : Nat} (hfree : (y.ctx d l).isFree = false) (hpick : pick (y.ctx d l) = true) :
    ((postQreqs pick cause y).ctx d l).qreq = some y.hub.now := by
  have hasked : ∀ (cs : List (Nat × Nat × Ctx)) (z : Sys), z.hub = y.hub → (z.ctx d l).isFree = false →
      ((d, l, y.ctx d l) ∈ cs ∨ (z.ctx d l).qreq = some y.hub.now) →
      ((cs.foldl (fun z x => if pick x.2.2 then postQreq x.1 x.2.1 cause z else z) z).ctx d l).qreq = some y.hub.now := by
    intro cs
    induction cs with
    | nil => exact fun z _ _ h => h.resolve_left List.not_mem_nil
    | cons x cs ih =>
      intro z hh hf h
      have hctx := postQreq_ctx x.1 x.2.1 cause z d l
      rw [hf, hh] at hctx
      rw [List.foldl_cons]
      by_cases hp : pick x.2.2 = true
      · rw [if_pos hp]
        refine ih _ (by rw [postQreq_hub, hh]) ?_ ?_
        · rw [hctx]; split <;> exact hf
        · rcases h with h | h
          · rcases List.mem_cons.1 h with rfl | h
            · exact .inr (by rw [hctx]; simp)
            · exact .inl h
          · refine .inr ?_
            rw [hctx]
            split
            · rfl
            · exact h
      · rw [if_neg hp]
        refine ih z hh hf (h.imp_left fun h => ?_)
        rcases List.mem_cons.1 h with rfl | h
        · exact absurd hpick hp
        · exact h
  exact hasked y.contexts y rfl hfree (.inl (mem_contexts hfree))

/-! ## A gang faults (14 R330) -/

/-- What giving up starts leaves as it was. -/
structure GivenUp (y z : Sys) : Prop where
  ctx : ∀ d l, z.ctx d l = y.ctx d l
  gangs : z.hub.gangs = y.hub.gangs
  now : z.hub.now = y.hub.now
  node : ∀ k n, y.hub.node? k = some n → ∃ live, z.hub.node? k = some { n with live := live }

theorem modNode_node? (y : Sys) (k j : Nat) (f : Node → Node) :
    (y.modNode k f).hub.node? j = if j = k then (y.hub.node? k).map f else y.hub.node? j := by
  simp only [Sys.modNode, Sys.hub_modHub, Hub.node?]
  cases h : mget? y.hub.nodes k with
  | none =>
    by_cases hj : j = k
    · rw [if_pos hj, hj, Option.map_none]; exact h
    · rw [if_neg hj]
  | some n => simp only [mget?_mset, Option.map_some]

theorem modNode_gangs (y : Sys) (k : Nat) (f : Node → Node) : (y.modNode k f).hub.gangs = y.hub.gangs ∧ (y.modNode k f).hub.now = y.hub.now := by
  simp only [Sys.modNode, Sys.hub_modHub]
  split <;> exact ⟨rfl, rfl⟩

theorem givenUp_cancelStart (w : Start) (y : Sys) : GivenUp y (cancelStart w y) := by
  unfold cancelStart
  refine ⟨fun d l => ?_, (modNode_gangs _ _ _).1, (modNode_gangs _ _ _).2, fun k n hn => ?_⟩
  · rw [Sys.ctx_of_dies (modNode_kept _ _ _).1, Sys.ctx, Sys.die_modDie]
    split
    · next h => subst h; rfl
    · rfl
  · rw [modNode_node?]
    have hn' : ((y.modHub (fun h => { h with starts := h.starts.erase w })).modDie w.place.die (fun v => { v with pool := v.pool + w.granted })).hub.node? k =
      some n := hn
    split
    · next h => subst h; rw [hn']; exact ⟨_, rfl⟩
    · exact ⟨n.live, hn'⟩

theorem givenUp_dropStarts (pick : Start → Bool) (y : Sys) : GivenUp y (dropStarts pick y) := by
  refine List.foldlRecOn (motive := fun z : Sys => GivenUp y z) _ _ ⟨fun _ _ => rfl, rfl, rfl, fun _ n h => ⟨n.live, h⟩⟩ fun z hz w _ => ?_
  have hw := givenUp_cancelStart w z
  refine ⟨fun d l => (hw.ctx d l).trans (hz.ctx d l), hw.gangs.trans hz.gangs, hw.now.trans hz.now, fun k n hn => ?_⟩
  obtain ⟨live, hk⟩ := hz.node k n hn
  obtain ⟨live', hk'⟩ := hw.node k _ hk
  exact ⟨live', hk'⟩

/-- What the fault of its gang does to one member. -/
def faultMember (kind cause : Nat) (y : Sys) (k : Nat) : Sys :=
  match y.hub.node? k with
  | none => y
  | some n => postNode n kind cause (y.modNode k (outMember cause kind))

/-- The members' part of the fault. -/
def faultMembers (kind cause : Nat) (ks : List Nat) (y : Sys) : Sys := ks.foldl (faultMember kind cause) y

theorem gangFault_eq {key : Nat} {g : Gang} {y : Sys} (hg : mget? y.hub.gangs key = some g) (kind cause : Nat) :
    gangFault key kind cause (fun _ => true) y =
      (faultMembers kind cause g.nodes (postQreqs (fun c => g.nodes.contains c.node && true) 0 (dropStarts (fun w => w.gang == some key) y))).modHub
        (fun h => { h with gangs := merase h.gangs key }) := by
  simp only [gangFault, hg]
  rfl

/-- A member is out of its faulted gang. -/
structure MemberOut (m f q : Nat) (z : Sys) : Prop where
  err : ((z.fn f).queue q).qerr.getLsbD 63 = true
  node : ∃ v, z.hub.node? m = some v ∧ v.failed.isSome = true ∧ v.gangOut = true ∧ v.gang = none

theorem postErr_set {f q : Nat} {y : Sys} {kind : Nat} (hk : kind < 16) (f' q' cause node graph : Nat)
    (h : ((y.fn f).queue q).qerr.getLsbD 63 = true) : (((postErr f' q' kind cause node graph y).fn f).queue q).qerr.getLsbD 63 = true := by
  by_cases hf : f = f'
  · subst hf
    by_cases hq : q = q'
    · subst hq
      rw [postErr_queue]
      exact HQueue.post_set _ hk _ _ _
    · rw [postErr, Sys.fn_modFn_self, raiseIstat_queue, Sys.modQueue, Sys.fn_modFn_self, Fn.queue, mgetD_mset_ne _ _ _ hq]
      exact h
  · simpa [postErr, Sys.modQueue, Sys.fn_modFn, hf] using h

section
variable {y : Sys} {m f q : Nat} {kind : Nat} (hk : kind < 16) (cause : Nat)

theorem outMember_out (n : Node) : (outMember cause kind n).failed.isSome = true ∧ (outMember cause kind n).gangOut = true ∧
    (outMember cause kind n).gang = none ∧ (outMember cause kind n).oFn = n.oFn ∧ (outMember cause kind n).oQ = n.oQ := by
  refine ⟨?_, rfl, rfl, ?_, ?_⟩
  · show ((n.fail cause kind).failed).isSome = true
    rw [Node.fail_failed]; rfl
  all_goals unfold outMember Node.fail; split <;> rfl

/-- The node of each member, after another's fault. -/
theorem faultMember_node (k : Nat) (y : Sys) (m : Nat) : (faultMember kind cause y k).hub.node? m =
    if m = k then (y.hub.node? k).map (outMember cause kind) else y.hub.node? m := by
  unfold faultMember
  split
  case h_1 h =>
    by_cases hm : m = k
    · rw [if_pos hm, hm, h]; rfl
    · rw [if_neg hm]
  case h_2 n h =>
    rw [← modNode_node? y k m (outMember cause kind), postNode, Hub.node?, postErr_nodes]; rfl

theorem faultMember_fault (hn : (y.hub.node? m).map (fun n => (n.oFn, n.oQ)) = some (f, q)) (hk : kind < 16) :
    MemberOut m f q (faultMember kind cause y m) := by
  cases h : y.hub.node? m with
  | none => rw [h] at hn; exact absurd hn (by simp)
  | some n =>
    rw [h] at hn
    obtain ⟨rfl, rfl⟩ : n.oFn = f ∧ n.oQ = q := by simpa using hn
    obtain ⟨hfail, hout, hgang, -, -⟩ := outMember_out (kind := kind) cause n
    refine ⟨?_, outMember cause kind n, by rw [faultMember_node, h]; simp, hfail, hout, hgang⟩
    simp only [faultMember, h, postNode, postErr_queue]
    exact HQueue.post_set _ hk _ _ _

theorem faultMember_keeps (hn : MemberOut m f q y) (hk : kind < 16) (k : Nat) : MemberOut m f q (faultMember kind cause y k) := by
  obtain ⟨herr, v, hv, hfail, hout, hgang⟩ := hn
  refine ⟨?_, ?_⟩
  · unfold faultMember
    split
    case h_1 => exact herr
    case h_2 n h => exact postErr_set hk _ _ _ _ _ (by rw [modNode_fn h]; exact herr)
  · rw [faultMember_node]
    split
    · next h =>
      subst h
      obtain ⟨hfail', hout', hgang', -, -⟩ := outMember_out (kind := kind) cause v
      exact ⟨_, by rw [hv]; rfl, hfail', hout', hgang'⟩
    · exact ⟨v, hv, hfail, hout, hgang⟩

theorem faultMembers_out {ks : List Nat} (hm : m ∈ ks) (hk : kind < 16) (hn : (y.hub.node? m).map (fun n => (n.oFn, n.oQ)) = some (f, q)) :
    MemberOut m f q (faultMembers kind cause ks y) := by
  induction ks generalizing y with
  | nil => exact absurd hm List.not_mem_nil
  | cons k ks ih =>
    rw [faultMembers, List.foldl_cons]
    by_cases hmk : m = k
    · subst hmk
      exact List.foldlRecOn (motive := fun z : Sys => MemberOut m f q z) _ _ (faultMember_fault cause hn hk)
        fun z hz j _ => faultMember_keeps cause hz hk j
    · refine ih ((List.mem_cons.1 hm).resolve_left hmk) ?_
      rw [faultMember_node, if_neg hmk, hn]

theorem faultMembers_dies (ks : List Nat) (y : Sys) : (faultMembers kind cause ks y).dies = y.dies := by
  refine List.foldlRecOn (motive := fun z : Sys => z.dies = y.dies) _ _ rfl fun z hz k _ => ?_
  rw [← hz]
  unfold faultMember
  split
  · rfl
  · exact (modNode_kept k (outMember cause kind) z).1

end

/-- The fault of a gang. -/
theorem gangFault_out {key : Nat} {g : Gang} {y : Sys} (hg : mget? y.hub.gangs key = some g) {kind : Nat} (hk : kind < 16) (cause : Nat) :
    GangOut y (gangFault key kind cause (fun _ => true) y) key g := by
  rw [gangFault_eq hg]
  have hdrop := givenUp_dropStarts (fun w => w.gang == some key) y
  have hask := qreqKept_postQreqs (fun c => g.nodes.contains c.node && true) 0 (dropStarts (fun w => w.gang == some key) y)
  refine ⟨mget?_merase_self _ _, fun m n hm hn => ?_, fun d l hfree hnode => ?_⟩
  · obtain ⟨live, hlive⟩ := hdrop.node m n hn
    rw [← hask.hub] at hlive
    obtain ⟨herr, hv⟩ := faultMembers_out cause hm hk (f := n.oFn) (q := n.oQ) (by rw [hlive]; rfl)
    exact ⟨herr, hv⟩
  · rw [← hdrop.now, Sys.ctx_modHub, Sys.ctx_of_dies (faultMembers_dies _ _ _)]
    exact postQreqs_qreq (by rw [hdrop.ctx]; exact hfree) (by rw [hdrop.ctx]; simpa using hnode)

/-! ## Places (14 R327, 21 R429) -/

/-- A block that no slot owns a slice of. (The spill of a slice is kept abstract, lest the kernel carry it out.) -/
theorem spillAll_free {d b : Nat} {y : Sys} (h : ((y.die d).slice b).owner = none) (keep : Nat → Bool) (t : List Nat) :
    spillAll d keep (b :: t) y = spillAll d keep t y := by
  delta spillAll
  generalize spillSlice = f
  show (match ((y.die d).slice b).owner with
    | none => _
    | some (p, s, k) => _) = _
  rw [h]

/-- Nothing is spilled where no slot owns a slice. -/
theorem spillAll_unowned {d : Nat} {bs : List Nat} {y : Sys} (h : ∀ b ∈ bs, ((y.die d).slice b).owner = none) (keep : Nat → Bool) :
    spillAll d keep bs y = (y, true) := by
  induction bs with
  | nil => rfl
  | cons b bs ih => exact (spillAll_free (h b List.mem_cons_self) keep bs).trans (ih fun b hb => h b (List.mem_cons_of_mem _ hb))

theorem ownedSlices_eq_zero {y : Sys} {d cls lead : Nat} (h : ownedSlices y d cls lead = 0) :
    ∀ b ∈ placeBlocks cls lead, ((y.die d).slice b).owner = none := by
  intro b hb
  have hnot := List.filter_eq_nil_iff.1 (List.eq_nil_of_length_eq_zero h) b hb
  simpa using hnot

theorem spillPlaces_unowned {l : List (Nat × Nat × Place)} {y : Sys} (h : ∀ x ∈ l, ownedSlices y x.2.2.die x.2.2.cls x.2.2.lead = 0) :
    spillPlaces l y = y := by
  refine List.foldlRecOn (motive := fun z : Sys => z = y) _ _ rfl fun z hz x hx => ?_
  subst hz
  rw [spillAll_unowned (ownedSlices_eq_zero (h x hx))]

/-- A gang that reserves all its places at once. -/
theorem gangReserveStep_all {gid k : Nat} {g : Gang} {l : List (Nat × Nat × Nat × Nat)} {places : List (Nat × Nat × Place)} {x y : Sys}
    (hg : y.hub.heldGang gid = some (k, g)) (hasked : g.asked = false) (hres : g.reserving = false) (hready : gangReady y g = true)
    (hplaces : gangPlaces y g l = some places) (hhold : holdAll k places y = some x)
    (hown : ∀ x ∈ places, ownedSlices y x.2.2.die x.2.2.cls x.2.2.lead = 0) : gangReserveStep gid l y = govGo (askGang k g places.length x) := by
  simp [gangReserveStep, hg, hready, hasked, hres, hplaces, spillPlaces_unowned hown, hhold]

/-! ## Grants (02 R40, 20 R418) -/

/-- The claim of a start is granted, as the context `c`. -/
structure Granted (y : Sys) (w : Start) (c : Ctx) (z : Sys) : Prop where
  starts : z.hub.starts = y.hub.starts.erase w
  nodes : z.hub.nodes = y.hub.nodes
  gangs : z.hub.gangs = y.hub.gangs
  ctx : ∀ d l, z.ctx d l = if d = w.place.die ∧ l = w.place.lead then c else y.ctx d l
  banks : ∀ b ∈ placeBlocks w.place.cls w.place.lead, mgetD (z.die w.place.die).banks b [] = []
  bmat : ∀ b ∈ placeBlocks w.place.cls w.place.lead, mgetD (z.die w.place.die).bmat b {} = {}
  posted : z.posted w.place.die 1 w.place.lead w.place.cls (w.sems - 1) ((w.slot.getD 0xFFFF) * 2 ^ 16 + w.fn)

theorem grantStart_some {y : Sys} {w : Start} {n : Node} (hn : y.hub.node? w.node = some n) :
    Granted y w (newCtx (y.modHub (fun h => { h with starts := h.starts.erase w })) w n) (grantStart w y) := by
  have hn' : (y.modHub (fun h => { h with starts := h.starts.erase w })).hub.node? w.node = some n := hn
  rw [grantStart, hn']
  refine ⟨rfl, rfl, rfl, fun d l => ?_, fun b hb => ?_, fun b hb => ?_, posted_postEvent _ _ _ _ _ _ _⟩
  · rw [postEvent_ctx, Sys.ctx_modPart, Sys.ctx_setCtx]
    split
    · rfl
    · simp only [Sys.ctx, Sys.die_modDie]
      split
      · next h => subst h; simp [clearBlocks]
      · rfl
  · rw [postEvent_field _ _ _ _ _ _ _ (fun v => mgetD v.banks b []) (fun _ _ _ => rfl)]
    simp [Sys.setCtx, Sys.modPart, clearBlocks, mgetD, mget?_foldl_merase, hb]
  · rw [postEvent_field _ _ _ _ _ _ _ (fun v => mgetD v.bmat b {}) (fun _ _ _ => rfl)]
    simp [Sys.setCtx, Sys.modPart, clearBlocks, mgetD, mget?_foldl_merase, hb]

theorem grantStart_none {y : Sys} {w : Start} (hn : y.hub.node? w.node = none) :
    grantStart w y = (y.modHub (fun h => { h with starts := h.starts.erase w })).modDie w.place.die (fun v => { v with pool := v.pool + w.granted }) := by
  have hn' : (y.modHub (fun h => { h with starts := h.starts.erase w })).hub.node? w.node = none := hn
  simp only [grantStart, hn']

theorem newCtx_st (y : Sys) (w : Start) (n : Node) : (newCtx y w n).st = .ready := by
  simp only [newCtx, Ctx.rejoin]
  split <;> rfl

/-! ## The commit of a gang (14 R329) -/

/-- The grant of a start, recorded as the allocator's choice before it is made. -/
def noteGrant (w : Start) (y : Sys) : Sys :=
  match y.hub.node? w.node with
  | none => y
  | some n => note y w.part (grantChoice y w.place.die w.place.cls w.place.lead (recordId n.record) w.inst)

theorem logKept_noteGrant (w : Start) (y : Sys) : LogKept y (noteGrant w y) := by
  unfold noteGrant
  split
  · exact .refl y
  · exact logKept_note _ _ _

/-- The starts of a gang, granted one after another. -/
def grantAll (ws : List Start) (y : Sys) : Sys := ws.foldl (fun y w => grantStart w (noteGrant w y)) y

theorem commitGang_eq (key : Nat) (g : Gang) (y : Sys) : commitGang key g y =
    { (grantAll (y.hub.starts.filter (fun w => w.gang == some key)) y).modHub (fun h =>
        { h with gangs := mset h.gangs key { g with committed := true, sinceCommit := 0, reserving := false } }) with
      gov := { (grantAll (y.hub.starts.filter (fun w => w.gang == some key)) y).gov with
        open_ := (grantAll (y.hub.starts.filter (fun w => w.gang == some key)) y).gov.open_.filter (fun r => r != .gang key) } } := rfl

/-- What one grant of a gang's commit changes. -/
theorem grantNoted (w : Start) (y : Sys) : (grantStart w (noteGrant w y)).hub.starts = y.hub.starts.erase w ∧
    (grantStart w (noteGrant w y)).hub.nodes = y.hub.nodes ∧
    ∀ d l, ((y.hub.node? w.node).isSome = true ∧ d = w.place.die ∧ l = w.place.lead) ∨ (y.ctx d l).st = .ready →
      ((grantStart w (noteGrant w y)).ctx d l).st = .ready := by
  have hnote := logKept_noteGrant w y
  have hnode : (noteGrant w y).hub.node? w.node = y.hub.node? w.node := by rw [Hub.node?, hnote.nodes]; rfl
  cases hn : y.hub.node? w.node with
  | none =>
    rw [grantStart_none (hnode.trans hn)]
    refine ⟨congrArg (·.erase w) hnote.starts, hnote.nodes, fun d l h => ?_⟩
    have hready := h.resolve_left (by simp)
    rw [← hnote.ctx d l] at hready
    rw [← hready, Sys.ctx, Sys.die_modDie]
    split
    · next hd => subst hd; rfl
    · rfl
  | some n =>
    obtain ⟨hstarts, hnodes, -, hctx, -⟩ := grantStart_some (hnode.trans hn)
    refine ⟨by rw [hstarts, hnote.starts], by rw [hnodes, hnote.nodes], fun d l h => ?_⟩
    rw [hctx]
    split
    · exact newCtx_st _ _ _
    · next hne =>
      rw [hnote.ctx]
      exact h.resolve_left fun hd => hne hd.2

theorem grantAll_starts (ws : List Start) (y : Sys) : (grantAll ws y).hub.starts = y.hub.starts.diff ws := by
  induction ws generalizing y with
  | nil => rfl
  | cons w ws ih => rw [List.diff_cons, ← (grantNoted w y).1]; exact ih _

theorem grantAll_ready {ws : List Start} {y : Sys} {d l : Nat}
    (h : (∃ w ∈ ws, (y.hub.node? w.node).isSome = true ∧ d = w.place.die ∧ l = w.place.lead) ∨ (y.ctx d l).st = .ready) :
    ((grantAll ws y).ctx d l).st = .ready := by
  induction ws generalizing y with
  | nil => exact h.resolve_left (by simp)
  | cons w ws ih =>
    obtain ⟨-, hnodes, hready⟩ := grantNoted w y
    refine ih ?_
    rcases h with ⟨x, hx, hsome, hplace⟩ | h
    · rcases List.mem_cons.1 hx with rfl | hx
      · exact .inr (hready _ _ (.inl ⟨hsome, hplace⟩))
      · exact .inl ⟨x, hx, by rw [Hub.node?, hnodes]; exact hsome, hplace⟩
    · exact .inr (hready _ _ (.inr h))

/-- None of the starts that a test picks is left once all of them are taken out. -/
theorem not_mem_diff_filter {l : List Start} {p : Start → Bool} {w : Start} (hp : p w = true) : w ∉ l.diff (l.filter p) := by
  rw [← List.count_eq_zero, List.count_diff, List.count_filter hp, Nat.sub_self]

/-! ## Reserving (14 R322, R328) -/

/-- All of a gang's places are held, and its load is asked for as one request. -/
theorem askGang_asks {key : Nat} {g : Gang} {total : Nat} {y : Sys} (h : (y.hub.starts.filter (fun w => w.gang == some key)).length = total) :
    (mget? (askGang key g total y).hub.gangs key).map (·.asked) = some true ∧ GReq.gang key ∈ (askGang key g total y).gov.open_ ∧
      (askGang key g total y).dies = y.dies ∧ (askGang key g total y).hub.starts.map (fun w => (w.place, w.node, w.inst, w.gang)) =
        y.hub.starts.map (fun w => (w.place, w.node, w.inst, w.gang)) := by
  rw [askGang, if_pos h]
  refine ⟨?_, mem_openReq_self _ _, rfl, ?_⟩
  · simp
  · simp only [Sys.hub_modHub, List.map_map]
    refine List.map_congr_left fun w _ => ?_
    simp only [Function.comp_apply]
    split <;> rfl

/-- RECORD_RESERVING for a record that has its position, and for one that takes it. -/
theorem recordReservingStep_stands {y : Sys} {k d lead cls p : Nat} {i : Item} (h : itemOf y k = some (p, i)) (hstands : placeStands y p i = true) :
    recordReservingStep k d lead cls y = y := by
  simp [recordReservingStep, h, hstands]

theorem setReservation_node {i : Item} (hslot : ∀ z, i.cand ≠ .slot z) (part : Nat) (pl : Place) (y : Sys) :
    setReservation part i pl y = y.modNode i.nodeNo (fun n => { n with resv := some pl, reserving := true }) := by
  unfold setReservation
  split
  · next s h => exact absurd h (hslot s)
  · rfl

theorem recordReservingStep_takes {y : Sys} {k d lead cls p : Nat} {i : Item} (h : itemOf y k = some (p, i)) (hslot : ∀ z, i.cand ≠ .slot z)
    (hstands : placeStands y p i = false) (hlegal : legalPlace y p (i.ask p) ⟨d, lead, cls⟩ = true)
    (hmay : isReserving y p i = true ∨ mayReserve y p i = true) : recordReservingStep k d lead cls y =
      findVictims p ⟨d, lead, cls⟩ i.prio (recTokens i.node.record)
        (y.modNode i.nodeNo (fun n => { n with resv := some ⟨d, lead, cls⟩, reserving := true })) := by
  simp [recordReservingStep, h, hstands, hlegal, hmay, setReservation_node hslot]

/-! ## Starts (14 R321, 15 R339) -/

theorem beginTurn_replay (part lvl : Nat) (key : Nat × Nat) (y : Sys) (p : Nat) : ((beginTurn part lvl key y).part p).replay = (y.part p).replay := by
  simp only [beginTurn, Sys.part_modPart]
  split
  · next h => subst h; rfl
  · rfl

/-- The round robin moves turns and deficits alone. -/
theorem drr_replay {part lvl : Nat} {keys : List (Nat × Nat)} {head : Nat × Nat → Option Item} {can : Item → Bool} {p : Nat} (fuel : Nat) {y z : Sys} {i : Item}
    (h : drr part lvl keys head can fuel y = some (z, i)) : (z.part p).replay = (y.part p).replay := by
  induction fuel generalizing y with
  | zero => exact absurd h (by simp [drr])
  | succ fuel ih =>
    have hgo : ∀ k, drr part lvl keys head can fuel (beginTurn part lvl k y) = some (z, i) → (z.part p).replay = (y.part p).replay :=
      fun k hk => (ih hk).trans (beginTurn_replay _ _ _ _ _)
    have hnext : ∀ o : Option (Nat × Nat), (match o with
        | none => none
        | some k => drr part lvl keys head can fuel (beginTurn part lvl k y)) = some (z, i) → (z.part p).replay = (y.part p).replay := by
      rintro (_ | k) hk
      · exact absurd hk (by simp)
      · exact hgo k hk
    simp only [drr] at h
    split at h
    · exact hnext _ h
    · split at h
      · exact hnext _ h
      · split at h
        · exact hnext _ h
        · split at h
          · obtain ⟨rfl, rfl⟩ := Prod.mk.inj (Option.some.inj h)
            rfl
          · exact hnext _ h

theorem levels_replay {part : Nat} {its : List Item} {can : Item → Bool} {p : Nat} {y z : Sys} {i : Item} (ls : List Nat)
    (h : levels part its can y ls = some (z, i)) : (z.part p).replay = (y.part p).replay := by
  induction ls with
  | nil => exact absurd h (by simp [levels])
  | cons lvl ls ih =>
    simp only [levels] at h
    split at h
    · exact drr_replay _ h
    · exact ih h

theorem offered_replay {part d p : Nat} {y z : Sys} {i : Item} (h : offered y part d = some (z, i)) : (z.part p).replay = (y.part p).replay := by
  simp only [offered] at h
  split at h
  · obtain ⟨x, -, hx⟩ := Option.map_eq_some_iff.1 h
    obtain ⟨rfl, -⟩ := Prod.mk.inj hx
    rfl
  · split at h
    · obtain ⟨rfl, -⟩ := Prod.mk.inj (Option.some.inj h)
      rfl
    · exact levels_replay _ h

/-- Outside a replay, no slice is moved for a grant. -/
theorem adoptGrant_live {y : Sys} {part : Nat} (h : (y.part part).replay = none) (d cls lead node inst : Nat) : adoptGrant part d cls lead node inst y = y := by
  simp [adoptGrant, loggedProv, h, adoptSlices]

theorem startItem_live {y : Sys} {part : Nat} (h : (y.part part).replay = none) (d cls lead : Nat) (i : Item) (after : Sys → Sys) :
    startItem part d cls lead i after y = hubGo (after (openStart part d cls lead i none
      (recordChoice y part (grantChoice y d cls lead (recordId i.node.record) i.inst)))) := by
  simp only [startItem, adoptGrant_live h, gate_live _ h]
  rfl

theorem chooseN_hub (n : Nat) (l : List Nat) (y : Sys) : (chooseN n l y).1.hub = y.hub ∧ (chooseN n l y).1.dies = y.dies := by
  induction n generalizing l y with
  | zero => exact ⟨rfl, rfl⟩
  | succ n ih =>
    simp only [chooseN, chooseFrom]
    split
    · next h => obtain ⟨rfl, -⟩ := Prod.mk.inj h; exact ⟨rfl, rfl⟩
    · next h => obtain ⟨rfl, -⟩ := Prod.mk.inj h; exact ih _ _

theorem modNode_starts (y : Sys) (k : Nat) (f : Node → Node) : (y.modNode k f).hub.starts = y.hub.starts := by
  simp only [Sys.modNode, Sys.hub_modHub]
  split <;> rfl

/-- The start opened for instances that have not been saved: the pool gives what it has. -/
def openedStart (part d cls lead : Nat) (i : Item) (engines : List Nat) (pool : Nat) : Start :=
  let pres := presOf cls (placeChains cls lead (recXreq i.node.record)).length engines.length (recPin i.node.record)
  let want := startNeed cls lead pres 0
  { part := part, fn := i.node.fn, node := i.nodeNo, inst := i.inst, slot := none, place := ⟨d, lead, cls⟩, xreq := recXreq i.node.record
    engines := engines, sems := i.sems, need := want - min pool want, granted := min pool want, pres := pres, pinned := recPin i.node.record
    gang := none, bound := i.cand == .fresh }

theorem openedStart_load (part d cls lead : Nat) (i : Item) (engines : List Nat) (pool : Nat) :
    (placeBlocks cls lead).length + (openedStart part d cls lead i engines pool).pres ≤
      (openedStart part d cls lead i engines pool).granted + (openedStart part d cls lead i engines pool).need := by
  simp only [openedStart, startNeed]
  omega

theorem openStart_opens {i : Item} (hslot : ∀ z, i.cand ≠ .slot z) (part d cls lead : Nat) (y : Sys) :
    ∃ engines pool, (openStart part d cls lead i none y).hub.starts = y.hub.starts ++ [openedStart part d cls lead i engines pool] ∧
      ((openedStart part d cls lead i engines pool).need ≠ 0 → GReq.start (64 * d + lead) ∈ (openStart part d cls lead i none y).gov.open_) := by
  have hhub := (chooseN_hub ((scrubSlices d i.node.fn (placeBlocks cls lead) y).part part).ccn
    (freeCopies (scrubSlices d i.node.fn (placeBlocks cls lead) y) part d) (scrubSlices d i.node.fn (placeBlocks cls lead) y)).1
  have hstarts := congrArg Hub.starts hhub
  refine ⟨(chooseN ((scrubSlices d i.node.fn (placeBlocks cls lead) y).part part).ccn
    (freeCopies (scrubSlices d i.node.fn (placeBlocks cls lead) y) part d) (scrubSlices d i.node.fn (placeBlocks cls lead) y)).2,
    ((chooseN ((scrubSlices d i.node.fn (placeBlocks cls lead) y).part part).ccn
    (freeCopies (scrubSlices d i.node.fn (placeBlocks cls lead) y) part d) (scrubSlices d i.node.fn (placeBlocks cls lead) y)).1.die d).pool, ?_⟩
  cases hc : i.cand with
  | slot s => exact absurd hc (hslot s)
  | _ =>
    simp only [openStart, openedStart, hc, Option.map_none, Option.getD_none, Option.isSome_none, Bool.or_false, decide_eq_true_eq]
    refine ⟨?_, fun hneed => ?_⟩
    · split <;> (simp only [modNode_starts]; exact congrArg (· ++ [_]) hstarts)
    · rw [if_neg hneed]
      exact mem_openReq_self _ _

theorem spillOwned_nil (part s : Nat) (y : Sys) : spillOwned part s [] y = (y, true) := rfl

/-- Nothing is spilled for instances that have not been saved, where no slot owns a slice. -/
theorem withSpills_unowned {i : Item} (hslot : ∀ z, i.cand ≠ .slot z) {d cls lead : Nat} {y : Sys}
    (h : ∀ b ∈ placeBlocks cls lead, ((y.die d).slice b).owner = none) (part : Nat) (k : Sys → Sys) : withSpills part d cls lead i y k = k y := by
  cases hc : i.cand with
  | slot s => exact absurd hc (hslot s)
  | _ => simp only [withSpills, hc, spillAll_unowned h, strayed, spillOwned_nil]

/-- CLAIM_GRANT for instances that have not been saved. -/
theorem claimGrantStep_opens {p d lead cls : Nat} {x y : Sys} {i : Item} (hres : reservedItem y p d cls lead = none) (hoff : offered y p d = some (x, i))
    (hplace : (cls, lead) ∈ grantPlaces y p d i) (hslot : ∀ z, i.cand ≠ .slot z) (hlive : (y.part p).replay = none)
    (h : ∀ b ∈ placeBlocks cls lead, ((y.die d).slice b).owner = none) : claimGrantStep p d lead cls y =
      hubGo (openStart p d cls lead i none (recordChoice x p (grantChoice x d cls lead (recordId i.node.record) i.inst))) := by
  have hx : (x.part p).replay = none := (offered_replay hoff).trans hlive
  simp only [claimGrantStep, hres, hoff, List.contains_iff_mem.2 hplace, if_true, withSpills_unowned hslot h, startItem_live hx, id]

/-! ## What follows at the hub (14 R319) -/

@[simp] theorem clearDc_starts (y : Sys) : (clearDc y).hub.starts = y.hub.starts := rfl
@[simp] theorem clearDc_dies (y : Sys) : (clearDc y).dies = y.dies := rfl

theorem settleHub_none {y : Sys} (h : settleOne y = none) : settleHub y = y := by
  simp only [settleHub, settleN, h]

/-- With no start left, none is granted. -/
theorem promote_done {y : Sys} (h : y.hub.starts = []) (n : Nat) : promote n y = y := by
  cases n with
  | zero => rfl
  | succ n => simp [promote, h]

/-- The one start whose claim can be granted is. -/
theorem promote_grants {y : Sys} {w : Start} {n : Node} (hw : y.hub.starts = [w]) (hneed : w.need = 0) (hgang : w.gang = none)
    (hn : y.hub.node? w.node = some n) (hdead : n.failed = none ∨ w.slot.isSome = true) (hsvc : (y.die w.place.die).inSvc = true)
    (horder : orderOpen y w = true) (hck : (y.part w.part).ckBusy = false) (fuel : Nat) : promote (fuel + 1) y = grantStart w y := by
  have hlive : deadStart y w = false := by
    rcases hdead with h | h
    · simp [deadStart, hn, h]
    · cases hslot : w.slot with
      | none => rw [hslot] at h; exact absurd h (by simp)
      | some z => simp [deadStart, hn, hslot]
  have hstep : promote (fuel + 1) y = promote fuel (grantStart w y) := by
    simp [promote, hw, hlive, lostStart, hsvc, hneed, hgang, horder, hck]
  rw [hstep, promote_done (by rw [(grantStart_some hn).starts, hw]; simp)]

/-- The hub's turn over one start whose claim can be granted: the grant, and no context that does not run is asked for anything. -/
theorem hubGo_grants {y : Sys} {w : Start} {n : Node} (hset : settleOne y = none) (hw : y.hub.starts = [w]) (hneed : w.need = 0) (hgang : w.gang = none)
    (hn : y.hub.node? w.node = some n) (hdead : n.failed = none ∨ w.slot.isSome = true) (hsvc : (y.die w.place.die).inSvc = true)
    (horder : orderOpen y w = true) (hck : (y.part w.part).ckBusy = false) :
    ∃ z, Asked (grantStart w y) z ∧ (hubGo y).hub.starts = z.hub.starts ∧ (hubGo y).dies = z.dies := by
  refine ⟨victimsGo (grantStart w y), asked_victimsGo _, ?_, ?_⟩ <;>
    (unfold hubGo; rw [settleHub_none hset, promote_grants hw hneed hgang hn hdead hsvc horder hck]; rfl)

/-- The context of a claim that waits for no saved piece. -/
theorem newCtx_plain {y : Sys} {w : Start} (h : (y.ctx w.place.die w.place.lead).away = false) (n : Node) : ∃ c, c = newCtx y w n ∧
    c.st = .ready ∧ c.shape = w.place.cls ∧ c.lead = w.place.lead ∧ (c.h, c.w) = shapeSize w.place.cls ∧ c.part = w.part ∧ c.fn = w.fn ∧
    c.node = w.node ∧ c.inst = BitVec.ofNat 32 w.inst ∧ c.piece = 0 ∧ c.record = n.record ∧ c.load = w.granted ∧ c.copies.map (·.engine) = w.engines ∧
    c.needSems = w.sems ∧ c.semMap = [] ∧ c.chains.map (·.phys) = placeChains w.place.cls w.place.lead w.xreq ∧ c.entries = [] := by
  refine ⟨_, rfl, ?_⟩
  simp only [newCtx, Ctx.rejoin, h, Bool.false_eq_true, if_false, List.map_map, Function.comp_def, List.map_id', true_and]
  simp [Ctx.entries, Ctx.queue, mgetD]

/-- Settles O51: each event by what it opens, holds, grants or takes back. -/
theorem claimEvents : Obligations.ClaimEvents := by
  unfold Obligations.ClaimEvents
  intro s
  refine ⟨fun gid k g hheld hg => ⟨fun hasm hasm0 hage => ?_, fun hasked hres hready l places y hplaces hhold hlen hown => ?_, fun hasked hopen => ?_⟩,
    fun gid k g hfind hg => ⟨fun hun hsince => ?_, fun hun => ?_⟩, fun k d lead cls p i hitem hslot hnode => ⟨fun hstands => ?_, fun hstands hlegal hmay => ?_⟩,
    fun p d lead cls y i hres hoff hplace hslot hlive hown => ?_, fun y w n hset hw hneed hgang hn hdead hsvc horder hck haway u c hu hc => ?_⟩
  · have hstep : gangTimeoutStep gid s.sys = hubGo (gangFault k eGang 0 (fun _ => true) s.sys) := by simp [gangTimeoutStep, hheld, hasm, hasm0, hage]
    exact ends_of_ev rfl hstep ⟨_, gangFault_out hg (by decide) 0, rfl⟩
  · obtain ⟨hasks, hopened, hdies, hstarts⟩ := askGang_asks (g := g) hlen
    exact ends_of_ev rfl (gangReserveStep_all hheld hasked hres hready hplaces hhold hown) ⟨hasks, mem_govGo hopened, hdies, hstarts⟩
  · have hcommit : g.committed = false := by
      have := List.find?_some hheld
      simp only [Bool.and_eq_true, Bool.not_eq_true'] at this
      exact this.2
    have hall : (s.sys.hub.starts.filter (fun w => w.gang == some k)).all (commitOpen s.sys) = true := by
      simp only [List.all_eq_true, List.mem_filter, beq_iff_eq]
      exact fun w ⟨hw, hk⟩ => hopen w hw hk
    have hstep : gangCommitStep gid s.sys = hubGo (commitGang k g s.sys) := by simp [gangCommitStep, hheld, hasked, hcommit, hall]
    refine ends_of_ev rfl hstep ⟨_, ⟨?_, fun w hw hk => ?_, ?_, fun w hw hk hn => ?_⟩, rfl⟩
    · simp [commitGang_eq]
    · rw [commitGang_eq] at hw
      refine not_mem_diff_filter (p := fun w : Start => w.gang == some k) (l := s.sys.hub.starts) (w := w) (by simpa using hk) ?_
      rw [← grantAll_starts]
      exact hw
    · simp [commitGang_eq]
    · rw [commitGang_eq]
      exact grantAll_ready (.inl ⟨w, List.mem_filter.2 ⟨hw, by simpa using hk⟩, hn, rfl, rfl⟩)
  · have hstep : gangStartStep gid s.sys = hubGo (gangFault k eGang 0 (fun _ => true) s.sys) := by simp [gangStartStep, hfind, hun, hsince]
    exact ends_of_ev rfl hstep ⟨_, gangFault_out hg (by decide) 0, rfl⟩
  · have hstep : gangStartStep gid s.sys = s.sys.modHub (fun h => { h with gangs := merase h.gangs k }) := by simp [gangStartStep, hfind, hun]
    exact ends_of_ev rfl hstep ⟨rfl, mget?_merase_self _ _, rfl⟩
  · exact ends_of_ev rfl (recordReservingStep_stands hitem hstands) rfl
  · obtain ⟨n, hn⟩ := Option.isSome_iff_exists.1 hnode
    have hasked := asked_findVictims p ⟨d, lead, cls⟩ i.prio (recTokens i.node.record)
      (s.sys.modNode i.nodeNo (fun n => { n with resv := some ⟨d, lead, cls⟩, reserving := true }))
    refine ends_of_ev rfl (recordReservingStep_takes hitem hslot hstands hlegal hmay) ⟨?_, fun x => ?_⟩
    · simp only [hasked.hub, modNode_node hn, Option.map_some]
    · exact (hasked.cell x).trans (Sys.cell_of_dies (modNode_kept _ _ _).1 x)
  · obtain ⟨engines, pool, hstarts, hneed⟩ := openStart_opens hslot p d cls lead (recordChoice y p (grantChoice y d cls lead (recordId i.node.record) i.inst))
    exact ends_of_ev rfl (claimGrantStep_opens hres hoff hplace hslot hlive hown)
      ⟨_, ⟨_, hstarts, rfl, rfl, rfl, rfl, rfl, rfl, openedStart_load _ _ _ _ _ _ _, rfl, hneed⟩, rfl⟩
  · obtain ⟨z, hasked, hstarts, hdies⟩ := hubGo_grants hset hw hneed hgang hn hdead hsvc horder hck
    obtain ⟨hgstarts, -, -, hgctx, hgbanks, hgbmat, hgposted⟩ := grantStart_some hn
    obtain ⟨c', hc', hst, hrest⟩ := newCtx_plain (y := y.modHub (fun h => { h with starts := h.starts.erase w })) (w := w) haway n
    have hctx : (grantStart w y).ctx w.place.die w.place.lead = c' := by rw [hgctx, if_pos ⟨rfl, rfl⟩, hc']
    have hcc : c = c' := by
      rw [hc, hu, Sys.ctx_of_dies hdies, hasked.idle _ _ (by rw [hctx]; simp [Ctx.running, hst]), hctx]
    have hudie : ∀ e, u.die e = z.die e := fun e => by rw [hu]; simp only [Sys.die, hdies]
    subst hcc
    refine ⟨by rw [hu, hstarts, hasked.hub, hgstarts, hw]; simp, hst, ?_⟩
    simp only [hrest, true_and]
    refine ⟨fun b hb => ⟨?_, ?_⟩, ?_⟩
    · rw [hudie, hasked.field (fun v => mgetD v.banks b []) (fun _ _ _ _ => rfl)]
      exact hgbanks b hb
    · rw [hudie, hasked.field (fun v => mgetD v.bmat b {}) (fun _ _ _ _ => rfl)]
      exact hgbmat b hb
    · have hposted := hasked.posted _ _ _ _ _ _ hgposted
      simp only [Sys.posted, hudie] at hposted ⊢
      exact hposted

end Sys2Proof.Machine

/-! SUPPORT. A fuse of a fragment whose lead is not the block that its context goes by (02 R46). -/

namespace Sys2Proof.Machine

/-- Piece 0 of a grove that was split from block 1, the last that runs of it, on block 0: it waits to fuse. -/
def fusesElsewhere : State :=
  { sys := { dies := [(0, { ctxs := [(0, { st := .run, shape := 6, h := 1, w := 1, load := 1, grove := [0], alive := [0], orig := some (6, 1, 1, 1), reshape := .fuse })] })] } }

/-- The fused fragment goes by the lead of the unsplit one. -/
theorem fused_grove {t : State} (h : exec (.fuseTakeEffect 0 0) fusesElsewhere = .next t) : (t.sys.ctx 0 0).grove = [1] := by
  cases h
  decide

/-- Refutes O53: the statement has the fused fragment's grove name the context that fuses, where the model has it name the lead of the unsplit fragment;
in a state whose piece 0 does not stand on that lead the two differ. -/
theorem not_reshapeAndSaveEvents : ¬ Obligations.ReshapeAndSaveEvents := by
  unfold Obligations.ReshapeAndSaveEvents
  intro h
  obtain ⟨hreshape, -⟩ := h fusesElsewhere 0 0 _ _ rfl rfl
  obtain ⟨t, ht, -, -, -, hgrove, -⟩ := ((hreshape (.inl rfl) rfl).2 6 1 1 1 rfl rfl rfl rfl rfl).1 (.inl (by decide))
  rw [fused_grove ht] at hgrove
  exact absurd hgrove (by decide)

end Sys2Proof.Machine

/-! SUPPORT. Engine commands at issue: each check of 09 R180 that passes, and how a command whose plan stands joins its queue (02 R51). -/

namespace Sys2Proof.Machine

theorem State.ctxOf_cur (s : State) : s.sys.ctxOf s.cur = s.ctxNow := rfl
theorem State.seq_cur (s : State) : s.sys.seq s.cur = s.now := rfl

/-! ## Checks that pass -/

@[simp] theorem codeIf_false (code rep : Nat) : codeIf false code rep = .ok () := rfl
@[simp] theorem trapIf_false (t : Trap) : trapIf false t = .ok () := rfl
@[simp] theorem badCheck_none : badCheck none = .ok () := rfl

/- Rules for simp, not definitional steps: what is left of a plan is then not unfolded to check one. -/
@[simp] theorem iss_ok_bind {α β : Type} (v : α) (f : α → Iss β) : ((.ok v : Iss α) >>= f) = f v := (rfl)
@[simp] theorem iss_pure {α : Type} (v : α) : (pure v : Iss α) = .ok v := (rfl)

theorem eachRep_from {α : Type} {f : Nat → Iss α} {g : Nat → α} (n i : Nat) (h : ∀ j, i ≤ j → j < i + n → f j = .ok (g j)) :
    eachRep f n i = .ok ((List.range' i n).map g) := by
  induction n generalizing i with
  | zero => rfl
  | succ n ih =>
    rw [eachRep, h i (Nat.le_refl i) (by omega), ih (i + 1) (fun j hj hn => h j (by omega) (by omega)), List.range'_succ]
    rfl

/-- Every repetition passes its checks. -/
theorem eachRep_ok {α : Type} {c : Common} {f : Nat → Iss α} {g : Nat → α} (h : ∀ i, i ≤ c.rep.toNat → f i = .ok (g i)) :
    eachRep f (repsOf c) 0 = .ok ((repetitions c).map g) := by
  rw [repetitions, List.range_eq_range']
  exact eachRep_from _ 0 fun j _ hj => h j (by simp only [repsOf] at hj; omega)

section
variable {s : State}

theorem repAddr_walks {w : BitVec 3} {c : Common} (h : Walks s w c) (i : Nat) :
    repAddr ((s.sys.seq s.cur).wk w) c i = .ok (s.place w c i).toNat := by
  have h' : stepShort ((s.sys.seq s.cur).wk w) (selOf c) c.rep.toNat = false := h
  simp only [repAddr, h', Bool.false_eq_true, if_false]
  rfl

theorem checkMatrix_array {r : SeqRef} {c : Ctx} (hi : r.idx.isSome = true) (hs : c.shape ≠ 7) : checkMatrix r c = .ok () := by
  have hbad : noMatrix r c = false := by
    rw [noMatrix, ← Option.not_isSome, hi, Bool.not_true, Bool.false_or, beq_eq_false_iff_ne]
    exact hs
  rw [checkMatrix, hbad, codeIf_false]

theorem checkWin_fits {off n : Nat} (h : Fits s off n) (rep : Nat) : checkWin s.ctxNow off n rep = .ok () := by
  have h1 : (off % 64 != 0) = false := by simpa using h.1
  have h2 : decide (s.ctxNow.wsz < off + n) = false := by simpa using h.2
  simp [checkWin, h1, h2]

theorem checkRows_inside {c : Ctx} {row n : Nat} (h : row + n ≤ 256 * c.h) (rep : Nat) : checkRows c row n rep = .ok () := by
  have h' : decide (256 * c.h < row + n) = false := by simpa using h
  simp only [checkRows, h', codeIf_false]

/-! ## What a command reads at issue -/

/-- A byte that a task sequencer reads in its window is the cell there (02 R42). -/
theorem seqRead_eq (hi : s.cur.idx.isSome = true) (off n : Nat) :
    s.sys.seqRead s.cur off n = (List.range n).map (fun k => s.sys.cell (s.sys.cellAt s.cur (off + k))) := by
  obtain ⟨k, hk⟩ := Option.isSome_iff_exists.1 hi
  simp only [Sys.seqRead, Sys.cellAt, hk]
  rfl

/-- The bytes of a record, none of them uncorrectable. -/
theorem readAtIssue_readable {u : Unit3} {off : Word} {n : Nat} (hi : s.cur.idx.isSome = true) (h : Readable s u off n) :
    readAtIssue u s.sys s.cur off.toNat n = .ok ((List.range n).map (fun k => (s.sys.cell (s.sys.cellAt s.cur (off.toNat + k))).1), none) := by
  have hfree : (s.sys.ctxOf s.cur).stallsOn (if u = .strip then .strip else .copy) [⟨off.toNat, off.toNat + n⟩] [] = false := h.free
  have hclean : ((List.range n).map (fun k => s.sys.cell (s.sys.cellAt s.cur (off.toNat + k)))).any (·.2) = false := by
    simp only [List.any_map, List.any_eq_false, List.mem_range]
    intro k hk
    simp [h.clean k hk]
  simp only [readAtIssue, hfree, seqRead_eq hi, hclean, Bool.false_eq_true, if_false, List.map_map]
  rfl

/-! ## The end of the issue -/

theorem semCheck_accepts {c : Common} (h : Accepts s c) : semCheck s.ctxNow c = .ok () := by
  have hw : ¬(c.wth != 0 && decide (s.ctxNow.semMap.length ≤ c.wsem.toNat)) = true := by
    simp only [Bool.and_eq_true, bne_iff_ne, decide_eq_true_eq, not_and, Nat.not_le]
    exact h.wsem
  have hs : ¬(c.sinc != 0 && decide (s.ctxNow.semMap.length ≤ c.ssem.toNat)) = true := by
    simp only [Bool.and_eq_true, bne_iff_ne, decide_eq_true_eq, not_and, Nat.not_le]
    exact h.ssem
  rw [semCheck, if_neg hw, if_neg hs]

/-- The interlocks of 02 R51, 09 R184 and 11 R252 as the issue tests them. -/
theorem admits_iff (qc : Nat) (e : Entry) : Admits s qc e ↔
    (s.ctxNow.stallsOn (unitOf qc) e.rd e.wr || (e.scb && 32 ≤ s.ctxNow.scbUsed) || queueCap qc ≤ (s.ctxNow.queue qc).ents.length) = false := by
  simp only [Bool.or_eq_false_iff, Bool.and_eq_false_imp, decide_eq_false_iff_not, Nat.not_le]
  exact ⟨fun h => ⟨⟨h.free, h.board⟩, h.room⟩, fun ⟨⟨h1, h2⟩, h3⟩ => ⟨h1, h2, h3⟩⟩

theorem joined_of {i : Instr} {c : Common} {qc : Nat} (p : Plan) (hi : s.cur.idx.isSome = true) :
    Joined s i c qc p.e p.st (s.stepTo (s.sys.modCtxOf s.cur (fun ctx => enqueue ctx qc i c p)) 8) := by
  obtain ⟨l, hl⟩ := Option.isSome_iff_exists.1 hi
  refine ⟨State.stepTo_stepped (Sys.seq_modCtxOf _ _ _ _) 8, l, hl, ?_⟩
  have hctx : s.ctxNow = s.sys.ctx s.cur.die l := by simp [State.ctxNow, Sys.ctxOf, hl]
  rw [State.stepTo_now]
  simp only [State.stepTo, Sys.modCtxOf, hl, Sys.modCtx, Sys.modSeq, ← hctx]
  rfl

/-- A command whose checks gave the plan `p` joins its queue, or waits with no effect. -/
theorem issue_queued {i : Instr} {c : Common} {u : Unit3} {qc : Nat} {plan : SeqRef → Sys → Iss Plan} {p : Plan} (hacc : Accepts s c)
    (hu : u = unitOf qc) (hplan : plan s.cur s.sys = .ok p) (hbad : p.bad = none) :
    ∃ t, runIssue s i c u qc plan = .next t ∧ Queued s i c qc p.e p.st t := by
  have hsem : semCheck (s.sys.ctxOf s.cur) c = .ok () := semCheck_accepts hacc
  have hstep : issueStep i c u qc plan s.cur s.sys = if (s.ctxNow.stallsOn (unitOf qc) p.e.rd p.e.wr || (p.e.scb && 32 ≤ s.ctxNow.scbUsed) ||
      queueCap qc ≤ (s.ctxNow.queue qc).ents.length) = true then .stall s.sys else .ok (s.sys.modCtxOf s.cur (fun ctx => enqueue ctx qc i c p)) none := by
    simp only [issueStep, issueEnd, hsem, hplan, hbad, hu]
    rfl
  refine ⟨_, rfl, fun ha => ?_, fun ha => ?_⟩
  · rw [hstep, if_neg (by rw [(admits_iff _ _).1 ha]; exact Bool.false_ne_true)]
    exact joined_of p hacc.task
  · rw [hstep, if_pos (Bool.not_eq_false _ ▸ mt (admits_iff _ _).2 ha)]
    rfl

end

end Sys2Proof.Machine

/-! SUPPORT. Routing commands, splits and fuses at issue (09 R193, R195, R198 to R200). -/

namespace Sys2Proof.Machine

section
variable {s : State} {c : Common} {h : Ctx}

/-- A routing command whose geometry holds. -/
theorem routePlan_ok {chains : Bool} {bad : Sys → Ctx → Bool} {dest : Routing} (hi : s.cur.idx.isSome = true) (hs : s.ctxNow.shape ≠ 7)
    (hchains : chains = true → s.ctxNow.chains ≠ []) (hbad : bad s.sys s.ctxNow = false) : routePlan c chains bad dest s.cur s.sys =
      .ok { e := { num := 0, cmd := .nop, reps := List.replicate (c.rep.toNat + 1) (0, 0), weight := 1 }, st := fun g => { g with iRouting := dest } } := by
  have hmatrix : checkMatrix s.cur s.ctxNow = .ok () := checkMatrix_array hi hs
  have hempty : (chains && s.ctxNow.chains.isEmpty) = false := by
    cases hc : chains with
    | false => rfl
    | true => simpa [List.isEmpty_iff] using hchains hc
  have hreps := eachRep_ok (c := c) (f := fun i => (do codeIf (chains && s.ctxNow.chains.isEmpty) 0x08 i; codeIf (bad s.sys s.ctxNow) 0x09 i))
    (g := fun _ => ()) fun i _ => by
      rw [hempty, hbad]; rfl
  simp only [routePlan, State.ctxOf_cur, hmatrix, iss_ok_bind, hreps]
  rfl

theorem routed {i : Instr} {chains : Bool} {bad : Sys → Ctx → Bool} {dest : Routing} {e : Entry} (hacc : Accepts s c) (hs : s.ctxNow.shape ≠ 7)
    (hchains : chains = true → s.ctxNow.chains ≠ []) (hbad : bad s.sys s.ctxNow = false)
    (he : e = { num := 0, cmd := .nop, reps := List.replicate (c.rep.toNat + 1) (0, 0), weight := 1 }) :
    ∃ t, runIssue s i c .matrix 0 (routePlan c chains bad dest) = .next t ∧ Queued s i c 0 e (fun g => { g with iRouting := dest }) t := by
  subst he
  have hq := issue_queued (i := i) (qc := 0) hacc rfl (routePlan_ok (c := c) (dest := dest) hacc.task hs hchains hbad) rfl
  exact hq

end

/-! ## Splits and fuses -/

section
variable {s : State} {l : Nat} (hl : s.cur.idx = some l) (hs : s.ctxNow.shape ≠ 7)

theorem waitReshape_waiting {plan : SeqRef → Sys → Iss Reshape} (h : s.ctxNow.reshape ≠ .none) : waitReshape plan s.cur s.sys = .stall s.sys :=
  if_pos (bne_iff_ne.2 h)

/-- A split or fuse that begins to wait. -/
theorem waitReshape_begins {plan : SeqRef → Sys → Iss Reshape} (h : s.ctxNow.reshape = .none) {w : Reshape} (hp : plan s.cur s.sys = .ok w) :
    waitReshape plan s.cur s.sys = .stall (s.sys.modCtxOf s.cur (fun c => { c with reshape := w })) := by
  have h' : (s.ctxNow.reshape != .none) = false := by simpa using h
  simp only [waitReshape, State.ctxOf_cur, h', hp, Bool.false_eq_true, if_false]

theorem waitReshape_traps {plan : SeqRef → Sys → Iss Reshape} (h : s.ctxNow.reshape = .none) {t : Trap} (hp : plan s.cur s.sys = fails t) :
    waitReshape plan s.cur s.sys = .trap t := by
  have h' : (s.ctxNow.reshape != .none) = false := by simpa using h
  simp only [waitReshape, State.ctxOf_cur, h', hp, fails, Bool.false_eq_true, if_false]

include hl

theorem modCtxOf_reshape (w : Reshape) :
    s.sys.modCtxOf s.cur (fun c => { c with reshape := w }) = s.sys.setCtx s.cur.die l { s.ctxNow with reshape := w } := by
  simp only [Sys.modCtxOf, hl, Sys.modCtx, State.ctxNow, Sys.ctxOf]

include hs

theorem fusePlan_eq : fusePlan s.cur s.sys = (codeIf (s.ctxNow.piece != 0 || s.ctxNow.grove.length ≤ 1) 0x0E 0 >>= fun _ => pure .fuse) := by
  have hmatrix : checkMatrix s.cur s.ctxNow = .ok () := checkMatrix_array (by rw [hl]; rfl) hs
  simp only [fusePlan, State.ctxOf_cur, hmatrix, iss_ok_bind]
  rfl

theorem fusePlan_ok (hp : s.ctxNow.piece = 0) (hg : 2 ≤ s.ctxNow.grove.length) : fusePlan s.cur s.sys = .ok .fuse := by
  have hbad : (s.ctxNow.piece != 0 || s.ctxNow.grove.length ≤ 1) = false := by
    rw [Bool.or_eq_false_iff, bne_eq_false_iff_eq, decide_eq_false_iff_not]
    exact ⟨hp, by omega⟩
  rw [fusePlan_eq hl hs, hbad]
  rfl

theorem fusePlan_fails (h : s.ctxNow.piece ≠ 0 ∨ s.ctxNow.grove.length ≤ 1) : fusePlan s.cur s.sys = fails (operandRep 0x0E 0) := by
  have hbad : (s.ctxNow.piece != 0 || s.ctxNow.grove.length ≤ 1) = true := by
    rw [Bool.or_eq_true, bne_iff_ne, decide_eq_true_eq]
    exact h
  rw [fusePlan_eq hl hs, hbad]
  rfl

/-! ## The split record (09 R198) -/

variable {w : BitVec 3} (hfit : Fits s (s.now.wk w).base.toNat 64) (hread : Readable s .matrix (s.now.wk w).base 64)
include hfit hread

/-- The checks of a split after its record has been read. -/
theorem splitPlan_eq : splitPlan w s.cur s.sys = (do
    trapIf (s.word (s.now.wk w).base 64 / 2 ^ 132 != 0 || (splitAllowed s.ctxNow.shape (bitsOf (s.word (s.now.wk w).base 64) 128 4) &&
      bitsOf (s.word (s.now.wk w).base 64) 64 64 / 2 ^ pieceCount s.ctxNow (bitsOf (s.word (s.now.wk w).base 64) 128 4) != 0)) { code := cReserved }
    codeIf (!(s.ctxNow.grove.length == 1 && s.ctxNow.piece == 0 && s.ctxNow.orig.isNone &&
      splitAllowed s.ctxNow.shape (bitsOf (s.word (s.now.wk w).base 64) 128 4))) 0x0C 0
    codeIf (pentryBad (BitVec.ofNat 64 (s.word (s.now.wk w).base 64))) 0x0D 0
    pure (.split (bitsOf (s.word (s.now.wk w).base 64) 128 4) (BitVec.ofNat 64 (bitsOf (s.word (s.now.wk w).base 64) 64 64))
      (BitVec.ofNat 64 (s.word (s.now.wk w).base 64)))) := by
  have hmatrix : checkMatrix s.cur s.ctxNow = .ok () := checkMatrix_array (by rw [hl]; rfl) hs
  have hbytes := readAtIssue_readable (by rw [hl]; rfl) hread
  simp only [splitPlan, State.ctxOf_cur, State.seq_cur, hmatrix, checkWin_fits hfit, hbytes, iss_ok_bind]
  rfl

end

/-- The fields of a split record. -/
theorem splitRecord_fields {v into : Nat} {live pentry : Word} (hv : v = pentry.toNat + 2 ^ 64 * live.toNat + 2 ^ 128 * into) (hinto : into < 16) :
    bitsOf v 128 4 = into ∧ bitsOf v 64 64 = live.toNat ∧ BitVec.ofNat 64 v = pentry ∧ v / 2 ^ 132 = 0 := by
  have hl := live.isLt
  have hp := pentry.isLt
  subst hv
  refine ⟨?_, ?_, BitVec.eq_of_toNat_eq ?_, ?_⟩
  · simp only [bitsOf]; omega
  · simp only [bitsOf]; omega
  · rw [BitVec.toNat_ofNat]; omega
  · omega

section
variable {s : State} {l : Nat} (hl : s.cur.idx = some l) (hs : s.ctxNow.shape ≠ 7) {w : BitVec 3} (hfit : Fits s (s.now.wk w).base.toNat 64)
  (hread : Readable s .matrix (s.now.wk w).base 64) {into : Nat} {live pentry : Word}
  (hv : s.word (s.now.wk w).base 64 = pentry.toNat + 2 ^ 64 * live.toNat + 2 ^ 128 * into) (hinto : into < 16)
include hl hs hfit hread hv hinto

theorem splitPlan_record : splitPlan w s.cur s.sys = (do
    trapIf (splitAllowed s.ctxNow.shape into && live.toNat / 2 ^ pieceCount s.ctxNow into != 0) { code := cReserved }
    codeIf (!(s.ctxNow.grove.length == 1 && s.ctxNow.piece == 0 && s.ctxNow.orig.isNone && splitAllowed s.ctxNow.shape into)) 0x0C 0
    codeIf (pentryBad pentry) 0x0D 0
    pure (.split into live pentry)) := by
  obtain ⟨h1, h2, h3, h4⟩ := splitRecord_fields hv hinto
  rw [splitPlan_eq hl hs hfit hread, h1, h2, h3, h4, BitVec.ofNat_toNat, BitVec.setWidth_eq]
  rfl

/-- LIVE names a piece that the split does not make. -/
theorem splitPlan_reserved (hallow : splitAllowed s.ctxNow.shape into = true) (hlive : 2 ^ pieceCount s.ctxNow into ≤ live.toNat) :
    splitPlan w s.cur s.sys = fails { code := cReserved } := by
  have hdiv : live.toNat / 2 ^ pieceCount s.ctxNow into ≠ 0 := by
    rw [Nat.div_ne_zero_iff]
    exact ⟨by positivity, hlive⟩
  rw [splitPlan_record hl hs hfit hread hv hinto, hallow, Bool.true_and, bne_iff_ne.2 hdiv]
  rfl

theorem splitPlan_refused (h : splitAllowed s.ctxNow.shape into = false ∨ (live.toNat < 2 ^ pieceCount s.ctxNow into ∧
    (s.ctxNow.grove.length ≠ 1 ∨ s.ctxNow.piece ≠ 0 ∨ s.ctxNow.orig ≠ none))) : splitPlan w s.cur s.sys = fails (operandRep 0x0C 0) := by
  have hlive : (splitAllowed s.ctxNow.shape into && live.toNat / 2 ^ pieceCount s.ctxNow into != 0) = false := by
    rcases h with h | ⟨h, -⟩
    · rw [h, Bool.false_and]
    · rw [Nat.div_eq_of_lt h, bne_self_eq_false, Bool.and_false]
  have hwhole : (s.ctxNow.grove.length == 1 && s.ctxNow.piece == 0 && s.ctxNow.orig.isNone && splitAllowed s.ctxNow.shape into) = false := by
    rcases h with h | ⟨-, h | h | h⟩
    · rw [h, Bool.and_false]
    · rw [beq_eq_false_iff_ne.2 h]; rfl
    · rw [beq_eq_false_iff_ne.2 h, Bool.and_false]; rfl
    · rw [← Option.not_isSome, Option.isSome_iff_ne_none.2 h]; simp
  rw [splitPlan_record hl hs hfit hread hv hinto, hlive, hwhole]
  rfl

theorem splitPlan_ok (hg : s.ctxNow.grove.length = 1) (hp : s.ctxNow.piece = 0) (ho : s.ctxNow.orig = none) (hallow : splitAllowed s.ctxNow.shape into = true)
    (hlive : live.toNat < 2 ^ pieceCount s.ctxNow into) (heven : pentry.toNat % 2 = 0) (hcan : canonical pentry = true) :
    splitPlan w s.cur s.sys = .ok (.split into live pentry) := by
  have hentry : pentryBad pentry = false := by simp [pentryBad, heven, hcan]
  rw [splitPlan_record hl hs hfit hread hv hinto, hallow, Nat.div_eq_of_lt hlive, hg, hp, ho, hentry]
  rfl

end

/-- Settles O22: the routing commands join the matrix queue, and a split or a fuse waits, or is refused by the check that fails. -/
theorem routingAndSplits : Obligations.RoutingAndSplits := by
  unfold Obligations.RoutingAndSplits
  refine ⟨fun s c h e hh hs hacc he => ?_, fun s c l h hl hh hs => ⟨fun hwait w => ?_, fun hre => ⟨?_, fun hp hg => ?_, fun ht hbad => ?_, ?_⟩⟩⟩
  · subst hh
    refine ⟨fun n g hc hg hlink => ?_, fun n => ?_, fun hc => ⟨?_, ?_⟩⟩
    · exact routed (i := .mxChn n true c) hacc hs (fun _ => hc) (by simp [chainBad, hg, hlink]) he
    · exact routed (i := .mxChn n false c) hacc hs (fun h => absurd h (by simp)) rfl he
    · exact routed (i := .mxByp true c) hacc hs (fun _ => hc) rfl he
    · exact routed (i := .mxByp false c) hacc hs (fun _ => hc) rfl he
  · subst hh
    refine ⟨⟨_, rfl, ?_⟩, ⟨_, rfl, ?_⟩⟩ <;> (rw [waitReshape_waiting hwait]; rfl)
  · subst hh
    intro w into live pentry hg hp ho hallow hfit hread hv hinto hlive heven hcan
    refine ⟨_, rfl, ?_⟩
    rw [waitReshape_begins hre (splitPlan_ok hl hs hfit hread hv hinto hg hp ho hallow hlive heven hcan), modCtxOf_reshape hl]
    rfl
  · subst hh
    refine ⟨_, rfl, ?_⟩
    rw [waitReshape_begins hre (fusePlan_ok hl hs hp hg), modCtxOf_reshape hl]
    rfl
  · subst hh
    refine ⟨_, rfl, ?_⟩
    rw [waitReshape_traps hre (fusePlan_fails hl hs hbad)]
    exact trapped_of ht 8 _ _
  · subst hh
    intro ht w into live pentry hfit hread hinto hv
    refine ⟨fun hallow hlive => ⟨_, rfl, ?_⟩, fun h => ⟨_, rfl, ?_⟩⟩
    · rw [waitReshape_traps hre (splitPlan_reserved hl hs hfit hread hv hinto hallow hlive)]
      exact trapped_of ht 8 _ _
    · rw [waitReshape_traps hre (splitPlan_refused hl hs hfit hread hv hinto h)]
      exact trapped_of ht 8 _ _

end Sys2Proof.Machine

/-! SUPPORT. Copy commands at issue: a record that is read, the checks that it passes (12 R276 to R280), and the entry of the command. -/

namespace Sys2Proof.Machine

theorem codeIf_ok {bad : Bool} (h : bad = false) (code rep : Nat) : codeIf bad code rep = .ok () := by rw [h]; rfl
theorem trapIf_ok {bad : Bool} (h : bad = false) (t : Trap) : trapIf bad t = .ok () := by rw [h]; rfl

section
variable {s : State} {c : Common} {k : BitVec 2} {w : BitVec 3}

/-- The record of a repetition, its place good. -/
theorem readRecord_ok (hi : s.cur.idx.isSome = true) (hw : Walks s w c) (hk : k.toNat < s.ctxNow.copies.length) {i : Nat} {x : BitVec 512}
    (hfit : Fits s (s.place w c i).toNat 64) (hread : Readable s .copy (s.place w c i) 64) (hx : s.word (s.place w c i) 64 = x.toNat) :
    readRecord k w c s.cur s.sys i = .ok (x, none) := by
  have hidx : (s.cur.idx.isNone || decide ((s.sys.ctxOf s.cur).copies.length ≤ k.toNat)) = false := by
    rw [← Option.not_isSome, hi, Bool.not_true, Bool.false_or, decide_eq_false_iff_not]
    exact Nat.not_le.2 hk
  have haligned : ((s.place w c i).toNat % 64 != 0) = false := by rw [bne_eq_false_iff_eq]; exact hfit.1
  have hinside : decide ((s.sys.ctxOf s.cur).wsz < (s.place w c i).toNat + 64) = false := by rw [decide_eq_false_iff_not]; exact Nat.not_lt.2 hfit.2
  simp only [readRecord, repAddr_walks hw, iss_ok_bind, codeIf_ok hidx, codeIf_ok haligned, codeIf_ok hinside, readAtIssue_readable hi hread, iss_pure]
  rw [State.word] at hx
  rw [hx, BitVec.ofNat_toNat, BitVec.setWidth_eq]

variable {kd : CpKind} {a b : Walk} {i : Nat} {x : BitVec 512}

theorem boundHulls_inside (h : GoodRecord s kd a b i x) : (boundHulls kd x a b).any (·.outside s.ctxNow.wsz) = false := by
  rw [List.any_eq_false]
  intro v hv
  obtain ⟨h1, h2⟩ := h.inside v hv
  simp only [Hull.outside, Bool.or_eq_true, decide_eq_true_eq, not_or, not_lt]
  exact ⟨h1, h2⟩

/-- A condition that a record needs of a kind alone. -/
theorem and_eq_false_of {p q : Bool} (h : p = true → q = false) : (p && q) = false := by
  rw [Bool.and_eq_false_imp]; exact h

/-- A record that passes the checks of its kind. -/
theorem recChecks_ok (h : GoodRecord s kd a b i x) : recChecks kd x a b s.cur.die s.ctxNow s.sys i = .ok () := by
  have hspaces : (!kd.spaces.1.contains (rSsp x) || !kd.spaces.2.contains (rDsp x)) = false := by
    rw [List.contains_iff_mem.2 h.spaces.1, List.contains_iff_mem.2 h.spaces.2]; rfl
  have hempty : ((kd.uses.nrow && rNrow x == 0) || (kd.uses.len && rLen x == 0)) = false :=
    Bool.or_eq_false_iff.2 ⟨and_eq_false_of fun hu => beq_eq_false_iff_ne.2 (h.rows hu), and_eq_false_of fun hu => beq_eq_false_iff_ne.2 (h.bytes hu)⟩
  have hbounds : ((boundHulls kd x a b).any (·.outside s.ctxNow.wsz) || (kd.indexed && rAuxv x % 4 != 0)) = false :=
    Bool.or_eq_false_iff.2 ⟨boundHulls_inside h, and_eq_false_of fun hu => bne_eq_false_iff_eq.2 (h.index hu)⟩
  have hpeer : ((rSsp x == spPeer && peerBad s.sys s.cur.die s.ctxNow (rShnd x) (srcHull kd x b)) ||
      (rDsp x == spPeer && peerBad s.sys s.cur.die s.ctxNow (rDhnd x) (dstHull kd x a))) = false :=
    Bool.or_eq_false_iff.2 ⟨and_eq_false_of fun hu => h.peer.1 (beq_iff_eq.1 hu), and_eq_false_of fun hu => h.peer.2 (beq_iff_eq.1 hu)⟩
  have hport : (rDsp x == spXpk && decide (15 < rDhnd x)) = false :=
    and_eq_false_of fun hu => decide_eq_false (Nat.not_lt.2 (h.port (beq_iff_eq.1 hu)))
  have hatomic : (kd.isAtomic && !atomicOk kd (rAty x) (rAop x)) = false := and_eq_false_of fun hu => by rw [h.atomic hu]; rfl
  have hwalk : (kd == .walk && a.count != b.count) = false := and_eq_false_of fun hu => bne_eq_false_iff_eq.2 (h.walks (beq_iff_eq.1 hu))
  simp only [recChecks, trapIf_ok h.reserved, codeIf_ok hspaces, codeIf_ok hempty, codeIf_ok hbounds, codeIf_ok hpeer, codeIf_ok hport, codeIf_ok hatomic,
    codeIf_ok hwalk, codeIf_ok h.length, codeIf_ok h.landing, codeIf_ok h.landAligned, codeIf_ok h.apart, iss_ok_bind]

theorem alignCheck_ok {recs : List (BitVec 512)} (h : ∀ x ∈ recs, misaligned kd x = none) : alignCheck kd recs = .ok () := by
  induction recs with
  | nil => rfl
  | cons x recs ih =>
    rw [alignCheck, h x List.mem_cons_self]
    exact ih fun y hy => h y (List.mem_cons_of_mem _ hy)

/-- The landing semaphores of records that can be read are mapped. -/
theorem landSems_ok {recs : Nat → BitVec 512} (n i : Nat) (h : ∀ j, i ≤ j → j < i + n → readRecord k w c s.cur s.sys j = .ok (recs j, none) ∧
    rAuxv (recs j) % 256 < s.ctxNow.semMap.length) : landSems k w c s.cur s.sys n i = .ok () := by
  induction n generalizing i with
  | zero => rfl
  | succ n ih =>
    obtain ⟨hread, hsem⟩ := h i (Nat.le_refl i) (by omega)
    have hsem' : ¬ s.ctxNow.semMap.length ≤ rAuxv (recs i) % 256 := Nat.not_le.2 hsem
    simp only [landSems, hread, State.ctxOf_cur, hsem', if_false]
    exact ih (i + 1) fun j hj hn => h j (by omega) (by omega)

end

/-! ## The entry of a copy command -/

/-- What a copy command asks of its records. -/
structure GoodCopy (s : State) (c : Common) (k : BitVec 2) (w : BitVec 3) (kd : CpKind) (a b : Walk) (recs : List (BitVec 512)) : Prop where
  task : s.cur.idx.isSome = true
  walks : Walks s w c
  held : k.toNat < s.ctxNow.copies.length
  count : recs.length = c.rep.toNat + 1
  recs : ∀ j x, recs[j]? = some x → Fits s (s.place w c j).toNat 64 ∧ Readable s .copy (s.place w c j) 64 ∧ s.word (s.place w c j) 64 = x.toNat ∧
    GoodRecord s kd a b j x ∧ (kd = .land → rAuxv x % 256 < s.ctxNow.semMap.length)

/-- The entry of a copy command. -/
def copyEntry (s : State) (kd : CpKind) (a b : Walk) (recs : List (BitVec 512)) : Entry :=
  let rd := hullAll (recs.flatMap (fun x => (winHulls kd x a b).1))
  let wr := hullAll (recs.flatMap (fun x => (winHulls kd x a b).2))
  { num := 0, cmd := .nop, recs := recs, walkA := a, walkB := b, ranges := s.ctxNow.ranges, rd := rd, wr := wr
    peers := if recs.any (fun x => rSsp x == spPeer || rDsp x == spPeer) then pieceShapes s.sys s.cur.die s.ctxNow else []
    scb := !(rd.isEmpty && wr.isEmpty), weight := kd.weight }

section
variable {s : State} {c : Common} {k : BitVec 2} {w wa wb : BitVec 3} {kd : CpKind} {recs : List (BitVec 512)}
  (h : GoodCopy s c k w kd (s.now.wk wa) (s.now.wk wb) recs)
include h

theorem GoodCopy.read {i : Nat} (hi : i < recs.length) : readRecord k w c s.cur s.sys i = .ok (recs.getD i 0, none) ∧
    GoodRecord s kd (s.now.wk wa) (s.now.wk wb) i (recs.getD i 0) ∧ (kd = .land → rAuxv (recs.getD i 0) % 256 < s.ctxNow.semMap.length) := by
  have hget : recs[i]? = some (recs.getD i 0) := by rw [List.getD_eq_getElem?_getD, List.getElem?_eq_getElem hi]; rfl
  obtain ⟨hfit, hread, hx, hgood, hsem⟩ := h.recs i _ hget
  exact ⟨readRecord_ok h.task h.walks h.held hfit hread hx, hgood, hsem⟩

theorem GoodCopy.reads : (repetitions c).map (fun i => (recs.getD i 0, (none : Option Nat))) = recs.map (fun x => (x, none)) := by
  refine List.ext_getElem (by simp [repetitions, h.count]) fun i h1 h2 => ?_
  rw [List.length_map] at h2
  simp [repetitions, List.getElem?_eq_getElem h2]

theorem cpPlan_ok : cpPlan kd k w wa wb c s.cur s.sys = .ok { e := copyEntry s kd (s.now.wk wa) (s.now.wk wb) recs } := by
  have hsems : kd = .land → landSems k w c s.cur s.sys (repsOf c) 0 = .ok () := fun hland =>
    landSems_ok (recs := fun i => recs.getD i 0) _ 0 fun j _ hj => by
      obtain ⟨hread, -, hsem⟩ := h.read (i := j) (by rw [h.count]; simpa [repsOf] using hj)
      exact ⟨hread, hsem hland⟩
  have hreps := eachRep_ok (c := c) (f := fun i => (do
      let x ← readRecord k w c s.cur s.sys i
      recChecks kd x.1 ((s.sys.seq s.cur).wk wa) ((s.sys.seq s.cur).wk wb) s.cur.die (s.sys.ctxOf s.cur) s.sys i
      pure x)) (g := fun i => (recs.getD i 0, none)) fun i hi => by
    obtain ⟨hread, hgood, -⟩ := h.read (i := i) (by rw [h.count]; omega)
    have hchecks : recChecks kd (recs.getD i 0) ((s.sys.seq s.cur).wk wa) ((s.sys.seq s.cur).wk wb) s.cur.die (s.sys.ctxOf s.cur) s.sys i = .ok () :=
      recChecks_ok hgood
    simp only [hread, iss_ok_bind, hchecks, iss_pure]
  have halign : alignCheck kd recs = .ok () := alignCheck_ok fun x hx => by
    obtain ⟨j, hj, rfl⟩ := List.mem_iff_getElem.1 hx
    exact (h.recs j _ (List.getElem?_eq_getElem hj)).2.2.2.1.aligned
  have hbad : firstBad ((recs.map (fun x => (x, (none : Option Nat)))).map (·.2)) = none := by
    rw [firstBad, List.findSome?_eq_none_iff]
    simp
  have hrecs : (recs.map (fun x => (x, (none : Option Nat)))).map (·.1) = recs := by rw [List.map_map]; exact List.map_id _
  rw [h.reads] at hreps
  simp only [cpPlan, hreps, iss_ok_bind, hrecs, halign, hbad]
  simp only [List.flatMap_map, iss_pure]
  split
  · next hland =>
    rw [hsems (beq_iff_eq.1 hland), iss_ok_bind]
    rfl
  · rfl

/-- The command joins the queue of its copy context, or waits. -/
theorem GoodCopy.queued {i : Instr} (hacc : Accepts s c) : ∃ t, runIssue s i c .copy (8 + k.toNat) (cpPlan kd k w wa wb c) = .next t ∧
    Queued s i c (8 + k.toNat) (copyEntry s kd (s.now.wk wa) (s.now.wk wb) recs) id t := by
  have hu : Unit3.copy = unitOf (8 + k.toNat) := by
    rw [unitOf, if_neg (by omega), if_neg (by omega)]
  have hq := issue_queued (i := i) hacc hu (cpPlan_ok h) rfl
  exact hq

end

/-- Settles O23: each copy command is the issue of its kind. -/
theorem copyCommands : Obligations.CopyCommands := by
  unfold Obligations.CopyCommands
  intro s c k w a b i kd recs rd wr hkind hw hk hlen hrecs hrd hwr hacc
  subst hrd hwr
  rcases hkind with ⟨rfl, rfl, hmem⟩ | ⟨wa, wb, rfl, rfl, hi⟩
  · have hgood : GoodCopy s c k w kd (s.now.wk 0) (s.now.wk 0) recs := ⟨hacc.task, hw, hk, hlen, hrecs⟩
    have hq := fun j => hgood.queued (i := j) hacc
    simp only [List.mem_cons, Prod.mk.injEq, List.not_mem_nil] at hmem
    repeat' obtain ⟨rfl, rfl⟩ | hmem := hmem
    all_goals exact hq _
  · obtain ⟨rfl, rfl⟩ := Prod.mk.inj hi
    have hgood : GoodCopy s c k w .walk (s.now.wk wa) (s.now.wk wb) recs := ⟨hacc.task, hw, hk, hlen, hrecs⟩
    exact hgood.queued hacc

end Sys2Proof.Machine

/-! SUPPORT. The end of a turn of the matrix queue: what the links and the bypass move (09 R194 to R196), and the retirement of the head entry
(02 R51, 09 R201). -/

namespace Sys2Proof.Machine

/-! ## Links and bypass -/

/-- What the accumulator side sees of a chain: its routing and the vectors that `mx.drnx` has presented to it. -/
def Chain.face (h : Chain) : Routing × List Beat := (h.route, h.port 0)

theorem lmod_map {α β : Type} {g : α → β} {f : α → α} (hf : ∀ a, g (f a) = g a) (l : List α) (k : Nat) : (lmod l k f).map g = l.map g := by
  unfold lmod
  split
  · rfl
  · next v hv =>
    rw [List.map_set, hf]
    obtain ⟨hk, rfl⟩ := List.getElem?_eq_some_iff.1 hv
    rw [← List.getElem_map g (h := by simpa using hk), List.set_getElem_self]

/-- A context of which nothing but links and bypass differs: the bytes they hold, whose turn it is, and the pushes of the chains. -/
def CtxLinks (b c : Ctx) : Prop := (∃ hs ts ks bs, c = { b with chains := hs, turns := ts, links := ks, bypass := bs }) ∧ c.chains.map Chain.face = b.chains.map Chain.face

theorem CtxLinks.refl (c : Ctx) : CtxLinks c c := ⟨⟨_, _, _, _, rfl⟩, rfl⟩

theorem CtxLinks.trans {a b c : Ctx} (h : CtxLinks a b) (k : CtxLinks b c) : CtxLinks a c := by
  obtain ⟨⟨_, _, _, _, rfl⟩, hf⟩ := h
  obtain ⟨⟨_, _, _, _, rfl⟩, kf⟩ := k
  exact ⟨⟨_, _, _, _, rfl⟩, kf.trans hf⟩

/-- Nothing but links and bypass differs. -/
structure LinksOnly (y z : Sys) : Prop where
  die : ∀ d, ∃ cs, z.die d = { y.die d with ctxs := cs }
  ctx : ∀ d l, CtxLinks (y.ctx d l) (z.ctx d l)

namespace LinksOnly

variable {x y z : Sys}

theorem refl (y : Sys) : LinksOnly y y := ⟨fun _ => ⟨_, rfl⟩, fun _ _ => .refl _⟩

theorem trans (h : LinksOnly x y) (k : LinksOnly y z) : LinksOnly x z := by
  refine ⟨fun d => ?_, fun d l => (h.ctx d l).trans (k.ctx d l)⟩
  obtain ⟨_, hd⟩ := h.die d
  obtain ⟨_, kd⟩ := k.die d
  exact ⟨_, by rw [kd, hd]⟩

theorem modCtx {y : Sys} {d l : Nat} {f : Ctx → Ctx} (hf : CtxLinks (y.ctx d l) (f (y.ctx d l))) : LinksOnly y (y.modCtx d l f) := by
  refine ⟨fun e => ?_, fun e m => ?_⟩
  · rw [Sys.modCtx, Sys.setCtx, Sys.die_modDie]
    split
    · next h => subst h; exact ⟨_, rfl⟩
    · exact ⟨_, rfl⟩
  · rw [Sys.ctx_modCtx]
    split
    · next h => obtain ⟨rfl, rfl⟩ := h; exact hf
    · exact .refl _

end LinksOnly

theorem Chain.face_pop (h : Chain) (o : List (Routing × Nat)) : ({ h.pop 10 with outTo := o } : Chain).face = h.face := by
  simp [Chain.face, Chain.pop, Chain.setPort, Chain.port, vgetD]

theorem passPush_links (d l ch n : Nat) (y : Sys) : LinksOnly y (passPush d l ch n y) :=
  (LinksOnly.modCtx (f := fun c => { c with chains := lmod c.chains ch (fun h => { h.pop 10 with outTo := h.outTo.drop 1 }) })
    ⟨⟨_, _, _, _, rfl⟩, lmod_map (fun h => h.face_pop _) _ _⟩).trans (.modCtx ⟨⟨_, _, _, _, rfl⟩, rfl⟩)

theorem pushOne_links {d l ch : Nat} {y z : Sys} (h : pushOne d l ch y = some z) : LinksOnly y z := by
  unfold pushOne at h
  dsimp only at h
  split at h
  · cases h
  · split at h
    · split at h
      · cases h
      · have hpass := fun n => passPush_links d l ch n y
        have hinto := fun n e (f : Ctx → Ctx) (hf : ∀ c, CtxLinks c (f c)) => (hpass n).trans (.modCtx (d := d) (l := e) (f := f) (hf _))
        split at h
        · cases h
        · split at h
          · cases h
          · cases h; exact hinto _ _ _ fun c => ⟨⟨_, _, _, _, rfl⟩, rfl⟩
        · split at h
          · cases h; exact hpass _
          · split at h
            · cases h; exact hpass _
            · split at h
              · cases h
              · cases h; exact hinto _ _ _ fun c => ⟨⟨_, _, _, _, rfl⟩, rfl⟩
    · cases h

theorem moveLink_links (d l fuel : Nat) (y : Sys) : LinksOnly y (moveLink d l fuel y) := by
  induction fuel generalizing y with
  | zero => exact .refl y
  | succ n ih =>
    rw [moveLink]
    split
    · exact .refl y
    · next z hz =>
      obtain ⟨ch, -, hch⟩ := List.exists_of_findSome?_eq_some hz
      exact (pushOne_links hch).trans (ih z)

theorem moveLinks_links (d l : Nat) (y : Sys) : LinksOnly y (moveLinks d l y) := by
  refine List.foldlRecOn (motive := fun z : Sys => LinksOnly y z) _ _ (.refl y) fun z hz m _ => ?_
  split
  · exact hz.trans (moveLink_links d m 96 z)
  · exact hz

/-! ## The retirement of the head entry -/

/-- Of a queue whose other entries bear other numbers, a change of the head entry's number changes the head entry. -/
theorem EQueue.modEntry_head {q : EQueue} {e : Entry} {rest : List Entry} {n : Nat} (hq : q.ents = e :: rest) (hn : e.num = n) (hr : ∀ x ∈ rest, x.num ≠ n)
    (f : Entry → Entry) : q.modEntry n f = { q with ents := f e :: rest } := by
  have hrest : rest.map (fun x => if x.num = n then f x else x) = rest :=
    (List.map_congr_left fun x hx => if_neg (hr x hx)).trans (List.map_id' rest)
  simp [EQueue.modEntry, hq, hn, hrest]

/-- Nothing but the head entry of a queue, of number `n`, and the semaphores of the die differs. -/
structure HeadOnly (d l q n : Nat) (rest : List Entry) (y z : Sys) : Prop where
  queue : ∃ e, e.num = n ∧ (z.ctx d l).queue q = { (y.ctx d l).queue q with ents := e :: rest }
  ctx : ∃ qs, z.ctx d l = { y.ctx d l with queues := qs }
  die : ∃ cs ss, z.die d = { y.die d with ctxs := cs, sems := ss }
  others : ∀ x, x ≠ d → z.die x = y.die x

/-- The head entry of a queue has number `n`, and no other entry has. -/
structure HeadNum (d l q n : Nat) (rest : List Entry) (y : Sys) : Prop where
  head : ∃ e, e.num = n ∧ ((y.ctx d l).queue q).ents = e :: rest
  nums : ∀ x ∈ rest, x.num ≠ n

section
variable {d l q n : Nat} {rest : List Entry} {x y z : Sys}

theorem HeadOnly.trans (h : HeadOnly d l q n rest x y) (k : HeadOnly d l q n rest y z) : HeadOnly d l q n rest x z := by
  obtain ⟨_, _, hq⟩ := h.queue
  obtain ⟨_, hc⟩ := h.ctx
  obtain ⟨_, _, hd⟩ := h.die
  obtain ⟨e, he, kq⟩ := k.queue
  obtain ⟨_, kc⟩ := k.ctx
  obtain ⟨_, _, kd⟩ := k.die
  exact ⟨⟨e, he, by rw [kq, hq]⟩, ⟨_, by rw [kc, hc]⟩, ⟨_, _, by rw [kd, hd]⟩, fun i hi => (k.others i hi).trans (h.others i hi)⟩

theorem HeadOnly.headNum (h : HeadOnly d l q n rest y z) (k : HeadNum d l q n rest y) : HeadNum d l q n rest z := by
  obtain ⟨e, he, hq⟩ := h.queue
  exact ⟨⟨e, he, by rw [hq]⟩, k.nums⟩

theorem HeadOnly.of_dies (h : HeadNum d l q n rest y) (hd : ∃ cs ss, z.die d = { y.die d with ctxs := cs, sems := ss }) (hc : z.ctx d l = y.ctx d l)
    (ho : ∀ x, x ≠ d → z.die x = y.die x) : HeadOnly d l q n rest y z := by
  obtain ⟨e, he, hq⟩ := h.head
  exact ⟨⟨e, he, by rw [hc, ← hq]⟩, ⟨_, hc⟩, hd, ho⟩

theorem HeadOnly.modEntry (h : HeadNum d l q n rest y) {f : Entry → Entry} (hf : ∀ e, e.num = n → (f e).num = n) :
    HeadOnly d l q n rest y (y.modEntry d l q n f) := by
  obtain ⟨e, he, hq⟩ := h.head
  refine ⟨⟨f e, hf e he, ?_⟩, ⟨_, by rw [Sys.modEntry, Sys.ctx_modCtx_self]; rfl⟩, ?_, fun x hx => Sys.die_modDie_ne _ _ hx⟩
  · rw [Sys.modEntry, Sys.ctx_modCtx_self, Ctx.queue_modQueue_self, EQueue.modEntry_head hq he h.nums]
  · exact ⟨_, _, Sys.die_modDie_self ..⟩

/-- An increment of a semaphore changes nothing but that semaphore, and its choice and its release stand in the logs (11 R259, 12 R302). -/
theorem semSignal_die (y : Sys) (d part ps inc ctag que ent e : Nat) : (semSignal y d part ps inc ctag que ent).die e =
    if e = d then (y.die d).setSem ps (((y.die d).sem ps).add inc (ctag, que, ent)) else y.die e := by
  have hnote := logKept_note y part (.sem ((y.die d).sem ps).tag ctag que ent false)
  unfold semSignal
  dsimp only
  rw [debugLog, (logKept_writeRecord _ _ _ _ _ _ _ _ _).die, Sys.die_modDie, noteSem, hnote.die, hnote.die]

theorem semSignal_ctx (y : Sys) (d part ps inc ctag que ent e m : Nat) : (semSignal y d part ps inc ctag que ent).ctx e m = y.ctx e m := by
  unfold Sys.ctx
  rw [semSignal_die]
  split
  · next h => rw [h]; rfl
  · rfl

theorem HeadOnly.semSignal (h : HeadNum d l q n rest y) (part ps inc ctag que ent : Nat) :
    HeadOnly d l q n rest y (semSignal y d part ps inc ctag que ent) :=
  .of_dies h ⟨_, _, by rw [semSignal_die, if_pos rfl]; rfl⟩ (semSignal_ctx ..) fun x hx => by rw [semSignal_die, if_neg hx]

theorem applySignal_head {e : Entry} (hn : e.num = n) (h : HeadNum d l q n rest y) : HeadOnly d l q n rest y (applySignal d l q e y) := by
  subst hn
  have hset : HeadOnly d l q e.num rest y (y.modEntry d l q e.num (fun e => { e with signalled := true })) := .modEntry h fun _ h => h
  unfold applySignal
  dsimp only
  split
  · exact .of_dies h ⟨_, _, rfl⟩ rfl fun _ _ => rfl
  · split
    · exact hset
    · exact hset.trans (.semSignal (hset.headNum h) ..)

/-- The count of a semaphore once the signal of an entry has been applied (03 R67). -/
def signalledCount (e : Entry) (ps n : Nat) : Nat :=
  match e.signal with
  | none => n
  | some (p, inc, _) => if e.signalled = false ∧ ps = p then min (n + inc) 65535 else n

theorem modEntry_sem (y : Sys) (d l q n : Nat) (f : Entry → Entry) (ps : Nat) : ((y.modEntry d l q n f).die d).sem ps = (y.die d).sem ps := by
  rw [Sys.modEntry, Sys.modCtx, Sys.setCtx, Sys.die_modDie_self]; rfl

theorem applySignal_count (d l q : Nat) (e : Entry) (y : Sys) (ps : Nat) :
    (((applySignal d l q e y).die d).sem ps).count = signalledCount e ps ((y.die d).sem ps).count := by
  unfold applySignal signalledCount
  dsimp only
  cases hs : e.signalled <;> cases hg : e.signal
  case true.none | true.some => simp
  case false.none => exact congrArg Sem.count (modEntry_sem ..)
  case false.some p =>
    simp only [Bool.false_eq_true, if_false, true_and]
    rw [semSignal_die, if_pos rfl, Die.sem, Die.setSem, mgetD_mset]
    split
    · next h =>
      subst h
      simp only [Sem.add, modEntry_sem]
    · exact congrArg Sem.count (modEntry_sem ..)

theorem complete_head {e : Entry} (hn : e.num = n) (h : HeadNum d l q n rest y) : HeadOnly d l q n rest y (complete d l q e y) := by
  subst hn
  have hdone : HeadOnly d l q e.num rest y (y.modEntry d l q e.num (fun e => { e with done := true })) := .modEntry h fun _ h => h
  exact hdone.trans (applySignal_head rfl (hdone.headNum h))

theorem complete_count (d l q : Nat) (e : Entry) (y : Sys) (ps : Nat) :
    (((complete d l q e y).die d).sem ps).count = signalledCount e ps ((y.die d).sem ps).count := by
  rw [complete, applySignal_count, modEntry_sem]

theorem logKept_logEntry (y : Sys) (d l q kind : Nat) (e : Entry) : LogKept y (logEntry y d l q kind e) := logKept_writeRecord ..

/-- The head entry of a queue is gone, its number is the timeline, and its signal is applied. -/
structure HeadGone (d l q : Nat) (e : Entry) (rest : List Entry) (y z : Sys) : Prop where
  queue : (z.ctx d l).queue q = { (y.ctx d l).queue q with ret := e.num, ents := rest }
  ctx : ∃ qs w m b ps, z.ctx d l = { y.ctx d l with queues := qs, wdCycles := w, mcent := m, mce := b, pend := ps }
  pend : e.bad = false → (z.ctx d l).pend = (y.ctx d l).pend
  die : ∃ cs ss, z.die d = { y.die d with ctxs := cs, sems := ss }
  others : ∀ x, x ≠ d → z.die x = y.die x
  count : ∀ ps, ((z.die d).sem ps).count = signalledCount e ps ((y.die d).sem ps).count

theorem HeadGone.modCtx {e : Entry} {f : Ctx → Ctx} (h : HeadGone d l q e rest y z) (hq : (f (z.ctx d l)).queue q = (z.ctx d l).queue q)
    (hf : ∃ m b ps, f (z.ctx d l) = { z.ctx d l with mcent := m, mce := b, pend := ps }) (hb : e.bad = true) :
    HeadGone d l q e rest y (z.modCtx d l f) := by
  obtain ⟨_, _, _, _, _, hc⟩ := h.ctx
  obtain ⟨_, _, _, hf⟩ := hf
  obtain ⟨_, _, hd⟩ := h.die
  refine ⟨by rw [Sys.ctx_modCtx_self, hq, h.queue], ⟨_, _, _, _, _, by rw [Sys.ctx_modCtx_self, hf, hc]⟩, fun k => absurd hb (by simp [k]), ?_,
    fun x hx => (Sys.die_modDie_ne _ _ hx).trans (h.others x hx), fun ps => ?_⟩
  · exact ⟨_, _, by rw [Sys.modCtx, Sys.setCtx, Sys.die_modDie_self, hd]⟩
  · rw [← h.count ps, Sys.modCtx, Sys.setCtx, Sys.die_modDie_self]; rfl

theorem retireHead_gone {e : Entry} (h : HeadNum d l q e.num rest y) : HeadGone d l q e rest y (retireHead d l q e y) := by
  have hcomp := complete_head rfl h
  have hlog := logKept_logEntry (complete d l q e y) d l q 5 e
  obtain ⟨_, -, hq⟩ := hcomp.queue
  obtain ⟨_, hc⟩ := hcomp.ctx
  obtain ⟨_, _, hd⟩ := hcomp.die
  have hgone : HeadGone d l q e rest y ((logEntry (complete d l q e y) d l q 5 e).modCtx d l
      (fun c => { c.modQueue q (fun u => { u with ret := e.num, ents := u.ents.drop 1 }) with wdCycles := 0 })) := by
    refine ⟨?_, ⟨_, _, _, _, _, by rw [Sys.ctx_modCtx_self, hlog.ctx, hc]; rfl⟩, fun _ => by rw [Sys.ctx_modCtx_self, hlog.ctx, hc]; rfl,
      ⟨_, _, by rw [Sys.modCtx, Sys.setCtx, Sys.die_modDie_self, hlog.die, hd]⟩,
      fun x hx => (Sys.die_modDie_ne _ _ hx).trans ((hlog.die x).trans (hcomp.others x hx)), fun ps => ?_⟩
    · rw [Sys.ctx_modCtx_self, Ctx.queue_wdCycles, Ctx.queue_modQueue_self, hlog.ctx, hq]; rfl
    · rw [← complete_count, Sys.modCtx, Sys.setCtx, Sys.die_modDie_self, hlog.die]; rfl
  unfold retireHead
  dsimp only
  split
  · next hb =>
    unfold entryMachineCheck addPend
    dsimp only
    have hmark : HeadGone d l q e rest y _ := hgone.modCtx (f := fun c => { c with mce := true, mcent := BitVec.ofNat 32 e.num }) rfl ⟨_, _, _, rfl⟩ hb
    have hpend : ∀ z (c : PendCause), HeadGone d l q e rest y z → HeadGone d l q e rest y
        (z.modCtx d l (fun x => if x.pend.contains c then x else { x with pend := x.pend ++ [c] })) := by
      intro z c hz
      refine hz.modCtx ?_ ?_ hb <;> split
      · rfl
      · rfl
      · exact ⟨_, _, _, rfl⟩
      · exact ⟨_, _, _, rfl⟩
    split
    · exact hpend _ _ hmark
    · exact hpend _ _ hgone
  · exact hgone

end

/-! ## A turn of the matrix queue -/

@[simp] theorem Ctx.asIssued_queue (c : Ctx) (g : Option (Nat × Nat × Nat × Nat)) (q : Nat) : (c.asIssued g).queue q = c.queue q := by
  unfold Ctx.asIssued; split <;> rfl

@[simp] theorem Ctx.asIssued_engines (c : Ctx) (g : Option (Nat × Nat × Nat × Nat)) : (c.asIssued g).engines = c.engines := by
  unfold Ctx.asIssued; split <;> rfl

/-- What the end of a turn leaves as the command made it: the window, the accumulators, the stationary B, and of the context all but the queue,
the watchdog, links and bypass, and, where an entry met uncorrectable data (`b`), the machine check. -/
structure Settled (b : Bool) (d l : Nat) (y z : Sys) : Prop where
  cell : ∀ x, z.cell x = y.cell x
  banks : (z.die d).banks = (y.die d).banks
  bmat : (z.die d).bmat = (y.die d).bmat
  ctx : ∃ qs w m e ps hs ts ks bs, z.ctx d l = { y.ctx d l with
    queues := qs, wdCycles := w, mcent := m, mce := e, pend := ps, chains := hs, turns := ts, links := ks, bypass := bs }
  chains : (z.ctx d l).chains.map Chain.face = (y.ctx d l).chains.map Chain.face
  pend : b = false → (z.ctx d l).pend = (y.ctx d l).pend

theorem Sys.cell_of_die {y z : Sys} (h : ∀ d, (z.die d).smem = (y.die d).smem ∧ (z.die d).smemBad = (y.die d).smemBad ∧ (z.die d).slices = (y.die d).slices)
    (x : Cell) : z.cell x = y.cell x := by
  obtain ⟨h1, h2, h3⟩ := h x.die
  unfold Sys.cell Die.slice
  rw [h1, h2, h3]

namespace Settled

variable {b : Bool} {d l : Nat} {x y z : Sys}

theorem trans (h : Settled b d l x y) (k : Settled b d l y z) : Settled b d l x z := by
  obtain ⟨_, _, _, _, _, _, _, _, _, hc⟩ := h.ctx
  obtain ⟨_, _, _, _, _, _, _, _, _, kc⟩ := k.ctx
  exact ⟨fun i => (k.cell i).trans (h.cell i), k.banks.trans h.banks, k.bmat.trans h.bmat, ⟨_, _, _, _, _, _, _, _, _, by rw [kc, hc]⟩,
    k.chains.trans h.chains, fun hb => (k.pend hb).trans (h.pend hb)⟩

theorem of_links (h : LinksOnly y z) : Settled b d l y z := by
  have hcell : ∀ x, z.cell x = y.cell x := Sys.cell_of_die fun i => by obtain ⟨_, hi⟩ := h.die i; rw [hi]; exact ⟨rfl, rfl, rfl⟩
  obtain ⟨_, hd⟩ := h.die d
  obtain ⟨⟨_, _, _, _, hc⟩, hf⟩ := h.ctx d l
  exact ⟨hcell, by rw [hd], by rw [hd], ⟨_, _, _, _, _, _, _, _, _, by rw [hc]⟩, hf, fun _ => by rw [hc]⟩

theorem of_gone {q : Nat} {e : Entry} {rest : List Entry} (h : HeadGone d l q e rest y z) : Settled e.bad d l y z := by
  obtain ⟨_, _, hd⟩ := h.die
  obtain ⟨_, _, _, _, _, hc⟩ := h.ctx
  have hcell : ∀ x, z.cell x = y.cell x := Sys.cell_of_die fun i => by
    by_cases hi : i = d
    · subst hi; rw [hd]; exact ⟨rfl, rfl, rfl⟩
    · rw [h.others i hi]; exact ⟨rfl, rfl, rfl⟩
  exact ⟨hcell, by rw [hd], by rw [hd], ⟨_, _, _, _, _, _, _, _, _, by rw [hc]⟩, by rw [hc], h.pend⟩

end Settled

section
variable {s : State} {d l : Nat} {c : Ctx} {e : Entry} {rest : List Entry}

theorem StartedHead.ctx_queue (h : StartedHead s d l 0 c e rest) : ((s.sys.ctx d l).queue 0).ents = e :: rest := by
  rw [← h.queue, h.ctx, Sys.ctxFor, Ctx.asIssued_queue]

/-- What the queue's turn comes to: the started head entry of a context whose engines act executes. -/
theorem StartedHead.ends (h : StartedHead s d l 0 c e rest) {P : State → Prop} (hP : P { s with sys := noteExcess (matrixRetire d l e s.sys) }) :
    Ends (.entryRetire d l 0) s P := by
  have hengines : (s.sys.ctx d l).engines = true := by rw [← h.engines, h.ctx, Sys.ctxFor, Ctx.asIssued_engines]
  have hstarted : startedHead (s.sys.ctx d l) 0 = some e := by simp [startedHead, h.ctx_queue, h.started]
  have hstep : entryRetireStep d l 0 s.sys = matrixRetire d l e s.sys := by simp [entryRetireStep, hengines, hstarted]
  exact ends_of_ev (f := fun y => noteExcess (entryRetireStep d l 0 y)) rfl (congrArg noteExcess hstep) hP

/-- The system after the command of the head entry has acted, with the entry as it stands then. -/
structure Acted (s : State) (d l : Nat) (e : Entry) (v : Sys) (e' : Entry) : Prop where
  num : e'.num = e.num
  signal : e'.signal = e.signal
  signalled : e'.signalled = e.signalled
  queue : (v.ctx d l).queue 0 = (s.sys.ctx d l).queue 0
  sems : (v.die d).sems = (s.sys.die d).sems

/-- The entry stands in the queue as its command left it. -/
def entryStands (d l : Nat) (e e' : Entry) (v : Sys) : Sys :=
  let y := v.modEntry d l 0 e.num (fun _ => { e' with started := true })
  if e'.rep != e.rep then y.modCtx d l (fun c => { c with wdCycles := 0 }) else y

theorem entryStands_kept (d l : Nat) (e e' : Entry) (v : Sys) : (∀ i, ∃ cs, (entryStands d l e e' v).die i = { v.die i with ctxs := cs }) ∧
    (∃ w, (entryStands d l e e' v).ctx d l = { (v.ctx d l).modQueue 0 (fun u => u.modEntry e.num (fun _ => { e' with started := true })) with wdCycles := w }) := by
  have hdie : ∀ (y : Sys) (f : Ctx → Ctx) i, ∃ cs, (y.modCtx d l f).die i = { y.die i with ctxs := cs } := fun y f i => by
    rw [Sys.modCtx, Sys.setCtx, Sys.die_modDie]
    split
    · next h => subst h; exact ⟨_, rfl⟩
    · exact ⟨_, rfl⟩
  unfold entryStands
  dsimp only
  split
  · refine ⟨fun i => ?_, ⟨0, by rw [Sys.ctx_modCtx_self, Sys.modEntry, Sys.ctx_modCtx_self]⟩⟩
    obtain ⟨_, h1⟩ := hdie (v.modEntry d l 0 e.num (fun _ => { e' with started := true })) (fun c => { c with wdCycles := 0 }) i
    obtain ⟨_, h2⟩ := hdie v (fun c => c.modQueue 0 (fun u => u.modEntry e.num (fun _ => { e' with started := true }))) i
    exact ⟨_, by rw [h1, Sys.modEntry, h2]⟩
  · exact ⟨hdie v _, ⟨_, by rw [Sys.modEntry, Sys.ctx_modCtx_self]⟩⟩

theorem entryStands_settled (d l : Nat) (e e' : Entry) (v : Sys) (b : Bool) : Settled b d l v (entryStands d l e e' v) := by
  obtain ⟨hdie, _, hctx⟩ := entryStands_kept d l e e' v
  obtain ⟨_, hd⟩ := hdie d
  refine ⟨Sys.cell_of_die fun i => ?_, by rw [hd], by rw [hd], ⟨_, _, _, _, _, _, _, _, _, by rw [hctx]; rfl⟩, by rw [hctx]; rfl, fun _ => by rw [hctx]; rfl⟩
  obtain ⟨_, hi⟩ := hdie i
  rw [hi]
  exact ⟨rfl, rfl, rfl⟩

theorem Acted.stands {v : Sys} {e' : Entry} (ha : Acted s d l e v e') (h : StartedHead s d l 0 c e rest) :
    ((entryStands d l e e' v).ctx d l).queue 0 = { (s.sys.ctx d l).queue 0 with ents := { e' with started := true } :: rest } := by
  obtain ⟨-, _, hctx⟩ := entryStands_kept d l e e' v
  rw [hctx, Ctx.queue_wdCycles, Ctx.queue_modQueue_self, ha.queue, EQueue.modEntry_head h.ctx_queue rfl h.nums]

/-- An entry that is not done stands at the head of the queue after its turn. -/
theorem Acted.goesOn {v : Sys} {e' : Entry} (ha : Acted s d l e v e') (h : StartedHead s d l 0 c e rest)
    (hr : matrixStep d l (moveLinks d l s.sys) e = ⟨v, e', false⟩) : Settled false d l v (matrixRetire d l e s.sys) ∧
    (((matrixRetire d l e s.sys).ctx d l).queue 0).ents = { e' with started := true } :: rest := by
  have hstep : matrixRetire d l e s.sys = moveLinks d l (entryStands d l e e' v) := by unfold matrixRetire; rw [hr]; rfl
  have hlinks := moveLinks_links d l (entryStands d l e e' v)
  obtain ⟨⟨_, _, _, _, hc⟩, -⟩ := hlinks.ctx d l
  rw [hstep]
  refine ⟨(entryStands_settled d l e e' v false).trans (.of_links hlinks), ?_⟩
  have hq : ((moveLinks d l (entryStands d l e e' v)).ctx d l).queue 0 = ((entryStands d l e e' v).ctx d l).queue 0 := by rw [hc]; rfl
  rw [hq, ha.stands h]

/-- An entry that is done retires. -/
theorem Acted.retires {v : Sys} {e' : Entry} (ha : Acted s d l e v e') (h : StartedHead s d l 0 c e rest)
    (hr : matrixStep d l (moveLinks d l s.sys) e = ⟨v, e', true⟩) : Settled e'.bad d l v (matrixRetire d l e s.sys) ∧
    Retired s d l 0 e rest { s with sys := noteExcess (matrixRetire d l e s.sys) } := by
  have hstep : matrixRetire d l e s.sys = moveLinks d l (retireHead d l 0 { e' with started := true } (entryStands d l e e' v)) := by
    unfold matrixRetire; rw [hr]; rfl
  have hhead : HeadNum d l 0 e'.num rest (entryStands d l e e' v) := ⟨⟨{ e' with started := true }, rfl, congrArg EQueue.ents (ha.stands h)⟩, ha.num ▸ h.nums⟩
  have hgone := retireHead_gone (e := { e' with started := true }) hhead
  have hlinks := moveLinks_links d l (retireHead d l 0 { e' with started := true } (entryStands d l e e' v))
  obtain ⟨⟨_, _, _, _, hc⟩, -⟩ := hlinks.ctx d l
  obtain ⟨_, hd⟩ := hlinks.die d
  obtain ⟨hsd, -⟩ := entryStands_kept d l e e' v
  obtain ⟨_, hsd⟩ := hsd d
  rw [hstep]
  refine ⟨(entryStands_settled d l e e' v _).trans ((Settled.of_gone hgone).trans (.of_links hlinks)), ?_⟩
  have hq : ((noteExcess (moveLinks d l (retireHead d l 0 { e' with started := true } (entryStands d l e e' v)))).ctx d l).queue 0 =
      { (s.sys.ctx d l).queue 0 with ret := e.num, ents := rest } := by
    rw [noteExcess_ctx, hc, ← ha.num]
    exact hgone.queue.trans (by rw [ha.stands h])
  have hcount : ∀ ps, (((noteExcess (moveLinks d l (retireHead d l 0 { e' with started := true } (entryStands d l e e' v)))).die d).sem ps).count =
      signalledCount e ps ((s.sys.die d).sem ps).count := by
    intro ps
    have hstands : ((entryStands d l e e' v).die d).sem ps = (s.sys.die d).sem ps := by rw [hsd]; simp only [Die.sem, ha.sems]
    rw [noteExcess_die, hd]
    refine (hgone.count ps).trans ?_
    rw [hstands]
    simp only [signalledCount, ha.signal, ha.signalled]
  refine ⟨by rw [hq], by rw [hq], by rw [hq], fun ps inc sc hs => ?_, fun ps hne => ?_⟩
  · refine (hcount ps).trans ?_
    simp only [signalledCount, hs]
    cases e.signalled <;> simp
  · refine (hcount ps).trans ?_
    unfold signalledCount
    split
    · rfl
    · next p _ _ hs =>
      have hp : ps ≠ p := fun hp => hne (by rw [hs, hp]; rfl)
      simp [hp]

end

end Sys2Proof.Machine

/-! SUPPORT. The accumulator rows of a fragment (08 R165, R174), and its window (02 R42): what a read gives after a write. -/

namespace Sys2Proof.Machine

/-! ## Lists of equal pieces -/

theorem getElem?_flatMap_range {α : Type} {f : Nat → List α} {m : Nat} (hf : ∀ j, (f j).length = m) (w n : Nat) :
    ((List.range w).flatMap f)[n]? = if n < w * m then (f (n / m))[n % m]? else none := by
  induction w with
  | zero => simp
  | succ w ih =>
    have hlen : ((List.range w).flatMap f).length = w * m := by simp [List.length_flatMap, hf]
    rw [List.range_succ, List.flatMap_append, List.flatMap_singleton, List.getElem?_append, hlen, ih]
    by_cases h : n < w * m
    · rw [if_pos h, if_pos h, if_pos (by rw [Nat.succ_mul]; omega)]
    · rw [if_neg h]
      by_cases h' : n < (w + 1) * m
      · have hdiv : n / m = w := Nat.div_eq_of_lt_le (by omega) h'
        have hmod : n - w * m = n % m := by rw [Nat.mod_eq_sub_mul_div, hdiv, Nat.mul_comm]
        rw [if_pos h', hdiv, hmod]
      · rw [if_neg h', List.getElem?_eq_none]
        rw [hf]
        rw [Nat.succ_mul] at h'
        omega

/-! ## Banks -/

section
variable {c : Ctx}

theorem Ctx.blocks_length (h7 : c.shape ≠ 7) : c.blocks.length = c.h * c.w := by simp [Ctx.blocks, blocksOf, h7]

theorem Ctx.block_index {row j : Nat} (hr : row < 256 * c.h) (hj : j < c.w) : row / 256 * c.w + j < c.h * c.w := by
  have hb : row / 256 + 1 ≤ c.h := by omega
  calc row / 256 * c.w + j < (row / 256 + 1) * c.w := by rw [Nat.succ_mul]; omega
    _ ≤ c.h * c.w := Nat.mul_le_mul_right _ hb

theorem Ctx.getD_blocks_inj (h7 : c.shape ≠ 7) (hnd : c.blocks.Nodup) {i j : Nat} (hi : i < c.h * c.w) (hj : j < c.h * c.w)
    (h : c.blocks.getD i c.lead = c.blocks.getD j c.lead) : i = j := by
  rw [← c.blocks_length h7] at hi hj
  rw [List.getD_eq_getElem _ _ hi, List.getD_eq_getElem _ _ hj] at h
  exact (hnd.getElem_inj_iff).1 h

theorem mul_add_inj {a b i j w : Nat} (hi : i < w) (hj : j < w) (h : a * w + i = b * w + j) : a = b ∧ i = j := by
  have hdiv : ∀ x k, k < w → (x * w + k) / w = x := fun x k hk => by
    rw [Nat.mul_comm, Nat.mul_add_div (by omega), Nat.div_eq_of_lt hk, Nat.add_zero]
  have hab : a = b := by rw [← hdiv a i hi, h, hdiv b j hj]
  subst hab
  exact ⟨rfl, by omega⟩

/-- Two elements of the accumulators stand in one bank row only where they stand in one row and one block column. -/
theorem Ctx.bankOf_inj (h7 : c.shape ≠ 7) (hnd : c.blocks.Nodup) {row z i j : Nat} (hr : row < 256 * c.h) (hz : z < 256 * c.h) (hi : i < c.w) (hj : j < c.w)
    (hb : c.bankOf row i = c.bankOf z j) (hm : row % 256 = z % 256) : row = z ∧ i = j := by
  have hinj := c.getD_blocks_inj h7 hnd (Ctx.block_index hr hi) (Ctx.block_index hz hj) hb
  obtain ⟨hdiv, hij⟩ := mul_add_inj hi hj hinj
  exact ⟨by omega, hij⟩

end

theorem Die.bankRow?_setBankRow (v : Die) (b row : Nat) (r : BankRow) (a z : Nat) :
    (v.setBankRow b row r).bankRow? a z = if a = b ∧ z = row then some r else v.bankRow? a z := by
  unfold Die.bankRow? Die.setBankRow
  rw [mgetD_mset]
  by_cases hab : a = b
  · subst hab
    simp [mget?_mset]
  · simp [hab]

theorem Die.bankRow?_killBankRow (v : Die) (b row : Nat) (a z : Nat) :
    (v.killBankRow b row).bankRow? a z = if a = b ∧ z = row then none else v.bankRow? a z := by
  unfold Die.bankRow? Die.killBankRow
  rw [mgetD_mset]
  by_cases hab : a = b
  · subst hab
    by_cases hz : z = row
    · subst hz; simp
    · simp [hz, mget?_merase_ne _ hz]
  · simp [hab]

/-! ## Rows -/

/-- An accumulator element as its bank holds it, `none` when its bank row is dead. -/
def accAt (v : Die) (c : Ctx) (row n : Nat) : Option AccElem :=
  (v.bankRow? (c.bankOf row (n / 192)) (row % 256)).map (fun r => (r.vals.getD (n % 192) 0, r.pz.getLsbD (n % 192)))

theorem getElem?_range_map {α : Type} (f : Nat → α) (n i : Nat) : ((List.range n).map f)[i]? = if i < n then some (f i) else none := by
  rw [List.getElem?_map]
  split
  · next h => rw [List.getElem?_range h]; rfl
  · next h => rw [List.getElem?_eq_none (by rw [List.length_range]; omega)]; rfl

theorem accRow_eq (v : Die) (c : Ctx) (row : Nat) : accRow v c row = (List.range (192 * c.w)).map (accAt v c row) := by
  refine List.ext_getElem? fun n => ?_
  unfold accRow
  rw [getElem?_flatMap_range (m := 192), getElem?_range_map, Nat.mul_comm 192]
  case hf => intro j; split <;> simp only [List.length_replicate, List.length_map, List.length_range]
  refine if_congr Iff.rfl ?_ rfl
  have hmod : n % 192 < 192 := Nat.mod_lt _ (by omega)
  unfold accAt
  split
  · next h => rw [h, List.getElem?_replicate, if_pos hmod]; rfl
  · next h => rw [h, getElem?_range_map, if_pos hmod]; rfl

theorem getElem?_accRow (v : Die) (c : Ctx) (row n : Nat) : (accRow v c row)[n]? = if n < 192 * c.w then some (accAt v c row n) else none := by
  rw [accRow_eq, getElem?_range_map]

@[simp] theorem length_accRow (v : Die) (c : Ctx) (row : Nat) : (accRow v c row).length = 192 * c.w := by
  rw [accRow_eq, List.length_map, List.length_range]

/-- The rows depend on the banks alone. -/
theorem accRow_of_banks {u v : Die} (h : v.banks = u.banks) (c : Ctx) (row : Nat) : accRow v c row = accRow u c row := by
  unfold accRow Die.bankRow?
  rw [h]

/-! ### PZ bits -/

theorem pzBits_succ (k : Nat) (l : List AccElem) : pzBits (k + 1) l = 2 * pzBits k l := by
  induction l generalizing k with
  | nil => rfl
  | cons a l ih =>
    rw [pzBits, pzBits, ih (k + 1), Nat.mul_add, Nat.pow_succ]
    split <;> omega

theorem testBit_pzBits (l : List AccElem) (i : Nat) : (pzBits 0 l).testBit i = (l[i]?.map (·.2)).getD false := by
  induction l generalizing i with
  | nil => simp [pzBits]
  | cons a l ih =>
    rw [pzBits, pzBits_succ]
    cases i with
    | zero => cases h : a.2 <;> simp [Nat.testBit_zero, Nat.add_mod, h]
    | succ i =>
      have hhalf : ((if a.2 then 2 ^ 0 else 0) + 2 * pzBits 0 l) / 2 = pzBits 0 l := by split <;> omega
      rw [Nat.testBit_succ, hhalf, ih, List.getElem?_cons_succ]

theorem getLsbD_bankRowOf (l : List AccElem) {k : Nat} (hk : k < 192) : (bankRowOf l).pz.getLsbD k = (l[k]?.map (·.2)).getD false := by
  rw [bankRowOf, BitVec.getLsbD_ofNat, testBit_pzBits]
  simp [hk]

/-! ### Writes -/

section
variable {c : Ctx} (h7 : c.shape ≠ 7) (hnd : c.blocks.Nodup) {row z : Nat} (hr : row < 256 * c.h) (hz : z < 256 * c.h)

theorem setAccRow_banks (c : Ctx) (row : Nat) (l : List AccElem) (v : Die) : ∃ bk, setAccRow c row l v = { v with banks := bk } :=
  List.foldlRecOn (motive := fun u : Die => ∃ bk, u = { v with banks := bk }) _ _ ⟨_, rfl⟩ fun u hu j _ => by
    obtain ⟨_, rfl⟩ := hu
    exact ⟨_, rfl⟩

theorem killRow_banks (c : Ctx) (row : Nat) (v : Die) : ∃ bk, killRow c row v = { v with banks := bk } :=
  List.foldlRecOn (motive := fun u : Die => ∃ bk, u = { v with banks := bk }) _ _ ⟨_, rfl⟩ fun u hu j _ => by
    obtain ⟨_, rfl⟩ := hu
    exact ⟨_, rfl⟩

include h7 hnd hr hz

/-- A fold over the block columns that writes one bank row of each leaves in them what it wrote, and the other rows as they stood. -/
theorem bankRow?_foldl {f : Die → Nat → Die} {x : Nat → Option BankRow}
    (hf : ∀ (u : Die) j a b, (f u j).bankRow? a b = if a = c.bankOf row j ∧ b = row % 256 then x j else u.bankRow? a b) (v : Die) {n j : Nat} (hn : n ≤ c.w)
    (hj : j < c.w) : ((List.range n).foldl f v).bankRow? (c.bankOf z j) (z % 256) = if z = row ∧ j < n then x j else v.bankRow? (c.bankOf z j) (z % 256) := by
  induction n with
  | zero => simp
  | succ n ih =>
    rw [List.range_succ, List.foldl_append, List.foldl_cons, List.foldl_nil, hf, ih (by omega)]
    by_cases hhit : c.bankOf z j = c.bankOf row n ∧ z % 256 = row % 256
    · obtain ⟨rfl, rfl⟩ := c.bankOf_inj h7 hnd hz hr hj (by omega) hhit.1 hhit.2
      simp
    · have hmiss : ¬(z = row ∧ j = n) := by rintro ⟨rfl, rfl⟩; exact hhit ⟨rfl, rfl⟩
      rw [if_neg hhit]
      exact if_congr (by omega) rfl rfl

theorem accAt_setAccRow (l : List AccElem) (v : Die) {n : Nat} (hn : n < 192 * c.w) :
    accAt (setAccRow c row l v) c z n = if z = row then some (l.getD n (0, false)) else accAt v c z n := by
  have hj : n / 192 < c.w := by omega
  have hmod : n % 192 < 192 := Nat.mod_lt _ (by omega)
  have hlane : ((l.drop (192 * (n / 192))).take 192)[n % 192]? = l[n]? := by
    rw [List.getElem?_take_of_lt hmod, List.getElem?_drop, Nat.div_add_mod]
  unfold accAt setAccRow
  rw [bankRow?_foldl h7 hnd hr hz (x := fun j => some (bankRowOf ((l.drop (192 * j)).take 192))) (fun u j a b => Die.bankRow?_setBankRow u _ _ _ a b) v
    (Nat.le_refl _) hj]
  by_cases hzr : z = row
  · rw [if_pos ⟨hzr, hj⟩, if_pos hzr, Option.map_some, getLsbD_bankRowOf _ hmod, hlane]
    simp only [bankRowOf, List.getD_eq_getElem?_getD, List.getElem?_map, hlane]
    cases l[n]? <;> rfl
  · rw [if_neg (fun h => hzr h.1), if_neg hzr]

theorem accAt_killRow (v : Die) {n : Nat} (hn : n < 192 * c.w) : accAt (killRow c row v) c z n = if z = row then none else accAt v c z n := by
  have hj : n / 192 < c.w := by omega
  unfold accAt killRow
  rw [bankRow?_foldl h7 hnd hr hz (fun u j a b => Die.bankRow?_killBankRow u _ _ a b) v (Nat.le_refl _) hj]
  by_cases hzr : z = row
  · rw [if_pos ⟨hzr, hj⟩, if_pos hzr]; rfl
  · rw [if_neg (fun h => hzr h.1), if_neg hzr]

theorem accRow_setAccRow (l : List AccElem) (v : Die) :
    accRow (setAccRow c row l v) c z = if z = row then (List.range (192 * c.w)).map (fun n => some (l.getD n (0, false))) else accRow v c z := by
  rw [accRow_eq, accRow_eq]
  split
  · next h => exact List.map_congr_left fun n hn => by rw [accAt_setAccRow h7 hnd hr hz l v (List.mem_range.1 hn), if_pos h]
  · next h => exact List.map_congr_left fun n hn => by rw [accAt_setAccRow h7 hnd hr hz l v (List.mem_range.1 hn), if_neg h]

theorem accRow_killRow (v : Die) : accRow (killRow c row v) c z = if z = row then List.replicate (192 * c.w) none else accRow v c z := by
  rw [accRow_eq, accRow_eq]
  split
  · next h =>
    refine List.eq_replicate_iff.2 ⟨by simp, fun a ha => ?_⟩
    obtain ⟨n, hn, rfl⟩ := List.mem_map.1 ha
    rw [accAt_killRow h7 hnd hr hz v (List.mem_range.1 hn), if_pos h]
  · next h => exact List.map_congr_left fun n hn => by rw [accAt_killRow h7 hnd hr hz v (List.mem_range.1 hn), if_neg h]

end

end Sys2Proof.Machine

/-! SUPPORT. The window of a fragment (02 R42): what a read gives, and what a write changes. -/

namespace Sys2Proof.Machine

/-! ## Poison marks -/

theorem mem_sinsert {s : List Nat} {a b : Nat} : b ∈ sinsert s a ↔ b = a ∨ b ∈ s := by
  induction s with
  | nil => simp [sinsert]
  | cons x s ih =>
    unfold sinsert
    split
    · simp
    · split
      · next h => subst h; simp
      · simp only [List.mem_cons, ih, or_left_comm]

theorem mem_sremove {s : List Nat} {a b : Nat} : b ∈ sremove s a ↔ b ≠ a ∧ b ∈ s := by
  simp [sremove, and_comm]

/-! ## Window bytes -/

/-- A byte of a slice with its poison mark. -/
def Die.byte (v : Die) (p : Nat × Nat) : Byte × Bool := (rdByte (v.slice p.1).mem p.2, (v.slice p.1).poison.contains p.2)

theorem winByte_eq (v : Die) (c : Ctx) (off : Nat) : winByte v c off = v.byte (c.place off) := rfl

theorem cell_cellAt (y : Sys) (c : Ctx) (d off : Nat) : y.cell (c.cellAt d off) = (y.die d).byte (c.place off) := rfl

theorem getElem?_winRead (v : Die) (c : Ctx) (off n i : Nat) : (winRead v c off n)[i]? = if i < n then some (v.byte (c.place (off + i))) else none :=
  getElem?_range_map _ _ _

theorem byte_winPut (v : Die) (c : Ctx) (off : Nat) (b : Byte × Bool) (p : Nat × Nat) :
    (winPut v c off b).byte p = if p = c.place off then b else v.byte p := by
  unfold winPut Die.byte Die.slice
  dsimp only
  rw [mgetD_mset]
  split
  · next h =>
    dsimp only
    rw [h, rdByte_wrByte]
    by_cases hp : p.2 = (c.place off).2
    · rw [if_pos hp, if_pos (Prod.ext h hp), hp]
      obtain ⟨x, m⟩ := b
      cases m <;> simp [mem_sinsert, mem_sremove]
    · have hmark : ∀ l : List Nat, (if b.2 = true then sinsert l (c.place off).2 else sremove l (c.place off).2).contains p.2 = l.contains p.2 := fun l => by
        rw [Bool.eq_iff_iff, List.contains_iff_mem, List.contains_iff_mem]
        split
        · exact mem_sinsert.trans (or_iff_right hp)
        · exact mem_sremove.trans (and_iff_right hp)
      rw [if_neg hp, if_neg (fun e => hp (congrArg Prod.snd e)), hmark]
  · next h => rw [if_neg (fun e => h (congrArg Prod.fst e))]

theorem byte_winWrite_ne (v : Die) (c : Ctx) (off : Nat) (bs : List (Byte × Bool)) (p : Nat × Nat) (h : ∀ i < bs.length, p ≠ c.place (off + i)) :
    (winWrite v c off bs).byte p = v.byte p := by
  induction bs generalizing v off with
  | nil => rfl
  | cons b bs ih =>
    rw [winWrite, ih _ _ (fun i hi => ?_), byte_winPut, if_neg (by simpa using h 0 (by simp))]
    rw [Nat.add_assoc, Nat.add_comm 1]
    exact h (i + 1) (by simpa using hi)

theorem winWrite_slices (v : Die) (c : Ctx) (off : Nat) (bs : List (Byte × Bool)) : ∃ sl, winWrite v c off bs = { v with slices := sl } := by
  induction bs generalizing v off with
  | nil => exact ⟨_, rfl⟩
  | cons b bs ih =>
    obtain ⟨sl, h⟩ := ih (winPut v c off b) (off + 1)
    exact ⟨sl, by rw [winWrite, h]; rfl⟩

section
variable {c : Ctx} (hnd : c.blocks.Nodup)
include hnd

/-- The blocks of a fragment are distinct, so each window offset has a byte of its own. -/
theorem Ctx.place_inj {a b : Nat} (ha : a < c.wsz) (hb : b < c.wsz) (h : c.place a = c.place b) : a = b := by
  have hlt : ∀ x, x < c.wsz → x / Config.sliceBytes < c.blocks.length := fun x hx => by
    rw [Ctx.wsz, Nat.mul_comm] at hx; exact Nat.div_lt_of_lt_mul hx
  obtain ⟨hblock, hoff⟩ := Prod.ext_iff.1 h
  simp only [Ctx.place] at hblock hoff
  rw [List.getD_eq_getElem _ _ (hlt a ha), List.getD_eq_getElem _ _ (hlt b hb)] at hblock
  have hdiv := hnd.getElem_inj_iff.1 hblock
  rw [← Nat.div_add_mod a Config.sliceBytes, hdiv, hoff, Nat.div_add_mod]

theorem byte_winWrite (v : Die) (off : Nat) (bs : List (Byte × Bool)) (hfit : off + bs.length ≤ c.wsz) {i : Nat} {x : Byte × Bool} (hx : bs[i]? = some x) :
    (winWrite v c off bs).byte (c.place (off + i)) = x := by
  induction bs generalizing v off i with
  | nil => simp at hx
  | cons b bs ih =>
    rw [List.length_cons] at hfit
    cases i with
    | zero =>
      obtain rfl : b = x := by simpa using hx
      rw [winWrite, byte_winWrite_ne _ _ _ _ _ fun k hk he => ?_, byte_winPut, if_pos (by rw [Nat.add_zero])]
      have := c.place_inj hnd (by omega) (by omega) he
      omega
    | succ i =>
      rw [List.getElem?_cons_succ] at hx
      have := ih (winPut v c off b) (off + 1) (by omega) hx
      rwa [Nat.add_right_comm, Nat.add_assoc] at this

end

end Sys2Proof.Machine

/-! SUPPORT. What the commands of one walk make of the accumulator rows when they execute (09 R185, R191, R192, R201). -/

namespace Sys2Proof.Machine

/-! ## Changes of a die's banks -/

/-- Nothing but the accumulator banks of a die differs. -/
def BanksOnly (u v : Die) : Prop := ∃ bk, v = { u with banks := bk }

theorem BanksOnly.refl (u : Die) : BanksOnly u u := ⟨_, rfl⟩

theorem BanksOnly.trans {u v w : Die} (h : BanksOnly u v) (k : BanksOnly v w) : BanksOnly u w := by
  obtain ⟨_, rfl⟩ := h
  obtain ⟨_, rfl⟩ := k
  exact ⟨_, rfl⟩

/-- A fold over a list of rows, each step of which writes its own row, leaves in each row of the list what its step writes. -/
theorem accRow_foldl {c : Ctx} {u : Die} {f : Nat → Die → Die} {x : Nat → List (Option AccElem)} (rows : List Nat)
    (hf : ∀ r ∈ rows, ∀ v, BanksOnly u v → BanksOnly v (f r v) ∧ ∀ z < 256 * c.h, accRow (f r v) c z = if z = r then x r else accRow v c z)
    {v : Die} (hv : BanksOnly u v) : BanksOnly v (rows.foldl (fun v r => f r v) v) ∧
      ∀ z < 256 * c.h, accRow (rows.foldl (fun v r => f r v) v) c z = if z ∈ rows then x z else accRow v c z := by
  induction rows generalizing v with
  | nil => exact ⟨.refl v, fun z _ => by simp⟩
  | cons r rows ih =>
    obtain ⟨hbanks, hrow⟩ := hf r List.mem_cons_self v hv
    obtain ⟨ihb, ihr⟩ := ih (fun a ha => hf a (List.mem_cons_of_mem _ ha)) (hv.trans hbanks)
    refine ⟨hbanks.trans ihb, fun z hz => ?_⟩
    rw [List.foldl_cons, ihr z hz, hrow z hz]
    by_cases hzr : z = r
    · subst hzr; simp
    · simp [hzr]

theorem foldl_modDie {α : Type} (d : Nat) (g : α → Die → Die) (l : List α) (y : Sys) :
    (l.foldl (fun y a => y.modDie d (g a)) y).die d = l.foldl (fun v a => g a v) (y.die d) ∧
    ∀ x, x ≠ d → (l.foldl (fun y a => y.modDie d (g a)) y).die x = y.die x := by
  induction l generalizing y with
  | nil => exact ⟨rfl, fun _ _ => rfl⟩
  | cons a l ih =>
    obtain ⟨hd, ho⟩ := ih (y.modDie d (g a))
    exact ⟨by rw [List.foldl_cons, hd, Sys.die_modDie_self]; rfl, fun x hx => (ho x hx).trans (Sys.die_modDie_ne _ _ hx)⟩

/-! ## The end of a command that changes no more than banks, or no more than the stationary B -/

/-- Nothing but accumulator banks and stationary B of one die differs. -/
structure MatrixOnly (d : Nat) (y z : Sys) : Prop where
  die : ∃ bk bm, z.die d = { y.die d with banks := bk, bmat := bm }
  others : ∀ x, x ≠ d → z.die x = y.die x

theorem MatrixOnly.ctx {d : Nat} {y z : Sys} (h : MatrixOnly d y z) (e l : Nat) : z.ctx e l = y.ctx e l := by
  obtain ⟨_, _, hd⟩ := h.die
  unfold Sys.ctx
  by_cases he : e = d
  · subst he; rw [hd]
  · rw [h.others e he]

theorem MatrixOnly.cell {d : Nat} {y z : Sys} (h : MatrixOnly d y z) (x : Cell) : z.cell x = y.cell x := by
  obtain ⟨_, _, hd⟩ := h.die
  refine Sys.cell_of_die (fun e => ?_) x
  by_cases he : e = d
  · subst he; rw [hd]; exact ⟨rfl, rfl, rfl⟩
  · rw [h.others e he]; exact ⟨rfl, rfl, rfl⟩

theorem MatrixOnly.countEvent {d : Nat} {y z : Sys} (h : MatrixOnly d y z) (p ev n : Nat) : MatrixOnly d y (countEvent z p ev n) := by
  unfold Sys2Proof.Machine.countEvent
  split
  · exact h
  · exact ⟨h.die, h.others⟩

theorem BanksOnly.matrixOnly {d : Nat} {y z : Sys} (h : BanksOnly (y.die d) (z.die d)) (ho : ∀ x, x ≠ d → z.die x = y.die x) : MatrixOnly d y z := by
  obtain ⟨_, h⟩ := h
  exact ⟨⟨_, _, h⟩, ho⟩

/-- The links have moved what they could, and stand as the matrix command finds them. -/
theorem linksMoved_acts (s : State) (d l : Nat) (e : Entry) : Acted s d l e (moveLinks d l s.sys) e := by
  have hlinks := moveLinks_links d l s.sys
  obtain ⟨⟨_, _, _, _, hc⟩, -⟩ := hlinks.ctx d l
  obtain ⟨_, hd⟩ := hlinks.die d
  exact ⟨rfl, rfl, rfl, by rw [hc]; rfl, by rw [hd]⟩

section
variable {s : State} {d l : Nat} {c : Ctx} {e : Entry} {rest : List Entry}

/-- The context as the matrix command finds it: nothing but links and bypass may have moved. -/
theorem StartedHead.links (h : StartedHead s d l 0 c e rest) : CtxLinks c ((moveLinks d l s.sys).ctxFor d l e) := by
  obtain ⟨⟨hs, ts, ks, bs, hc⟩, hf⟩ := (moveLinks_links d l s.sys).ctx d l
  rw [h.ctx, Sys.ctxFor, Sys.ctxFor, hc]
  rw [hc] at hf
  unfold Ctx.asIssued
  split
  · exact ⟨⟨hs, ts, ks, bs, rfl⟩, hf⟩
  · exact ⟨⟨hs, ts, ks, bs, rfl⟩, hf⟩

theorem accRow_moveLinks (s : State) (d l : Nat) (c : Ctx) (z : Nat) : accRow ((moveLinks d l s.sys).die d) c z = accRow (s.sys.die d) c z := by
  obtain ⟨_, hd⟩ := (moveLinks_links d l s.sys).die d
  exact accRow_of_banks (by rw [hd]) c z

/-- A command that changes no more than banks and stationary B retires its entry and leaves the window and the rest of its context as they were. -/
theorem StartedHead.retires (h : StartedHead s d l 0 c e rest) {v : Sys} {b : Bool}
    (hr : matrixStep d l (moveLinks d l s.sys) e = ⟨v, { e with bad := b }, true⟩) (hv : MatrixOnly d (moveLinks d l s.sys) v) {P : State → Prop}
    (hP : ∀ t, Retired s d l 0 e rest t → CellsKept s t → (b = false → (t.sys.ctx d l).pend = c.pend) → (t.sys.die d).banks = (v.die d).banks →
      (t.sys.die d).bmat = (v.die d).bmat → (t.sys.ctx d l).params = c.params → P t) : Ends (.entryRetire d l 0) s P := by
  have hu := linksMoved_acts s d l e
  obtain ⟨_, _, hd⟩ := hv.die
  obtain ⟨⟨_, _, _, _, hc⟩, -⟩ := (moveLinks_links d l s.sys).ctx d l
  have ha : Acted s d l e v { e with bad := b } := ⟨rfl, rfl, rfl, by rw [hv.ctx]; exact hu.queue, by rw [hd]; exact hu.sems⟩
  obtain ⟨hset, hret⟩ := ha.retires h hr
  obtain ⟨_, _, _, _, _, _, _, _, _, hctx⟩ := hset.ctx
  have hlayout : ∀ g, ((s.sys.ctx d l).asIssued g).pend = (s.sys.ctx d l).pend ∧ ((s.sys.ctx d l).asIssued g).params = (s.sys.ctx d l).params := fun g => by
    unfold Ctx.asIssued; split <;> exact ⟨rfl, rfl⟩
  refine h.ends (hP _ hret (fun x => ?_) (fun hb => ?_) hset.banks hset.bmat ?_)
  · rw [noteExcess_cell, hset.cell, hv.cell]
    exact (Settled.of_links (b := false) (d := d) (l := l) (moveLinks_links d l s.sys)).cell x
  · rw [noteExcess_ctx, hset.pend hb, hv.ctx, hc, h.ctx, Sys.ctxFor, (hlayout _).1]
  · rw [noteExcess_ctx, hctx, h.ctx, Sys.ctxFor, (hlayout _).2, hv.ctx, hc]

/-! ## mx.clr, mx.dead, mx.spm -/

theorem mem_rowsOfCmd {c : Ctx} {p : Params} {all : Bool} {row0 row : Nat} (hr : row < 256 * c.h) :
    row ∈ rowsOfCmd c p all row0 ↔ all = true ∨ row0 ≤ row ∧ row < row0 + p.drows := by
  unfold rowsOfCmd
  cases all
  case false =>
    rw [if_neg (by simp)]
    simp only [List.mem_map, List.mem_range, Bool.false_eq_true, false_or]
    exact ⟨fun ⟨a, ha, h⟩ => by omega, fun h => ⟨row - row0, by omega, by omega⟩⟩
  case true => simp [hr]

theorem lt_of_mem_rowsOfCmd {c : Ctx} {p : Params} {all : Bool} {row0 row : Nat} (h : all = true ∨ row0 + p.drows ≤ 256 * c.h)
    (hm : row ∈ rowsOfCmd c p all row0) : row < 256 * c.h := by
  unfold rowsOfCmd at hm
  cases all
  case false =>
    obtain ⟨a, ha, rfl⟩ := List.mem_map.1 hm
    have := List.mem_range.1 ha
    simp only [Bool.false_eq_true, false_or] at h
    omega
  case true => exact List.mem_range.1 hm

/-- The rows of all repetitions of a row command. -/
def rowsOfEntry (c : Ctx) (all : Bool) (e : Entry) : List Nat := e.reps.flatMap (fun z => rowsOfCmd c e.params all z.1)

theorem mem_rowsOfEntry {all : Bool} {row : Nat} (hr : row < 256 * c.h) :
    row ∈ rowsOfEntry c all e ↔ ∃ z ∈ e.reps, all = true ∨ z.1 ≤ row ∧ row < z.1 + e.params.drows := by
  simp only [rowsOfEntry, List.mem_flatMap, mem_rowsOfCmd hr]

/-- A command that writes every row of its repetitions alike. -/
theorem StartedHead.eachRow_ends (h : StartedHead s d l 0 c e rest) {all : Bool} {f : Nat → Die → Die} {x : List (Option AccElem)}
    (hreps : ∀ z ∈ e.reps, all = true ∨ z.1 + e.params.drows ≤ 256 * c.h)
    (hf : ∀ r < 256 * c.h, ∀ v, BanksOnly v (f r v) ∧ ∀ z < 256 * c.h, accRow (f r v) c z = if z = r then x else accRow v c z)
    (hr : matrixStep d l (moveLinks d l s.sys) e =
      ⟨e.reps.foldl (fun y z => (rowsOfCmd c e.params all z.1).foldl (fun y row => y.modDie d (f row)) y) (moveLinks d l s.sys), e, true⟩) :
    Ends (.entryRetire d l 0) s (fun t => Retired s d l 0 e rest t ∧ CellsKept s t ∧ (e.bad = false → (t.sys.ctx d l).pend = c.pend) ∧
      ∀ row < 256 * c.h, accRow (t.sys.die d) c row = if ∃ z ∈ e.reps, all = true ∨ z.1 ≤ row ∧ row < z.1 + e.params.drows then x else accRow (s.sys.die d) c row) := by
  rw [← List.foldl_flatMap] at hr
  obtain ⟨hdie, hothers⟩ := foldl_modDie d f (rowsOfEntry c all e) (moveLinks d l s.sys)
  have hmem : ∀ r ∈ rowsOfEntry c all e, r < 256 * c.h := fun r hm => by
    obtain ⟨z, hz, hm⟩ := List.mem_flatMap.1 hm
    exact lt_of_mem_rowsOfCmd (hreps z hz) hm
  obtain ⟨hbanks, hrows⟩ := accRow_foldl (x := fun _ => x) (rowsOfEntry c all e) (fun r hm v _ => hf r (hmem r hm) v) (.refl ((moveLinks d l s.sys).die d))
  rw [← hdie] at hbanks hrows
  refine h.retires (b := e.bad) hr (hbanks.matrixOnly hothers) fun t hret hcells hpend hb _ _ => ⟨hret, hcells, hpend, fun row hrow => ?_⟩
  rw [accRow_of_banks hb]
  refine (hrows row hrow).trans ?_
  rw [accRow_moveLinks]
  exact if_congr (mem_rowsOfEntry hrow) rfl rfl

theorem StartedHead.clr_ends (h : StartedHead s d l 0 c e rest) (h7 : c.shape ≠ 7) (hnd : c.blocks.Nodup) {w : BitVec 3} {all : Bool} {m : Common}
    (hcmd : e.cmd = .mxClr w all m) (hreps : ∀ z ∈ e.reps, all = true ∨ z.1 + e.params.drows ≤ 256 * c.h) :
    Ends (.entryRetire d l 0) s (fun t => Retired s d l 0 e rest t ∧ CellsKept s t ∧ (e.bad = false → (t.sys.ctx d l).pend = c.pend) ∧
      ∀ row < 256 * c.h, accRow (t.sys.die d) c row = if ∃ z ∈ e.reps, all = true ∨ z.1 ≤ row ∧ row < z.1 + e.params.drows then
        List.replicate (192 * c.w) (some (0, false)) else accRow (s.sys.die d) c row) := by
  refine h.eachRow_ends hreps (f := fun r => setAccRow c r (List.replicate (192 * c.w) (0, false))) (fun r hr v => ?_) ?_
  · refine ⟨setAccRow_banks c r _ v, fun z hz => ?_⟩
    rw [accRow_setAccRow h7 hnd hr hz]
    refine if_congr Iff.rfl (List.eq_replicate_iff.2 ⟨by simp, fun a ha => ?_⟩) rfl
    obtain ⟨n, -, rfl⟩ := List.mem_map.1 ha
    simp
  · obtain ⟨⟨_, _, _, _, hc⟩, -⟩ := h.links
    unfold matrixStep
    rw [hcmd, hc]
    rfl

theorem StartedHead.dead_ends (h : StartedHead s d l 0 c e rest) (h7 : c.shape ≠ 7) (hnd : c.blocks.Nodup) {w : BitVec 3} {all : Bool} {m : Common}
    (hcmd : e.cmd = .mxDead w all m) (hreps : ∀ z ∈ e.reps, all = true ∨ z.1 + e.params.drows ≤ 256 * c.h) :
    Ends (.entryRetire d l 0) s (fun t => Retired s d l 0 e rest t ∧ CellsKept s t ∧ (e.bad = false → (t.sys.ctx d l).pend = c.pend) ∧
      ∀ row < 256 * c.h, accRow (t.sys.die d) c row = if ∃ z ∈ e.reps, all = true ∨ z.1 ≤ row ∧ row < z.1 + e.params.drows then
        List.replicate (192 * c.w) none else accRow (s.sys.die d) c row) := by
  refine h.eachRow_ends hreps (f := fun r => killRow c r) (fun r hr v => ⟨killRow_banks c r v, fun z hz => accRow_killRow h7 hnd hr hz v⟩) ?_
  obtain ⟨⟨_, _, _, _, hc⟩, -⟩ := h.links
  unfold matrixStep
  rw [hcmd, hc]
  rfl

theorem StartedHead.spm_ends (h : StartedHead s d l 0 c e rest) {w : BitVec 3} {m : Common} (hcmd : e.cmd = .mxSpm w m) :
    Ends (.entryRetire d l 0) s (fun t => Retired s d l 0 e rest t ∧ CellsKept s t ∧ (t.sys.ctx d l).params = c.params) := by
  have hstep : matrixStep d l (moveLinks d l s.sys) e = ⟨moveLinks d l s.sys, e, true⟩ := by unfold matrixStep; rw [hcmd]
  exact h.retires (b := e.bad) hstep ⟨⟨_, _, rfl⟩, fun _ _ => rfl⟩ fun t hret hcells _ _ _ hparams => ⟨hret, hcells, hparams⟩

/-! ## mx.fill -/

theorem getElem?_lanesOf (n : Nat) (bs : List Byte) (i : Nat) :
    (lanesOf n bs)[i]? = if i < n then some (BitVec.ofNat 32 (leNat ((bs.drop (4 * i)).take 4))) else none := by
  induction n generalizing bs i with
  | zero => simp [lanesOf]
  | succ n ih =>
    cases i with
    | zero => simp [lanesOf]
    | succ i =>
      rw [lanesOf, List.getElem?_cons_succ, ih, List.drop_drop, Nat.add_comm 4, ← Nat.mul_succ]
      exact if_congr (by omega) rfl rfl

/-- A word of the window as `lanesOf` reads it. -/
theorem leNat_winRead (v : Die) (c : Ctx) (off n k : Nat) (hk : k + 4 ≤ n) : leNat (((((winRead v c off n).map (·.1)).drop k)).take 4) =
    leNat ((List.range 4).map (fun j => (v.byte (c.place (off + k + j))).1)) := by
  congr 1
  refine List.ext_getElem? fun i => ?_
  rw [getElem?_range_map]
  split
  · next hi =>
    rw [List.getElem?_take_of_lt hi, List.getElem?_drop, List.getElem?_map, getElem?_winRead, if_pos (by omega), Nat.add_assoc]
    rfl
  · next hi => rw [List.getElem?_eq_none (by rw [List.length_take]; omega)]

/-- A row of the accumulators as `mx.fill` takes it from the window. -/
def filledRow (v : Die) (c : Ctx) (src : Nat) : List (Option AccElem) :=
  (List.range (192 * c.w)).map (fun col => some (BitVec.ofNat 32 (leNat ((List.range 4).map (fun j => (v.byte (c.place (src + 4 * col + j))).1))), false))

/-- The elements that `mx.fill` writes into a row. -/
def fillElems (v : Die) (c : Ctx) (src : Nat) : List AccElem :=
  (lanesOf (192 * c.w) ((winRead v c src (768 * c.w)).map (·.1))).map (fun w => (w, false))

theorem fillElems_eq (v : Die) (c : Ctx) (src : Nat) : (List.range (192 * c.w)).map (fun n => some ((fillElems v c src).getD n (0, false))) = filledRow v c src := by
  refine List.map_congr_left fun n hn => ?_
  have hn := List.mem_range.1 hn
  rw [fillElems, List.getD_eq_getElem?_getD, List.getElem?_map, getElem?_lanesOf, if_pos hn, leNat_winRead _ _ _ _ _ (by omega)]
  rfl

theorem BanksOnly.byte {u v : Die} (h : BanksOnly u v) : v.byte = u.byte := by obtain ⟨_, rfl⟩ := h; rfl

theorem StartedHead.fill_ends (h : StartedHead s d l 0 c e rest) (h7 : c.shape ≠ 7) (hnd : c.blocks.Nodup) {w x : BitVec 3} {m : Common} {row off st : Nat}
    (hcmd : e.cmd = .mxFill w x m) (hreps : e.reps = [(row, off)]) (hfit : row + e.params.drows ≤ 256 * c.h)
    (hst : st = if e.params.dstr = 0 then 768 * c.w else e.params.dstr) :
    Ends (.entryRetire d l 0) s (fun t => Retired s d l 0 e rest t ∧ CellsKept s t ∧
      ∀ z < 256 * c.h, accRow (t.sys.die d) c z =
        if row ≤ z ∧ z < row + e.params.drows then filledRow (s.sys.die d) c (off + (z - row) * st) else accRow (s.sys.die d) c z) := by
  have hmem : ∀ z, z ∈ (List.range e.params.drows).map (row + ·) ↔ row ≤ z ∧ z < row + e.params.drows := fun z => by
    simp only [List.mem_map, List.mem_range]
    exact ⟨fun ⟨a, ha, h⟩ => by omega, fun h => ⟨z - row, by omega, by omega⟩⟩
  have hstep : matrixStep d l (moveLinks d l s.sys) e = ⟨((List.range e.params.drows).map (row + ·)).foldl
      (fun y r => y.modDie d (fun v => setAccRow c r (fillElems v c (off + (r - row) * st)) v)) (moveLinks d l s.sys),
      { e with bad := [(row, off)].any (fun z => (List.range e.params.drows).any (fun t => winBad ((moveLinks d l s.sys).die d) c (z.2 + t * st) c.rowBytes)) }, true⟩ := by
    obtain ⟨⟨_, _, _, _, hc⟩, -⟩ := h.links
    unfold matrixStep
    rw [hcmd, hc, hst]
    unfold eachRow
    rw [hreps, List.foldl_map]
    simp only [Nat.add_sub_cancel_left]
    rfl
  obtain ⟨hdie, hothers⟩ := foldl_modDie d (fun r v => setAccRow c r (fillElems v c (off + (r - row) * st)) v) ((List.range e.params.drows).map (row + ·))
    (moveLinks d l s.sys)
  have hbyte : ((moveLinks d l s.sys).die d).byte = (s.sys.die d).byte := by
    obtain ⟨_, hd⟩ := (moveLinks_links d l s.sys).die d
    rw [hd]; rfl
  obtain ⟨hbanks, hrows⟩ := accRow_foldl (u := (moveLinks d l s.sys).die d) (f := fun r v => setAccRow c r (fillElems v c (off + (r - row) * st)) v)
    (x := fun z => filledRow (s.sys.die d) c (off + (z - row) * st)) ((List.range e.params.drows).map (row + ·))
    (fun r hr v hv => ⟨setAccRow_banks c r _ v, fun z hz => by
      rw [accRow_setAccRow h7 hnd (by have := (hmem r).1 hr; omega) hz, fillElems_eq]
      unfold filledRow
      rw [hv.byte, hbyte]⟩) (.refl _)
  rw [← hdie] at hbanks hrows
  refine h.retires hstep (hbanks.matrixOnly hothers) fun t hret hcells _ hb _ _ => ⟨hret, hcells, fun z hz => ?_⟩
  rw [accRow_of_banks hb]
  refine (hrows z hz).trans ?_
  rw [accRow_moveLinks]
  exact if_congr (hmem z) rfl rfl

end

end Sys2Proof.Machine

/-! SUPPORT. `mx.ldb` when it executes: the lines of the stationary B (08 R165, 09 R187). -/

namespace Sys2Proof.Machine

theorem mget?_map_keys {α : Type} (f : Nat → α) (l : List Nat) (k : Nat) : mget? (l.map (fun r => (r, f r))) k = if k ∈ l then some (f k) else none := by
  induction l with
  | nil => rfl
  | cons a l ih =>
    rw [List.map_cons, mget?_cons, ih]
    by_cases h : a = k
    · subst h; simp
    · simp [Ne.symm h]

/-- A line without an uncorrectable byte is loaded as the window holds it. -/
theorem settleLine_sound {bw sp : Nat} {l : List (Byte × Bool)} (h : ∀ b ∈ l, b.2 = false) : settleLine bw sp l = l.map (·.1) := by
  have hall : l.all (fun b => !b.2) = true := List.all_eq_true.2 fun b hb => by rw [h b hb]; rfl
  unfold settleLine
  simp only [hall, if_true]

section
variable {c : Ctx} {bw sp base : Nat}

theorem loadB_bmat_only (v : Die) : ∃ bm, loadB c bw sp base v = { v with bmat := bm } :=
  List.foldlRecOn (motive := fun u : Die => ∃ bm, u = { v with bmat := bm }) _ _ ⟨_, rfl⟩ fun u hu j _ => by
    obtain ⟨_, rfl⟩ := hu
    exact ⟨_, rfl⟩

theorem mgetD_loadB (h7 : c.shape ≠ 7) (hnd : c.blocks.Nodup) (v : Die) {k : Nat} (hk : k < c.h * c.w) :
    mgetD (loadB c bw sp base v).bmat (c.blocks.getD k c.lead) {} = loadBlock v c bw sp base (k / c.w) (k % c.w) := by
  have hfold : ∀ n ≤ c.h * c.w, mgetD ((List.range n).foldl (fun v' k =>
      { v' with bmat := mset v'.bmat (c.blocks.getD k c.lead) (loadBlock v c bw sp base (k / c.w) (k % c.w)) }) v).bmat (c.blocks.getD k c.lead) {} =
      if k < n then loadBlock v c bw sp base (k / c.w) (k % c.w) else mgetD v.bmat (c.blocks.getD k c.lead) {} := by
    intro n hn
    induction n with
    | zero => simp
    | succ n ih =>
      rw [List.range_succ, List.foldl_append, List.foldl_cons, List.foldl_nil, mgetD_mset, ih (by omega)]
      by_cases h : c.blocks.getD k c.lead = c.blocks.getD n c.lead
      · obtain rfl := c.getD_blocks_inj h7 hnd hk (by omega) h
        simp
      · have hne : k ≠ n := fun e => h (by rw [e])
        rw [if_neg h]
        exact if_congr (by omega) rfl rfl
  exact (hfold _ (Nat.le_refl _)).trans (if_pos hk)

theorem loadBlock_of_byte {u v : Die} (h : v.byte = u.byte) (a j : Nat) : loadBlock v c bw sp base a j = loadBlock u c bw sp base a j := by
  have hbyte : ∀ off, winByte v c off = winByte u c off := fun off => by rw [winByte_eq, winByte_eq, h]
  unfold loadBlock winRead
  simp only [hbyte]

/-- A line of a block as `mx.ldb` loads it. -/
theorem loadBlock_line {v : Die} {a j r k : Nat} (hr : r < 192) (hk : k < bLine bw sp)
    (hbad : ∀ k < bLine bw sp, (v.byte (c.place (base + (192 * c.h * j + 192 * a + r) * bLine bw sp + k))).2 = false) :
    (mgetD (loadBlock v c bw sp base a j).lines r []).getD k 0 = (v.byte (c.place (base + (192 * c.h * j + 192 * a + r) * bLine bw sp + k))).1 := by
  have hsound : ∀ b ∈ winRead v c (base + (192 * c.h * j + 192 * a + r) * bLine bw sp) (bLine bw sp), b.2 = false := fun b hb => by
    obtain ⟨i, hi, rfl⟩ := List.mem_map.1 hb
    exact hbad i (List.mem_range.1 hi)
  unfold mgetD loadBlock
  dsimp only
  rw [mget?_map_keys, if_pos (List.mem_range.2 hr), Option.getD_some, settleLine_sound hsound, List.getD_eq_getElem?_getD, List.getElem?_map,
    getElem?_winRead, if_pos hk]
  rfl

end

/-- The place of a line among those of a fragment's panels. -/
theorem panelLine_lt {h w a j r : Nat} (ha : a < h) (hj : j < w) (hr : r < 192) : 192 * h * j + 192 * a + r < 192 * h * w := by
  have hcol : h * j + a < h * w := calc
    h * j + a < h * (j + 1) := by rw [Nat.mul_succ]; omega
    _ ≤ h * w := Nat.mul_le_mul_left h hj
  have h1 : 192 * h * j = 192 * (h * j) := Nat.mul_assoc ..
  have h2 : 192 * h * w = 192 * (h * w) := Nat.mul_assoc ..
  omega

theorem StartedHead.ldb_ends {s : State} {d l : Nat} {c : Ctx} {e : Entry} {rest : List Entry} (h : StartedHead s d l 0 c e rest) (h7 : c.shape ≠ 7)
    (hnd : c.blocks.Nodup) {w : BitVec 3} {bw sp : BitVec 2} {m : Common} {base : Nat × Nat} {len : Nat} (hcmd : e.cmd = .mxLdb w bw sp m)
    (hlast : e.reps.getLast? = some base) (hlen : len = bLine bw.toNat sp.toNat)
    (hbad : ∀ k < 192 * c.h * c.w * len, (s.sys.cell (c.cellAt d (base.1 + k))).2 = false) :
    Ends (.entryRetire d l 0) s (fun t => Retired s d l 0 e rest t ∧ CellsKept s t ∧
      (∀ b ∈ c.blocks, (mgetD (t.sys.die d).bmat b {}).bw = bw.toNat ∧ (mgetD (t.sys.die d).bmat b {}).sp = sp.toNat) ∧
      ∀ a < c.h, ∀ j < c.w, ∀ r < 192, ∀ k < len, (bLineOf (t.sys.die d) c j (192 * a + r)).getD k 0 =
        (s.sys.cell (c.cellAt d (base.1 + (192 * c.h * j + 192 * a + r) * len + k))).1) := by
  obtain ⟨init, hinit⟩ := List.getLast?_eq_some_iff.1 hlast
  obtain ⟨hdie, hothers⟩ := foldl_modDie d (fun x : Nat × Nat => loadB c bw.toNat sp.toNat x.1) e.reps (moveLinks d l s.sys)
  have hstep : matrixStep d l (moveLinks d l s.sys) e = ⟨e.reps.foldl (fun y x => y.modDie d (loadB c bw.toNat sp.toNat x.1)) (moveLinks d l s.sys),
      { e with bad := e.reps.any (fun x => winBad ((moveLinks d l s.sys).die d) c x.1 (c.bLines * bLine bw.toNat sp.toNat)) }, true⟩ := by
    obtain ⟨⟨_, _, _, _, hc⟩, -⟩ := h.links
    unfold matrixStep
    rw [hcmd, hc]
    rfl
  have honly : ∀ (u : Die) (l : List (Nat × Nat)), ∃ bm, l.foldl (fun v x => loadB c bw.toNat sp.toNat x.1 v) u = { u with bmat := bm } := fun u l =>
    List.foldlRecOn (motive := fun v : Die => ∃ bm, v = { u with bmat := bm }) _ _ ⟨_, rfl⟩ fun v hv x _ => by
      obtain ⟨_, rfl⟩ := hv
      exact loadB_bmat_only _
  have hbyte : (init.foldl (fun v (x : Nat × Nat) => loadB c bw.toNat sp.toNat x.1 v) ((moveLinks d l s.sys).die d)).byte = (s.sys.die d).byte := by
    obtain ⟨_, hd⟩ := (moveLinks_links d l s.sys).die d
    obtain ⟨_, hb⟩ := honly ((moveLinks d l s.sys).die d) init
    rw [hb, hd]; rfl
  have hmat : MatrixOnly d (moveLinks d l s.sys) (e.reps.foldl (fun y x => y.modDie d (loadB c bw.toNat sp.toNat x.1)) (moveLinks d l s.sys)) := by
    obtain ⟨_, hb⟩ := honly ((moveLinks d l s.sys).die d) e.reps
    exact ⟨⟨_, _, by rw [hdie, hb]⟩, hothers⟩
  refine h.retires hstep hmat fun t hret hcells _ _ hbm _ => ?_
  have hblock : ∀ k < c.h * c.w, mgetD (t.sys.die d).bmat (c.blocks.getD k c.lead) {} = loadBlock (s.sys.die d) c bw.toNat sp.toNat base.1 (k / c.w) (k % c.w) := by
    intro k hk
    rw [hbm, hdie, hinit, List.foldl_append, List.foldl_cons, List.foldl_nil, mgetD_loadB h7 hnd _ hk, loadBlock_of_byte hbyte]
  refine ⟨hret, hcells, fun b hb => ?_, fun a ha j hj r hr k hk => ?_⟩
  · obtain ⟨k, hk, rfl⟩ := List.mem_iff_getElem.1 hb
    have := hblock k (by rwa [c.blocks_length h7] at hk)
    rw [List.getD_eq_getElem _ _ hk] at this
    rw [this]
    exact ⟨rfl, rfl⟩
  · subst hlen
    have hw : 0 < c.w := by omega
    have hidx : a * c.w + j < c.h * c.w := calc
      a * c.w + j < (a + 1) * c.w := by rw [Nat.succ_mul]; omega
      _ ≤ c.h * c.w := Nat.mul_le_mul_right _ ha
    have hdiv : (192 * a + r) / 192 = a := by omega
    have hmod : (192 * a + r) % 192 = r := by omega
    have hd2 : (a * c.w + j) / c.w = a := by rw [Nat.mul_comm, Nat.mul_add_div hw, Nat.div_eq_of_lt hj, Nat.add_zero]
    have hm2 : (a * c.w + j) % c.w = j := by rw [Nat.mul_comm, Nat.mul_add_mod, Nat.mod_eq_of_lt hj]
    unfold bLineOf
    rw [hdiv, hmod, hblock _ hidx, hd2, hm2]
    refine loadBlock_line hr hk fun i hi => ?_
    have hpanel := panelLine_lt ha hj hr
    have hoff : (192 * c.h * j + 192 * a + r) * bLine bw.toNat sp.toNat + i < 192 * c.h * c.w * bLine bw.toNat sp.toNat := calc
      _ < (192 * c.h * j + 192 * a + r + 1) * bLine bw.toNat sp.toNat := by rw [Nat.succ_mul (192 * c.h * j + 192 * a + r)]; exact Nat.add_lt_add_left hi _
      _ ≤ _ := Nat.mul_le_mul_right _ hpanel
    have := hbad _ hoff
    rwa [← Nat.add_assoc] at this

end Sys2Proof.Machine

/-! SUPPORT. `mx.drn` when it executes: rows of the accumulators go to the window (09 R191), and the routing commands (09 R193). -/

namespace Sys2Proof.Machine

/-! ## The bytes of a drained row -/

/-- The word that a drain presents for an element: +0 for a dead one, 0x80000000 for one with PZ. -/
def drainWord : Option AccElem → Lane
  | none => 0
  | some a => if a.2 then 0x80000000 else a.1

theorem drainWords_eq (v : Die) (c : Ctx) (row : Nat) : drainWords v c row = ((accRow v c row).map drainWord, (accRow v c row).any (fun a => (a.map (·.2)).getD false)) := by
  unfold drainWords
  refine Prod.ext (List.map_congr_left fun a _ => ?_) rfl
  cases a <;> rfl

theorem drainWords_any {v : Die} {c : Ctx} {row : Nat} : (drainWords v c row).2 = true ↔ ∃ a, some (a, true) ∈ accRow v c row := by
  rw [drainWords_eq]
  simp only [List.any_eq_true]
  constructor
  · rintro ⟨_ | ⟨a, b⟩, hm, h⟩
    · simp at h
    · obtain rfl : b = true := h
      exact ⟨a, hm⟩
  · exact fun ⟨a, hm⟩ => ⟨_, hm, rfl⟩

/-- The byte that a drain writes at place `k` of a row. -/
def drainByte (v : Die) (c : Ctx) (row k : Nat) : Byte := (leSplit 4 (drainWord (accAt v c row (k / 4))).toNat).getD (k % 4) 0

theorem drainBytes_eq (v : Die) (c : Ctx) (row : Nat) : drainBytes v c row = (List.range (192 * c.w)).flatMap (fun col =>
    (leSplit 4 (drainWord (accAt v c row col)).toNat).map (fun b => (b, accBad v c row col))) := by
  unfold drainBytes
  rw [List.flatMap]
  congr 1
  refine List.ext_getElem? fun i => ?_
  rw [List.getElem?_mapIdx, getElem?_range_map, drainWords_eq, List.getElem?_map, getElem?_accRow]
  split <;> rfl

theorem length_drainBytes (v : Die) (c : Ctx) (row : Nat) : (drainBytes v c row).length = 768 * c.w := by
  rw [drainBytes_eq, List.length_flatMap]
  simp [length_leSplit]
  omega

theorem getElem?_drainBytes {v : Die} {c : Ctx} {row k : Nat} (hk : k < 768 * c.w) :
    ∃ b, (drainBytes v c row)[k]? = some (drainByte v c row k, b) := by
  have hmod : k % 4 < 4 := Nat.mod_lt _ (by omega)
  rw [drainBytes_eq, getElem?_flatMap_range (m := 4) (fun j => by simp [length_leSplit]), if_pos (by omega), List.getElem?_map]
  unfold drainByte
  rw [List.getD_eq_getElem?_getD, List.getElem?_eq_getElem (by rw [length_leSplit]; exact hmod)]
  exact ⟨_, rfl⟩

/-! ## Rows drained one after another -/

/-- What the first `n` rows of a drain, to rows of the window from `off` at stride `st`, have made of the system `y`. -/
structure Drained (d l : Nat) (c : Ctx) (clr : Bool) (row off st n : Nat) (y z : Sys) : Prop where
  others : ∀ x, x ≠ d → z.die x = y.die x
  die : ∃ bk sl cs, z.die d = { y.die d with banks := bk, slices := sl, ctxs := cs }
  ctx : ∃ p, z.ctx d l = { y.ctx d l with pzd := p }
  pzd : (z.ctx d l).pzd = true ↔ (y.ctx d l).pzd = true ∨ ∃ i < n, ∃ a, some (a, true) ∈ accRow (y.die d) c (row + i)
  rows : ∀ r < 256 * c.h, accRow (z.die d) c r = if clr = true ∧ row ≤ r ∧ r < row + n then List.replicate (192 * c.w) none else accRow (y.die d) c r
  bytes : ∀ i < n, ∀ k < 768 * c.w, ((z.die d).byte (c.place (off + i * st + k))).1 = drainByte (y.die d) c (row + i) k
  rest : ∀ p, (∀ i < n, ∀ k < 768 * c.w, p ≠ c.place (off + i * st + k)) → (z.die d).byte p = (y.die d).byte p

section
variable {d l : Nat} {c : Ctx} {clr : Bool} {row off st n : Nat} {y z : Sys}

theorem Drained.zero (y : Sys) : Drained d l c clr row off st 0 y y where
  others _ _ := rfl
  die := ⟨_, _, _, rfl⟩
  ctx := ⟨_, rfl⟩
  pzd := by simp
  rows r _ := by rw [if_neg (by omega)]
  bytes i hi := absurd hi (by omega)
  rest _ _ := rfl

/-- A row of `mx.drn` on its own: what it does to the die and to the context. -/
theorem drainRow_die (y : Sys) (dst : Nat) : ∃ cs, (drainRow d l c clr row dst y).die d =
    { (if clr then killRow c row (winWrite (y.die d) c dst (drainBytes (y.die d) c row)) else winWrite (y.die d) c dst (drainBytes (y.die d) c row)) with ctxs := cs } := by
  unfold drainRow
  dsimp only
  rw [Sys.modCtx, Sys.setCtx, Sys.die_modDie_self, Sys.die_modDie_self]
  exact ⟨_, rfl⟩

theorem drainRow_ctx (y : Sys) (dst : Nat) : (drainRow d l c clr row dst y).ctx d l =
    { y.ctx d l with pzd := (y.ctx d l).pzd || (drainWords (y.die d) c row).2 } := by
  unfold drainRow
  dsimp only
  rw [Sys.ctx_modCtx_self]
  have hctx : ∀ f : Die → Die, (∃ bk sl, f (y.die d) = { y.die d with banks := bk, slices := sl }) → (y.modDie d f).ctx d l = y.ctx d l := by
    rintro f ⟨_, _, hf⟩
    unfold Sys.ctx
    rw [Sys.die_modDie_self, hf]
  rw [hctx]
  obtain ⟨_, hw⟩ := winWrite_slices (y.die d) c dst (drainBytes (y.die d) c row)
  obtain ⟨_, hk⟩ := killRow_banks c row (winWrite (y.die d) c dst (drainBytes (y.die d) c row))
  split
  · exact ⟨_, _, by rw [hk, hw]⟩
  · exact ⟨_, _, hw⟩

theorem drainRow_others (y : Sys) (dst : Nat) {x : Nat} (hx : x ≠ d) : (drainRow d l c clr row dst y).die x = y.die x := by
  unfold drainRow
  dsimp only
  rw [Sys.modCtx, Sys.setCtx, Sys.die_modDie_ne _ _ hx, Sys.die_modDie_ne _ _ hx]

theorem accAt_of_accRow {u v : Die} {r : Nat} (h : accRow v c r = accRow u c r) {k : Nat} (hk : k < 192 * c.w) : accAt v c r k = accAt u c r k := by
  have hget : (accRow v c r)[k]? = (accRow u c r)[k]? := by rw [h]
  rw [getElem?_accRow, getElem?_accRow, if_pos hk, if_pos hk] at hget
  exact Option.some.inj hget

/-- What one row of a drain writes stands in the window, and nothing else there differs. -/
theorem drainRow_byte (hnd : c.blocks.Nodup) (y : Sys) {dst : Nat} (hfit : dst + 768 * c.w ≤ c.wsz) :
    (∀ k < 768 * c.w, (((drainRow d l c clr row dst y).die d).byte (c.place (dst + k))).1 = drainByte (y.die d) c row k) ∧
    ∀ p, (∀ k < 768 * c.w, p ≠ c.place (dst + k)) → ((drainRow d l c clr row dst y).die d).byte p = (y.die d).byte p := by
  obtain ⟨_, hd⟩ := drainRow_die (d := d) (l := l) (c := c) (clr := clr) (row := row) y dst
  have hbyte : ((drainRow d l c clr row dst y).die d).byte = (winWrite (y.die d) c dst (drainBytes (y.die d) c row)).byte := by
    obtain ⟨_, hk⟩ := killRow_banks c row (winWrite (y.die d) c dst (drainBytes (y.die d) c row))
    rw [hd]
    split
    · rw [hk]; rfl
    · rfl
  rw [hbyte]
  refine ⟨fun k hk => ?_, fun p hp => byte_winWrite_ne _ _ _ _ _ fun i hi => hp i (by rwa [length_drainBytes] at hi)⟩
  obtain ⟨b, hb⟩ := getElem?_drainBytes (v := y.die d) (row := row) hk
  rw [byte_winWrite hnd _ _ _ (by rwa [length_drainBytes]) hb]

theorem drainRow_rows (h7 : c.shape ≠ 7) (hnd : c.blocks.Nodup) (y : Sys) (dst : Nat) (hr : row < 256 * c.h) {r : Nat} (hz : r < 256 * c.h) :
    accRow ((drainRow d l c clr row dst y).die d) c r = if clr = true ∧ r = row then List.replicate (192 * c.w) none else accRow (y.die d) c r := by
  obtain ⟨_, hd⟩ := drainRow_die (d := d) (l := l) (c := c) (clr := clr) (row := row) y dst
  obtain ⟨_, hw⟩ := winWrite_slices (y.die d) c dst (drainBytes (y.die d) c row)
  have hwin : accRow (winWrite (y.die d) c dst (drainBytes (y.die d) c row)) c r = accRow (y.die d) c r := accRow_of_banks (by rw [hw]) c r
  rw [hd]
  cases clr
  case false =>
    refine (accRow_of_banks (u := winWrite (y.die d) c dst (drainBytes (y.die d) c row)) rfl c r).trans (hwin.trans ?_)
    simp
  case true =>
    refine (accRow_of_banks (u := killRow c row (winWrite (y.die d) c dst (drainBytes (y.die d) c row))) rfl c r).trans ?_
    rw [accRow_killRow h7 hnd hr hz, hwin]
    simp

theorem Drained.succ (h7 : c.shape ≠ 7) (hnd : c.blocks.Nodup) (h : Drained d l c clr row off st n y z) (hr : row + n < 256 * c.h) (hst : 768 * c.w ≤ st)
    (hfit : off + n * st + 768 * c.w ≤ c.wsz) : Drained d l c clr row off st (n + 1) y (drainRow d l c clr (row + n) (off + n * st) z) := by
  obtain ⟨_, _, _, hzd⟩ := h.die
  obtain ⟨_, hzc⟩ := h.ctx
  obtain ⟨_, hd⟩ := drainRow_die (d := d) (l := l) (c := c) (clr := clr) (row := row + n) z (off + n * st)
  have hctx := drainRow_ctx (d := d) (l := l) (c := c) (clr := clr) (row := row + n) z (off + n * st)
  obtain ⟨hin, hout⟩ := drainRow_byte (d := d) (l := l) (clr := clr) (row := row + n) hnd z hfit
  obtain ⟨_, hw⟩ := winWrite_slices (z.die d) c (off + n * st) (drainBytes (z.die d) c (row + n))
  obtain ⟨_, hk⟩ := killRow_banks c (row + n) (winWrite (z.die d) c (off + n * st) (drainBytes (z.die d) c (row + n)))
  have hrow : accRow (z.die d) c (row + n) = accRow (y.die d) c (row + n) := by rw [h.rows _ hr, if_neg (by omega)]
  have hsplit : ∀ (Q : Nat → Prop), (∃ i < n + 1, Q i) ↔ (∃ i < n, Q i) ∨ Q n := fun Q => by
    constructor
    · rintro ⟨i, hi, hq⟩
      by_cases hin : i < n
      · exact .inl ⟨i, hin, hq⟩
      · obtain rfl : i = n := by omega
        exact .inr hq
    · rintro (⟨i, hi, hq⟩ | hq)
      · exact ⟨i, by omega, hq⟩
      · exact ⟨n, by omega, hq⟩
  refine ⟨fun x hx => (drainRow_others z _ hx).trans (h.others x hx), ?_, ⟨_, by rw [hctx, hzc]⟩, ?_, fun r hz => ?_, fun i hi k hlane => ?_, fun p hp => ?_⟩
  · rw [hd]
    split
    · exact ⟨_, _, _, by rw [hk, hw, hzd]⟩
    · exact ⟨_, _, _, by rw [hw, hzd]⟩
  · rw [hctx, Bool.or_eq_true, h.pzd, drainWords_any, hrow, hsplit, or_assoc]
  · rw [drainRow_rows h7 hnd z _ hr hz, h.rows r hz]
    by_cases hrn : r = row + n
    · subst hrn
      cases clr <;> simp
    · have hiff : (clr = true ∧ row ≤ r ∧ r < row + (n + 1)) ↔ (clr = true ∧ row ≤ r ∧ r < row + n) := and_congr_right fun _ => by omega
      rw [if_neg (fun e => hrn e.2)]
      exact if_congr hiff.symm rfl rfl
  · by_cases hlast : i = n
    · subst hlast
      rw [hin k hlane]
      unfold drainByte
      rw [accAt_of_accRow hrow (by omega)]
    · have hlt : i < n := by omega
      have hstride : i * st + st ≤ n * st := by
        rw [← Nat.succ_mul]
        exact Nat.mul_le_mul_right _ hlt
      rw [hout _ fun k' hk' he => ?_]
      · exact h.bytes i hlt k hlane
      · have := c.place_inj hnd (by omega) (by omega) he
        omega
  · rw [hout p (hp n (by omega)), h.rest p fun i hi => hp i (by omega)]

end

/-- All rows of a drain that lies in the window, one after another. -/
theorem drained_foldl {d l : Nat} {c : Ctx} {clr : Bool} {row off st n : Nat} (h7 : c.shape ≠ 7) (hnd : c.blocks.Nodup) (y : Sys) (hr : row + n ≤ 256 * c.h)
    (hst : 768 * c.w ≤ st) (hfit : off + (n - 1) * st + 768 * c.w ≤ c.wsz) :
    Drained d l c clr row off st n y ((List.range n).foldl (fun y t => drainRow d l c clr (row + t) (off + t * st) y) y) := by
  induction n with
  | zero => exact .zero y
  | succ n ih =>
    have hle : (n - 1) * st ≤ n * st := Nat.mul_le_mul_right _ (by omega)
    rw [Nat.add_sub_cancel] at hfit
    rw [List.range_succ, List.foldl_append, List.foldl_cons, List.foldl_nil]
    exact (ih (by omega) (by omega)).succ h7 hnd (by omega) hst hfit

/-- A write to the window depends on the fragment's layout alone. -/
theorem winWrite_layout {b c : Ctx} (h : b.place = c.place) (v : Die) (off : Nat) (bs : List (Byte × Bool)) : winWrite v b off bs = winWrite v c off bs := by
  induction bs generalizing v off with
  | nil => rfl
  | cons x bs ih => rw [winWrite, winWrite, ih, winPut, winPut, h]

theorem CtxLinks.drainRow {b c : Ctx} (h : CtxLinks b c) (d l : Nat) (clr : Bool) : drainRow d l c clr = drainRow d l b clr := by
  obtain ⟨⟨hs, ts, ks, bs, rfl⟩, -⟩ := h
  funext row dst y
  unfold Sys2Proof.Machine.drainRow
  dsimp only
  simp only [winWrite_layout (b := { b with chains := hs, turns := ts, links := ks, bypass := bs }) (c := b) rfl]
  rfl

section
variable {s : State} {d l : Nat} {c : Ctx} {e : Entry} {rest : List Entry}

theorem StartedHead.drn_ends (h : StartedHead s d l 0 c e rest) (h7 : c.shape ≠ 7) (hnd : c.blocks.Nodup) {w x : BitVec 3} {clr : Bool} {m : Common}
    {row off st : Nat} (hcmd : e.cmd = .mxDrn w x clr m) (hreps : e.reps = [(row, off)]) (hrows : row + e.params.drows ≤ 256 * c.h)
    (hst : st = if e.params.dstr = 0 then 768 * c.w else e.params.dstr) (hle : 768 * c.w ≤ st) (hfit : off + (e.params.drows - 1) * st + 768 * c.w ≤ c.wsz) :
    Ends (.entryRetire d l 0) s (fun t => Retired s d l 0 e rest t ∧
      (∀ i < e.params.drows, ∀ k < 768 * c.w, ((t.sys.die d).byte (c.place (off + i * st + k))).1 = drainByte (s.sys.die d) c (row + i) k) ∧
      (∀ z, (∀ i < e.params.drows, ∀ k < 768 * c.w, z ≠ c.cellAt d (off + i * st + k)) → t.sys.cell z = s.sys.cell z) ∧
      (∀ r < 256 * c.h, accRow (t.sys.die d) c r =
        if clr = true ∧ row ≤ r ∧ r < row + e.params.drows then List.replicate (192 * c.w) none else accRow (s.sys.die d) c r) ∧
      ((t.sys.ctx d l).pzd = true ↔ c.pzd = true ∨ ∃ i < e.params.drows, ∃ v, some (v, true) ∈ accRow (s.sys.die d) c (row + i))) := by
  have hstep : matrixStep d l (moveLinks d l s.sys) e =
      ⟨(List.range e.params.drows).foldl (fun y t => drainRow d l c clr (row + t) (off + t * st) y) (moveLinks d l s.sys),
        { e with bad := e.reps.any (fun x => (List.range e.params.drows).any (fun t => rowBad ((moveLinks d l s.sys).die d) c (x.1 + t))) }, true⟩ := by
    unfold matrixStep
    rw [hcmd, hst]
    dsimp only
    rw [h.links.drainRow]
    obtain ⟨⟨_, _, _, _, hc⟩, -⟩ := h.links
    rw [hc]
    unfold eachRow
    rw [hreps]
    rfl
  generalize e.reps.any _ = b at hstep
  have hdr := drained_foldl (d := d) (l := l) (clr := clr) h7 hnd (moveLinks d l s.sys) hrows hle hfit
  generalize (List.range e.params.drows).foldl (fun y t => drainRow d l c clr (row + t) (off + t * st) y) (moveLinks d l s.sys) = v at hstep hdr
  have hu := linksMoved_acts s d l e
  have hlinks : Settled false d l s.sys (moveLinks d l s.sys) := .of_links (moveLinks_links d l s.sys)
  obtain ⟨_, _, _, hvd⟩ := hdr.die
  obtain ⟨_, hvc⟩ := hdr.ctx
  have ha : Acted s d l e v { e with bad := b } := ⟨rfl, rfl, rfl, by rw [hvc]; exact hu.queue, by rw [hvd]; exact hu.sems⟩
  obtain ⟨hset, hret⟩ := ha.retires h hstep
  have hsame : ∀ r, accRow ((moveLinks d l s.sys).die d) c r = accRow (s.sys.die d) c r := accRow_moveLinks s d l c
  have hcell : ∀ z, z.die = d → ∀ b, z.slice = some b → ∀ y : Sys, y.cell z = (y.die d).byte (b, z.off) := by rintro ⟨_, _, _⟩ rfl b rfl y; rfl
  have hplace : ∀ a (y : Sys), (y.die d).byte (c.place a) = y.cell (c.cellAt d a) := fun _ _ => rfl
  refine h.ends ⟨hret, fun i hi k hk => ?_, fun z hz => ?_, fun r hr => ?_, ?_⟩
  · have hdb := hdr.bytes i hi k hk
    rw [hplace, ← hset.cell, ← noteExcess_cell (matrixRetire d l e s.sys)] at hdb
    rw [hplace]
    refine hdb.trans ?_
    unfold drainByte
    rw [accAt_of_accRow (hsame _) (by omega)]
  · rw [noteExcess_cell, hset.cell, ← hlinks.cell]
    by_cases hzd : z.die = d
    · subst hzd
      cases hs : z.slice with
      | none => 
        unfold Sys.cell
        rw [hs, hvd]
      | some b =>
        rw [hcell z rfl b hs, hcell z rfl b hs]
        refine hdr.rest _ fun i hi k hk he => hz i hi k hk ?_
        obtain ⟨zd, zs, zo⟩ := z
        obtain rfl : zs = some b := hs
        unfold Ctx.cellAt
        rw [← he]
    · unfold Sys.cell
      rw [hdr.others _ hzd]
  · rw [noteExcess_die, accRow_of_banks hset.banks, hdr.rows r hr, hsame]
  · obtain ⟨_, _, _, _, _, _, _, _, _, hctx⟩ := hset.ctx
    have hpzd : (v.ctx d l).pzd = ((matrixRetire d l e s.sys).ctx d l).pzd := by rw [hctx]
    have hold : ((moveLinks d l s.sys).ctx d l).pzd = c.pzd := by
      obtain ⟨_, _, _, _, _, _, _, _, _, hc⟩ := hlinks.ctx
      rw [hc, h.ctx, Sys.ctxFor]
      unfold Ctx.asIssued
      split <;> rfl
    rw [noteExcess_ctx, ← hpzd, hdr.pzd, hold]
    simp only [hsame]

/-! ## mx.chn and mx.byp -/

/-- A routing that takes effect is that of the fragment and of every chain. -/
theorem StartedHead.route_ends (h : StartedHead s d l 0 c e rest) {r : Routing} (hstep : matrixStep d l (moveLinks d l s.sys) e = ⟨routeTo d l r (moveLinks d l s.sys), e, true⟩) :
    Ends (.entryRetire d l 0) s (fun t => Retired s d l 0 e rest t ∧ CellsKept s t ∧ (t.sys.ctx d l).routing = r ∧ ∀ g ∈ (t.sys.ctx d l).chains, g.route = r) := by
  have hu := linksMoved_acts s d l e
  have hlinks : Settled false d l s.sys (moveLinks d l s.sys) := .of_links (moveLinks_links d l s.sys)
  have hdie : ∀ i, ∃ cs, (routeTo d l r (moveLinks d l s.sys)).die i = { (moveLinks d l s.sys).die i with ctxs := cs } := fun i => by
    rw [routeTo, Sys.modCtx, Sys.setCtx, Sys.die_modDie]
    split
    · next hi => subst hi; exact ⟨_, rfl⟩
    · exact ⟨_, rfl⟩
  have ha : Acted s d l e (routeTo d l r (moveLinks d l s.sys)) e := by
    obtain ⟨_, hd⟩ := hdie d
    exact ⟨rfl, rfl, rfl, by rw [routeTo, Sys.ctx_modCtx_self]; exact hu.queue, by rw [hd]; exact hu.sems⟩
  obtain ⟨hset, hret⟩ := ha.retires h hstep
  obtain ⟨_, _, _, _, _, _, _, _, _, hctx⟩ := hset.ctx
  refine h.ends ⟨hret, fun z => ?_, ?_, fun g hg => ?_⟩
  · rw [noteExcess_cell, hset.cell, ← hlinks.cell]
    exact Sys.cell_of_die (fun i => by obtain ⟨_, hi⟩ := hdie i; rw [hi]; exact ⟨rfl, rfl, rfl⟩) z
  · rw [noteExcess_ctx, hctx, routeTo, Sys.ctx_modCtx_self]
  · rw [noteExcess_ctx] at hg
    have hface := List.mem_map_of_mem (f := Chain.face) hg
    rw [hset.chains, routeTo, Sys.ctx_modCtx_self] at hface
    obtain ⟨a, ha, hag⟩ := List.mem_map.1 hface
    obtain ⟨b, -, rfl⟩ := List.mem_map.1 ha
    exact (congrArg Prod.fst hag).symm

end

end Sys2Proof.Machine

/-! SUPPORT. `mx.drnx` when it executes: rows of the accumulators go to the chains, one row a turn (09 R192). -/

namespace Sys2Proof.Machine

/-! ## Pushes into the chains of a fragment -/

theorem Chain.push_port (h : Chain) (b : Beat) : (h.push 0 b).port 0 = h.port 0 ++ [b] := by
  simp [Chain.push, Chain.setPort, Chain.port, vgetD]

theorem getElem?_lmod {α : Type} (l : List α) (k j : Nat) (f : α → α) : (lmod l k f)[j]? = if j = k then l[j]?.map f else l[j]? := by
  unfold lmod
  split
  · next h =>
    split
    · next hj => rw [hj, h]; rfl
    · rfl
  · next v h =>
    by_cases hj : j = k
    · subst hj
      obtain ⟨hlt, -⟩ := List.getElem?_eq_some_iff.1 h
      rw [List.getElem?_set_self hlt, if_pos rfl, h]; rfl
    · rw [if_neg hj, List.getElem?_set_ne (Ne.symm hj)]

/-- Each of the leading chains, changed by its own function. -/
theorem getElem?_foldl_lmod {α : Type} (f : Nat → α → α) (l : List α) (n j : Nat) :
    ((List.range n).foldl (fun l k => lmod l k (f k)) l)[j]? = if j < n then l[j]?.map (f j) else l[j]? := by
  induction n with
  | zero => simp
  | succ n ih =>
    rw [List.range_succ, List.foldl_append, List.foldl_cons, List.foldl_nil, getElem?_lmod, ih]
    by_cases hj : j = n
    · subst hj; simp
    · rw [if_neg hj]
      exact if_congr (by omega) rfl rfl

/-- A system of which nothing but one context differs, which is `c`. -/
structure OneCtx (d l : Nat) (c : Ctx) (y z : Sys) : Prop where
  die : ∀ x, ∃ cs, z.die x = { y.die x with ctxs := cs }
  ctx : z.ctx d l = c

theorem OneCtx.modCtx {d l : Nat} {c : Ctx} {y z : Sys} (h : OneCtx d l c y z) (f : Ctx → Ctx) : OneCtx d l (f c) y (z.modCtx d l f) := by
  refine ⟨fun x => ?_, by rw [Sys.ctx_modCtx_self, h.ctx]⟩
  obtain ⟨_, hx⟩ := h.die x
  rw [Sys.modCtx, Sys.setCtx, Sys.die_modDie]
  split
  · next e => subst e; rw [hx]; exact ⟨_, rfl⟩
  · exact ⟨_, hx⟩

theorem foldl_modChain (d l : Nat) (f : Nat → Chain → Chain) (ks : List Nat) (y : Sys) :
    OneCtx d l { y.ctx d l with chains := ks.foldl (fun hs k => lmod hs k (f k)) (y.ctx d l).chains } y (ks.foldl (fun y k => y.modChain d l k (f k)) y) := by
  suffices h : ∀ c z, OneCtx d l c y z →
      OneCtx d l { c with chains := ks.foldl (fun hs k => lmod hs k (f k)) c.chains } y (ks.foldl (fun y k => y.modChain d l k (f k)) z) from
    h _ _ ⟨fun _ => ⟨_, rfl⟩, rfl⟩
  induction ks with
  | nil => exact fun _ _ hz => hz
  | cons k ks ih => exact fun c z hz => ih _ _ (hz.modCtx (fun c => { c with chains := lmod c.chains k (f k) }))

/-! ## A beat -/

section
variable {s : State} {d l : Nat} {c : Ctx} {e : Entry} {rest : List Entry}

/-- The entry after a row of `mx.drnx`. -/
def Entry.nextRow (e : Entry) : Entry := if e.pos + 1 < e.params.drows then { e with pos := e.pos + 1 } else { e with pos := 0, rep := e.rep + 1 }

/-- The words that a row presents to chain `j`. -/
def rowBeat (v : Die) (c : Ctx) (row j : Nat) : Beat := (((accRow v c row).map drainWord).drop (192 * j)).take 192

/-- The system after a row of `mx.drnx` that each port had room for. -/
def beatDrained (d l : Nat) (c : Ctx) (clr : Bool) (row : Nat) (u : Sys) : Sys :=
  let y := (List.range c.w).foldl (fun y j => y.modChain d l j (fun h => h.push 0 (rowBeat (u.die d) c row j))) u
  let y := y.modCtx d l (fun k => { k with pzd := k.pzd || (drainWords (u.die d) c row).2 })
  if clr then y.modDie d (killRow c row) else y

theorem CtxLinks.port {b c : Ctx} (h : CtxLinks b c) (j : Nat) : (c.chains[j]?).map (fun g => g.port 0) = (b.chains[j]?).map (fun g => g.port 0) := by
  have hface := congrArg (fun l => (l[j]?).map Prod.snd) h.2
  simp only [List.getElem?_map, Option.map_map] at hface
  exact hface

/-- Some port that a row would enter is full. -/
def portsFull (c : Ctx) : Bool := (List.range c.w).any (fun j => portDepth ≤ (((c.chains[j]?).map (fun h => (h.port 0).length)).getD 0))

theorem CtxLinks.portsFull {b c : Ctx} (h : CtxLinks b c) : portsFull c = portsFull b := by
  have hroom : ∀ j : Nat, ((c.chains[j]?).map (fun g => (g.port 0).length)).getD 0 = ((b.chains[j]?).map (fun g => (g.port 0).length)).getD 0 := fun j => by
    have hlen := congrArg (fun o => (o.map List.length).getD 0) (h.port j)
    simp only [Option.map_map] at hlen
    exact hlen
  have hw : c.w = b.w := by obtain ⟨⟨_, _, _, _, hc⟩, -⟩ := h; rw [hc]
  unfold Sys2Proof.Machine.portsFull
  simp only [hroom, hw]

theorem portsFull_iff (hlen : c.chains.length = c.w) : portsFull c = true ↔ ∃ g ∈ c.chains, 4 ≤ (g.port 0).length := by
  simp only [portsFull, List.any_eq_true, List.mem_range, decide_eq_true_eq, ← hlen]
  constructor
  · rintro ⟨j, hj, hle⟩
    rw [List.getElem?_eq_getElem hj] at hle
    exact ⟨_, List.getElem_mem hj, hle⟩
  · rintro ⟨g, hg, hle⟩
    obtain ⟨j, hj, rfl⟩ := List.mem_iff_getElem.1 hg
    exact ⟨j, hj, by rw [List.getElem?_eq_getElem hj]; exact hle⟩

theorem CtxLinks.beatDrained {b c : Ctx} (h : CtxLinks b c) (d l : Nat) (clr : Bool) (row : Nat) (u : Sys) :
    beatDrained d l c clr row u = beatDrained d l b clr row u := by
  obtain ⟨⟨_, _, _, _, rfl⟩, -⟩ := h
  rfl

/-- A beat of `mx.drnx`: it waits while a port is full, else a row goes. -/
theorem StartedHead.drnx_step (h : StartedHead s d l 0 c e rest) {clr : Bool} {w : BitVec 3} {m : Common} (hcmd : e.cmd = .mxDrnx w clr m) {z : Nat × Nat}
    (hz : e.reps[e.rep]? = some z) : ∃ b, matrixStep d l (moveLinks d l s.sys) e = if portsFull c then ⟨moveLinks d l s.sys, e, false⟩ else
      ⟨beatDrained d l c clr (z.1 + e.pos) (moveLinks d l s.sys), { e.nextRow with bad := b }, decide (e.reps.length ≤ e.nextRow.rep)⟩ := by
  have hbeat : matrixStep d l (moveLinks d l s.sys) e = drainBeat d l clr (moveLinks d l s.sys) e := by unfold matrixStep; rw [hcmd]
  refine ⟨e.bad || rowBad ((moveLinks d l s.sys).die d) ((moveLinks d l s.sys).ctxFor d l e) (z.1 + e.pos), ?_⟩
  rw [hbeat, ← h.links.portsFull, ← h.links.beatDrained]
  unfold drainBeat
  rw [hz]
  dsimp only
  refine if_congr Iff.rfl rfl ?_
  unfold beatDrained rowBeat
  rw [drainWords_eq]
  unfold Entry.nextRow
  by_cases hp : e.pos + 1 < e.params.drows
  · simp only [if_pos hp]; rfl
  · simp only [if_neg hp]; rfl

theorem Entry.nextRow_kept (e : Entry) : e.nextRow.num = e.num ∧ e.nextRow.signal = e.signal ∧ e.nextRow.signalled = e.signalled := by
  unfold Entry.nextRow
  split <;> exact ⟨rfl, rfl, rfl⟩

/-- A row that is drained to the chains: each port has its words, and the row is dead when CLR says so. -/
theorem beatDrained_spec (h7 : c.shape ≠ 7) (hnd : c.blocks.Nodup) (d l : Nat) (clr : Bool) {row : Nat} (hrow : row < 256 * c.h) (u : Sys) :
    (∀ x, ∃ bk cs, (beatDrained d l c clr row u).die x = { u.die x with banks := bk, ctxs := cs }) ∧
    (∃ p, (beatDrained d l c clr row u).ctx d l =
      { u.ctx d l with pzd := p, chains := (List.range c.w).foldl (fun hs j => lmod hs j (fun g => g.push 0 (rowBeat (u.die d) c row j))) (u.ctx d l).chains }) ∧
    ∀ z < 256 * c.h, accRow ((beatDrained d l c clr row u).die d) c z = if clr = true ∧ z = row then List.replicate (192 * c.w) none else accRow (u.die d) c z := by
  have hone := (foldl_modChain d l (fun j h => h.push 0 (rowBeat (u.die d) c row j)) (List.range c.w) u).modCtx
    (fun k => { k with pzd := k.pzd || (drainWords (u.die d) c row).2 })
  unfold beatDrained
  dsimp only
  generalize Sys.modCtx _ d l (fun k => { k with pzd := k.pzd || (drainWords (u.die d) c row).2 }) = y at hone
  obtain ⟨_, hyd⟩ := hone.die d
  have hrows : ∀ z, accRow (y.die d) c z = accRow (u.die d) c z := accRow_of_banks (by rw [hyd]) c
  cases clr
  case false =>
    refine ⟨fun x => ?_, ⟨(u.ctx d l).pzd || (drainWords (u.die d) c row).2, hone.ctx⟩, fun z hz => ?_⟩
    · obtain ⟨_, hx⟩ := hone.die x
      exact ⟨(u.die x).banks, _, hx⟩
    · simpa using hrows z
  case true =>
    obtain ⟨_, hk⟩ := killRow_banks c row (y.die d)
    refine ⟨fun x => ?_, ⟨(u.ctx d l).pzd || (drainWords (u.die d) c row).2, ?_⟩, fun z hz => ?_⟩
    · obtain ⟨_, hx⟩ := hone.die x
      rw [if_pos rfl, Sys.die_modDie]
      split
      · next hxd => subst hxd; rw [hk, hx]; exact ⟨_, _, rfl⟩
      · exact ⟨(u.die x).banks, _, hx⟩
    · rw [if_pos rfl, ← hone.ctx]
      unfold Sys.ctx
      rw [Sys.die_modDie_self, hk]
    · rw [if_pos rfl, Sys.die_modDie_self, accRow_killRow h7 hnd hrow hz, hrows]
      simp

theorem StartedHead.drnx_waits (h : StartedHead s d l 0 c e rest) {clr : Bool} {w : BitVec 3} {m : Common} (hcmd : e.cmd = .mxDrnx w clr m) {z : Nat × Nat}
    (hz : e.reps[e.rep]? = some z) (hfull : portsFull c = true) :
    Ends (.entryRetire d l 0) s (fun t => ((t.sys.ctx d l).queue 0).ents = e :: rest ∧
      (∀ (j : Nat) (g : Chain), c.chains[j]? = some g → ((t.sys.ctx d l).chains[j]?).map (fun g' => g'.port 0) = some (g.port 0)) ∧
      (∀ z < 256 * c.h, accRow (t.sys.die d) c z = accRow (s.sys.die d) c z) ∧ CellsKept s t) := by
  obtain ⟨b, hstep⟩ := h.drnx_step hcmd hz
  rw [if_pos hfull] at hstep
  obtain ⟨hset, hents⟩ := (linksMoved_acts s d l e).goesOn h hstep
  have hlinks : Settled false d l s.sys (moveLinks d l s.sys) := .of_links (moveLinks_links d l s.sys)
  have hall := hlinks.trans hset
  have hstarted : ({ e with started := true } : Entry) = e := by rw [← h.started]
  refine h.ends ⟨by rw [noteExcess_ctx, hents, hstarted], fun j g hj => ?_, fun z _ => ?_, hall.cell⟩
  · have hface := congrArg (fun l => (l[j]?).map Prod.snd) hall.chains
    have hchains : c.chains = (s.sys.ctx d l).chains := by rw [h.ctx, Sys.ctxFor]; unfold Ctx.asIssued; split <;> rfl
    simp only [List.getElem?_map, Option.map_map] at hface
    rw [noteExcess_ctx]
    refine hface.trans ?_
    rw [← hchains, hj]
    rfl
  · rw [noteExcess_die, accRow_of_banks hall.banks]

/-- A row goes: what stands afterwards, whether or not the entry is done with it. -/
theorem StartedHead.drnx_goes (h : StartedHead s d l 0 c e rest) (h7 : c.shape ≠ 7) (hnd : c.blocks.Nodup) {clr : Bool} {w : BitVec 3} {m : Common}
    (hcmd : e.cmd = .mxDrnx w clr m) {z : Nat × Nat} (hz : e.reps[e.rep]? = some z) (hlen : c.chains.length = c.w) (hroom : portsFull c = false) {row : Nat}
    (hrow : row = z.1 + e.pos) (hlt : row < 256 * c.h) :
    Ends (.entryRetire d l 0) s (fun t => CellsKept s t ∧
      (∀ j g, c.chains[j]? = some g → ((t.sys.ctx d l).chains[j]?).map (fun g' => g'.port 0) = some (g.port 0 ++ [rowBeat (s.sys.die d) c row j])) ∧
      (∀ z < 256 * c.h, accRow (t.sys.die d) c z = if clr = true ∧ z = row then List.replicate (192 * c.w) none else accRow (s.sys.die d) c z) ∧
      (e.pos + 1 < e.params.drows → (((t.sys.ctx d l).queue 0).ents).map (fun x => (x.num, x.rep, x.pos)) =
        (e.num, e.rep, e.pos + 1) :: rest.map (fun x => (x.num, x.rep, x.pos))) ∧
      (e.pos + 1 = e.params.drows → e.reps.length = e.rep + 1 → Retired s d l 0 e rest t)) := by
  obtain ⟨b, hstep⟩ := h.drnx_step hcmd hz
  rw [hroom, if_neg (by simp), ← hrow] at hstep
  obtain ⟨hdie, ⟨p, hctx⟩, hrows⟩ := beatDrained_spec h7 hnd d l clr hlt (moveLinks d l s.sys)
  obtain ⟨hnum, hsig, hsgd⟩ := e.nextRow_kept
  have hu := linksMoved_acts s d l e
  have hlinks : Settled false d l s.sys (moveLinks d l s.sys) := .of_links (moveLinks_links d l s.sys)
  have ha : Acted s d l e (beatDrained d l c clr row (moveLinks d l s.sys)) { e.nextRow with bad := b } := by
    obtain ⟨_, _, hd⟩ := hdie d
    exact ⟨hnum, hsig, hsgd, by rw [hctx]; exact hu.queue, by rw [hd]; exact hu.sems⟩
  have hset : ∃ b, Settled b d l (beatDrained d l c clr row (moveLinks d l s.sys)) (matrixRetire d l e s.sys) := by
    cases hdone : decide (e.reps.length ≤ e.nextRow.rep) <;> rw [hdone] at hstep
    case false => exact ⟨_, (ha.goesOn h hstep).1⟩
    case true => exact ⟨_, (ha.retires h hstep).1⟩
  obtain ⟨b', hset⟩ := hset
  have hrep : e.rep < e.reps.length := (List.getElem?_eq_some_iff.1 hz).1
  refine h.ends ⟨fun x => ?_, fun j g hj => ?_, fun z hz => ?_, fun hpos => ?_, fun hpos hlast => ?_⟩
  · rw [noteExcess_cell, hset.cell, ← hlinks.cell]
    exact Sys.cell_of_die (fun i => by obtain ⟨_, _, hi⟩ := hdie i; rw [hi]; exact ⟨rfl, rfl, rfl⟩) x
  · have hface := congrArg (fun l => (l[j]?).map Prod.snd) hset.chains
    have hchains : c.chains = (s.sys.ctx d l).chains := by rw [h.ctx, Sys.ctxFor]; unfold Ctx.asIssued; split <;> rfl
    have hport := ((moveLinks_links d l s.sys).ctx d l).port j
    obtain ⟨hj', -⟩ := List.getElem?_eq_some_iff.1 hj
    have hbeat : rowBeat ((moveLinks d l s.sys).die d) c row j = rowBeat (s.sys.die d) c row j := by unfold rowBeat; rw [accRow_moveLinks]
    simp only [List.getElem?_map, Option.map_map, hctx, getElem?_foldl_lmod, if_pos (show j < c.w by omega)] at hface
    rw [← hchains, hj] at hport
    rw [noteExcess_ctx]
    refine hface.trans ?_
    obtain ⟨g', hg', hgp⟩ := Option.map_eq_some_iff.1 hport
    have hgp : g'.port 0 = g.port 0 := hgp
    rw [hg', ← hgp, ← hbeat]
    exact congrArg some (Chain.push_port ..)
  · rw [noteExcess_die, accRow_of_banks hset.banks, hrows z hz, accRow_moveLinks]
  · have hnext : e.nextRow = { e with pos := e.pos + 1 } := if_pos hpos
    have hdone : decide (e.reps.length ≤ e.nextRow.rep) = false := by rw [hnext]; simpa using hrep
    rw [hdone] at hstep
    rw [noteExcess_ctx, (ha.goesOn h hstep).2, hnext]
    rfl
  · have hnext : e.nextRow = { e with pos := 0, rep := e.rep + 1 } := if_neg (by omega)
    have hdone : decide (e.reps.length ≤ e.nextRow.rep) = true := by rw [hnext]; simpa using hlast.le
    rw [hdone] at hstep
    exact (ha.retires h hstep).2

end

end Sys2Proof.Machine

/-! SUPPORT. The matrix commands at issue (09 R185 to R192): the plan of each command whose checks pass. -/

namespace Sys2Proof.Machine

/-- A matrix command of a task sequencer that holds an array. -/
structure HoldsArray (s : State) : Prop where
  task : s.cur.idx.isSome = true
  shape : s.ctxNow.shape ≠ 7

section
variable {s : State} {c : Common} {w x : BitVec 3}

theorem HoldsArray.checked (h : HoldsArray s) : checkMatrix s.cur (s.sys.ctxOf s.cur) = .ok () := checkMatrix_array h.task h.shape

/-! ## mx.spm (09 R185, R186) -/

/-- A parameter record that passes its checks (code 0x0B). -/
structure GoodParams (u : Params) : Prop where
  mrows : 1 ≤ u.mrows ∧ u.mrows ≤ 1536
  drows : 1 ≤ u.drows ∧ u.drows ≤ 1536
  astr : u.astr % 64 = 0 ∧ u.astr < 2 ^ 32
  dstr : u.dstr % 64 = 0 ∧ u.dstr < 2 ^ 32

theorem GoodParams.notBad {u : Params} (h : GoodParams u) : paramsBad u = false := by
  obtain ⟨⟨h1, h2⟩, ⟨h3, h4⟩, ⟨h5, -⟩, ⟨h6, -⟩⟩ := h
  simp [paramsBad, h5, h6]
  omega

theorem GoodParams.read {u : Params} (h : GoodParams u) {bs : List Byte}
    (hv : leNat bs = u.mrows + 2 ^ 32 * u.astr + 2 ^ 64 * u.drows + 2 ^ 96 * u.dstr) : paramsOf bs = (u, false) := by
  obtain ⟨⟨-, h2⟩, ⟨-, h4⟩, ⟨-, h5⟩, ⟨-, h6⟩⟩ := h
  obtain ⟨mrows, astr, drows, dstr⟩ := u
  dsimp only at *
  unfold paramsOf bitsOf
  rw [hv]
  norm_num
  omega

/-- The records of an `mx.spm` pass their checks. -/
structure GoodSpm (s : State) (w : BitVec 3) (c : Common) (q : List Params) : Prop where
  walks : Walks s w c
  count : q.length = c.rep.toNat + 1
  recs : ∀ i u, q[i]? = some u → Fits s (s.place w c i).toNat 64 ∧ Readable s .matrix (s.place w c i) 64 ∧
    s.word (s.place w c i) 64 = u.mrows + 2 ^ 32 * u.astr + 2 ^ 64 * u.drows + 2 ^ 96 * u.dstr ∧ GoodParams u

theorem map_repetitions_getD {α : Type} {q : List α} (h : q.length = c.rep.toNat + 1) (d : α) : (repetitions c).map (fun i => q.getD i d) = q := by
  refine List.ext_getElem (by simp [repetitions, h]) fun i _ hi => ?_
  simp [repetitions, List.getElem?_eq_getElem hi]

theorem spmPlan_ok (ha : HoldsArray s) {q : List Params} (h : GoodSpm s w c q) {v : Params} (hv : q.getLast? = some v) :
    spmPlan w c s.cur s.sys = .ok { e := { num := 0, cmd := .nop, params := v, weight := 1 }, st := fun g => { g with params := v } } := by
  have hget : ∀ i ≤ c.rep.toNat, q[i]? = some (q.getD i v) := fun i hi => by
    rw [List.getD_eq_getElem?_getD, List.getElem?_eq_getElem (by rw [h.count]; omega)]; rfl
  have hwin : ∀ i ≤ c.rep.toNat, checkWin (s.sys.ctxOf s.cur) (s.place w c i).toNat 64 i = .ok () := fun i hi =>
    checkWin_fits (h.recs i _ (hget i hi)).1 i
  have hmap : (repetitions c).map (fun i => (q.getD i v, (none : Option Nat))) = q.map (fun u => (u, none)) := by
    conv_rhs => rw [← map_repetitions_getD h.count v, List.map_map]
    rfl
  have hlast : ((q.map (fun u => (u, (none : Option Nat)))).getLastD ((s.sys.ctxOf s.cur).params, none)).1 = v := by
    rw [List.getLastD_eq_getLast?, List.getLast?_map, hv]; rfl
  have hbad : firstBad ((q.map (fun u => (u, (none : Option Nat)))).map (·.2)) = none := by
    rw [firstBad, List.findSome?_eq_none_iff]
    simp
  unfold spmPlan
  dsimp only
  rw [ha.checked, iss_ok_bind, eachRep_ok (g := fun i => (q.getD i v, none)) (fun i hi => ?_), hmap]
  · simp only [iss_ok_bind, hlast, hbad, iss_pure]
  · obtain ⟨-, hread, hword, hgood⟩ := h.recs i _ (hget i hi)
    simp only [repAddr_walks h.walks, iss_ok_bind, hwin i hi, readAtIssue_readable ha.task hread, hgood.read hword, trapIf_false, hgood.notBad,
      codeIf_false, iss_pure]

/-! ## Row commands (09 R191, R192) -/

/-- The entry of a command on accumulator rows alone. -/
def rowsEntry (s : State) (w : BitVec 3) (c : Common) (all : Bool) (weight : Nat) : Entry :=
  { num := 0, cmd := .nop, reps := (repetitions c).map (fun i => (if all then 0 else (s.place w c i).toNat, 0)), params := s.ctxNow.params, weight := weight }

theorem rowsPlan_ok (ha : HoldsArray s) (hw : Walks s w c) {all chains : Bool} {weight : Ctx → Nat} (hchains : chains = true → s.ctxNow.chains ≠ [])
    (hrows : all = true ∨ ∀ i, i ≤ c.rep.toNat → (s.place w c i).toNat + s.ctxNow.params.drows ≤ 256 * s.ctxNow.h) :
    rowsPlan w c all chains weight s.cur s.sys = .ok { e := rowsEntry s w c all (weight s.ctxNow) } := by
  have hempty : (chains && (s.sys.ctxOf s.cur).chains.isEmpty) = false := by
    cases hc : chains with
    | false => rfl
    | true => simpa [List.isEmpty_iff, State.ctxOf_cur] using hchains hc
  unfold rowsPlan
  dsimp only
  rw [ha.checked, iss_ok_bind, eachRep_ok (g := fun i => (if all then 0 else (s.place w c i).toNat, 0)) (fun i hi => ?_)]
  · rfl
  · cases all
    case true => simp only [if_true, iss_pure, iss_ok_bind, hempty, codeIf_false, Bool.not_true, Bool.false_eq_true, if_false]
    case false =>
      have hin : checkRows (s.sys.ctxOf s.cur) (s.place w c i).toNat (s.sys.ctxOf s.cur).params.drows i = .ok () :=
        checkRows_inside ((hrows.resolve_left (by simp)) i hi) i
      simp only [if_true, iss_pure, iss_ok_bind, hempty, codeIf_false, Bool.not_false, Bool.false_eq_true, if_false, repAddr_walks hw, hin]

/-- A drain or a fill whose rows and window ranges pass their checks. -/
structure GoodMove (s : State) (w x : BitVec 3) (c : Common) (st : Nat) : Prop where
  rows : Walks s w c
  window : Walks s x c
  stride : s.ctxNow.params.dstr = 0 ∨ 768 * s.ctxNow.w ≤ s.ctxNow.params.dstr
  step : st = if s.ctxNow.params.dstr = 0 then 768 * s.ctxNow.w else s.ctxNow.params.dstr
  fits : ∀ i, i ≤ c.rep.toNat → (s.place w c i).toNat + s.ctxNow.params.drows ≤ 256 * s.ctxNow.h ∧
    Fits s (s.place x c i).toNat ((s.ctxNow.params.drows - 1) * st + 768 * s.ctxNow.w)

/-- The window ranges of a drain or a fill. -/
def moveSpans (s : State) (x : BitVec 3) (c : Common) (st : Nat) : List Span :=
  (repetitions c).flatMap (fun i => rowSpans (s.place x c i).toNat st s.ctxNow.params.drows (768 * s.ctxNow.w))

/-- The entry of a drain (`writes`) or a fill. -/
def moveEntry (s : State) (w x : BitVec 3) (c : Common) (st : Nat) (writes : Bool) : Entry :=
  { num := 0, cmd := .nop, reps := (repetitions c).map (fun i => ((s.place w c i).toNat, (s.place x c i).toNat)), params := s.ctxNow.params
    rd := if writes then [] else moveSpans s x c st, wr := if writes then moveSpans s x c st else [], weight := 4 * s.ctxNow.blocks.length }

theorem movePlan_ok (ha : HoldsArray s) {st : Nat} (h : GoodMove s w x c st) (writes : Bool) :
    movePlan w x c writes s.cur s.sys = .ok { e := moveEntry s w x c st writes } := by
  have hst : rowStride (s.sys.ctxOf s.cur).params (s.sys.ctxOf s.cur).rowBytes = st := h.step.symm
  have hbad : ((s.sys.ctxOf s.cur).params.dstr != 0 && decide ((s.sys.ctxOf s.cur).params.dstr < (s.sys.ctxOf s.cur).rowBytes)) = false := by
    rcases h.stride with h0 | hle
    · rw [State.ctxOf_cur, h0]; rfl
    · have hnot : decide ((s.sys.ctxOf s.cur).params.dstr < (s.sys.ctxOf s.cur).rowBytes) = false := decide_eq_false (Nat.not_lt.2 hle)
      rw [hnot, Bool.and_false]
  unfold movePlan
  dsimp only
  rw [ha.checked, iss_ok_bind, eachRep_ok (g := fun i => ((s.place w c i).toNat, (s.place x c i).toNat)) (fun i hi => ?_)]
  · rw [iss_ok_bind, List.flatMap_map, hst]
    rfl
  · obtain ⟨hrow, hfit⟩ := h.fits i hi
    have hwin : checkWin (s.sys.ctxOf s.cur) (s.place x c i).toNat (((s.sys.ctxOf s.cur).params.drows - 1) * st + (s.sys.ctxOf s.cur).rowBytes) i = .ok () :=
      checkWin_fits hfit i
    have hin : checkRows (s.sys.ctxOf s.cur) (s.place w c i).toNat (s.sys.ctxOf s.cur).params.drows i = .ok () := checkRows_inside hrow i
    simp only [repAddr_walks h.rows, repAddr_walks h.window, iss_ok_bind, hst, hwin, hin, hbad, codeIf_false, iss_pure]

/-! ## mx.ldb (09 R187) -/

theorem findIx_none {α : Type} {p : α → Bool} {l : List α} (h : ∀ a ∈ l, p a = false) : findIx p l = none := by
  induction l with
  | nil => rfl
  | cons a l ih =>
    rw [findIx, h a List.mem_cons_self, ih fun b hb => h b (List.mem_cons_of_mem _ hb)]
    rfl

/-- Masks that keep as many elements as they should, none of them uncorrectable. -/
theorem badMask_none (hi : s.cur.idx.isSome = true) {bw sp base n line : Nat} (h : ∀ m, line ≤ m → m < line + n → ∀ k, k < 192 * gprOf sp →
      ∀ z, z = s.sys.cell (s.sys.cellAt s.cur (base + m * bLine bw sp + maskLo bw sp + k)) → z.2 = false ∧ popByte z.1 = keptOf sp) :
    badMask s.sys s.cur bw sp base n line = .ok none := by
  induction n generalizing line with
  | zero => rfl
  | succ n ih =>
    have hline : ∀ b ∈ s.sys.seqRead s.cur (maskAt bw sp base line) (maskBytes sp), b.2 = false ∧ popByte b.1 = keptOf sp := fun b hb => by
      rw [seqRead_eq hi] at hb
      obtain ⟨k, hk, hb⟩ := List.mem_map.1 hb
      exact h line (Nat.le_refl _) (by omega) k (List.mem_range.1 hk) b hb.symm
    have hfind : findIx (fun b => popByte b.1 != keptOf sp) (s.sys.seqRead s.cur (maskAt bw sp base line) (maskBytes sp)) = none :=
      findIx_none fun b hb => by rw [(hline b hb).2, bne_self_eq_false]
    have hany : (s.sys.seqRead s.cur (maskAt bw sp base line) (maskBytes sp)).any (·.2) = false :=
      List.any_eq_false.2 fun b hb => by rw [(hline b hb).1]; exact Bool.false_ne_true
    unfold badMask
    dsimp only
    rw [hfind, ih fun m hm hn => h m (by omega) (by omega), hany]
    rfl

/-- A load of the stationary B whose panels pass their checks. -/
structure GoodLoad (s : State) (w : BitVec 3) (bw sp : BitVec 2) (c : Common) (len : Nat) : Prop where
  walks : Walks s w c
  bytes : len = 192 * s.ctxNow.h * s.ctxNow.w * bLine bw.toNat sp.toNat
  fits : ∀ i, i ≤ c.rep.toNat → Fits s (s.place w c i).toNat len
  masks : sp ≠ 0 → s.ctxNow.blocks? (maskSpans bw.toNat sp.toNat (192 * s.ctxNow.h * s.ctxNow.w) ((repetitions c).map (fun i => (s.place w c i).toNat))) [] = false ∧
    ∀ i, i ≤ c.rep.toNat → ∀ n, n < 192 * s.ctxNow.h * s.ctxNow.w → ∀ k, k < 192 * gprOf sp.toNat →
      ∀ z, z = s.sys.cell (s.sys.cellAt s.cur ((s.place w c i).toNat + n * bLine bw.toNat sp.toNat + maskLo bw.toNat sp.toNat + k)) →
        z.2 = false ∧ popByte z.1 = keptOf sp.toNat

/-- The window ranges of a load. -/
def loadSpans (s : State) (w : BitVec 3) (c : Common) (len : Nat) : List Span :=
  (repetitions c).map (fun i => ⟨(s.place w c i).toNat, (s.place w c i).toNat + len⟩)

/-- The entry of a load. -/
def loadEntry (s : State) (w : BitVec 3) (bw sp : BitVec 2) (c : Common) (len : Nat) : Entry :=
  { num := 0, cmd := .nop, reps := (repetitions c).map (fun i => ((s.place w c i).toNat, 0)), rd := loadSpans s w c len, eB := (bw.toNat, sp.toNat)
    weight := 6 * s.ctxNow.blocks.length }

/-- The load has a plan, unless a sparse one reads masks that an entry still writes: then it waits as its entry would. -/
theorem ldbPlan_eq (ha : HoldsArray s) {bw sp : BitVec 2} {len : Nat} (h : GoodLoad s w bw sp c len) :
    ∃ b, firstBad b = none ∧ ldbPlan w bw sp c s.cur s.sys = if sp ≠ 0 ∧ s.ctxNow.stallsOn .matrix (loadSpans s w c len) [] = true then stalls else
      .ok { e := loadEntry s w bw sp c len, st := fun g => { g with iB := (bw.toNat, sp.toNat) }, bad := firstBad b } := by
  have hlen : (s.sys.ctxOf s.cur).bLines * bLine bw.toNat sp.toNat = len := h.bytes.symm
  have hmap : ((repetitions c).map (fun i => (s.place w c i).toNat)).map (fun b => (⟨b, b + len⟩ : Span)) = loadSpans s w c len := by
    rw [List.map_map]; rfl
  have hmap' : ((repetitions c).map (fun i => (s.place w c i).toNat)).map (fun b => (b, 0)) = (repetitions c).map (fun i => ((s.place w c i).toNat, 0)) := by
    rw [List.map_map]; rfl
  have hnone : firstBad ((repetitions c).map (fun _ => (none : Option Nat))) = none := by
    rw [firstBad, List.findSome?_eq_none_iff]
    simp
  refine ⟨if sp = 0 then [] else (repetitions c).map (fun _ => none), by split; exacts [rfl, hnone], ?_⟩
  unfold ldbPlan
  dsimp only
  rw [ha.checked, iss_ok_bind, hlen, eachRep_ok (g := fun i => (s.place w c i).toNat) (fun i hi => ?_), iss_ok_bind, hmap, hmap']
  · by_cases hsp : sp = 0
    · rw [if_pos hsp, if_pos hsp, if_neg (fun e => e.1 hsp)]
      rfl
    · obtain ⟨hfree, hmasks⟩ := h.masks hsp
      have hfree' : (s.sys.ctxOf s.cur).blocks? (maskSpans bw.toNat sp.toNat (s.sys.ctxOf s.cur).bLines ((repetitions c).map (fun i => (s.place w c i).toNat))) [] = false :=
        hfree
      have hmask := eachRep_ok (c := c) (f := fun i => badMask s.sys s.cur bw.toNat sp.toNat (((repetitions c).map (fun i => (s.place w c i).toNat)).getD i 0)
          (s.sys.ctxOf s.cur).bLines 0) (g := fun _ => none) fun i hi => by
        have hget : ((repetitions c).map (fun i => (s.place w c i).toNat)).getD i 0 = (s.place w c i).toNat := by
          rw [List.getD_eq_getElem?_getD, repetitions, getElem?_range_map, if_pos (by omega)]; rfl
        rw [hget]
        exact badMask_none ha.task fun m _ hm => hmasks i hi m (by rw [Nat.zero_add] at hm; exact hm)
      rw [if_neg hsp, if_neg hsp, hfree', hmask, Bool.or_false]
      by_cases hst : s.ctxNow.stallsOn .matrix (loadSpans s w c len) [] = true
      · have hst' : (s.sys.ctxOf s.cur).stallsOn .matrix (loadSpans s w c len) [] = true := hst
        rw [if_pos hst', if_pos ⟨hsp, hst⟩]
        rfl
      · have hst' : ¬(s.sys.ctxOf s.cur).stallsOn .matrix (loadSpans s w c len) [] = true := hst
        rw [if_neg hst', if_neg (fun e => hst e.2)]
        rfl
  · have hwin : checkWin (s.sys.ctxOf s.cur) (s.place w c i).toNat len i = .ok () := checkWin_fits (h.fits i hi) i
    simp only [repAddr_walks h.walks, iss_ok_bind, hwin, iss_pure]

/-- A command whose plan waits has no effect. -/
theorem issue_waits {i : Instr} {u : Unit3} {qc : Nat} {plan : SeqRef → Sys → Iss Plan} (hacc : Accepts s c) (hplan : plan s.cur s.sys = stalls) :
    ∃ t, runIssue s i c u qc plan = .next t ∧ Unmoved s t := by
  have hsem : semCheck (s.sys.ctxOf s.cur) c = .ok () := semCheck_accepts hacc
  have hstep : issueStep i c u qc plan s.cur s.sys = .stall s.sys := by
    simp only [issueStep, issueEnd, hsem, hplan]
    rfl
  exact ⟨_, rfl, by rw [hstep]; rfl⟩

theorem ldb_queued (ha : HoldsArray s) (hacc : Accepts s c) {bw sp : BitVec 2} {len : Nat} (h : GoodLoad s w bw sp c len) :
    Ends (.mxLdb w bw sp c) s (Queued s (.mxLdb w bw sp c) c 0 (loadEntry s w bw sp c len) (fun g => { g with iB := (bw.toNat, sp.toNat) })) := by
  obtain ⟨b, hb, hplan⟩ := ldbPlan_eq ha h
  by_cases hst : sp ≠ 0 ∧ s.ctxNow.stallsOn .matrix (loadSpans s w c len) [] = true
  · rw [if_pos hst] at hplan
    obtain ⟨t, ht, hu⟩ := issue_waits (i := .mxLdb w bw sp c) (u := .matrix) (qc := 0) hacc hplan
    have hno : ¬Admits s 0 (loadEntry s w bw sp c len) := fun hadm => by
      have hfree := hadm.free
      rw [show unitOf 0 = Unit3.matrix from rfl] at hfree
      exact Bool.false_ne_true (hfree.symm.trans hst.2)
    exact ⟨t, ht, fun hadm => absurd hadm hno, fun _ => hu⟩
  · rw [if_neg hst] at hplan
    have hq := issue_queued (i := .mxLdb w bw sp c) (u := .matrix) (qc := 0) hacc rfl hplan hb
    exact hq

end

end Sys2Proof.Machine

/-! SUPPORT. The matrix commands of one walk, at issue and when they execute. -/

namespace Sys2Proof.Machine

section
variable {s : State} {c : Common} {w x : BitVec 3}

/-- The commands on rows at issue. -/
theorem rows_queued {i : Instr} (ha : HoldsArray s) (hacc : Accepts s c) (hw : Walks s w c) {all chains : Bool} {weight : Ctx → Nat}
    (hchains : chains = true → s.ctxNow.chains ≠ [])
    (hrows : all = true ∨ ∀ i, i ≤ c.rep.toNat → (s.place w c i).toNat + s.ctxNow.params.drows ≤ 256 * s.ctxNow.h) :
    ∃ t, runIssue s i c .matrix 0 (rowsPlan w c all chains weight) = .next t ∧ Queued s i c 0 (rowsEntry s w c all (weight s.ctxNow)) id t := by
  have hq := issue_queued (i := i) (u := .matrix) (qc := 0) hacc rfl (rowsPlan_ok ha hw hchains hrows (weight := weight)) rfl
  exact hq

theorem move_queued {i : Instr} (ha : HoldsArray s) (hacc : Accepts s c) {st : Nat} (h : GoodMove s w x c st) (writes : Bool) :
    ∃ t, runIssue s i c .matrix 0 (movePlan w x c writes) = .next t ∧ Queued s i c 0 (moveEntry s w x c st writes) id t := by
  have hq := issue_queued (i := i) (u := .matrix) (qc := 0) hacc rfl (movePlan_ok ha h writes) rfl
  exact hq

theorem spm_queued (ha : HoldsArray s) (hacc : Accepts s c) {q : List Params} (h : GoodSpm s w c q) {v : Params} (hv : q.getLast? = some v) :
    Ends (.mxSpm w c) s (Queued s (.mxSpm w c) c 0 { num := 0, cmd := .nop, params := v, weight := 1 } (fun g => { g with params := v })) := by
  have hq := issue_queued (i := .mxSpm w c) (u := .matrix) (qc := 0) hacc rfl (spmPlan_ok ha h hv) rfl
  exact hq

end

theorem Ends.imp {i : Instr} {s : State} {P Q : State → Prop} (h : Ends i s P) (hpq : ∀ t, P t → Q t) : Ends i s Q := by
  obtain ⟨t, ht, hp⟩ := h
  exact ⟨t, ht, hpq t hp⟩

/-- A drained word as it stands in the window. -/
theorem bytesAt_drained {y : Sys} {d off : Nat} {h : Ctx} {v : Die} {row col : Nat}
    (hb : ∀ k < 4, ((y.die d).byte (h.place (off + 4 * col + k))).1 = drainByte v h row (4 * col + k)) :
    y.bytesAt d h (off + 4 * col) 4 = (drainWord (accAt v h row col)).toNat := by
  have hbytes : (List.range 4).map (fun k => (y.cell (h.cellAt d (off + 4 * col + k))).1) = leSplit 4 (drainWord (accAt v h row col)).toNat := by
    refine List.ext_getElem? fun k => ?_
    rw [getElem?_range_map]
    split
    · next hk =>
      have hdiv : (4 * col + k) / 4 = col := by omega
      have hmod : (4 * col + k) % 4 = k := by omega
      rw [cell_cellAt, hb k hk, drainByte, hdiv, hmod, List.getD_eq_getElem?_getD, List.getElem?_eq_getElem (by rw [length_leSplit]; exact hk)]
      rfl
    · next hk => rw [List.getElem?_eq_none (by rw [length_leSplit]; omega)]
  unfold Sys.bytesAt
  rw [hbytes, leNat_leSplit]
  exact Nat.mod_eq_of_lt (drainWord (accAt v h row col)).isLt

/-- Settles O20: at issue each command has the plan of its kind; when its entry executes, each makes of rows, lines and chains what its rule says. -/
theorem matrixCommands : Obligations.MatrixCommands := by
  unfold Obligations.MatrixCommands
  refine ⟨fun s c w x h p b hh hp hb h7 hw => ⟨fun hacc => ⟨?_, ?_, ?_⟩, ?_, ?_⟩, fun s d l h e rest p w x c hs hp hnd h7 => ⟨?_, ?_, ?_, ?_, ?_, ?_⟩⟩
  · intro q hq hrecs v hv
    subst hh
    refine spm_queued ⟨hacc.task, h7⟩ hacc ⟨hw, hq, fun i u hu => ?_⟩ hv
    obtain ⟨h1, h2, h3, h4, h5, h6, h8, h9, h10, h11, h12⟩ := hrecs i u hu
    exact ⟨h1, h2, h3, ⟨h4, h5⟩, ⟨h6, h8⟩, ⟨h9, h11⟩, ⟨h10, h12⟩⟩
  · intro all hrows r hr
    subst hh hp hr
    exact ⟨rows_queued ⟨hacc.task, h7⟩ hacc hw (by simp) hrows, rows_queued ⟨hacc.task, h7⟩ hacc hw (by simp) hrows⟩
  · intro clr hchains hrows
    subst hh hp hb
    exact rows_queued ⟨hacc.task, h7⟩ hacc hw (fun _ => hchains) (.inr hrows)
  · intro bw sp len rd hlen hrd hacc hfits hmasks
    subst hh hb hrd
    exact ldb_queued ⟨hacc.task, h7⟩ hacc ⟨hw, hlen, hfits, hmasks⟩
  · intro hx hstride st sp hst hfits hsp
    subst hh hp hb hsp
    have hgood : GoodMove s w x c st := ⟨hw, hx, hstride, hst, hfits⟩
    exact ⟨fun hacc clr => move_queued ⟨hacc.task, h7⟩ hacc hgood true, fun hacc => move_queued ⟨hacc.task, h7⟩ hacc hgood false⟩
  · intro all R hreps hR
    subst hp hR
    refine ⟨fun hcmd => (hs.clr_ends h7 hnd hcmd hreps).imp ?_, fun hcmd => (hs.dead_ends h7 hnd hcmd hreps).imp ?_⟩
    · rintro t ⟨hret, hcells, hpend, hrows⟩
      exact ⟨hret, hcells, hpend, fun row hrow => ⟨fun hR => by rw [hrows row hrow, if_pos hR], fun hR => by rw [hrows row hrow, if_neg hR]⟩⟩
    · rintro t ⟨hret, hcells, -, hrows⟩
      exact ⟨hret, hcells, fun row hrow => ⟨fun hR => by rw [hrows row hrow, if_pos hR], fun hR => by rw [hrows row hrow, if_neg hR]⟩⟩
  · exact fun hcmd => hs.spm_ends hcmd
  · intro r n hcmd
    refine hs.route_ends ?_
    unfold matrixStep
    obtain ⟨hcmd, rfl⟩ | ⟨hcmd | hcmd, rfl⟩ | ⟨hcmd, rfl⟩ := hcmd <;> rw [hcmd] <;> rfl
  · exact fun bw sp base len hcmd hlast hlen hbad => hs.ldb_ends h7 hnd hcmd hlast hlen hbad
  · intro row off st hreps hrows hst
    subst hp
    refine ⟨fun hcmd => (hs.fill_ends h7 hnd hcmd hreps hrows hst).imp ?_, fun clr hcmd hle hfit => (hs.drn_ends h7 hnd hcmd hreps hrows hst hle hfit).imp ?_⟩
    · rintro t ⟨hret, hcells, hall⟩
      refine ⟨hret, hcells, fun i hi => ?_, fun z hz hout => ?_⟩
      · rw [hall _ (by omega), if_pos (by omega), Nat.add_sub_cancel_left]
        rfl
      · rw [hall z hz, if_neg (by omega)]
    · rintro t ⟨hret, hbytes, hcells, hall, hpzd⟩
      refine ⟨hret, fun i hi col hcol a ha => ?_, hcells, fun i hi => ?_, hpzd⟩
      · rw [getElem?_accRow, if_pos hcol] at ha
        rw [bytesAt_drained (fun k hk => by rw [Nat.add_assoc]; exact hbytes i hi (4 * col + k) (by omega)), Option.some.inj ha]
        cases a with
        | none => rfl
        | some a => obtain ⟨v, _ | _⟩ := a <;> rfl
      · rw [hall _ (by omega)]
        refine if_congr ⟨fun h => h.1, fun h => ⟨h, by omega, by omega⟩⟩ rfl rfl
  · intro clr row z hcmd hz hrow hlen
    subst hp
    refine ⟨fun hfull => hs.drnx_waits hcmd hz ((portsFull_iff hlen).2 hfull), fun hroom hlt => ?_⟩
    have hnot : portsFull h = false := by
      rw [← Bool.not_eq_true, portsFull_iff hlen]
      rintro ⟨g, hg, hle⟩
      have := hroom g hg
      omega
    refine (hs.drnx_goes h7 hnd hcmd hz hlen hnot hrow hlt).imp ?_
    rintro t ⟨hcells, hports, hrows, hgo, hret⟩
    refine ⟨hcells, fun j g hg => ?_, hrows, hgo, hret⟩
    rw [hports j g hg]
    unfold rowBeat
    refine congrArg (fun l => some (g.port 0 ++ [(l.drop (192 * j)).take 192])) (List.map_congr_left fun a _ => ?_)
    cases a <;> rfl

end Sys2Proof.Machine

/-! SUPPORT. RNE32 (07 R143, R147) rounds a value once, to nearest even. -/

namespace Sys2Proof.Machine

/-! ## Powers of two -/

theorem two_zpow_pos (k : Int) : (0 : Rat) < (2 : Rat) ^ k := zpow_pos (by norm_num) k

theorem two_zpow_add (a b : Int) : (2 : Rat) ^ (a + b) = (2 : Rat) ^ a * (2 : Rat) ^ b := zpow_add₀ (by norm_num) a b

theorem two_zpow_toNat {a b : Int} (h : a ≤ b) : (2 : Rat) ^ b = ((2 ^ (b - a).toNat : Nat) : Rat) * (2 : Rat) ^ a := by
  have hcast : ((2 ^ (b - a).toNat : Nat) : Rat) = (2 : Rat) ^ (b - a) := by
    rw [Nat.cast_pow, ← zpow_natCast, Int.toNat_of_nonneg (by omega)]
    norm_num
  rw [hcast, ← two_zpow_add, Int.sub_add_cancel]

/-- A number between two powers of two. -/
theorem log2_scale {m : Nat} (hm : m ≠ 0) (e : Int) :
    (2 : Rat) ^ ((Nat.log2 m : Int) + e) ≤ (m : Rat) * (2 : Rat) ^ e ∧ (m : Rat) * (2 : Rat) ^ e < (2 : Rat) ^ ((Nat.log2 m : Int) + e + 1) := by
  have hlo : (2 ^ Nat.log2 m : Nat) ≤ m := Nat.log2_self_le hm
  have hhi : m < 2 ^ (Nat.log2 m + 1) := Nat.lt_log2_self
  have hlo' : (2 : Rat) ^ (Nat.log2 m : Int) ≤ (m : Rat) := by rw [zpow_natCast]; exact_mod_cast hlo
  have hhi' : (m : Rat) < (2 : Rat) ^ ((Nat.log2 m : Int) + 1) := by
    rw [← Nat.cast_succ, zpow_natCast]; exact_mod_cast hhi
  have hpos := two_zpow_pos e
  rw [add_right_comm, two_zpow_add, two_zpow_add _ e]
  exact ⟨mul_le_mul_of_nonneg_right hlo' hpos.le, mul_lt_mul_of_pos_right hhi' hpos⟩

/-! ## Rounding to units -/

/-- A magnitude that is a whole number of units with a rest. -/
theorem Cut.toMultiple_of_rest {m n rem w : Nat} (hm : m = n * w + rem) (hrem : rem < w) (neg : Bool) {e q : Int} (hq : (2 : Rat) ^ q = (w : Rat) * (2 : Rat) ^ e) :
    (Cut.of ((m : Rat) * (2 : Rat) ^ e)).toMultiple ((2 : Rat) ^ q) neg 0 0 n (if w < 2 * rem ∨ (2 * rem = w ∧ n % 2 = 1) then n + 1 else n) := by
  have hpos := two_zpow_pos e
  have hle : ∀ a : Rat, a * (2 : Rat) ^ q ≤ (m : Rat) * (2 : Rat) ^ e ↔ a * w ≤ m := fun a => by
    rw [hq, ← mul_assoc]; exact mul_le_mul_iff_left₀ hpos
  have hlt : ∀ a : Rat, a * (2 : Rat) ^ q < (m : Rat) * (2 : Rat) ^ e ↔ a * w < m := fun a => by
    rw [hq, ← mul_assoc]; exact mul_lt_mul_iff_left₀ hpos
  have hmq : (m : Rat) = n * w + rem := by exact_mod_cast hm
  have hfloor : (n : Rat) * w ≤ m := by rw [hmq]; simp
  have hceil : ¬((n : Rat) + 1) * w ≤ m := by
    have hremq : (rem : Rat) < w := by exact_mod_cast hrem
    rw [hmq]; intro h; linarith
  have hinexact : (n : Rat) * w < m ↔ 0 < rem := by
    rw [hmq, lt_add_iff_pos_right, Nat.cast_pos]
  have hup : ((n : Rat) + 1 / 2) * w < m ↔ w < 2 * rem := by
    rw [hmq, ← @Nat.cast_lt Rat]
    push_cast
    constructor <;> intro h <;> linarith
  have hdown : ((n : Rat) + 1 / 2) * w ≤ m ↔ w ≤ 2 * rem := by
    rw [hmq, ← @Nat.cast_le Rat]
    push_cast
    constructor <;> intro h <;> linarith
  unfold Cut.toMultiple Cut.of
  simp only [hle, hlt, hinexact, hup, hdown]
  refine ⟨hfloor, hceil, fun h => if_neg (by omega), fun _ => ⟨fun _ => ⟨fun h => if_pos (.inl h), fun h => if_neg (by omega), fun h1 h2 => ?_⟩,
    by simp, by simp, by simp, by simp⟩⟩
  split <;> omega

/-- A magnitude far below half a unit. -/
theorem Cut.toMultiple_of_far {r u : Rat} (hr : 0 < r) (hu : r < u / 2) (neg : Bool) : (Cut.of r).toMultiple u neg 0 0 0 0 := by
  unfold Cut.toMultiple Cut.of
  simp only [Nat.cast_zero, zero_mul, zero_add, one_mul]
  refine ⟨hr.le, by linarith, fun _ => trivial, fun _ => ⟨fun _ => ⟨fun h => ?_, fun _ => trivial, fun h => ?_⟩, by simp, by simp, by simp, by simp⟩⟩ <;> linarith

/-- The units of a magnitude, rounded to nearest even. -/
theorem roundUnits_spec {m : Nat} (hm : m ≠ 0) (neg : Bool) (e q : Int) :
    ∃ n, (Cut.of ((m : Rat) * (2 : Rat) ^ e)).toMultiple ((2 : Rat) ^ q) neg 0 0 n (roundUnits neg m e false q 0 0).1 := by
  unfold roundUnits
  split
  · next hqe =>
    refine ⟨m * 2 ^ (e - q).toNat, ?_⟩
    have hscale : (m : Rat) * (2 : Rat) ^ e = ((m * 2 ^ (e - q).toNat : Nat) : Rat) * (2 : Rat) ^ q := by
      rw [two_zpow_toNat hqe, Nat.cast_mul, mul_assoc]
    rw [hscale]
    simpa using Cut.toMultiple_of_rest (m := m * 2 ^ (e - q).toNat) (w := 1) (rem := 0) (by omega) (by omega) neg (e := q) (q := q) (by simp)
  · next hqe =>
    have hw := two_zpow_toNat (show e ≤ q by omega)
    by_cases hfar : Nat.log2 m + 40 < (q - e).toNat
    · refine ⟨0, ?_⟩
      have hpos : (0 : Rat) < (m : Rat) * (2 : Rat) ^ e := mul_pos (by exact_mod_cast Nat.pos_of_ne_zero hm) (two_zpow_pos e)
      have hq : (2 : Rat) ^ q = (2 : Rat) ^ (q - 1) * 2 := by
        rw [← zpow_add_one₀ (by norm_num), sub_add_cancel]
      have hmono : (2 : Rat) ^ ((Nat.log2 m : Int) + e + 1) ≤ (2 : Rat) ^ (q - 1) := zpow_le_zpow_right₀ (by norm_num) (by omega)
      simpa [hfar] using Cut.toMultiple_of_far hpos (by rw [hq]; linarith [(log2_scale hm e).2]) neg
    · refine ⟨m / 2 ^ (q - e).toNat, ?_⟩
      simpa [hfar] using Cut.toMultiple_of_rest (Nat.div_add_mod' m _).symm (Nat.mod_lt _ (Nat.two_pow_pos _)) neg hw

/-! ## Encodings of FP32 -/

/-- The number of an encoding by its sign, exponent field and fraction field (07 R138). -/
theorem num_signed {neg : Bool} {e m : Nat} (he : e < 256) (hm : m < 2 ^ 23) : fFP32.num (fFP32.signed neg (e * 2 ^ 23 + m)) =
    if e = 255 then (if m = 0 then .inf neg else .nan neg)
    else .real neg (if e = 0 then (m : Rat) * (2 : Rat) ^ (-149 : Int) else ((2 ^ 23 + m : Nat) : Rat) * (2 : Rat) ^ ((e : Int) - 150)) := by
  have hs : decide (fFP32.signed neg (e * 2 ^ 23 + m) / 2 ^ (fFP32.eb + fFP32.m) % 2 = 1) = neg := by
    cases neg <;> simp [Fmt.signed, Fmt.signBit, fFP32] <;> omega
  have hef : fFP32.signed neg (e * 2 ^ 23 + m) / 2 ^ fFP32.m % 2 ^ fFP32.eb = e := by
    cases neg <;> simp [Fmt.signed, Fmt.signBit, fFP32] <;> omega
  have hmf : fFP32.signed neg (e * 2 ^ 23 + m) % 2 ^ fFP32.m = m := by
    cases neg <;> simp [Fmt.signed, Fmt.signBit, fFP32] <;> omega
  have hne : fFP32 ≠ fE4M3 := by decide
  have hsub : (m : Rat) / (2 : Rat) ^ fFP32.m * (2 : Rat) ^ (1 - (fFP32.bias : Int)) = (m : Rat) * (2 : Rat) ^ (-149 : Int) := by
    norm_num [fFP32, div_eq_mul_inv, mul_assoc]
  have hnorm : (1 + (m : Rat) / (2 : Rat) ^ fFP32.m) * (2 : Rat) ^ ((e : Int) - fFP32.bias) = ((2 ^ 23 + m : Nat) : Rat) * (2 : Rat) ^ ((e : Int) - 150) := by
    have hexp : (e : Int) - fFP32.bias = ((e : Int) - 150) + 23 := by simp [fFP32]; ring
    rw [hexp, two_zpow_add]
    simp only [fFP32]
    push_cast
    norm_num
    ring
  unfold Fmt.num
  dsimp only
  rw [hs, hef, hmf, hsub, hnorm]
  simp only [hne, false_and, if_false]
  exact if_congr (by simp [fFP32]) rfl rfl

theorem num_maxBits : fFP32.num fFP32.maxBits = .real false (((2 ^ 24 - 1 : Nat) : Rat) * (2 : Rat) ^ (104 : Int)) := by
  have h := num_signed (neg := false) (e := 254) (m := 2 ^ 23 - 1) (by omega) (by omega)
  simpa [Fmt.signed, Fmt.maxBits, fFP32] using h

theorem num_inf (neg : Bool) : fFP32.num (fFP32.signed neg fFP32.infBits) = .inf neg := by
  have h := num_signed (neg := neg) (e := 255) (m := 0) (by omega) (by omega)
  simpa [Fmt.infBits, fFP32] using h

theorem signed_lt {neg : Bool} {b : Nat} (h : b < 2 ^ 31) : fFP32.signed neg b < 2 ^ fFP32.width := by
  cases neg <;> simp [Fmt.signed, Fmt.signBit, Fmt.width, fFP32] <;> omega

/-! ## Rounding once -/

/-- Flags that stand for three conditions. -/
def flagsOf (nx uf ovf : Bool) : Flg := flIf nx flNX ||| flIf uf flUF ||| flIf ovf flOF

theorem flagsOf_bits (nx uf ovf : Bool) : (flagsOf nx uf ovf).getLsbD 0 = nx ∧ (flagsOf nx uf ovf).getLsbD 1 = uf ∧ (flagsOf nx uf ovf).getLsbD 2 = ovf ∧
    (flagsOf nx uf ovf).getLsbD 3 = false ∧ (flagsOf nx uf ovf).getLsbD 4 = false := by
  revert nx uf ovf
  decide

/-- A value rounded to units of the format, with the bits that stand for it, is rounded as 07 R143 says. -/
theorem rounds_of {neg : Bool} {v : Cut} {e : Int} {n y bits : Nat} {u : Int} (hu : u = max e fFP32.emin - (fFP32.m : Int)) (hscale : v.scale e)
    (hmul : v.toMultiple ((2 : Rat) ^ u) neg 0 0 n y) (hbits : bits < 2 ^ fFP32.width)
    (hin : (y : Rat) * (2 : Rat) ^ u ≤ ((2 ^ 24 - 1 : Nat) : Rat) * (2 : Rat) ^ (104 : Int) →
      fFP32.num bits = .real neg ((y : Rat) * (2 : Rat) ^ u))
    (hpast : ((2 ^ 24 - 1 : Nat) : Rat) * (2 : Rat) ^ (104 : Int) < (y : Rat) * (2 : Rat) ^ u → fFP32.num bits = .inf neg) :
    ∃ fl, Rounds fFP32 neg v 0 0 false false bits fl := by
  classical
  have hinf : fFP32.hasInf = true := rfl
  obtain ⟨q, hq⟩ : ∃ q, (2 : Rat) ^ u = q := ⟨_, rfl⟩
  rw [hq] at hmul hin hpast
  obtain ⟨mx, hmx⟩ : ∃ mx, ((2 ^ 24 - 1 : Nat) : Rat) * (2 : Rat) ^ (104 : Int) = mx := ⟨_, rfl⟩
  rw [hmx] at hin hpast
  obtain ⟨h0, h1, h2, h3, h4⟩ := flagsOf_bits (decide (v.lt ((n : Rat) * q) ∨ mx < (y : Rat) * q)) (decide (v.lt ((n : Rat) * q) ∧ ¬v.le ((2 : Rat) ^ fFP32.emin)))
    (decide (mx < (y : Rat) * q))
  refine ⟨flagsOf (decide (v.lt ((n : Rat) * q) ∨ mx < (y : Rat) * q)) (decide (v.lt ((n : Rat) * q) ∧ ¬v.le ((2 : Rat) ^ fFP32.emin))) (decide (mx < (y : Rat) * q)),
    e, n, y, q, mx, v.lt ((n : Rat) * q), mx < (y : Rat) * q, False, hscale, by rw [← hq, hu], hmul, num_maxBits.trans (by rw [hmx]), rfl, rfl, by simp, hbits,
    by rw [h0]; simp, by rw [h1]; simp, by rw [h2]; simp, h3, h4, fun h => h.elim, fun h _ => hin (not_lt.1 h), fun h => ⟨fun h' => ?_, fun _ _ => ?_⟩⟩
  · rcases h' with h' | h'
    · exact absurd h' (by simp [hinf])
    · exact absurd h'.2 (by simp)
  · rw [hpast h]; simp

/-- Rounding to nearest even gives the multiple below or the one above. -/
theorem Cut.toMultiple_near {v : Cut} {q : Rat} {neg : Bool} {n y : Nat} (h : v.toMultiple q neg 0 0 n y) : n ≤ y ∧ y ≤ n + 1 := by
  obtain ⟨-, -, hexact, hinexact⟩ := h
  by_cases hlt : v.lt ((n : Rat) * q)
  · obtain ⟨hnear, -⟩ := hinexact hlt
    obtain ⟨hup, hdown, htie⟩ := hnear rfl
    by_cases h1 : v.lt (((n : Rat) + 1 / 2) * q)
    · rw [hup h1]; omega
    · by_cases h2 : v.le (((n : Rat) + 1 / 2) * q)
      · rw [htie h2 h1]; omega
      · rw [hdown h2]; omega
  · rw [hexact hlt]; omega

/-- The units of a value at the scale of the format: as many as its fraction holds. -/
structure UnitsFit (ex q : Int) (y : Nat) : Prop where
  most : y ≤ 2 ^ 24
  normal : -126 ≤ ex → 2 ^ 23 ≤ y ∧ q = ex - 23
  subnormal : ex < -126 → y ≤ 2 ^ 23 ∧ q = -149

theorem lt_of_mul_zpow_lt {n k : Nat} {q : Int} (h : (n : Rat) * (2 : Rat) ^ q < (2 : Rat) ^ (q + k)) : n < 2 ^ k := by
  rw [add_comm, two_zpow_add, zpow_natCast] at h
  exact_mod_cast lt_of_mul_lt_mul_right h (two_zpow_pos q).le

theorem unitsFit_of {m : Nat} (hm : m ≠ 0) {neg : Bool} {e q : Int} {n y : Nat} (hq : q = max ((Nat.log2 m : Int) + e) (-126) - 23)
    (h : (Cut.of ((m : Rat) * (2 : Rat) ^ e)).toMultiple ((2 : Rat) ^ q) neg 0 0 n y) : UnitsFit ((Nat.log2 m : Int) + e) q y := by
  obtain ⟨hlo, hhi⟩ := log2_scale hm e
  obtain ⟨hn, hy⟩ := Cut.toMultiple_near h
  obtain ⟨hle, hgt, -⟩ := h
  have hle : (n : Rat) * (2 : Rat) ^ q ≤ (m : Rat) * (2 : Rat) ^ e := hle
  have hgt : (m : Rat) * (2 : Rat) ^ e < ((n : Rat) + 1) * (2 : Rat) ^ q := not_le.1 hgt
  have hmono : ∀ {a b : Int}, a ≤ b → (2 : Rat) ^ a ≤ (2 : Rat) ^ b := fun h => zpow_le_zpow_right₀ (by norm_num) h
  have hmost : n < 2 ^ 24 := lt_of_mul_zpow_lt (q := q) (hle.trans_lt (hhi.trans_le (hmono (by push_cast; omega))))
  refine ⟨by omega, fun hex => ⟨?_, by omega⟩, fun hex => ⟨?_, by omega⟩⟩
  · have hpow : (2 : Rat) ^ (23 : Nat) * (2 : Rat) ^ q < ((n + 1 : Nat) : Rat) * (2 : Rat) ^ q := by
      push_cast
      refine lt_of_le_of_lt ?_ hgt
      refine le_trans ?_ hlo
      rw [← zpow_natCast, ← two_zpow_add]
      exact hmono (by push_cast; omega)
    have hlt := lt_of_mul_lt_mul_right hpow (two_zpow_pos q).le
    have hnat : 2 ^ 23 < n + 1 := by exact_mod_cast hlt
    omega
  · have hsmall : n < 2 ^ 23 := lt_of_mul_zpow_lt (q := q) (hle.trans_lt (hhi.trans_le (hmono (by push_cast; omega))))
    omega

/-- The bits of a rounded value: the unit count stands in exponent and fraction, or the value is past the largest number. -/
theorem round32_bits {m : Nat} {neg : Bool} {e q : Int} {y : Nat} (hq : q = max ((Nat.log2 m : Int) + e) (-126) - 23) (hy : y = (roundUnits neg m e false q 0 0).1) :
    (fFP32.round neg m e false 0 0 false false).bits = if 104 < q ∨ q = 104 ∧ 2 ^ 24 - 1 < y then fFP32.signed neg fFP32.infBits
      else if y < 2 ^ 23 then fFP32.signed neg y else fFP32.signed neg ((q + 150).toNat * 2 ^ 23 + (y - 2 ^ 23)) := by
  have hq' : max ((Nat.log2 m : Int) + e) fFP32.emin - (fFP32.m : Int) = q := by rw [hq]; rfl
  have hmax : (fFP32.maxE : Int) - fFP32.bias - fFP32.m = 104 := by simp [fFP32]
  have hsum : q + (fFP32.m : Int) + fFP32.bias = q + 150 := by
    have h23 : (fFP32.m : Int) = 23 := rfl
    have h127 : (fFP32.bias : Int) = 127 := rfl
    rw [h23, h127]
    ring
  have hlast : 2 ^ fFP32.m + fFP32.maxM = 2 ^ 24 - 1 := by simp [fFP32]
  have hbig : (decide (104 < q) || (q == 104 && decide (2 ^ fFP32.m + fFP32.maxM < y))) = true ↔ 104 < q ∨ q = 104 ∧ 2 ^ 24 - 1 < y := by
    rw [hlast]
    simp only [Bool.or_eq_true, Bool.and_eq_true, decide_eq_true_eq, beq_iff_eq]
  unfold Fmt.round
  dsimp only
  rw [hq', hmax, hsum, ← hy]
  by_cases h : 104 < q ∨ q = 104 ∧ 2 ^ 24 - 1 < y
  · rw [if_pos h, if_pos (hbig.2 h)]
    simp [fFP32]
  · rw [if_neg h, if_neg (fun hb => h (hbig.1 hb))]
    split
    · next hs => rw [if_pos (show y < 2 ^ 23 from hs)]; simp
    · next hs => rw [if_neg (show ¬y < 2 ^ 23 from hs)]; rfl

/-- The count of units is past the largest number when its exponent is, or at the last exponent its fraction. -/
theorem past_iff {ex q : Int} {y : Nat} (h : UnitsFit ex q y) :
    104 < q ∨ q = 104 ∧ 2 ^ 24 - 1 < y ↔ ((2 ^ 24 - 1 : Nat) : Rat) * (2 : Rat) ^ (104 : Int) < (y : Rat) * (2 : Rat) ^ q := by
  obtain ⟨hmost, hnormal, hsub⟩ := h
  have hpos := two_zpow_pos 104
  have hmono : ∀ {a b : Int}, a ≤ b → (2 : Rat) ^ a ≤ (2 : Rat) ^ b := fun h => zpow_le_zpow_right₀ (by norm_num) h
  rcases lt_trichotomy q 104 with hlt | heq | hgt
  · refine iff_of_false (by omega) (not_lt.2 ?_)
    have hhalf : (2 : Rat) ^ (103 : Int) * 2 = (2 : Rat) ^ (104 : Int) := by rw [← zpow_add_one₀ (by norm_num)]; norm_num
    calc (y : Rat) * (2 : Rat) ^ q ≤ ((2 ^ 24 : Nat) : Rat) * (2 : Rat) ^ (103 : Int) :=
          mul_le_mul (by exact_mod_cast hmost) (hmono (by omega)) (two_zpow_pos q).le (by positivity)
      _ = (2 ^ 23 : Rat) * (2 : Rat) ^ (104 : Int) := by rw [← hhalf]; push_cast; ring
      _ ≤ _ := mul_le_mul_of_nonneg_right (by norm_num) hpos.le
  · subst heq
    rw [mul_lt_mul_iff_left₀ hpos, Nat.cast_lt]
    omega
  · refine iff_of_true (.inl hgt) ?_
    have hdouble : (2 : Rat) ^ (105 : Int) = (2 : Rat) ^ (104 : Int) * 2 := by rw [← zpow_add_one₀ (by norm_num)]; norm_num
    have hy : 2 ^ 23 ≤ y := (hnormal (by by_contra hc; have := (hsub (by omega)).2; omega)).1
    calc ((2 ^ 24 - 1 : Nat) : Rat) * (2 : Rat) ^ (104 : Int) < (2 ^ 24 : Rat) * (2 : Rat) ^ (104 : Int) := mul_lt_mul_of_pos_right (by norm_num) hpos
      _ = ((2 ^ 23 : Nat) : Rat) * (2 : Rat) ^ (105 : Int) := by rw [hdouble]; push_cast; ring
      _ ≤ _ := mul_le_mul (by exact_mod_cast hy) (hmono (by omega)) (two_zpow_pos _).le (by positivity)

/-- Bits that hold a count of units are those of its value. -/
theorem num_units {ex q : Int} {y : Nat} (h : UnitsFit ex q y) (hin : ¬(104 < q ∨ q = 104 ∧ 2 ^ 24 - 1 < y)) (neg : Bool) :
    fFP32.num (if y < 2 ^ 23 then fFP32.signed neg y else fFP32.signed neg ((q + 150).toNat * 2 ^ 23 + (y - 2 ^ 23))) = .real neg ((y : Rat) * (2 : Rat) ^ q) := by
  obtain ⟨hmost, hnormal, hsub⟩ := h
  have hq : -149 ≤ q := by
    by_cases hex : -126 ≤ ex
    · have := (hnormal hex).2; omega
    · have := (hsub (by omega)).2; omega
  split
  · next hy =>
    have hq0 : q = -149 := (hsub (by by_contra hc; have := (hnormal (by omega)).1; omega)).2
    have hnum := num_signed (neg := neg) (e := 0) (m := y) (by omega) hy
    rw [Nat.zero_mul, Nat.zero_add] at hnum
    rw [hnum, hq0]
    simp
  · next hy =>
    by_cases htop : y = 2 ^ 24
    · have hnum := num_signed (neg := neg) (e := (q + 150).toNat + 1) (m := 0) (by omega) (by omega)
      have hbits : (q + 150).toNat * 2 ^ 23 + (y - 2 ^ 23) = ((q + 150).toNat + 1) * 2 ^ 23 + 0 := by omega
      have hexp : (((q + 150).toNat + 1 : Nat) : Int) - 150 = q + 1 := by omega
      have hval : ((2 ^ 23 + 0 : Nat) : Rat) * (2 : Rat) ^ (q + 1) = ((2 ^ 24 : Nat) : Rat) * (2 : Rat) ^ q := by
        rw [zpow_add_one₀ (by norm_num)]
        push_cast
        ring
      rw [hbits, hnum, if_neg (by omega), if_neg (by omega), hexp, htop, hval]
    · have hnum := num_signed (neg := neg) (e := (q + 150).toNat) (m := y - 2 ^ 23) (by omega) (by omega)
      have hexp : ((q + 150).toNat : Int) - 150 = q := by omega
      rw [hnum, if_neg (by omega), if_neg (by omega), hexp, Nat.add_sub_cancel' (by omega)]

/-- A value other than 0 is rounded once, to nearest even. -/
theorem round32_rounds {m : Nat} (hm : m ≠ 0) (neg : Bool) (e : Int) :
    (fFP32.round neg m e false 0 0 false false).bits < 2 ^ fFP32.width ∧
    ∃ fl, Rounds fFP32 neg (Cut.of ((m : Rat) * (2 : Rat) ^ e)) 0 0 false false (fFP32.round neg m e false 0 0 false false).bits fl := by
  obtain ⟨q, hq⟩ : ∃ q, q = max ((Nat.log2 m : Int) + e) (-126) - 23 := ⟨_, rfl⟩
  obtain ⟨n, hmul⟩ := roundUnits_spec hm neg e q
  obtain ⟨y, hy⟩ : ∃ y, y = (roundUnits neg m e false q 0 0).1 := ⟨_, rfl⟩
  rw [← hy] at hmul
  have hfit := unitsFit_of hm hq hmul
  have hbits := round32_bits hq hy
  have hqf : q = max ((Nat.log2 m : Int) + e) fFP32.emin - (fFP32.m : Int) := hq
  obtain ⟨hlo, hhi⟩ := log2_scale hm e
  have hscale : (Cut.of ((m : Rat) * (2 : Rat) ^ e)).scale ((Nat.log2 m : Int) + e) := ⟨hlo, not_le.2 hhi⟩
  have hwidth : (fFP32.round neg m e false 0 0 false false).bits < 2 ^ fFP32.width := by
    obtain ⟨hmost, -, -⟩ := hfit
    rw [hbits]
    split
    · exact signed_lt (by simp [Fmt.infBits, fFP32])
    · next hin =>
      split
      · exact signed_lt (by omega)
      · exact signed_lt (by omega)
  refine ⟨hwidth, rounds_of hqf hscale hmul hwidth (fun hle => ?_) fun hlt => ?_⟩
  · have hin := mt (past_iff hfit).1 (not_lt.2 hle)
    rw [hbits, if_neg hin, num_units hfit hin]
  · rw [hbits, if_pos ((past_iff hfit).2 hlt), num_inf]

end Sys2Proof.Machine

/-! SUPPORT. One step of a column of float mode: an exact sum, rounded once (08 R168). -/

namespace Sys2Proof.Machine

/-! ## Values of encodings -/

theorem read32_num (b : Nat) : (fFP32.read false b).num = fFP32.num b := by
  have hdecode : fFP32.read false b = fFP32.decode b := by
    unfold Fmt.read
    split
    · next h => rw [h]; rfl
    · rfl
  have hne : fFP32 ≠ fE4M3 := by decide
  have hnan : (fFP32.nan == some 0x7F) = false := by decide
  have hinf : fFP32.hasInf = true := rfl
  have hsub : (2 : Rat) ^ (fFP32.emin - (fFP32.m : Int)) = ((2 : Rat) ^ fFP32.m)⁻¹ * (2 : Rat) ^ (1 - (fFP32.bias : Int)) := by
    norm_num [fFP32, Fmt.emin]
  have hnorm : ∀ e : Int, (2 : Rat) ^ (e - fFP32.bias - fFP32.m) = ((2 : Rat) ^ fFP32.m)⁻¹ * (2 : Rat) ^ (e - fFP32.bias) := fun e => by
    rw [sub_eq_add_neg (e - (fFP32.bias : Int)), two_zpow_add, zpow_neg, zpow_natCast, mul_comm]
  have hpow : (2 : Rat) ^ fFP32.m ≠ 0 := by positivity
  have hsign : ∀ n, Fmt.decode.bitOf' b n = decide (b / 2 ^ n % 2 = 1) := fun n => rfl
  rw [hdecode]
  unfold Fmt.decode Fmt.num
  simp only [hne, hnan, hinf, hsign, false_and, Bool.false_and, Bool.true_and, true_and, Bool.false_eq_true, if_false, beq_iff_eq]
  split
  · split <;> rfl
  · split
    · simp only [Ext.num, hsub, div_eq_mul_inv, mul_assoc]
    · simp only [Ext.num, hnorm]
      congr 1
      push_cast
      field_simp

/-! ## RNE32 of an exact value -/

theorem rne32_toNat {x : Ext} {b : Nat} (h : (fFP32.put x 0 0 false false).bits = b) (hb : b < 2 ^ 32) : (rne32 x).toNat = b := by
  rw [rne32, h, BitVec.toNat_ofNat, Nat.mod_eq_of_lt hb]

theorem rne32_zero (n : Bool) : fFP32.num (rne32 (.zero n)).toNat = .real n 0 := by
  have hnum := num_signed (neg := n) (e := 0) (m := 0) (by omega) (by omega)
  have hbits : (fFP32.put (.zero n) 0 0 false false).bits = fFP32.signed n 0 := rfl
  rw [rne32_toNat hbits (by cases n <;> simp [Fmt.signed, Fmt.signBit, fFP32])]
  simpa using hnum

theorem rne32_inf (n : Bool) : fFP32.num (rne32 (.inf n)).toNat = .inf n := by
  have hbits : (fFP32.put (.inf n) 0 0 false false).bits = fFP32.signed n fFP32.infBits := rfl
  rw [rne32_toNat hbits (by cases n <;> simp [Fmt.signed, Fmt.signBit, Fmt.infBits, fFP32]), num_inf]

theorem rne32_nan : rne32 (.nan false) = 0x7FC00000 := by decide

theorem rne32_rounds {m : Nat} (hm : m ≠ 0) (n : Bool) (e : Int) :
    ∃ fl, Rounds fFP32 n (Cut.of ((m : Rat) * (2 : Rat) ^ e)) 0 0 false false (rne32 (.fin n m e false)).toNat fl := by
  obtain ⟨hlt, hr⟩ := round32_rounds hm n e
  have hbits : (fFP32.put (.fin n m e false) 0 0 false false).bits = (fFP32.round n m e false 0 0 false false).bits := by
    simp only [Fmt.put, if_neg hm]
  rwa [rne32_toNat hbits hlt]

/-! ## A step -/

theorem finUnits_val (n : Bool) (m : Nat) {e k : Int} (h : k ≤ e) : ((finUnits n m e k : Int) : Rat) * (2 : Rat) ^ k = (ExtNum.real n ((m : Rat) * (2 : Rat) ^ e)).val := by
  have hmag : (((m * 2 ^ (e - k).toNat : Nat) : Int) : Rat) * (2 : Rat) ^ k = (m : Rat) * (2 : Rat) ^ e := by
    rw [two_zpow_toNat h]
    push_cast
    ring
  unfold finUnits ExtNum.val
  cases n
  · simpa using hmag
  · dsimp only
    rw [if_pos rfl, if_pos rfl, ← hmag]
    push_cast
    ring

/-- What a step leaves of a sum that is `x`. -/
def StepGives (x : ExtNum) (z : Lane) : Prop :=
  match x with
  | .real n v => (v = 0 → fFP32.num z.toNat = .real n 0) ∧ (v ≠ 0 → ∃ fl, Rounds fFP32 n (Cut.of v) 0 0 false false z.toNat fl)
  | .inf n => fFP32.num z.toNat = .inf n
  | .nan _ => z = 0x7FC0_0000

theorem colStep_iff (x : Lane) (y : ExtNum) (z : Lane) : ColStep x y z ↔ StepGives ((ExtNum.sum 0 [fFP32.num x.toNat, y]).getD (.nan false)) z := by
  unfold ColStep StepGives
  cases ExtNum.sum 0 [fFP32.num x.toNat, y] with
  | none => rfl
  | some a => cases a <;> rfl

/-- The exact sum of two numbers, rounded once. -/
theorem addFin_gives (n₁ : Bool) (m₁ : Nat) (e₁ : Int) (n₂ : Bool) (m₂ : Nat) (e₂ : Int) :
    StepGives ((ExtNum.sum 0 [.real n₁ ((m₁ : Rat) * (2 : Rat) ^ e₁), .real n₂ ((m₂ : Rat) * (2 : Rat) ^ e₂)]).getD (.nan false))
      (rne32 (addFin 0 n₁ m₁ e₁ n₂ m₂ e₂)) := by
  obtain ⟨k, hk⟩ : ∃ k, k = min e₁ e₂ := ⟨_, rfl⟩
  obtain ⟨t, ht⟩ : ∃ t, t = finUnits n₁ m₁ e₁ k + finUnits n₂ m₂ e₂ k := ⟨_, rfl⟩
  obtain ⟨a, ha⟩ : ∃ a, a = ExtNum.real n₁ ((m₁ : Rat) * (2 : Rat) ^ e₁) := ⟨_, rfl⟩
  obtain ⟨b, hb⟩ : ∃ b, b = ExtNum.real n₂ ((m₂ : Rat) * (2 : Rat) ^ e₂) := ⟨_, rfl⟩
  have htotal : a.val + b.val = (t : Rat) * (2 : Rat) ^ k := by
    rw [ha, hb, ← finUnits_val n₁ m₁ (show k ≤ e₁ by omega), ← finUnits_val n₂ m₂ (show k ≤ e₂ by omega), ht]
    push_cast
    ring
  have hsum : ExtNum.sum 0 [a, b] = some (ExtNum.ofRat (if a.val = 0 ∧ b.val = 0 then a.neg && b.neg else false) ((t : Rat) * (2 : Rat) ^ k)) := by
    rw [← htotal]
    unfold ExtNum.sum
    subst ha hb
    simp [ExtNum.isNan]
  have hpos := two_zpow_pos k
  have hzero : ∀ n (m : Nat) (e : Int), (ExtNum.real n ((m : Rat) * (2 : Rat) ^ e)).val = 0 ↔ m = 0 := fun n m e => by
    have hne := (two_zpow_pos e).ne'
    cases n <;> simp [ExtNum.val, hne]
  have hadd : addFin 0 n₁ m₁ e₁ n₂ m₂ e₂ = if t = 0 then (if m₁ = 0 ∧ m₂ = 0 then .zero (n₁ && n₂) else .zero false) else .fin (decide (t < 0)) t.natAbs k false := by
    unfold addFin
    dsimp only
    rw [← hk, ← ht]
    simp
  rw [← ha, ← hb, hsum, Option.getD_some, hadd]
  by_cases h0 : t = 0
  · have hsign : (if a.val = 0 ∧ b.val = 0 then a.neg && b.neg else false) = if m₁ = 0 ∧ m₂ = 0 then n₁ && n₂ else false := by
      rw [ha, hb]
      exact if_congr (and_congr (hzero ..) (hzero ..)) rfl rfl
    rw [hsign, if_pos h0, h0, Int.cast_zero, zero_mul, ExtNum.ofRat, if_pos rfl, ← apply_ite Ext.zero]
    exact ⟨fun _ => rne32_zero _, fun h => absurd rfl h⟩
  · have habs : (t.natAbs : Rat) = |(t : Rat)| := by rw [Nat.cast_natAbs, Int.cast_abs]
    have htq : (t : Rat) ≠ 0 := by exact_mod_cast h0
    have hr : (t : Rat) * (2 : Rat) ^ k ≠ 0 := mul_ne_zero htq hpos.ne'
    obtain ⟨fl, hfl⟩ := rne32_rounds (m := t.natAbs) (by omega) (decide (t < 0)) k
    rw [if_neg h0, ExtNum.ofRat, if_neg hr]
    by_cases hneg : t < 0
    · have hnegq : (t : Rat) < 0 := by exact_mod_cast hneg
      rw [habs, abs_of_neg hnegq, neg_mul] at hfl
      rw [if_pos (mul_neg_of_neg_of_pos hnegq hpos)]
      rw [decide_eq_true hneg] at hfl ⊢
      exact ⟨fun h => absurd (neg_eq_zero.1 h) hr, fun _ => ⟨fl, hfl⟩⟩
    · have hposq : (0 : Rat) < t := by exact_mod_cast (show 0 < t by omega)
      rw [habs, abs_of_pos hposq] at hfl
      rw [if_neg (mul_pos hposq hpos).le.not_gt]
      rw [decide_eq_false hneg] at hfl ⊢
      exact ⟨fun h => absurd h hr, fun _ => ⟨fl, hfl⟩⟩

/-- A value that the column adds: exact, or no number. -/
theorem colStep_gives (x : Lane) (y : Ext) : ColStep x y.num (colStep x y) := by
  rw [colStep_iff, ← read32_num]
  unfold colStep
  generalize fFP32.read false x.toNat = a
  have hnan : rne32 (.nan false) = 0x7FC00000 := rne32_nan
  cases a with
  | nan n => cases y <;> exact hnan
  | inf n =>
    cases y with
    | nan n' => exact hnan
    | fin n' m e r => cases n <;> exact rne32_inf _
    | inf n' =>
      cases n <;> cases n'
      case false.false | true.true => exact rne32_inf _
      case false.true | true.false => exact hnan
  | fin n m e r =>
    cases y with
    | nan n' => exact hnan
    | inf n' => cases n' <;> exact rne32_inf _
    | fin n' m' e' r' =>
      have hfin : ((addExt 0 (.fin n m e r) (.fin n' m' e' r')).getD (.nan false) |> fun x => if x.isNan then .nan false else x) = addFin 0 n m e n' m' e' := by
        have hnum : (addFin 0 n m e n' m' e').isNan = false := by
          unfold addFin
          dsimp only
          split
          · split <;> rfl
          · rfl
        simp [addExt, hnum]
      dsimp only at hfin ⊢
      rw [hfin]
      exact addFin_gives n m e n' m' e'

/-- The group product that a column adds, in units of its exponents. -/
theorem ofInt_scale_num (g : Int) (k : Int) : (if g = 0 then (.zero false : Ext) else (Ext.ofInt g).scale k).num = ExtNum.ofRat false ((g : Rat) * (2 : Rat) ^ k) := by
  have hpos := two_zpow_pos k
  by_cases h0 : g = 0
  · subst h0
    simp [Ext.num, Ext.zero, ExtNum.ofRat]
  · have hgq : (g : Rat) ≠ 0 := by exact_mod_cast h0
    have habs : (g.natAbs : Rat) = |(g : Rat)| := by rw [Nat.cast_natAbs, Int.cast_abs]
    rw [if_neg h0, ExtNum.ofRat, if_neg (mul_ne_zero hgq hpos.ne')]
    simp only [Ext.ofInt, Ext.scale, Ext.num, zero_add, habs]
    by_cases hneg : g < 0
    · have hnegq : (g : Rat) < 0 := by exact_mod_cast hneg
      rw [if_pos (mul_neg_of_neg_of_pos hnegq hpos), abs_of_neg hnegq, neg_mul, decide_eq_true hneg]
    · have hposq : (0 : Rat) < g := by exact_mod_cast (show 0 < g by omega)
      rw [if_neg (mul_pos hposq hpos).le.not_gt, abs_of_pos hposq, decide_eq_false hneg]

end Sys2Proof.Machine

/-! SUPPORT. The group products of a run (08 R160 to R166): what an A group and a B group give, in terms of their planes. -/

namespace Sys2Proof.Machine

/-! ## Sums -/

theorem foldl_range_add {α : Type} [AddCommMonoid α] (f : Nat → α) (n : Nat) : (List.range n).foldl (fun acc j => acc + f j) 0 = ∑ j ∈ Finset.range n, f j := by
  induction n with
  | zero => rfl
  | succ n ih => rw [List.range_succ, List.foldl_append, ih, Finset.sum_range_succ]; rfl

theorem sumInt_eq (n : Nat) (f : Nat → Int) : sumInt n f = ∑ j ∈ Finset.range n, f j := by
  rw [sumInt, List.foldl_map, foldl_range_add]

/-- The elements that a mask keeps, in ascending order with their ranks. -/
theorem sum_filter_rank (p : Nat → Bool) (F : Nat → Nat → Int) (n : Nat) :
    ∑ j ∈ Finset.range ((List.range n).filter p).length, F (((List.range n).filter p).getD j 0) j =
      ∑ i ∈ Finset.range n, if p i = true then F i ((List.range i).filter p).length else 0 := by
  induction n with
  | zero => rfl
  | succ n ih =>
    rw [Finset.sum_range_succ, ← ih, List.range_succ, List.filter_append]
    cases hp : p n
    case false => simp [hp]
    case true =>
      have hone : [n].filter p = [n] := by simp [hp]
      rw [hone, List.length_append, List.length_singleton, Finset.sum_range_succ, if_pos rfl]
      congr 1
      · refine Finset.sum_congr rfl fun j hj => ?_
        rw [List.getD_append _ _ _ _ (Finset.mem_range.1 hj)]
      · rw [List.getD_append_right _ _ _ _ (Nat.le_refl _), Nat.sub_self]; rfl

/-! ## Planes -/

/-- The number whose bit `k` is plane `k`. -/
def planesNat (p : Nat) (bit : Nat → Bool) : Nat := ∑ k ∈ Finset.range p, if bit k then 2 ^ k else 0

theorem planesNat_succ (p : Nat) (bit : Nat → Bool) : planesNat (p + 1) bit = planesNat p bit + if bit p then 2 ^ p else 0 := Finset.sum_range_succ _ _

theorem planesNat_lt (p : Nat) (bit : Nat → Bool) : planesNat p bit < 2 ^ p := by
  induction p with
  | zero => simp [planesNat]
  | succ p ih =>
    rw [planesNat_succ, Nat.pow_succ]
    split <;> omega

theorem planesInt_succ (p : Nat) (bit : Nat → Bool) : planesInt (p + 1) bit = planesNat p bit - if bit p then 2 ^ p else 0 := by
  rw [planesInt, Nat.add_sub_cancel, List.foldl_map, foldl_range_add, planesNat]
  push_cast
  rfl

/-- Planes in two's complement (07 R153). -/
theorem value_planesNat (p : Nat) (bit : Nat → Bool) : (⟨p + 1, true⟩ : IFmt).value (planesNat (p + 1) bit) = planesInt (p + 1) bit := by
  have hlt := planesNat_lt (p + 1) bit
  have hlow := planesNat_lt p bit
  rw [planesInt_succ]
  unfold IFmt.value
  simp only [Nat.mod_eq_of_lt hlt, Nat.add_sub_cancel, Bool.true_and, decide_eq_true_eq]
  rw [planesNat_succ]
  cases hb : bit p
  case false => simp [hlow]
  case true =>
    simp only [if_true]
    rw [if_pos (by omega)]
    push_cast
    ring

/-- The same planes, the plane of the sign first. -/
theorem planesNat_reflect (p : Nat) (bit : Nat → Bool) : ∑ j ∈ Finset.range p, (if bit (p - 1 - j) then 2 ^ (p - 1 - j) else 0) = planesNat p bit :=
  Finset.sum_range_reflect (fun k => if bit k then 2 ^ k else 0) p

/-! ## Lanes of B -/

/-- Plane `k` of lane `l` of column `x` of a line (08 R165). -/
def lanePlane (bw sp : Nat) (line : List Byte) (x l k : Nat) : Bool :=
  (line.getD (2 ^ sp * panelWidth bw + (if sp = 0 then 0 else 192 * 2 ^ sp) + (4 * 2 ^ bw - 1 - k) * panelWidth bw + x) 0).getLsbD l

/-- What a pass takes of a B value: of a 16-bit B its high byte, then its low byte (08 R162). -/
def passValue (bw pass : Nat) (b : Int) : Int := if bw = 2 then (if pass = 0 then b / 256 * 256 else b % 256) else b

theorem passValue_zero (bw pass : Nat) : passValue bw pass 0 = 0 := by
  unfold passValue
  split
  · split <;> rfl
  · rfl

theorem laneVal_eq {bw : Nat} (hbw : bw < 3) (sp pass : Nat) (line : List Byte) (x l : Nat) :
    laneVal bw sp pass line x l = passValue bw pass (planesInt (4 * 2 ^ bw) (lanePlane bw sp line x l)) := by
  obtain ⟨p, hp⟩ : ∃ p, 4 * 2 ^ bw = p + 1 := ⟨4 * 2 ^ bw - 1, by have := Nat.two_pow_pos bw; omega⟩
  have hbits : (List.range (bBits bw)).foldl (fun acc j => acc + (if (line.getD (maskLo bw sp + (if sp = 0 then 0 else 192 * gprOf sp) + j * panelCols bw + x) 0).getLsbD l
      then 2 ^ (bBits bw - 1 - j) else 0)) 0 = planesNat (4 * 2 ^ bw) (lanePlane bw sp line x l) := by
    rw [foldl_range_add, ← planesNat_reflect]
    refine Finset.sum_congr rfl fun j hj => ?_
    have hj : j < 4 * 2 ^ bw := Finset.mem_range.1 hj
    have hback : 4 * 2 ^ bw - 1 - (4 * 2 ^ bw - 1 - j) = j := by omega
    unfold lanePlane
    rw [hback]
    rfl
  have hvalue := value_planesNat p (lanePlane bw sp line x l)
  rw [← hp] at hvalue
  unfold laneVal passValue
  dsimp only
  rw [hbits]
  by_cases h2 : bw = 2
  · subst h2
    rw [if_pos rfl, if_pos rfl, ← hvalue]
    have hlt : planesNat 16 (lanePlane 2 sp line x l) < 65536 := planesNat_lt 16 _
    generalize planesNat 16 (lanePlane 2 sp line x l) = n at *
    simp only [IFmt.value]
    norm_num
    split_ifs <;> omega
  · rw [if_neg h2, if_neg h2]
    exact hvalue

/-! ## Groups -/

/-- The sum of a group: what the kept elements of B give with the elements of A. -/
theorem groupSum {bw sp pass : Nat} (hbw : bw < 3) {line : List Byte} {x t : Nat}
    (hmask : sp ≠ 0 → ((List.range 8).filter (fun k => (maskOf bw sp line x t).getLsbD k)).length = 8 / 2 ^ sp) (ht : sp = 0 → t = 0) (a : Nat → Int) :
    ∑ j ∈ Finset.range (keptOf sp), a ((if sp = 0 then List.range 8 else keptOfMask (maskOf bw sp line x t)).getD j 0) * laneVal bw sp pass line x (t * keptOf sp + j) =
      sumInt 8 (fun i => a i * passValue bw pass (elementB bw sp line x t i)) := by
  rw [sumInt_eq]
  by_cases h0 : sp = 0
  · subst h0
    rw [ht rfl]
    refine Finset.sum_congr rfl fun i hi => ?_
    have hi : i < 8 := Finset.mem_range.1 hi
    have hget : (List.range 8).getD i 0 = i := by
      rw [List.getD_eq_getElem _ _ (by rw [List.length_range]; exact hi), List.getElem_range]
    rw [if_pos rfl, hget, laneVal_eq hbw, Nat.zero_mul, Nat.zero_add]
    rfl
  · rw [if_neg h0]
    have hkept : keptOf sp = ((List.range 8).filter (fun k => (maskOf bw sp line x t).getLsbD k)).length := (hmask h0).symm
    have hrank := sum_filter_rank (fun k => (maskOf bw sp line x t).getLsbD k) (fun i j => a i * laneVal bw sp pass line x (t * keptOf sp + j)) 8
    rw [← hkept] at hrank
    refine hrank.trans (Finset.sum_congr rfl fun i _ => ?_)
    unfold elementB
    dsimp only
    by_cases hbit : (maskOf bw sp line x t).getLsbD i = true
    · have hlane : (if sp = 0 then i else t * (8 / 2 ^ sp) + ((List.range i).filter (fun k => (maskOf bw sp line x t).getLsbD k)).length) =
          t * keptOf sp + ((List.range i).filter (fun k => (maskOf bw sp line x t).getLsbD k)).length := if_neg h0
      rw [if_pos hbit, if_neg (by simp [hbit]), laneVal_eq hbw, hlane]
      rfl
    · rw [if_neg hbit, if_pos ⟨h0, by simpa using hbit⟩, passValue_zero, Int.mul_zero]

/-! ## Groups of A -/

theorem planesNat_congr {p : Nat} {b c : Nat → Bool} (h : ∀ k < p, b k = c k) : planesNat p b = planesNat p c :=
  Finset.sum_congr rfl fun k hk => by rw [h k (Finset.mem_range.1 hk)]

/-- The significands of a group, from its planes (07 R153). -/
theorem getD_planesToInts {p : Nat} (hp : 0 < p) {planes : List Byte} {bit : Nat → Nat → Bool} {i : Nat} (hi : i < 8)
    (h : ∀ k < p, (planes.getD (p - 1 - k) 0).getLsbD i = bit i k) : (planesToInts p planes).getD i 0 = planesInt p (bit i) := by
  obtain ⟨n, rfl⟩ : ∃ n, p = n + 1 := ⟨p - 1, by omega⟩
  have hint : planesInt (n + 1) (bit i) = (⟨n + 1, true⟩ : IFmt).value (planesNat (n + 1) (bit i)) := (value_planesNat n (bit i)).symm
  rw [planesToInts, List.getD_eq_getElem?_getD, getElem?_range_map, if_pos hi, Option.getD_some, hint, ← planesNat_congr h]
  dsimp only
  rw [foldl_range_add]
  rfl

/-- The A line of a run as the statement reads it. -/
def lineByte (l : List (Byte × Bool)) (k : Nat) : Byte × Bool := l.getD k (0, false)

theorem aGroup_significand {ng pa : Nat} (hpa : 0 < pa) (l : List (Byte × Bool)) (g : Nat) {i : Nat} (hi : i < 8) :
    (aGroup ng pa l g).a.getD i 0 = planesInt pa (fun k => (lineByte l (ng * (pa - k) + g)).1.getLsbD i) := by
  refine getD_planesToInts (bit := fun i k => (lineByte l (ng * (pa - k) + g)).1.getLsbD i) hpa hi fun k hk => ?_
  have hplane : 1 + (pa - 1 - k) = pa - k := by omega
  rw [List.map_map, List.getD_eq_getElem?_getD, getElem?_range_map, if_pos (by omega), Option.getD_some, Function.comp_apply, hplane]
  rfl

theorem aGroup_bad {ng pa : Nat} (l : List (Byte × Bool)) (g : Nat) :
    (aGroup ng pa l g).bad = true ↔ ∃ k ≤ pa, (lineByte l (ng * k + g)).2 = true := by
  unfold aGroup
  dsimp only
  simp only [Bool.or_eq_true, List.any_map, List.any_eq_true, List.mem_range, Function.comp_apply]
  constructor
  · rintro (h | ⟨j, hj, h⟩)
    · exact ⟨0, Nat.zero_le _, by rwa [Nat.mul_zero, Nat.zero_add]⟩
    · exact ⟨1 + j, by omega, h⟩
  · rintro ⟨k, hk, h⟩
    cases k with
    | zero => rw [Nat.mul_zero, Nat.zero_add] at h; exact .inl h
    | succ k => rw [Nat.add_comm k] at h; exact .inr ⟨k, by omega, h⟩

theorem aGroup_exp (ng pa : Nat) (l : List (Byte × Bool)) (g : Nat) : (aGroup ng pa l g).e = (lineByte l g).1.toNat := rfl

theorem toNat_eq_ff (b : Byte) : (b.toNat == 0xFF) = true ↔ b = 0xFF := by
  rw [beq_iff_eq]
  exact ⟨fun h => BitVec.eq_of_toNat_eq h, fun h => by rw [h]; rfl⟩

/-- A group product, the sum of its exponent bytes, and whether it is poisoned (08 R162, R167, R172). -/
theorem groupOut_gives {bw sp pass ng pa : Nat} (hbw : bw < 3) (hpa : 0 < pa) {B : List Byte} {x t : Nat} (l : List (Byte × Bool)) (g : Nat)
    (hmask : sp ≠ 0 → ((List.range 8).filter (fun k => (maskOf bw sp B x t).getLsbD k)).length = 8 / 2 ^ sp) (ht : sp = 0 → t = 0) :
    (groupOut bw sp pass B x t (aGroup ng pa l g)).1 = sumInt 8 (fun i =>
      planesInt pa (fun k => (lineByte l (ng * (pa - k) + g)).1.getLsbD i) * passValue bw pass (elementB bw sp B x t i)) ∧
    (groupOut bw sp pass B x t (aGroup ng pa l g)).2.1 = (lineByte l g).1.toNat + (B.getD (t * panelWidth bw + x) 0).toNat ∧
    ((groupOut bw sp pass B x t (aGroup ng pa l g)).2.2 = true ↔
      (∃ k ≤ pa, (lineByte l (ng * k + g)).2 = true) ∨ (lineByte l g).1 = 0xFF ∨ B.getD (t * panelWidth bw + x) 0 = 0xFF) := by
  refine ⟨?_, rfl, ?_⟩
  · have hsum := groupSum (pass := pass) hbw hmask ht (fun i => (aGroup ng pa l g).a.getD i 0)
    have hfold : (groupOut bw sp pass B x t (aGroup ng pa l g)).1 = ∑ j ∈ Finset.range (keptOf sp), (aGroup ng pa l g).a.getD
        ((if sp = 0 then List.range 8 else keptOfMask (maskOf bw sp B x t)).getD j 0) 0 * laneVal bw sp pass B x (t * keptOf sp + j) := by
      rw [← foldl_range_add]; rfl
    rw [hfold, hsum, sumInt_eq, sumInt_eq]
    exact Finset.sum_congr rfl fun i hi => by rw [aGroup_significand hpa l g (Finset.mem_range.1 hi)]
  · have hbad : (groupOut bw sp pass B x t (aGroup ng pa l g)).2.2 =
        ((aGroup ng pa l g).bad || (aGroup ng pa l g).e == 0xFF || (B.getD (t * panelWidth bw + x) 0).toNat == 0xFF) := rfl
    rw [hbad, Bool.or_eq_true, Bool.or_eq_true, aGroup_bad, aGroup_exp, toNat_eq_ff, toNat_eq_ff, or_assoc]

end Sys2Proof.Machine

/-! SUPPORT. What one pass of a run makes of an accumulator element (08 R168, R171, R172), and all passes of an A line (08 R170, R175). -/

namespace Sys2Proof.Machine

/-! ## Steps of a column -/

theorem step32_eq (sat : Bool) (x : Int) : step32 sat x = step32Of sat x := by
  unfold step32 step32Of
  cases sat
  case false => rfl
  case true =>
    have hlo : (⟨32, true⟩ : IFmt).lo = -2 ^ 31 := by decide
    have hhi : (⟨32, true⟩ : IFmt).hi = 2 ^ 31 - 1 := by decide
    rw [if_pos rfl, if_pos rfl, IFmt.clamp, hlo, hhi]
    split
    · dsimp only; omega
    · split
      · dsimp only; omega
      · dsimp only; omega

/-- The column sum after `n` groups. -/
def intSum (sat : Bool) (o : Nat → Int × Nat × Bool) (n : Nat) : Int := (List.range n).foldl (fun c g => step32 sat (c + (o g).1)) 0

/-- What a group adds to a column of float mode. -/
def groupExt (o : Int × Nat × Bool) : Ext := if o.2.2 then .nan false else if o.1 = 0 then .zero false else (Ext.ofInt o.1).scale ((o.2.1 : Int) - 254)

def floatSum (o : Nat → Int × Nat × Bool) (n : Nat) : Lane := (List.range n).foldl (fun c g => colStep c (groupExt (o g))) 0

theorem intSum_succ (sat : Bool) (o : Nat → Int × Nat × Bool) (n : Nat) : intSum sat o (n + 1) = step32Of sat (intSum sat o n + (o n).1) := by
  rw [← step32_eq, intSum, List.range_succ, List.foldl_append]
  rfl

theorem floatSum_succ (o : Nat → Int × Nat × Bool) (n : Nat) : floatSum o (n + 1) = colStep (floatSum o n) (groupExt (o n)) := by
  rw [floatSum, List.range_succ, List.foldl_append]
  rfl

/-- A pass over the groups `o` gives an element what their products, exponents and poison say. -/
theorem accUpdate_gives {mode ng : Nat} {o : Nat → Int × Nat × Bool} {G E : Nat → Int} {bad : Nat → Prop}
    (ho : ∀ g < ng, (o g).1 = G g ∧ ((o g).2.1 : Int) = E g ∧ ((o g).2.2 = true ↔ bad g)) (a : AccElem) :
    PassGives mode ng G E bad a (accUpdate mode ((List.range ng).map o) a) := by
  have hany : ((List.range ng).map o).any (·.2.2) = true ↔ ∃ g < ng, bad g := by
    simp only [List.any_map, List.any_eq_true, List.mem_range, Function.comp_apply]
    exact exists_congr fun g => and_congr_right fun hg => (ho g hg).2.2
  unfold accUpdate
  refine ⟨fun hm => ⟨fun ha => ?_, fun ha => ?_⟩, fun hm => ⟨fun hb => ?_, fun hb => ⟨fun ha => ?_, fun ha => ?_⟩⟩⟩
  · rw [if_pos hm, if_pos ha]
  · have hcol : floatCol ((List.range ng).map o) = floatSum o ng := by rw [floatCol, List.foldl_map]; rfl
    rw [if_pos hm, if_neg (by simp [ha]), hcol]
    refine ⟨rfl, floatSum o, rfl, ?_, fun g hg => ⟨fun hb => ?_, fun hb => ?_⟩⟩
    · have := colStep_gives a.1 (fFP32.read false (floatSum o ng).toNat)
      rwa [read32_num] at this
    · have hext : groupExt (o g) = .nan false := if_pos ((ho g hg).2.2.2 hb)
      rw [floatSum_succ, hext]
      exact colStep_gives _ (.nan false)
    · have hext : groupExt (o g) = if G g = 0 then .zero false else (Ext.ofInt (G g)).scale (E g - 254) := by
        rw [← (ho g hg).1, ← (ho g hg).2.1]
        exact if_neg (mt (ho g hg).2.2.1 hb)
      rw [floatSum_succ, hext, ← ofInt_scale_num]
      exact colStep_gives _ _
  · rw [if_neg hm, if_pos (hany.2 hb)]
  · rw [if_neg hm, if_neg (fun h => by obtain ⟨g, hg, h⟩ := hany.1 h; exact hb g hg h), if_pos ha]
  · have hcol : intCol (mode == 2) ((List.range ng).map o) = intSum (mode == 2) o ng := by rw [intCol, List.foldl_map]; rfl
    rw [if_neg hm, if_neg (fun h => by obtain ⟨g, hg, h⟩ := hany.1 h; exact hb g hg h), if_neg (by simp [ha]), hcol, step32_eq]
    exact ⟨intSum (mode == 2) o, rfl, fun g hg => by rw [intSum_succ, (ho g hg).1], rfl⟩

/-! ## The groups of a column -/

theorem flatMap_range_map {α : Type} (f : Nat → Nat → α) (a b : Nat) :
    (List.range a).flatMap (fun r => (List.range b).map (f r)) = (List.range (a * b)).map (fun g => f (g / b) (g % b)) := by
  refine List.ext_getElem? fun n => ?_
  rw [getElem?_flatMap_range (m := b) (fun j => by rw [List.length_map, List.length_range]),
    getElem?_range_map (fun g => f (g / b) (g % b)) (a * b)]
  split
  · next h => rw [getElem?_range_map, if_pos (Nat.mod_lt _ (Nat.pos_of_ne_zero fun hb => by rw [hb, Nat.mul_zero] at h; exact Nat.not_lt_zero _ h))]
  · rfl

/-- Group `g` of panel column `x` of block column `j`, for an A line. -/
def columnGroup (v : Die) (c : Ctx) (bw sp pass pa : Nat) (line : List (Byte × Bool)) (j x g : Nat) : Int × Nat × Bool :=
  groupOut bw sp pass (bLineOf v c j (g / gprOf sp)) x (g % gprOf sp) (aGroup (c.ng sp) pa line g)

theorem columnGroups_eq (v : Die) (c : Ctx) (bw sp pass pa : Nat) (line : List (Byte × Bool)) (n : Nat) :
    columnGroups v c bw sp pass ((List.range (c.ng sp)).map (aGroup (c.ng sp) pa line)) n =
      (List.range (c.ng sp)).map (columnGroup v c bw sp pass pa line (n / panelCols bw) (n % panelCols bw)) := by
  have hpos : 0 < gprOf sp := Nat.two_pow_pos sp
  unfold columnGroups
  dsimp only
  rw [flatMap_range_map (fun r t => groupOut bw sp pass (bLineOf v c (n / panelCols bw) r) (n % panelCols bw) t
    (((List.range (c.ng sp)).map (aGroup (c.ng sp) pa line)).getD (r * gprOf sp + t) ⟨0, false, []⟩))]
  refine List.map_congr_left fun g hg => ?_
  have hg : g < c.ng sp := List.mem_range.1 hg
  rw [Nat.div_add_mod', List.getD_eq_getElem?_getD, getElem?_range_map, if_pos hg]
  rfl

/-- The masks of a fragment keep as many elements as they should. -/
theorem HoldsB.mask {v : Die} {h : Ctx} {bw sp : Nat} (hb : HoldsB v h bw sp) {j r t : Nat} (hj : j < h.w) (hr : r < 192 * h.h) (ht : t < 2 ^ sp) (x : Nat)
    (hsp : sp ≠ 0) : ((List.range 8).filter (fun k => (maskOf bw sp (bLineOf v h j r) x t).getLsbD k)).length = 8 / 2 ^ sp := by
  have hmod : x % 192 < 192 := Nat.mod_lt _ (by omega)
  have hmask := hb.2 hsp j hj r hr t ht (x % 192) hmod
  unfold maskOf at hmask ⊢
  rwa [Nat.mod_eq_of_lt hmod] at hmask

/-- The passes of a run. -/
def passesOf (bw : Nat) : List Nat := if bw = 2 then [0, 1] else [0]

/-- What the passes of an A line make of an element in column `x` of block column `j`. -/
def linePasses (v : Die) (c : Ctx) (bw sp mode pa : Nat) (line : List (Byte × Bool)) (j x : Nat) (ps : List Nat) (a : AccElem) : AccElem :=
  ps.foldl (fun a pass => accUpdate mode ((List.range (c.ng sp)).map (columnGroup v c bw sp pass pa line j x)) a) a

theorem linePasses_gives {v : Die} {c : Ctx} {bw sp mode pa : Nat} (hbw : bw < 3) (hpa : 0 < pa) (hb : HoldsB v c bw sp) {line : List (Byte × Bool)}
    {A : Nat → Byte × Bool} (hA : ∀ k < 192 * c.h * 2 ^ sp * (1 + pa), lineByte line k = A k) {j : Nat} (hj : j < c.w) (x : Nat) (a : AccElem) :
    RunGives bw sp pa mode (192 * c.h * 2 ^ sp) x A (bLineOf v c j) a (linePasses v c bw sp mode pa line j x (passesOf bw) a) := by
  have hplane : ∀ k ≤ pa, ∀ g < 192 * c.h * 2 ^ sp, lineByte line (192 * c.h * 2 ^ sp * k + g) = A (192 * c.h * 2 ^ sp * k + g) := fun k hk g hg => by
    refine hA _ ?_
    calc 192 * c.h * 2 ^ sp * k + g < 192 * c.h * 2 ^ sp * (k + 1) := by rw [Nat.mul_succ]; omega
      _ ≤ _ := Nat.mul_le_mul_left _ (by omega)
  have hexp : ∀ g < 192 * c.h * 2 ^ sp, lineByte line g = A g := fun g hg => by simpa using hplane 0 (Nat.zero_le _) g hg
  have hpass : ∀ pass a, PassGives mode (192 * c.h * 2 ^ sp)
      (fun g => sumInt 8 (fun i => planesInt pa (fun k => (A (192 * c.h * 2 ^ sp * (pa - k) + g)).1.getLsbD i) *
        passValue bw pass (elementB bw sp (bLineOf v c j (g / 2 ^ sp)) x (g % 2 ^ sp) i)))
      (fun g => (A g).1.toNat + ((bLineOf v c j (g / 2 ^ sp)).getD (g % 2 ^ sp * panelWidth bw + x) 0).toNat)
      (fun g => (∃ k ≤ pa, (A (192 * c.h * 2 ^ sp * k + g)).2 = true) ∨ (A g).1 = 0xFF ∨
        (bLineOf v c j (g / 2 ^ sp)).getD (g % 2 ^ sp * panelWidth bw + x) 0 = 0xFF) a
      (accUpdate mode ((List.range (c.ng sp)).map (columnGroup v c bw sp pass pa line j x)) a) := fun pass a =>
    accUpdate_gives (fun g hg => by
      have hr : g / 2 ^ sp < 192 * c.h := Nat.div_lt_of_lt_mul (by rwa [Nat.mul_comm])
      obtain ⟨h1, h2, h3⟩ := groupOut_gives (pass := pass) (ng := 192 * c.h * 2 ^ sp) (x := x) hbw hpa line g
        (hb.mask hj hr (Nat.mod_lt g (Nat.two_pow_pos sp)) x) (fun h0 => by rw [h0, pow_zero, Nat.mod_one])
      refine ⟨h1.trans ?_, ?_, h3.trans ?_⟩
      · simp only [hplane _ (Nat.sub_le _ _) g hg]
      · rw [← hexp g hg, ← Nat.cast_add, ← h2]
        rfl
      · rw [hexp g hg]
        exact or_congr_left (exists_congr fun k => and_congr_right fun hk => by rw [hplane k hk g hg])) a
  refine ⟨fun f g => sumInt 8 (fun i => planesInt pa (fun k => (A (192 * c.h * 2 ^ sp * (pa - k) + g)).1.getLsbD i) *
      f (elementB bw sp (bLineOf v c j (g / 2 ^ sp)) x (g % 2 ^ sp) i)), _, _, fun _ _ => rfl, fun _ => rfl, fun _ => Iff.rfl, fun h2 => ?_, fun h2 => ?_⟩
  · have hid : passValue bw 0 = id := by funext b; exact if_neg h2
    have hone := hpass 0 a
    rw [hid] at hone
    unfold linePasses passesOf
    rw [if_neg h2]
    exact hone
  · subst h2
    exact ⟨_, hpass 0 a, hpass 1 _⟩

end Sys2Proof.Machine

/-! SUPPORT. What the A lines of a run make of the accumulator rows (08 R170, R174, R175). -/

namespace Sys2Proof.Machine

/-! ## A row -/

/-- An accumulator element, +0 where its bank row is dead. -/
def elemAt (v : Die) (c : Ctx) (row n : Nat) : AccElem := (((accRow v c row)[n]?).bind id).getD (0, false)

theorem getD_accVals (v : Die) (c : Ctx) (row n : Nat) : (accVals v c row).getD n (0, false) = elemAt v c row n := by
  unfold accVals elemAt
  rw [List.getD_eq_getElem?_getD, List.getElem?_map]
  cases (accRow v c row)[n]? <;> rfl

theorem BanksOnly.bLineOf {u v : Die} (h : BanksOnly u v) (c : Ctx) (j r : Nat) : bLineOf v c j r = bLineOf u c j r := by obtain ⟨_, rfl⟩ := h; rfl

theorem BanksOnly.bmat {u v : Die} (h : BanksOnly u v) : v.bmat = u.bmat := by obtain ⟨_, rfl⟩ := h; rfl

/-- A fragment whose blocks hold the B of the run has no mixed column. -/
theorem HoldsB.notMixed {v : Die} {c : Ctx} {bw sp : Nat} (h7 : c.shape ≠ 7) (hb : HoldsB v c bw sp) {j : Nat} (hj : j < c.w) : columnMixed v c bw sp j = false := by
  refine List.any_eq_false.2 fun a ha => ?_
  have hidx : a * c.w + j < c.blocks.length := by
    rw [c.blocks_length h7]
    calc a * c.w + j < (a + 1) * c.w := by rw [Nat.succ_mul]; omega
      _ ≤ _ := Nat.mul_le_mul_right _ (List.mem_range.1 ha)
  obtain ⟨h1, h2⟩ := hb.1 _ (List.getElem_mem hidx)
  dsimp only
  rw [List.getD_eq_getElem _ _ hidx, h1, h2]
  simp

/-- The poison marks of a row are no part of its elements. -/
theorem keepBad_rows (old : Die) (c : Ctx) (row : Nat) (v : Die) : BanksOnly v (keepBad old c row v) ∧ ∀ z, accRow (keepBad old c row v) c z = accRow v c z := by
  have hkeep : BanksOnly v (keepBad old c row v) ∧
      ∀ a b, ((keepBad old c row v).bankRow? a b).map (fun r => (r.vals, r.pz)) = (v.bankRow? a b).map (fun r => (r.vals, r.pz)) := by
    unfold keepBad
    split
    · refine List.foldlRecOn (motive := fun u : Die => BanksOnly v u ∧ ∀ a b, (u.bankRow? a b).map (fun r => (r.vals, r.pz)) = (v.bankRow? a b).map (fun r => (r.vals, r.pz)))
        _ _ ⟨.refl v, fun _ _ => rfl⟩ fun u hu j _ => ?_
      obtain ⟨hbanks, hvals⟩ := hu
      split
      · next r o hr _ =>
        refine ⟨hbanks.trans ⟨_, rfl⟩, fun a b => ?_⟩
        rw [← hvals, Die.bankRow?_setBankRow]
        split
        · next h => rw [h.1, h.2, hr]; rfl
        · rfl
      · exact ⟨hbanks, hvals⟩
    · exact ⟨.refl v, fun _ _ => rfl⟩
  refine ⟨hkeep.1, fun z => ?_⟩
  rw [accRow_eq, accRow_eq]
  refine List.map_congr_left fun n _ => ?_
  have hrow := hkeep.2 (c.bankOf z (n / 192)) (z % 256)
  have hmap := congrArg (Option.map (fun p : List Lane × BitVec 192 => ((p.1.getD (n % 192) 0, p.2.getLsbD (n % 192)) : AccElem))) hrow
  simp only [Option.map_map] at hmap
  exact hmap

/-- The panel column that an element of a row takes (08 R175). -/
def panelCol (bw half n : Nat) : Nat := if bw = 0 then 192 * half + n % 192 else n % 192

theorem outColumn_split {half : Nat} (hh : half < 2) (bw n : Nat) : outColumn bw half n / panelCols bw = n / 192 ∧ outColumn bw half n % panelCols bw = panelCol bw half n := by
  unfold outColumn panelCols panelCol
  split
  · constructor <;> omega
  · exact ⟨rfl, rfl⟩

/-- What one pass of an A line makes of an element of a row. -/
def rowUpdate (u : Die) (c : Ctx) (bw sp pass mode pa : Nat) (line : List (Byte × Bool)) (half n : Nat) (a : AccElem) : AccElem :=
  accUpdate mode ((List.range (c.ng sp)).map (columnGroup u c bw sp pass pa line (n / 192) (panelCol bw half n))) a

theorem runRow_rows {v : Die} {c : Ctx} {bw sp : Nat} (h7 : c.shape ≠ 7) (hnd : c.blocks.Nodup) (hb : HoldsB v c bw sp) (pass mode pa : Nat) (line : List (Byte × Bool))
    {row half : Nat} (free : Nat) (hr : row < 256 * c.h) (hh : half < 2) :
    BanksOnly v (runRow v c bw sp pass mode ((List.range (c.ng sp)).map (aGroup (c.ng sp) pa line)) row half free) ∧
    ∀ z < 256 * c.h, accRow (runRow v c bw sp pass mode ((List.range (c.ng sp)).map (aGroup (c.ng sp) pa line)) row half free) c z =
      if z = row then (List.range (192 * c.w)).map (fun n => some (rowUpdate v c bw sp pass mode pa line half n (elemAt v c row n))) else accRow v c z := by
  unfold runRow
  dsimp only
  generalize hl : (List.range (192 * c.w)).map _ = l
  obtain ⟨hkb, hkr⟩ := keepBad_rows v c row (setAccRow c row l v)
  refine ⟨BanksOnly.trans (setAccRow_banks c row l v) hkb, fun z hz => ?_⟩
  rw [hkr, accRow_setAccRow h7 hnd hr hz]
  refine if_congr Iff.rfl (List.map_congr_left fun n hn => ?_) rfl
  have hn : n < 192 * c.w := List.mem_range.1 hn
  obtain ⟨hdiv, hmod⟩ := outColumn_split hh bw n
  rw [← hl, List.getD_eq_getElem?_getD, getElem?_range_map, if_pos hn, Option.getD_some, hb.notMixed h7 (show n / 192 < c.w by omega), getD_accVals,
    columnGroups_eq, hdiv, hmod]
  rfl

/-! ## Tables -/

/-- A table of accumulator elements: by row and column. -/
abbrev AccTable := Nat → Nat → AccElem

/-- The rows in `L` are live and hold the elements of the table `T`; the others stand as on `u`, and the table holds their elements too. -/
structure HasTable (c : Ctx) (u v : Die) (L : Nat → Prop) (T : AccTable) : Prop where
  banks : BanksOnly u v
  live : ∀ z < 256 * c.h, L z → accRow v c z = (List.range (192 * c.w)).map (fun n => some (T z n))
  rest : ∀ z < 256 * c.h, ¬L z → accRow v c z = accRow u c z ∧ ∀ n, n < 192 * c.w → T z n = elemAt u c z n

namespace HasTable

variable {c : Ctx} {u v : Die} {L L' : Nat → Prop} {T T' : AccTable}

theorem refl (c : Ctx) (u : Die) : HasTable c u u (fun _ => False) (elemAt u c) := ⟨.refl u, fun _ _ h => h.elim, fun _ _ _ => ⟨rfl, fun _ _ => rfl⟩⟩

theorem elem (h : HasTable c u v L T) {z n : Nat} (hz : z < 256 * c.h) (hn : n < 192 * c.w) : elemAt v c z n = T z n := by
  by_cases hl : L z
  · rw [elemAt, h.live z hz hl, getElem?_range_map, if_pos hn]; rfl
  · obtain ⟨hrow, helem⟩ := h.rest z hz hl
    rw [helem n hn, elemAt, elemAt, hrow]

theorem congr (h : HasTable c u v L T) (hL : ∀ z, L' z ↔ L z) (hT : ∀ z < 256 * c.h, ∀ n < 192 * c.w, T' z n = T z n) : HasTable c u v L' T' := by
  refine ⟨h.banks, fun z hz hl => (h.live z hz ((hL z).1 hl)).trans (List.map_congr_left fun n hn => ?_), fun z hz hl => ?_⟩
  · rw [hT z hz n (List.mem_range.1 hn)]
  · obtain ⟨hrow, helem⟩ := h.rest z hz (mt (hL z).2 hl)
    exact ⟨hrow, fun n hn => (hT z hz n hn).trans (helem n hn)⟩

/-- A row written with elements that its table gives. -/
theorem write (h : HasTable c u v L T) {w : Die} {row : Nat} {x : Nat → AccElem} (hb : BanksOnly v w)
    (hw : ∀ z < 256 * c.h, accRow w c z = if z = row then (List.range (192 * c.w)).map (fun n => some (x n)) else accRow v c z) :
    HasTable c u w (fun z => z = row ∨ L z) (fun z n => if z = row then x n else T z n) := by
  refine ⟨h.banks.trans hb, fun z hz hl => ?_, fun z hz hl => ?_⟩
  · rw [hw z hz]
    by_cases hzr : z = row
    · simp only [if_pos hzr]
    · simp only [if_neg hzr]
      exact h.live z hz (hl.resolve_left hzr)
  · have hne : z ≠ row := fun e => hl (.inl e)
    simp only [hw z hz, if_neg hne]
    exact h.rest z hz fun h => hl (.inr h)

end HasTable

/-! ## Lines -/

/-- Accumulator rows that an A row adds to (08 R175). -/
def rowsPer (bw : Nat) : Nat := if bw = 0 then 2 else 1

theorem rowsPer_pos (bw : Nat) : 0 < rowsPer bw := by unfold rowsPer; split <;> omega

section
variable {c : Ctx} {u v : Die} {bw sp : Nat} (h7 : c.shape ≠ 7) (hnd : c.blocks.Nodup) (hb : HoldsB u c bw sp) {L : Nat → Prop} {T : AccTable}

theorem rowUpdate_of_banks (hv : BanksOnly u v) (pass mode pa : Nat) (line : List (Byte × Bool)) (half n : Nat) (a : AccElem) :
    rowUpdate v c bw sp pass mode pa line half n a = rowUpdate u c bw sp pass mode pa line half n a := by
  unfold rowUpdate columnGroup
  simp only [hv.bLineOf]

theorem BanksOnly.holdsB (hv : BanksOnly u v) (hb : HoldsB u c bw sp) : HoldsB v c bw sp := by obtain ⟨_, rfl⟩ := hv; exact hb

include h7 hnd hb

theorem HasTable.row (h : HasTable c u v L T) (pass mode pa : Nat) (line : List (Byte × Bool)) {row half : Nat} (free : Nat) (hr : row < 256 * c.h) (hh : half < 2) :
    HasTable c u (runRow v c bw sp pass mode ((List.range (c.ng sp)).map (aGroup (c.ng sp) pa line)) row half free) (fun z => z = row ∨ L z)
      (fun z n => if z = row then rowUpdate u c bw sp pass mode pa line half n (T z n) else T z n) := by
  obtain ⟨hbanks, hrows⟩ := runRow_rows h7 hnd (h.banks.holdsB hb) pass mode pa line free hr hh
  refine (h.write (x := fun n => rowUpdate v c bw sp pass mode pa line half n (elemAt v c row n)) hbanks hrows).congr (fun _ => Iff.rfl) fun z hz n hn => ?_
  refine if_ctx_congr Iff.rfl (fun hzr => ?_) fun _ => rfl
  subst hzr
  rw [rowUpdate_of_banks h.banks, h.elem hz hn]

/-- A pass of an A line over the rows from `base`. -/
def lineTable (u : Die) (c : Ctx) (bw sp pass mode pa : Nat) (line : List (Byte × Bool)) (base : Nat) (T : AccTable) : AccTable :=
  fun z n => if base ≤ z ∧ z < base + rowsPer bw then rowUpdate u c bw sp pass mode pa line (z - base) n (T z n) else T z n

theorem HasTable.line (h : HasTable c u v L T) (pass mode pa : Nat) (line : List (Byte × Bool)) {row0 m : Nat} (free : Nat)
    (hr : row0 + rowsPer bw * (m + 1) ≤ 256 * c.h) :
    HasTable c u (runLine c bw sp pass mode pa line row0 m free v) (fun z => row0 + rowsPer bw * m ≤ z ∧ z < row0 + rowsPer bw * m + rowsPer bw ∨ L z)
      (lineTable u c bw sp pass mode pa line (row0 + rowsPer bw * m) T) := by
  unfold runLine
  dsimp only
  by_cases h0 : bw = 0
  · have hk : rowsPer bw = 2 := if_pos h0
    rw [if_pos h0, hk]
    rw [hk] at hr
    refine ((h.row h7 hnd hb pass mode pa line (row := row0 + 2 * m) (half := 0) free (by omega) (by omega)).row h7 hnd hb pass mode pa line
      (row := row0 + 2 * m + 1) (half := 1) _ (by omega) (by omega)).congr (fun z => ?_) fun z hz n hn => ?_
    · rw [← or_assoc]
      exact or_congr_left (by omega)
    · unfold lineTable
      rw [hk]
      by_cases h1 : z = row0 + 2 * m + 1
      · rw [if_pos h1, if_neg (show ¬z = row0 + 2 * m by omega), if_pos (show row0 + 2 * m ≤ z ∧ z < row0 + 2 * m + 2 by omega),
          show z - (row0 + 2 * m) = 1 by omega]
      · rw [if_neg h1]
        by_cases h2 : z = row0 + 2 * m
        · rw [if_pos h2, if_pos (by omega), show z - (row0 + 2 * m) = 0 by omega]
        · rw [if_neg h2, if_neg (by omega)]
  · have hk : rowsPer bw = 1 := if_neg h0
    rw [if_neg h0, hk]
    rw [hk] at hr
    refine (h.row h7 hnd hb pass mode pa line (row := row0 + m) (half := 0) free (by omega) (by omega)).congr (fun z => ?_) fun z hz n hn => ?_
    · exact or_congr_left (by omega)
    · unfold lineTable
      rw [hk]
      by_cases h1 : z = row0 + m
      · rw [if_pos h1, if_pos (by omega), show z - (row0 + 1 * m) = 0 by omega]
      · rw [if_neg h1, if_neg (by omega)]

end

end Sys2Proof.Machine

/-! SUPPORT. A run from the window (09 R188): every repetition, every A row and every pass. -/

namespace Sys2Proof.Machine

/-- The table after the passes `ps` of the A lines `lines 0` to `lines (n - 1)` over the rows from `r`. -/
def runTable (u : Die) (c : Ctx) (bw sp mode pa : Nat) (lines : Nat → List (Byte × Bool)) (r n : Nat) (ps : List Nat) (T : AccTable) : AccTable :=
  fun z col => if r ≤ z ∧ z < r + rowsPer bw * n then
    linePasses u c bw sp mode pa (lines ((z - r) / rowsPer bw)) (col / 192) (panelCol bw ((z - r) % rowsPer bw) col) ps (T z col) else T z col

/-- A system whose die `d` holds a table over `u`, all other dies as in `x`. -/
structure SysTable (d : Nat) (c : Ctx) (u : Die) (x y : Sys) (L : Nat → Prop) (T : AccTable) : Prop where
  table : HasTable c u (y.die d) L T
  others : ∀ e, e ≠ d → y.die e = x.die e

theorem rowsPer_split {bw r m z : Nat} (h : r + rowsPer bw * m ≤ z ∧ z < r + rowsPer bw * m + rowsPer bw) :
    (z - r) / rowsPer bw = m ∧ (z - r) % rowsPer bw = z - (r + rowsPer bw * m) := by
  have hpos := rowsPer_pos bw
  obtain ⟨a, ha⟩ : ∃ a, z = r + rowsPer bw * m + a := ⟨z - (r + rowsPer bw * m), by omega⟩
  have hsub : z - r = rowsPer bw * m + a := by omega
  have hlt : a < rowsPer bw := by omega
  rw [hsub, Nat.mul_add_div hpos, Nat.div_eq_of_lt hlt, Nat.mul_add_mod, Nat.mod_eq_of_lt hlt]
  omega

section
variable {d : Nat} {c : Ctx} {u : Die} {x : Sys} {bw sp : Nat} (h7 : c.shape ≠ 7) (hnd : c.blocks.Nodup) (hb : HoldsB u c bw sp)

/-- An A line of a run from the window, in one pass. -/
def windowStep (d : Nat) (c : Ctx) (bw sp pass mode pa b st la r : Nat) (y : Sys) (m : Nat) : Sys :=
  Sys.modDie { y with used := y.used + lineFree c bw } d (fun v => runLine c bw sp pass mode pa (winRead v c (b + m * st) la) r m y.used v)

/-- An A line as a run reads it from the window. -/
def windowLine (u : Die) (c : Ctx) (b st la m : Nat) : List (Byte × Bool) := winRead u c (b + m * st) la

theorem winRead_of_byte {v : Die} (h : v.byte = u.byte) (c : Ctx) (off n : Nat) : winRead v c off n = winRead u c off n := by
  unfold winRead
  simp only [winByte_eq, h]

include h7 hnd hb

theorem SysTable.pass {y : Sys} {L : Nat → Prop} {T : AccTable} (h : SysTable d c u x y L T) (pass mode pa b st la : Nat) {r n : Nat}
    (hr : r + rowsPer bw * n ≤ 256 * c.h) :
    SysTable d c u x ((List.range n).foldl (windowStep d c bw sp pass mode pa b st la r) y) (fun z => (r ≤ z ∧ z < r + rowsPer bw * n) ∨ L z)
      (runTable u c bw sp mode pa (windowLine u c b st la) r n [pass] T) := by
  induction n with
  | zero =>
    refine ⟨h.table.congr (fun z => or_iff_right (by omega)) fun z _ col _ => ?_, h.others⟩
    exact if_neg (by omega)
  | succ n ih =>
    rw [Nat.mul_succ] at hr ⊢
    have hn := ih (by omega)
    rw [List.range_succ, List.foldl_append, List.foldl_cons, List.foldl_nil]
    generalize (List.range n).foldl (windowStep d c bw sp pass mode pa b st la r) y = y' at hn
    obtain ⟨ht, ho⟩ := hn
    have hline := ht.line h7 hnd hb pass mode pa (winRead (y'.die d) c (b + n * st) la) (row0 := r) (m := n) y'.used (by rw [Nat.mul_succ]; omega)
    have hdie : (windowStep d c bw sp pass mode pa b st la r y' n).die d = runLine c bw sp pass mode pa (winRead (y'.die d) c (b + n * st) la) r n y'.used (y'.die d) :=
      Sys.die_modDie_self ..
    rw [← hdie, winRead_of_byte ht.banks.byte] at hline
    refine ⟨hline.congr (fun z => ?_) fun z _ col _ => ?_, fun e he => (Sys.die_modDie_ne _ _ he).trans (ho e he)⟩
    · rw [← or_assoc]
      exact or_congr_left (by omega)
    · unfold lineTable runTable
      rw [Nat.mul_succ]
      by_cases hz : r + rowsPer bw * n ≤ z ∧ z < r + rowsPer bw * n + rowsPer bw
      · obtain ⟨hdiv, hmod⟩ := rowsPer_split hz
        rw [if_pos hz, if_neg (show ¬(r ≤ z ∧ z < r + rowsPer bw * n) by omega), if_pos (show r ≤ z ∧ z < r + (rowsPer bw * n + rowsPer bw) by omega), hdiv, hmod]
        rfl
      · rw [if_neg hz]
        exact if_congr (by omega) rfl rfl

theorem SysTable.passes {y : Sys} {L : Nat → Prop} {T : AccTable} (h : SysTable d c u x y L T) (mode pa b st la : Nat) {r n : Nat}
    (hr : r + rowsPer bw * n ≤ 256 * c.h) (ps : List Nat) :
    SysTable d c u x (ps.foldl (fun y pass => (List.range n).foldl (windowStep d c bw sp pass mode pa b st la r) y) y)
      (fun z => (ps ≠ [] ∧ r ≤ z ∧ z < r + rowsPer bw * n) ∨ L z) (runTable u c bw sp mode pa (windowLine u c b st la) r n ps T) := by
  induction ps generalizing y L T with
  | nil =>
    refine ⟨h.table.congr (fun z => or_iff_right fun h => h.1 rfl) fun z _ col _ => ?_, h.others⟩
    exact ite_self _
  | cons pass ps ih =>
    obtain ⟨ht, ho⟩ := ih (h.pass h7 hnd hb pass mode pa b st la hr)
    refine ⟨ht.congr (fun z => ?_) fun z _ col _ => ?_, ho⟩
    · simp only [ne_eq, reduceCtorEq, not_false_eq_true, true_and, ← or_assoc]
      exact or_congr_left ⟨.inr, fun h => h.elim (fun h => h.2) id⟩
    · unfold runTable
      by_cases hz : r ≤ z ∧ z < r + rowsPer bw * n
      · simp only [if_pos hz]
        rfl
      · simp only [if_neg hz]

/-! ## Repetitions -/

omit h7 hnd hb in
theorem passesOf_ne (bw : Nat) : passesOf bw ≠ [] := by unfold passesOf; split <;> simp

/-- The table after the first `n` A rows of a repetition. -/
def repTable (u : Die) (c : Ctx) (bw sp mode pa st la : Nat) (rep : Nat × Nat) (n : Nat) (T : AccTable) : AccTable :=
  runTable u c bw sp mode pa (windowLine u c rep.1 st la) rep.2 n (passesOf bw) T

/-- The table after whole repetitions of `M` A rows. -/
def tableAfter (u : Die) (c : Ctx) (bw sp mode pa st la M : Nat) (reps : List (Nat × Nat)) (T : AccTable) : AccTable :=
  reps.foldl (fun T rep => repTable u c bw sp mode pa st la rep M T) T

theorem SysTable.reps {y : Sys} {L : Nat → Prop} {T : AccTable} (h : SysTable d c u x y L T) (mode pa : Nat) (p : Params) {reps : List (Nat × Nat)}
    (hr : ∀ rep ∈ reps, rep.2 + rowsPer bw * p.mrows ≤ 256 * c.h) :
    SysTable d c u x (reps.foldl (fun y rep => runRep d c bw sp pa mode p rep y) y)
      (fun z => (∃ rep ∈ reps, rep.2 ≤ z ∧ z < rep.2 + rowsPer bw * p.mrows) ∨ L z)
      (tableAfter u c bw sp mode pa (aStride p (c.aLine sp pa)) (c.aLine sp pa) p.mrows reps T) := by
  induction reps generalizing y L T with
  | nil => exact ⟨h.table.congr (fun z => by simp) fun _ _ _ _ => rfl, h.others⟩
  | cons rep reps ih =>
    have hone := h.passes h7 hnd hb mode pa rep.1 (aStride p (c.aLine sp pa)) (c.aLine sp pa) (hr rep List.mem_cons_self) (passesOf bw)
    obtain ⟨ht, ho⟩ := ih hone fun a ha => hr a (List.mem_cons_of_mem _ ha)
    refine ⟨ht.congr (fun z => ?_) fun _ _ _ _ => rfl, ho⟩
    simp only [passesOf_ne, ne_eq, not_false_eq_true, true_and, List.mem_cons, exists_eq_or_imp]
    rw [← or_assoc, or_comm (a := ∃ a ∈ reps, _)]

end

/-! ## The states of the accumulators -/

section
variable {u : Die} {c : Ctx} {bw sp mode pa st la M : Nat} {reps : List (Nat × Nat)} {T : AccTable}

/-- The table before A row `m` of repetition `i`. -/
def accStates (u : Die) (c : Ctx) (bw sp mode pa st la M : Nat) (reps : List (Nat × Nat)) (T : AccTable) (i m : Nat) : AccTable :=
  match reps[i]? with
  | none => tableAfter u c bw sp mode pa st la M (reps.take i) T
  | some rep => repTable u c bw sp mode pa st la rep m (tableAfter u c bw sp mode pa st la M (reps.take i) T)

theorem accStates_some {i : Nat} {rep : Nat × Nat} (h : reps[i]? = some rep) (m : Nat) : accStates u c bw sp mode pa st la M reps T i m =
    repTable u c bw sp mode pa st la rep m (tableAfter u c bw sp mode pa st la M (reps.take i) T) := by
  unfold accStates
  rw [h]

theorem repTable_zero (rep : Nat × Nat) : repTable u c bw sp mode pa st la rep 0 T = T := by
  funext z col
  exact if_neg (by omega)

theorem accStates_start (i : Nat) : accStates u c bw sp mode pa st la M reps T i 0 = tableAfter u c bw sp mode pa st la M (reps.take i) T := by
  unfold accStates
  split
  · rfl
  · exact repTable_zero _

theorem accStates_next {i : Nat} {rep : Nat × Nat} (h : reps[i]? = some rep) :
    accStates u c bw sp mode pa st la M reps T (i + 1) 0 = accStates u c bw sp mode pa st la M reps T i M := by
  rw [accStates_start, accStates_some h, List.take_add_one, h, tableAfter, List.foldl_append]
  rfl

/-- An A row of a run in terms of the tables before and after it. -/
theorem rowRun_of (hbw : bw < 3) (hpa : 0 < pa) (hb : HoldsB u c bw sp) {line : List (Byte × Bool)} {A : Nat → Byte × Bool}
    (hA : ∀ k < 192 * c.h * 2 ^ sp * (1 + pa), lineByte line k = A k) {r m : Nat} {T' : AccTable}
    (hrow : ∀ half < rowsPer bw, ∀ col, T' (r + rowsPer bw * m + half) col =
      linePasses u c bw sp mode pa line (col / 192) (panelCol bw half col) (passesOf bw) (T (r + rowsPer bw * m + half) col))
    (hrest : ∀ z, ¬(r + rowsPer bw * m ≤ z ∧ z < r + rowsPer bw * m + rowsPer bw) → T' z = T z) : RowRun u c bw sp pa mode r m A T T' := by
  have hgives : ∀ half < rowsPer bw, ∀ col < 192 * c.w, RunGives bw sp pa mode (192 * c.h * 2 ^ sp) (panelCol bw half col) A (bLineOf u c (col / 192))
      (T (r + rowsPer bw * m + half) col) (T' (r + rowsPer bw * m + half) col) := fun half hh col hcol => by
    rw [hrow half hh col]
    exact linePasses_gives hbw hpa hb hA (by omega) _ _
  by_cases h0 : bw = 0
  · have hk : rowsPer bw = 2 := if_pos h0
    rw [hk] at hgives hrest
    refine ⟨fun col hcol => ⟨fun h => absurd h0 h, fun _ half hh => ?_⟩, fun z _ hz => hrest z (by have := hz h0; omega)⟩
    have := hgives half hh col hcol
    rwa [panelCol, if_pos h0] at this
  · have hk : rowsPer bw = 1 := if_neg h0
    rw [hk, Nat.one_mul] at hgives hrest
    refine ⟨fun col hcol => ⟨fun _ => ?_, fun h => absurd h h0⟩, fun z hz _ => hrest z (by have := hz h0; omega)⟩
    have := hgives 0 (by omega) col hcol
    rwa [panelCol, if_neg h0] at this

/-- One A row more. -/
theorem repTable_row (hbw : bw < 3) (hpa : 0 < pa) (hb : HoldsB u c bw sp) {rep : Nat × Nat} {m : Nat} {A : Nat → Byte × Bool}
    (hA : ∀ k < 192 * c.h * 2 ^ sp * (1 + pa), lineByte (windowLine u c rep.1 st la m) k = A k) :
    RowRun u c bw sp pa mode rep.2 m A (repTable u c bw sp mode pa st la rep m T) (repTable u c bw sp mode pa st la rep (m + 1) T) := by
  refine rowRun_of hbw hpa hb hA (fun half hh col => ?_) fun z hz => ?_
  · obtain ⟨hdiv, hmod⟩ := rowsPer_split (bw := bw) (r := rep.2) (m := m) (z := rep.2 + rowsPer bw * m + half) (by omega)
    unfold repTable runTable
    rw [Nat.mul_succ, if_pos (by omega), if_neg (by omega), hdiv, hmod, Nat.add_sub_cancel_left]
  · funext col
    unfold repTable runTable
    rw [Nat.mul_succ]
    exact if_congr (by omega) rfl rfl

end

end Sys2Proof.Machine

/-! SUPPORT. `mx.run` when its entry executes (08 R160 to R175, 09 R188, R190, R194). -/

namespace Sys2Proof.Machine

section
variable {s : State} {d l : Nat} {c : Ctx} {e : Entry} {rest : List Entry}

/-- The die as the matrix command finds it differs from the die before in nothing that a run reads. -/
theorem moveLinks_die (s : State) (d l : Nat) : ∃ cs, (moveLinks d l s.sys).die d = { s.sys.die d with ctxs := cs } := (moveLinks_links d l s.sys).die d

theorem elemAt_of_accRow {u v : Die} {z : Nat} (h : accRow v c z = accRow u c z) (n : Nat) : elemAt v c z n = elemAt u c z n := by
  unfold elemAt
  rw [h]

theorem countEvent_die (y : Sys) (p ev n x : Nat) : (countEvent y p ev n).die x = y.die x := by
  unfold countEvent
  split <;> rfl

/-- A run from the window: every repetition and A row, one after another. -/
theorem StartedHead.run_ends (h : StartedHead s d l 0 c e rest) (h7 : c.shape ≠ 7) (hnd : c.blocks.Nodup) {wa wr : BitVec 3} {pm : BitVec 4} {mode src : BitVec 2}
    {m : Common} (hcmd : e.cmd = .mxRun wa wr pm mode src m) (hsrc : src = 0) {bw sp : Nat} (heB : e.eB = (bw, sp)) (hbw : bw < 3)
    (hb : HoldsB (s.sys.die d) c bw sp) {pa la st : Nat} (hpa : pa = pm.toNat + 1) (hla : la = 192 * c.h * 2 ^ sp * (1 + pa))
    (hst : st = if e.params.astr = 0 then la else e.params.astr) (hreps : ∀ b r, (b, r) ∈ e.reps → r + rowsPer bw * e.params.mrows ≤ 256 * c.h) :
    Ends (.entryRetire d l 0) s (fun t => Retired s d l 0 e rest t ∧ CellsKept s t ∧ ∃ acc : Nat → Nat → Nat → Nat → Lane × Bool,
      acc 0 0 = elemAt (s.sys.die d) c ∧ (∀ i b r, e.reps[i]? = some (b, r) → acc (i + 1) 0 = acc i e.params.mrows ∧
        ∀ m < e.params.mrows, RowRun (s.sys.die d) c bw sp pa mode.toNat r m (fun x => s.sys.cell (c.cellAt d (b + m * st + x))) (acc i m) (acc i (m + 1))) ∧
      AccNow s t d c (fun z => ∃ b r, (b, r) ∈ e.reps ∧ r ≤ z ∧ z < r + rowsPer bw * e.params.mrows) (acc e.reps.length 0)) := by
  obtain ⟨cs, hdie⟩ := moveLinks_die s d l
  obtain ⟨u, hu⟩ : ∃ u, u = (moveLinks d l s.sys).die d := ⟨_, rfl⟩
  have hbu : HoldsB u c bw sp := by rw [hu, hdie]; exact hb
  have hbyte : u.byte = (s.sys.die d).byte := by rw [hu, hdie]; rfl
  have hrow : ∀ z, accRow u c z = accRow (s.sys.die d) c z := by rw [hu]; exact accRow_moveLinks s d l c
  have hpos : 0 < pa := by omega
  have hla' : c.aLine sp pa = la := hla.symm
  have hst' : aStride e.params la = st := hst.symm
  have htab : SysTable d c u (moveLinks d l s.sys) (moveLinks d l s.sys) (fun _ => False) (elemAt u c) := ⟨hu ▸ .refl c u, fun _ _ => rfl⟩
  have hrun := htab.reps h7 hnd hbu mode.toNat pa e.params (reps := e.reps) fun rep hm => hreps rep.1 rep.2 hm
  rw [hla', hst'] at hrun
  obtain ⟨b, hstep⟩ : ∃ b, matrixStep d l (moveLinks d l s.sys) e = ⟨countEvent (e.reps.foldl (fun y rep => runRep d c bw sp pa mode.toNat e.params rep y)
      (moveLinks d l s.sys)) c.part 1 (e.reps.length * e.params.mrows), { e with bad := b }, true⟩ := by
    obtain ⟨⟨_, _, _, _, hc⟩, -⟩ := h.links
    unfold matrixStep
    rw [hcmd, hc]
    dsimp only
    rw [if_pos hsrc, heB, ← hpa]
    exact ⟨_, rfl⟩
  obtain ⟨ht, ho⟩ := hrun
  have hbanks := ht.banks
  rw [hu] at hbanks
  refine h.retires hstep ((hbanks.matrixOnly ho).countEvent ..) fun t hret hcells _ htb _ _ => ⟨hret, hcells, ?_⟩
  rw [countEvent_die] at htb
  refine ⟨accStates u c bw sp mode.toNat pa st la e.params.mrows e.reps (elemAt u c), ?_, fun i b r hi => ⟨accStates_next hi, fun m hm => ?_⟩, fun z hz => ⟨fun hin => ?_, fun hout => ?_⟩⟩
  · rw [accStates_start]
    funext z n
    exact elemAt_of_accRow (hrow z) n
  · rw [accStates_some hi, accStates_some hi]
    have hone := repTable_row (u := u) (c := c) (mode := mode.toNat) (st := st) (la := la) (rep := (b, r)) (m := m)
      (T := tableAfter u c bw sp mode.toNat pa st la e.params.mrows (e.reps.take i) (elemAt u c))
      (A := fun x => s.sys.cell (c.cellAt d (b + m * st + x))) hbw hpos hbu fun k hk => by
        have hget := getElem?_winRead u c (b + m * st) la k
        rw [if_pos (by rw [hla]; exact hk), hbyte] at hget
        rw [lineByte, windowLine, List.getD_eq_getElem?_getD, hget]
        rfl
    have hlines : bLineOf u c = bLineOf (s.sys.die d) c := by rw [hu, hdie]; rfl
    unfold RowRun at hone ⊢
    rw [hlines] at hone
    exact hone
  · rw [accRow_of_banks htb, ht.live z hz (.inl (by obtain ⟨b, r, hm, hr⟩ := hin; exact ⟨(b, r), hm, hr⟩)), accStates_start, List.take_length]
  · rw [accRow_of_banks htb, (ht.rest z hz fun hl => hout ?_).1, hrow]
    obtain ⟨rep, hm, hr⟩ := hl.resolve_right id
    exact ⟨rep.1, rep.2, hm, hr⟩

end

end Sys2Proof.Machine

/-! SUPPORT. `mx.run` from a link or the bypass (09 R190, R194): a line is taken when it has come. -/

namespace Sys2Proof.Machine

/-! ## Links that hold no push -/

theorem pushOne_idle {d l ch : Nat} {y : Sys} (h : ∀ g ∈ (y.ctx d l).chains, g.outTo = []) : pushOne d l ch y = none := by
  unfold pushOne
  dsimp only
  split
  · rfl
  · next g hg => rw [h g (List.mem_of_getElem? hg)]

theorem moveLink_idle {d l fuel : Nat} {y : Sys} (h : ∀ g ∈ (y.ctx d l).chains, g.outTo = []) : moveLink d l fuel y = y := by
  cases fuel with
  | zero => rfl
  | succ n =>
    have hnone : (List.range (y.ctx d l).chains.length).findSome? (fun ch => pushOne d l ch y) = none := List.findSome?_eq_none_iff.2 fun ch _ => pushOne_idle h
    rw [moveLink, hnone]

/-- No chain of a fragment or of its siblings holds a push. -/
def NoPush (y : Sys) (d l : Nat) : Prop := ∀ x ∈ l :: (y.ctx d l).grove, ∀ g ∈ (y.ctx d x).chains, g.outTo = []

theorem NoPush.moveLinks {y : Sys} {d l : Nat} (h : NoPush y d l) : moveLinks d l y = y := by
  refine List.foldlRecOn (motive := fun z : Sys => z = y) _ _ rfl fun z hz x hx => ?_
  subst hz
  have hmem : x ∈ l :: (z.ctx d l).grove := by
    rcases List.mem_cons.1 hx with hx | hx
    · exact hx ▸ List.mem_cons_self
    · exact List.mem_cons_of_mem _ (List.mem_filter.1 hx).1
  split
  · exact moveLink_idle (h x hmem)
  · rfl

/-! ## Sources of a run -/

/-- Of the contexts of a die nothing differs that tells which sibling feeds a run, or what its chains hold. -/
structure Still (d l : Nat) (y z : Sys) : Prop where
  ctx : ∃ qs w m b ps ks bs, z.ctx d l = { y.ctx d l with queues := qs, wdCycles := w, mcent := m, mce := b, pend := ps, links := ks, bypass := bs }
  siblings : ∀ x, x ≠ l → z.ctx d x = y.ctx d x

namespace Still

variable {d l : Nat} {x y z : Sys}

theorem refl (y : Sys) : Still d l y y := ⟨⟨_, _, _, _, _, _, _, rfl⟩, fun _ _ => rfl⟩

theorem trans (h : Still d l x y) (k : Still d l y z) : Still d l x z := by
  obtain ⟨_, _, _, _, _, _, _, hc⟩ := h.ctx
  obtain ⟨_, _, _, _, _, _, _, kc⟩ := k.ctx
  exact ⟨⟨_, _, _, _, _, _, _, by rw [kc, hc]⟩, fun i hi => (k.siblings i hi).trans (h.siblings i hi)⟩

theorem of_ctx (h : ∀ x, z.ctx d x = y.ctx d x) : Still d l y z := ⟨⟨_, _, _, _, _, _, _, h l⟩, fun x _ => h x⟩

theorem modCtx {f : Ctx → Ctx} (hf : ∃ qs w m b ps ks bs, f (y.ctx d l) =
    { y.ctx d l with queues := qs, wdCycles := w, mcent := m, mce := b, pend := ps, links := ks, bypass := bs }) : Still d l y (y.modCtx d l f) :=
  ⟨by rw [Sys.ctx_modCtx_self]; exact hf, fun x hx => by rw [Sys.ctx_modCtx, if_neg (fun h => hx h.2)]⟩

theorem layout (h : Still d l y z) (x : Nat) : (z.ctx d x).lead = (y.ctx d x).lead ∧ (z.ctx d x).h = (y.ctx d x).h ∧ (z.ctx d x).w = (y.ctx d x).w ∧
    (z.ctx d x).chains = (y.ctx d x).chains := by
  by_cases hx : x = l
  · obtain ⟨_, _, _, _, _, _, _, hc⟩ := h.ctx
    rw [hx, hc]
    exact ⟨rfl, rfl, rfl, rfl⟩
  · rw [h.siblings x hx]
    exact ⟨rfl, rfl, rfl, rfl⟩

theorem noPush (h : Still d l y z) (hy : NoPush y d l) : NoPush z d l := by
  obtain ⟨_, _, _, _, _, _, _, hc⟩ := h.ctx
  intro x hx g hg
  rw [(h.layout x).2.2.2] at hg
  exact hy x (by rw [hc] at hx; exact hx) g hg

theorem leftEver (h : Still d l y z) : leftEver z d (z.ctx d l) = leftEver y d (y.ctx d l) := by
  obtain ⟨_, _, _, _, _, _, _, hc⟩ := h.ctx
  obtain ⟨hl, hh, -, -⟩ := h.layout l
  have hg : (z.ctx d l).grove = (y.ctx d l).grove := by rw [hc]
  have hp : (z.ctx d l).piece = (y.ctx d l).piece := by rw [hc]
  have hsib : ∀ x, ((z.ctx d x).lead / 6 == (y.ctx d l).lead / 6 && (z.ctx d x).h == (y.ctx d l).h && (y.ctx d l).lead % 6 == (z.ctx d x).lead % 6 + (z.ctx d x).w) =
      ((y.ctx d x).lead / 6 == (y.ctx d l).lead / 6 && (y.ctx d x).h == (y.ctx d l).h && (y.ctx d l).lead % 6 == (y.ctx d x).lead % 6 + (y.ctx d x).w) := fun x => by
    obtain ⟨h1, h2, h3, -⟩ := h.layout x
    rw [h1, h2, h3]
  unfold Sys2Proof.Machine.leftEver Sys.piece?
  rw [hl, hh, hg, hp]
  simp only [Option.map_map, Function.comp_def, hsib]

/-- The source of a run holds the same bytes when links and bypass do. -/
theorem runSource (h : Still d l y z) (hk : (z.ctx d l).links = (y.ctx d l).links) (hb : (z.ctx d l).bypass = (y.ctx d l).bypass) (link : Bool) :
    runSource z d (z.ctx d l) link = runSource y d (y.ctx d l) link := by
  unfold Sys2Proof.Machine.runSource
  rw [h.leftEver, hk, hb]

end Still

section
variable {d l : Nat}

/-- What leaves the source of a run is no longer there. -/
theorem dropSource_source (y : Sys) (n : Nat) (link : Bool) : Still d l y (dropSource y d l n link) ∧
    runSource (dropSource y d l n link) d ((dropSource y d l n link).ctx d l) link = (runSource y d (y.ctx d l) link).drop n := by
  have hstill : Still d l y (dropSource y d l n link) := by
    unfold dropSource
    refine .modCtx ?_
    split
    · exact ⟨_, _, _, _, _, _, _, rfl⟩
    · exact ⟨_, _, _, _, _, _, _, rfl⟩
  refine ⟨hstill, ?_⟩
  unfold runSource
  rw [hstill.leftEver]
  unfold dropSource
  rw [Sys.ctx_modCtx_self]
  cases link
  case false => rfl
  case true => simp only [if_true, mgetD_mset_self]

theorem dropSource_die (y : Sys) (n : Nat) (link : Bool) (x : Nat) : ∃ cs, (dropSource y d l n link).die x = { y.die x with ctxs := cs } := by
  unfold dropSource
  dsimp only
  rw [Sys.modCtx, Sys.setCtx, Sys.die_modDie]
  split
  · next h => subst h; exact ⟨_, rfl⟩
  · exact ⟨_, rfl⟩

/-- The contexts are those of before, and so is what waits in links and bypass. -/
structure SourceKept (d l : Nat) (y z : Sys) : Prop where
  still : Still d l y z
  links : (z.ctx d l).links = (y.ctx d l).links
  bypass : (z.ctx d l).bypass = (y.ctx d l).bypass

namespace SourceKept

variable {x y z : Sys}

theorem trans (h : SourceKept d l x y) (k : SourceKept d l y z) : SourceKept d l x z :=
  ⟨h.still.trans k.still, k.links.trans h.links, k.bypass.trans h.bypass⟩

theorem of_ctx (h : ∀ x, z.ctx d x = y.ctx d x) : SourceKept d l y z := ⟨.of_ctx h, by rw [h], by rw [h]⟩

theorem modCtx {f : Ctx → Ctx} (hf : ∃ qs w m b ps, f (y.ctx d l) = { y.ctx d l with queues := qs, wdCycles := w, mcent := m, mce := b, pend := ps }) :
    SourceKept d l y (y.modCtx d l f) := by
  obtain ⟨_, _, _, _, _, hf⟩ := hf
  exact ⟨.modCtx ⟨_, _, _, _, _, _, _, hf⟩, by rw [Sys.ctx_modCtx_self, hf], by rw [Sys.ctx_modCtx_self, hf]⟩

theorem modEntry (y : Sys) (q n : Nat) (f : Entry → Entry) : SourceKept d l y (y.modEntry d l q n f) := .modCtx ⟨_, _, _, _, _, rfl⟩

theorem entryStands (e e' : Entry) (v : Sys) : SourceKept d l v (entryStands d l e e' v) := by
  unfold Sys2Proof.Machine.entryStands
  dsimp only
  split
  · exact (modEntry ..).trans (.modCtx ⟨_, _, _, _, _, rfl⟩)
  · exact modEntry ..

theorem applySignal (q : Nat) (e : Entry) (y : Sys) : SourceKept d l y (applySignal d l q e y) := by
  unfold Sys2Proof.Machine.applySignal
  dsimp only
  split
  · exact .of_ctx fun _ => rfl
  · split
    · exact modEntry ..
    · exact (modEntry ..).trans (.of_ctx fun _ => semSignal_ctx ..)

theorem retireHead (q : Nat) (e : Entry) (y : Sys) : SourceKept d l y (retireHead d l q e y) := by
  have hcomplete : SourceKept d l y (complete d l q e y) := (modEntry ..).trans (applySignal ..)
  have hlog : SourceKept d l y (logEntry (complete d l q e y) d l q 5 e) := hcomplete.trans (.of_ctx fun x => (logKept_logEntry ..).ctx d x)
  have hgone := hlog.trans (.modCtx (f := fun c => { c.modQueue q (fun u => { u with ret := e.num, ents := u.ents.drop 1 }) with wdCycles := 0 }) ⟨_, _, _, _, _, rfl⟩)
  have hpend : ∀ (z : Sys) (c : PendCause), SourceKept d l z (z.modCtx d l (fun x => if x.pend.contains c then x else { x with pend := x.pend ++ [c] })) :=
    fun z c => .modCtx (by split <;> exact ⟨_, _, _, _, _, rfl⟩)
  unfold Sys2Proof.Machine.retireHead entryMachineCheck addPend
  dsimp only
  split
  · split
    · exact (hgone.trans (.modCtx ⟨_, _, _, _, _, rfl⟩)).trans (hpend ..)
    · exact hgone.trans (hpend ..)
  · exact hgone

end SourceKept

end

end Sys2Proof.Machine

/-! SUPPORT. A turn of a run from a link or the bypass: it waits, or takes one line (09 R190; log entry 127). -/

namespace Sys2Proof.Machine

/-! ## The context as the entry was issued -/

/-- A context whose layout is that of an issued entry, whatever else differs. -/
theorem Ctx.asIssued_self {b c : Ctx} {g : Option (Nat × Nat × Nat × Nat)} (h : b.asIssued g = b) (hs : c.shape = b.shape) (hl : c.lead = b.lead) (hh : c.h = b.h)
    (hw : c.w = b.w) : c.asIssued g = c := by
  cases g with
  | none => rfl
  | some g =>
    obtain ⟨s, l, k, w⟩ := g
    have h1 : s = c.shape := (congrArg Ctx.shape h).trans hs.symm
    have h2 : l = c.lead := (congrArg Ctx.lead h).trans hl.symm
    have h3 : k = c.h := (congrArg Ctx.h h).trans hh.symm
    have h4 : w = c.w := (congrArg Ctx.w h).trans hw.symm
    subst h1 h2 h3 h4
    rfl

/-- Nothing but the source of a run and the accumulators of the fragment differs. -/
structure StreamOnly (d l : Nat) (y z : Sys) : Prop where
  ctx : ∃ ks bs, z.ctx d l = { y.ctx d l with links := ks, bypass := bs }
  siblings : ∀ x, x ≠ l → z.ctx d x = y.ctx d x
  die : ∃ bk cs, z.die d = { y.die d with banks := bk, ctxs := cs }
  others : ∀ x, x ≠ d → z.die x = y.die x

namespace StreamOnly

variable {d l : Nat} {x y z : Sys}

theorem trans (h : StreamOnly d l x y) (k : StreamOnly d l y z) : StreamOnly d l x z := by
  obtain ⟨_, _, hc⟩ := h.ctx
  obtain ⟨_, _, kc⟩ := k.ctx
  obtain ⟨_, _, hd⟩ := h.die
  obtain ⟨_, _, kd⟩ := k.die
  exact ⟨⟨_, _, by rw [kc, hc]⟩, fun i hi => (k.siblings i hi).trans (h.siblings i hi), ⟨_, _, by rw [kd, hd]⟩, fun i hi => (k.others i hi).trans (h.others i hi)⟩

theorem still (h : StreamOnly d l y z) : Still d l y z := by
  obtain ⟨_, _, hc⟩ := h.ctx
  exact ⟨⟨_, _, _, _, _, _, _, hc⟩, h.siblings⟩

theorem cell (h : StreamOnly d l y z) (x : Cell) : z.cell x = y.cell x := by
  obtain ⟨_, _, hd⟩ := h.die
  refine Sys.cell_of_die (fun e => ?_) x
  by_cases he : e = d
  · subst he; rw [hd]; exact ⟨rfl, rfl, rfl⟩
  · rw [h.others e he]; exact ⟨rfl, rfl, rfl⟩

theorem dropSource (y : Sys) (n : Nat) (link : Bool) : StreamOnly d l y (dropSource y d l n link) := by
  obtain ⟨hstill, -⟩ := dropSource_source (d := d) (l := l) y n link
  refine ⟨?_, hstill.siblings, ?_, fun x hx => ?_⟩
  · unfold Sys2Proof.Machine.dropSource
    rw [Sys.ctx_modCtx_self]
    split
    · exact ⟨_, _, rfl⟩
    · exact ⟨_, _, rfl⟩
  · obtain ⟨_, hd⟩ := dropSource_die (d := d) (l := l) y n link d
    exact ⟨_, _, hd⟩
  · unfold Sys2Proof.Machine.dropSource
    exact Sys.die_modDie_ne _ _ hx

/-- A change of the banks. -/
theorem banks {f : Die → Die} (hf : BanksOnly (y.die d) (f (y.die d))) (p ev n : Nat) (hz : z.dies = y.dies) : StreamOnly d l y (countEvent (z.modDie d f) p ev n) := by
  obtain ⟨bk, hf⟩ := hf
  have hd : ∀ i, z.die i = y.die i := fun i => by unfold Sys.die; rw [hz]
  have hdie : (countEvent (z.modDie d f) p ev n).die d = { y.die d with banks := bk } := by rw [countEvent_die, Sys.die_modDie_self, hd, hf]
  have hctx : ∀ i, (countEvent (z.modDie d f) p ev n).ctx d i = y.ctx d i := fun i => by unfold Sys.ctx; rw [hdie]
  exact ⟨⟨_, _, hctx l⟩, fun i _ => hctx i, ⟨_, _, hdie⟩, fun i hi => by rw [countEvent_die, Sys.die_modDie_ne _ _ hi, hd]⟩

end StreamOnly

/-! ## Lines -/

section
variable {d l : Nat} {y : Sys} {e : Entry} {link : Bool} {pm : BitVec 4} {mode fuel : Nat} {held : List Byte} {la : Nat}

/-- The line has not come. -/
theorem runStream_waits (hgeo : y.ctxFor d l e = y.ctx d l) (hrep : e.rep < e.reps.length) (hheld : held = runSource y d (y.ctx d l) link)
    (hla : la = (y.ctx d l).aLine e.eB.2 (pm.toNat + 1)) (hlt : held.length < la - e.buf.length) (hroom : held.length + 768 ≤ 12288) :
    runStream d l link pm mode (fuel + 1) y e = ⟨dropSource y d l 0 link, e, false⟩ := by
  have htake : takeable held.length (la - e.buf.length) = 0 := by
    rw [takeable, if_neg (by omega), if_neg (by unfold linkCap beatBytes; omega)]
  rw [runStream]
  dsimp only
  rw [hgeo, ← hla, ← hheld, htake, List.take_zero, List.append_nil, if_neg (by omega), if_pos (by omega)]

/-- All repetitions are done. -/
theorem runStream_done (hrep : e.reps.length ≤ e.rep) : runStream d l link pm mode (fuel + 1) y e = ⟨y, e, true⟩ := by
  rw [runStream]
  exact if_pos hrep

/-- The system after a line has been taken. -/
def lineTaken (d l : Nat) (c : Ctx) (link : Bool) (pa mode : Nat) (e : Entry) (held : List Byte) (y : Sys) : Sys :=
  let z := dropSource y d l held.length link
  countEvent (Sys.modDie { z with used := z.used + lineFree c e.eB.1 } d
    (runLine c e.eB.1 e.eB.2 0 mode pa (clean (e.buf ++ held)) ((e.reps[e.rep]?).getD (0, 0)).2 e.pos z.used)) c.part 1 1

/-- The entry after a line. -/
def Entry.nextLine (e : Entry) (b : Bool) : Entry :=
  if e.pos + 1 < e.params.mrows then { e with buf := [], bad := b, pos := e.pos + 1 } else { e with buf := [], bad := b, pos := 0, rep := e.rep + 1 }

theorem runStream_takes (hgeo : y.ctxFor d l e = y.ctx d l) (hrep : e.rep < e.reps.length) (hheld : held = runSource y d (y.ctx d l) link)
    (hla : la = (y.ctx d l).aLine e.eB.2 (pm.toNat + 1)) (hlen : e.buf.length + held.length = la) :
    ∃ b, runStream d l link pm mode (fuel + 1) y e = runStream d l link pm mode fuel (lineTaken d l (y.ctx d l) link (pm.toNat + 1) mode e held y) (e.nextLine b) := by
  have htake : takeable held.length (la - e.buf.length) = held.length := by
    rw [takeable, if_pos (by omega)]
    omega
  rw [runStream]
  dsimp only
  rw [hgeo, ← hla, ← hheld, htake, List.take_length, if_neg (by omega), if_neg (by rw [List.length_append]; omega)]
  exact ⟨_, rfl⟩

end

/-! ## A turn -/

/-- A started run from a link or the bypass, in a fragment laid out as the entry was issued, where no chain holds a push. -/
structure StreamHead (s : State) (d l : Nat) (c : Ctx) (e : Entry) (rest : List Entry) (link : Bool) (pm : BitVec 4) (mode : Nat) : Prop where
  head : StartedHead s d l 0 c e rest
  ctx : c = s.sys.ctx d l
  noPush : NoPush s.sys d l
  step : ∀ y, matrixStep d l y e = runStream d l link pm mode streamFuel y e
  left : e.rep < e.reps.length

section
variable {s : State} {d l : Nat} {c : Ctx} {e : Entry} {rest : List Entry} {link : Bool} {pm : BitVec 4} {mode : Nat}

theorem StreamHead.issued (h : StreamHead s d l c e rest link pm mode) {z : Sys} (hz : StreamOnly d l s.sys z) {e' : Entry} (he : e'.geo = e.geo) :
    z.ctxFor d l e' = z.ctx d l := by
  obtain ⟨_, _, hc⟩ := hz.ctx
  have hself : (s.sys.ctx d l).asIssued e.geo = s.sys.ctx d l := h.head.ctx.symm.trans h.ctx
  rw [Sys.ctxFor, he]
  refine Ctx.asIssued_self hself ?_ ?_ ?_ ?_ <;> rw [hc]

theorem StreamOnly.refl (y : Sys) : StreamOnly d l y y := ⟨⟨_, _, rfl⟩, fun _ _ => rfl, ⟨_, _, rfl⟩, fun _ _ => rfl⟩

/-- What stands after a turn is what the run has left, in its entry, its source and the accumulators. -/
theorem StreamHead.settled (h : StreamHead s d l c e rest link pm mode) {v : Sys} {e' : Entry} {done : Bool} (hv : StreamOnly d l s.sys v)
    (hr : runStream d l link pm mode streamFuel s.sys e = ⟨v, e', done⟩) (hn : e'.num = e.num) (hs : e'.signal = e.signal) (hg : e'.signalled = e.signalled) :
    (∃ b, Settled b d l v (matrixRetire d l e s.sys)) ∧
    runSource (matrixRetire d l e s.sys) d ((matrixRetire d l e s.sys).ctx d l) link = runSource v d (v.ctx d l) link ∧
    (done = false → (((matrixRetire d l e s.sys).ctx d l).queue 0).ents = { e' with started := true } :: rest) ∧
    (done = true → Retired s d l 0 e rest { s with sys := noteExcess (matrixRetire d l e s.sys) }) := by
  have hidle := h.noPush.moveLinks
  have hstep : matrixStep d l (moveLinks d l s.sys) e = ⟨v, e', done⟩ := by rw [hidle, h.step, hr]
  obtain ⟨_, _, hc⟩ := hv.ctx
  obtain ⟨_, _, hd⟩ := hv.die
  have ha : Acted s d l e v e' := ⟨hn, hs, hg, by rw [hc]; rfl, by rw [hd]⟩
  have hkept : SourceKept d l v (matrixRetire d l e s.sys) := by
    have hafter : SourceKept d l v (if done then retireHead d l 0 { e' with started := true } (entryStands d l e e' v) else entryStands d l e e' v) := by
      split
      · exact (SourceKept.entryStands e e' v).trans (.retireHead ..)
      · exact .entryStands e e' v
    have hretire : matrixRetire d l e s.sys =
        moveLinks d l (if done then retireHead d l 0 { e' with started := true } (entryStands d l e e' v) else entryStands d l e e' v) := by
      unfold matrixRetire; rw [hstep]; rfl
    rw [hretire, ((hv.still.trans hafter.still).noPush h.noPush).moveLinks]
    exact hafter
  refine ⟨?_, hkept.still.runSource hkept.links hkept.bypass link, fun hd => ?_, fun hd => ?_⟩
  · cases done
    case false => exact ⟨_, (ha.goesOn h.head hstep).1⟩
    case true => exact ⟨_, (ha.retires h.head hstep).1⟩
  · subst hd
    exact (ha.goesOn h.head hstep).2
  · subst hd
    exact (ha.retires h.head hstep).2

theorem runSource_noteExcess (y : Sys) : runSource (noteExcess y) d ((noteExcess y).ctx d l) link = runSource y d (y.ctx d l) link := by
  have hkept : SourceKept d l y (noteExcess y) := .of_ctx fun x => noteExcess_ctx y d x
  exact hkept.still.runSource hkept.links hkept.bypass link

/-- The line has not come: nothing moves. -/
theorem StreamHead.waits (h : StreamHead s d l c e rest link pm mode) {held : List Byte} (hheld : held = runSource s.sys d c link) {la : Nat}
    (hla : la = c.aLine e.eB.2 (pm.toNat + 1)) (hlt : held.length < la - e.buf.length) (hroom : held.length + 768 ≤ 12288) :
    Ends (.entryRetire d l 0) s (fun t => ((t.sys.ctx d l).queue 0).ents = e :: rest ∧ CellsKept s t ∧ runSource t.sys d (t.sys.ctx d l) link = held ∧
      ∀ z, accRow (t.sys.die d) c z = accRow (s.sys.die d) c z) := by
  have hc := h.ctx
  subst hc
  have hdrop : StreamOnly d l s.sys (dropSource s.sys d l 0 link) := .dropSource s.sys 0 link
  have hrun := runStream_waits (fuel := 4095) (mode := mode) (h.issued (.refl s.sys) rfl) h.left hheld hla hlt hroom
  obtain ⟨⟨_, hset⟩, hsource, hents, -⟩ := h.settled hdrop hrun rfl rfl rfl
  have hstarted : ({ e with started := true } : Entry) = e := by rw [← h.head.started]
  refine h.head.ends ⟨by rw [noteExcess_ctx, hents rfl, hstarted], fun x => ?_, ?_, fun z => ?_⟩
  · rw [noteExcess_cell, hset.cell, hdrop.cell]
  · rw [runSource_noteExcess, hsource, (dropSource_source s.sys 0 link).2, List.drop_zero, hheld]
  · obtain ⟨_, hd⟩ := dropSource_die (d := d) (l := l) s.sys 0 link d
    rw [noteExcess_die, accRow_of_banks hset.banks]
    exact accRow_of_banks (by rw [hd]) _ z

theorem Entry.nextLine_kept (e : Entry) (b : Bool) : (e.nextLine b).num = e.num ∧ (e.nextLine b).signal = e.signal ∧ (e.nextLine b).signalled = e.signalled ∧
    (e.nextLine b).geo = e.geo ∧ (e.nextLine b).eB = e.eB ∧ (e.nextLine b).reps = e.reps ∧ (e.nextLine b).buf = [] := by
  unfold Entry.nextLine
  split <;> exact ⟨rfl, rfl, rfl, rfl, rfl, rfl, rfl⟩

theorem dropSource_banks (y : Sys) (n : Nat) : ((dropSource y d l n link).die d).banks = (y.die d).banks := by
  obtain ⟨_, hd⟩ := dropSource_die (d := d) (l := l) y n link d
  rw [hd]

/-- The line that a turn takes acts on the accumulators as an A row, and leaves its source. -/
theorem lineTaken_spec (h7 : c.shape ≠ 7) (hnd : c.blocks.Nodup) {y : Sys} {bw sp pa : Nat} (hb : HoldsB (y.die d) c bw sp) (heB : e.eB = (bw, sp)) {r : Nat}
    (hrep : ((e.reps[e.rep]?).getD (0, 0)).2 = r) {held : List Byte} (hheld : held = runSource y d (y.ctx d l) link) (hr : r + rowsPer bw * (e.pos + 1) ≤ 256 * c.h) :
    StreamOnly d l y (lineTaken d l c link pa mode e held y) ∧
    runSource (lineTaken d l c link pa mode e held y) d ((lineTaken d l c link pa mode e held y).ctx d l) link = [] ∧
    HasTable c ((dropSource y d l held.length link).die d) ((lineTaken d l c link pa mode e held y).die d)
      (fun z => r + rowsPer bw * e.pos ≤ z ∧ z < r + rowsPer bw * e.pos + rowsPer bw ∨ False)
      (lineTable ((dropSource y d l held.length link).die d) c bw sp 0 mode pa (clean (e.buf ++ held)) (r + rowsPer bw * e.pos)
        (elemAt ((dropSource y d l held.length link).die d) c)) := by
  obtain ⟨_, hd⟩ := dropSource_die (d := d) (l := l) y held.length link d
  obtain ⟨-, hsource⟩ := dropSource_source (d := d) (l := l) y held.length link
  have hbu : HoldsB ((dropSource y d l held.length link).die d) c bw sp := by rw [hd]; exact hb
  have htab := (HasTable.refl c ((dropSource y d l held.length link).die d)).line h7 hnd hbu 0 mode pa (clean (e.buf ++ held)) (dropSource y d l held.length link).used hr
  unfold lineTaken
  dsimp only
  rw [heB, hrep]
  refine ⟨(StreamOnly.dropSource y held.length link).trans (.banks htab.banks _ _ _ rfl), ?_, ?_⟩
  · have hctx : ∀ (z : Sys) (f : Die → Die), z.dies = (dropSource y d l held.length link).dies → BanksOnly ((dropSource y d l held.length link).die d)
        (f ((dropSource y d l held.length link).die d)) → ∀ x, (countEvent (z.modDie d f) c.part 1 1).ctx d x = (dropSource y d l held.length link).ctx d x := by
      rintro z f hz ⟨_, hf⟩ x
      have hzd : z.die d = (dropSource y d l held.length link).die d := by unfold Sys.die; rw [hz]
      rw [countEvent_ctx]
      unfold Sys.ctx
      rw [Sys.die_modDie_self, hzd, hf]
    have hkept := SourceKept.of_ctx (l := l) (hctx { dropSource y d l held.length link with used := (dropSource y d l held.length link).used + lineFree c bw } _ rfl htab.banks)
    rw [hkept.still.runSource hkept.links hkept.bypass, hsource, ← hheld, List.drop_length]
  · rw [countEvent_die, Sys.die_modDie_self]
    exact htab

/-- A whole line has come: the run takes it, and goes on until it waits for the next one or is done. -/
theorem StreamHead.turn (h : StreamHead s d l c e rest link pm mode) {pa : Nat} (hpa : pa = pm.toNat + 1) {held : List Byte} (hheld : held = runSource s.sys d c link)
    {la : Nat} (hla : la = c.aLine e.eB.2 pa) (hpos : 0 < la) (hlen : e.buf.length + held.length = la) {z : Sys} (hz : z = lineTaken d l c link pa mode e held s.sys)
    (hline : StreamOnly d l s.sys z) (hempty : runSource z d (z.ctx d l) link = []) :
    ∃ b v, runStream d l link pm mode streamFuel s.sys e = ⟨v, e.nextLine b, decide (e.reps.length ≤ (e.nextLine b).rep)⟩ ∧ StreamOnly d l s.sys v ∧
      (v.die d).banks = (z.die d).banks ∧ runSource v d (v.ctx d l) link = [] := by
  have hc := h.ctx
  subst hc hpa
  obtain ⟨fuel, hfuel⟩ : ∃ fuel, streamFuel = fuel + 1 + 1 := ⟨4094, rfl⟩
  obtain ⟨b, hrun⟩ := runStream_takes (fuel := fuel + 1) (mode := mode) (link := link) (h.issued (.refl s.sys) rfl) h.left hheld hla hlen
  obtain ⟨-, -, -, hgeo, heB, hreps, hbuf⟩ := e.nextLine_kept b
  rw [← hz, ← hfuel] at hrun
  by_cases hdone : e.reps.length ≤ (e.nextLine b).rep
  · refine ⟨b, z, ?_, hline, rfl, hempty⟩
    rw [hrun, runStream_done (hreps ▸ hdone), decide_eq_true hdone]
  · have hlong : la = (z.ctx d l).aLine (e.nextLine b).eB.2 (pm.toNat + 1) := by
      obtain ⟨_, _, hctx⟩ := hline.ctx
      rw [hctx, hla, heB]
      rfl
    refine ⟨b, dropSource z d l 0 link, ?_, hline.trans (.dropSource z 0 link), dropSource_banks .., ?_⟩
    · rw [hrun, runStream_waits (h.issued hline hgeo) (by rw [hreps]; omega) hempty.symm hlong (by rw [hbuf]; exact hpos) (by decide), decide_eq_false hdone]
    · rw [(dropSource_source z 0 link).2, List.drop_zero, hempty]

/-- A turn that takes a whole line. -/
theorem StreamHead.takes (h : StreamHead s d l c e rest link pm mode) (h7 : c.shape ≠ 7) (hnd : c.blocks.Nodup) {bw sp pa : Nat} (hb : HoldsB (s.sys.die d) c bw sp)
    (heB : e.eB = (bw, sp)) (hpa : pa = pm.toNat + 1) {b r : Nat} (hrep : e.reps[e.rep]? = some (b, r)) {held : List Byte} (hheld : held = runSource s.sys d c link) {la : Nat}
    (hla : la = c.aLine sp pa) (hpos : 0 < la) (hlen : e.buf.length + held.length = la) (hr : r + rowsPer bw * (e.pos + 1) ≤ 256 * c.h) :
    ∃ u, (∃ cs, u = { s.sys.die d with ctxs := cs }) ∧ Ends (.entryRetire d l 0) s (fun t => CellsKept s t ∧ runSource t.sys d (t.sys.ctx d l) link = [] ∧
      (∀ z < 256 * c.h, (r + rowsPer bw * e.pos ≤ z ∧ z < r + rowsPer bw * e.pos + rowsPer bw → accRow (t.sys.die d) c z = (List.range (192 * c.w)).map (fun n =>
        some (lineTable u c bw sp 0 mode pa (clean (e.buf ++ held)) (r + rowsPer bw * e.pos) (elemAt u c) z n))) ∧
        (¬(r + rowsPer bw * e.pos ≤ z ∧ z < r + rowsPer bw * e.pos + rowsPer bw) → accRow (t.sys.die d) c z = accRow (s.sys.die d) c z)) ∧
      ∃ b', ((e.nextLine b').rep < e.reps.length → ((t.sys.ctx d l).queue 0).ents = { e.nextLine b' with started := true } :: rest) ∧
        (e.reps.length ≤ (e.nextLine b').rep → Retired s d l 0 e rest t)) := by
  obtain ⟨cs, hud⟩ := dropSource_die (d := d) (l := l) s.sys held.length link d
  obtain ⟨hline, hempty, htab⟩ := lineTaken_spec (link := link) (mode := mode) (pa := pa) (e := e) h7 hnd hb heB (by rw [hrep]; rfl) (h.ctx ▸ hheld) hr
  obtain ⟨b', v, hrun, hv, hbanks, hsource⟩ := h.turn hpa hheld (by rw [hla, heB]) hpos hlen rfl hline hempty
  obtain ⟨hn, hs, hg, -⟩ := e.nextLine_kept b'
  obtain ⟨⟨_, hset⟩, hkept, hents, hret⟩ := h.settled hv hrun hn hs hg
  have hrows : ∀ z, accRow ((noteExcess (matrixRetire d l e s.sys)).die d) c z = accRow ((lineTaken d l c link pa mode e held s.sys).die d) c z :=
    accRow_of_banks (by rw [noteExcess_die, hset.banks, hbanks]) c
  refine ⟨_, ⟨cs, hud⟩, h.head.ends ⟨fun x => ?_, ?_, fun z hz => ⟨fun hin => ?_, fun hout => ?_⟩, b', fun hlt => ?_, fun hle => hret (decide_eq_true hle)⟩⟩
  · rw [noteExcess_cell, hset.cell, hv.cell]
  · rw [runSource_noteExcess, hkept, hsource]
  · rw [hrows, htab.live z hz (.inl hin)]
  · rw [hrows, (htab.rest z hz fun hin => hout (hin.resolve_right id)).1]
    exact accRow_of_banks (by rw [hud]) c z
  · rw [noteExcess_ctx]
    exact hents (decide_eq_false (Nat.not_le.2 hlt))

end

end Sys2Proof.Machine

/-! SUPPORT. `mx.run` at issue and when its entry executes. -/

namespace Sys2Proof.Machine

/-! ## Issue (09 R188, R189) -/

/-- A run whose rows, A lines and source pass their checks. -/
structure GoodRun (s : State) (wa wr : BitVec 3) (pm : BitVec 4) (mode src : BitVec 2) (c : Common) (bw sp la st : Nat) : Prop where
  held : s.ctxNow.iB = (bw, sp)
  line : la = 192 * s.ctxNow.h * 2 ^ sp * (2 + pm.toNat)
  step : st = if s.ctxNow.params.astr = 0 then la else s.ctxNow.params.astr
  rowWalk : Walks s wr c
  planes : mode = 0 → 3 ≤ pm.toNat
  stride : s.ctxNow.params.astr = 0 ∨ la ≤ s.ctxNow.params.astr
  dense : src ≠ 0 → bw ≠ 2
  window : src = 0 → Walks s wa c ∧ ∀ i, i ≤ c.rep.toNat → Fits s (s.place wa c i).toNat ((s.ctxNow.params.mrows - 1) * st + la)
  link : src = 1 → ∃ n, leftOf s.sys s.cur.die s.ctxNow = some n
  bypass : src = 2 → s.ctxNow.chains ≠ []
  rows : ∀ i, i ≤ c.rep.toNat → (s.place wr c i).toNat + (if bw = 0 then 2 * s.ctxNow.params.mrows else s.ctxNow.params.mrows) ≤ 256 * s.ctxNow.h

/-- The entry of a run. -/
def runEntry (s : State) (wa wr : BitVec 3) (pm : BitVec 4) (src : BitVec 2) (c : Common) (bw sp la st : Nat) : Entry :=
  { num := 0, cmd := .nop, reps := (repetitions c).map (fun i => (if src = 0 then (s.place wa c i).toNat else 0, (s.place wr c i).toNat))
    params := s.ctxNow.params, eB := (bw, sp)
    rd := if src = 0 then (repetitions c).flatMap (fun i => rowSpans (s.place wa c i).toNat st s.ctxNow.params.mrows la) else []
    weight := runWeight s.ctxNow.blocks.length bw sp (pm.toNat + 1) }

section
variable {s : State} {c : Common} {wa wr : BitVec 3} {pm : BitVec 4} {mode src : BitVec 2} {bw sp la st : Nat}

/-- None of the operand codes 0x06 to 0x0A applies. -/
theorem GoodRun.noCode (h : GoodRun s wa wr pm mode src c bw sp la st) :
    (mode == 0 && decide (pm.toNat + 1 < 4)) = false ∧ ((s.sys.ctxOf s.cur).params.astr != 0 && decide ((s.sys.ctxOf s.cur).params.astr < la)) = false ∧
    (src == 2 && (s.sys.ctxOf s.cur).chains.isEmpty) = false ∧ (src == 1 && (leftOf s.sys s.cur.die (s.sys.ctxOf s.cur)).isNone) = false ∧ (src != 0 && bw == 2) = false := by
  refine ⟨?_, ?_, ?_, ?_, ?_⟩ <;> rw [← Bool.not_eq_true, Bool.and_eq_true]
  · rintro ⟨h1, h2⟩
    have := h.planes (eq_of_beq h1)
    have := of_decide_eq_true h2
    omega
  · rintro ⟨h1, h2⟩
    exact absurd (of_decide_eq_true h2) (Nat.not_lt.2 (h.stride.resolve_left (bne_iff_ne.1 h1)))
  · rintro ⟨h1, h2⟩
    exact h.bypass (eq_of_beq h1) (List.isEmpty_iff.1 h2)
  · rintro ⟨h1, h2⟩
    obtain ⟨n, hn⟩ := h.link (eq_of_beq h1)
    rw [State.ctxOf_cur, hn] at h2
    exact Bool.false_ne_true h2
  · rintro ⟨h1, h2⟩
    exact h.dense (bne_iff_ne.1 h1) (eq_of_beq h2)

theorem runPlan_ok (ha : HoldsArray s) (h : GoodRun s wa wr pm mode src c bw sp la st) :
    runPlan wa wr pm mode src c s.cur s.sys = .ok { e := runEntry s wa wr pm src c bw sp la st } := by
  have hla : (s.sys.ctxOf s.cur).aLine sp (pm.toNat + 1) = la := by
    rw [h.line, show 2 + pm.toNat = 1 + (pm.toNat + 1) by omega]
    rfl
  have hst : aStride (s.sys.ctxOf s.cur).params la = st := h.step.symm
  have hB : (s.sys.ctxOf s.cur).iB = (bw, sp) := h.held
  obtain ⟨h6, h7, h8, h9, h10⟩ := h.noCode
  simp only [runPlan, ha.checked, iss_ok_bind, hB]
  rw [hla, hst, eachRep_ok (g := fun i => (if src = 0 then (s.place wa c i).toNat else 0, (s.place wr c i).toNat)) (fun i hi => ?_)]
  · rw [iss_ok_bind, List.flatMap_map]
    unfold runEntry
    by_cases hsrc : src = 0
    · simp only [if_pos hsrc]
      rfl
    · simp only [if_neg hsrc]
      rfl
  · have hin : checkRows (s.sys.ctxOf s.cur) (s.place wr c i).toNat (runRows bw (s.sys.ctxOf s.cur).params.mrows) i = .ok () := checkRows_inside (h.rows i hi) i
    by_cases hsrc : src = 0
    · obtain ⟨hwalk, hfit⟩ := h.window hsrc
      have hwin : checkWin (s.sys.ctxOf s.cur) (s.place wa c i).toNat (((s.sys.ctxOf s.cur).params.mrows - 1) * st + la) i = .ok () := checkWin_fits (hfit i hi) i
      simp only [if_pos hsrc, repAddr_walks hwalk, repAddr_walks h.rowWalk, iss_ok_bind, hwin, hin, h6, h7, h8, h9, h10,
        codeIf_false, iss_pure]
    · simp only [if_neg hsrc, repAddr_walks h.rowWalk, iss_pure, iss_ok_bind, hin, h6, h7, h8, h9, h10,
        codeIf_false, iss_pure]

theorem run_queued (ha : HoldsArray s) (hacc : Accepts s c) (h : GoodRun s wa wr pm mode src c bw sp la st) :
    Ends (.mxRun wa wr pm mode src c) s (Queued s (.mxRun wa wr pm mode src c) c 0 (runEntry s wa wr pm src c bw sp la st) id) := by
  have hq := issue_queued (i := .mxRun wa wr pm mode src c) (u := .matrix) (qc := 0) hacc rfl (runPlan_ok ha h) rfl
  exact hq

end

/-! ## Streams (09 R190, R194) -/

section
variable {u v : Die} {c : Ctx} {bw sp mode pa r m : Nat}

/-- One line of a stream, in terms of the elements before and after it. -/
theorem lineTable_row (hbw : bw < 2) (hpa : 0 < pa) (hb : HoldsB u c bw sp) (buf : List Byte) (T : AccTable) :
    RowRun u c bw sp pa mode r m (fun x => (buf.getD x 0, false)) T (lineTable u c bw sp 0 mode pa (clean buf) (r + rowsPer bw * m) T) := by
  have hpass : passesOf bw = [0] := if_neg (by omega)
  refine rowRun_of (line := clean buf) (by omega) hpa hb (fun k _ => ?_) (fun half hh col => ?_) fun z hz => ?_
  · rw [lineByte, clean, List.getD_eq_getElem?_getD, List.getElem?_map, List.getD_eq_getElem?_getD]
    cases buf[k]? <;> rfl
  · rw [lineTable, if_pos (by omega), hpass, Nat.add_sub_cancel_left]
    rfl
  · funext n
    exact if_neg hz

end

section
variable {s : State} {d l : Nat} {c : Ctx} {e : Entry} {rest : List Entry} {pm : BitVec 4} {mode src : BitVec 2} {wa wr : BitVec 3} {m : Common}

theorem StartedHead.stream (h : StartedHead s d l 0 c e rest) (hcmd : e.cmd = .mxRun wa wr pm mode src m) (hsrc : src = 1 ∨ src = 2) (hc : c = s.sys.ctx d l)
    (hpush : ∀ x ∈ l :: c.grove, ∀ g ∈ (s.sys.ctx d x).chains, g.outTo = []) (hleft : e.rep < e.reps.length) :
    StreamHead s d l c e rest (src == 1) pm mode.toNat := by
  refine ⟨h, hc, fun x hx => hpush x (hc ▸ hx), fun y => ?_, hleft⟩
  have hne : src ≠ 0 := by rintro rfl; exact hsrc.elim (by decide) (by decide)
  unfold matrixStep
  rw [hcmd]
  exact if_neg hne

/-- The queue after a line that is not the last one, as far as the run's place goes. -/
theorem nextLine_map {b : Bool} {ents rest : List Entry} (h : ents = { e.nextLine b with started := true } :: rest) :
    ents.map (fun x => (x.num, x.rep, x.pos, x.buf)) = (e.num, if e.pos + 1 < e.params.mrows then (e.rep, e.pos + 1, ([] : List Byte)) else (e.rep + 1, 0, [])) ::
      rest.map (fun x => (x.num, x.rep, x.pos, x.buf)) := by
  rw [h, List.map_cons]
  unfold Entry.nextLine
  split <;> rfl

end

/-- Settles O21: a run has the plan of its checks at issue. Its entry makes of the accumulators, A row by A row, what the rule of a row says, over the table that
the rows before left; a run from a link or the bypass makes one row of it, or waits for its line. -/
theorem matrixRun : Obligations.MatrixRun := by
  unfold Obligations.MatrixRun
  refine ⟨fun s c wa wr pm mode src h p bw sp la st rd hh hp hB hla hst h7 hwr hmode hastr hdense hwin hlink hbyp hrows hrd hacc => ?_,
    fun s d l h e rest wa wr pm mode src c v bw sp ng pa la st k M old hs hv hnd h7 hcmd heB hbw hsp hmode hb hpa hng hla hM hk hst hold hreps => ⟨fun hsrc => ?_, ?_⟩⟩
  · subst hh hp hrd
    exact run_queued ⟨hacc.task, h7⟩ hacc ⟨hB, hla, hst, hwr, hmode, hastr, hdense, hwin, hlink, hbyp, hrows⟩
  · subst hv hng hM hk hold
    exact hs.run_ends h7 hnd hcmd hsrc heB hbw hb hpa hla hst hreps
  · intro b r held hsrc hne hc hrep hpos hheld hpush
    subst hv hng hM hk hold
    have hleft : e.rep < e.reps.length := (List.getElem?_eq_some_iff.1 hrep).1
    have hstream := hs.stream hcmd hsrc hc hpush hleft
    have hmem : r + rowsPer bw * e.params.mrows ≤ 256 * h.h := hreps b r (List.mem_of_getElem? hrep)
    have hrow : rowsPer bw * (e.pos + 1) ≤ rowsPer bw * e.params.mrows := Nat.mul_le_mul_left _ hpos
    refine ⟨fun hlt hroom => ?_, fun hlen => ?_⟩
    · refine (hstream.waits hheld (by rw [hla, heB, hpa]; rfl) hlt hroom).imp ?_
      rintro t ⟨hents, hcells, hsource, hacc⟩
      exact ⟨hents, hcells, hsource, fun z _ => ⟨False.elim, fun _ => hacc z⟩⟩
    · have hh : 0 < h.h := by
        have : 0 < rowsPer bw * e.params.mrows := Nat.mul_pos (rowsPer_pos bw) (by omega)
        omega
      have hlapos : 0 < la := by
        rw [hla]
        positivity
      obtain ⟨u, ⟨cs, hu⟩, hends⟩ := hstream.takes h7 hnd hb heB hpa hrep hheld hla hlapos hlen (by omega)
      refine hends.imp ?_
      rintro t ⟨hcells, hsource, hacc, b', hgo, hret⟩
      have hnext : r + rowsPer bw * (e.pos + 1) = r + rowsPer bw * e.pos + rowsPer bw := by rw [Nat.mul_succ, Nat.add_assoc]
      refine ⟨hcells, hsource, ⟨lineTable u h bw sp 0 mode.toNat pa (clean (e.buf ++ held)) (r + rowsPer bw * e.pos) (elemAt u h), ?_, fun z hz => ?_⟩, fun hmore => nextLine_map (hgo ?_), fun hend hlast => hret ?_⟩
      · subst hu
        exact lineTable_row (by omega) (by omega) hb _ _
      · rw [← hnext] at hacc
        exact hacc z hz
      · unfold Entry.nextLine
        split <;> dsimp only <;> omega
      · unfold Entry.nextLine
        rw [if_neg (by omega)]
        exact Nat.le_of_eq hlast.symm

end Sys2Proof.Machine

/-! SUPPORT. The words written out from the encodings (03 R57 to R62, 04 R94 to R97). -/

namespace Sys2Proof.Machine

/- The proofs of this file are elaborated one after another: side by side they take more memory than the check grants. -/
set_option Elab.async false

/-- 20 R406: `mfc` with its reserved field set is refused. -/
theorem decodeSeq_mfc_reserved (d : BitVec 5) {a : BitVec 5} (ha : a ≠ 0) :
    decodeSeq (0x40_0280 + 2 ^ 15 * a.toNat + 2 ^ 10 * d.toNat) = .error .reserved := by
  have hne : a.toNat ≠ 0 := fun h => ha (BitVec.eq_of_toNat_eq h)
  generalize hw : 0x40_0280 + 2 ^ 15 * a.toNat + 2 ^ 10 * d.toNat = w
  have hfld : fld w 0 2 = 0 ∧ fld w 2 8 = 0xA0 ∧ fld w 28 4 = 0 ∧ fld w 15 5 = a.toNat := by simp only [fld]; omega
  obtain ⟨h0, h2, h28, h15⟩ := hfld
  rw [decodeSeq, h0, h2]
  change pickFn (fld w 28 4) [resv (crBad (fld w 20 8) || fld w 15 5 != 0) (.mfc (bf w 10 5) (bf w 20 8))] = _
  rw [h28, h15, bne_iff_ne.2 hne, Bool.or_true]
  rfl

/-- Settles O55: each word is read by evaluation, and the reserved field of `mfc` by its place in the word. -/
theorem decodeWords : Obligations.DecodeWords := by
  unfold Obligations.DecodeWords
  exact ⟨rfl, rfl, rfl, rfl, rfl, rfl, rfl, rfl, rfl, fun d _ ha => decodeSeq_mfc_reserved d ha, rfl, rfl, rfl, rfl, rfl, rfl, rfl, rfl, rfl, rfl, rfl, rfl⟩

end Sys2Proof.Machine

/-! SUPPORT. What every command does at issue (03 R66 to R68, 20 R396). -/

namespace Sys2Proof.Machine

/- The proofs of this file are elaborated one after another: side by side they take more memory than the check grants. -/
set_option Elab.async false

/-! ## A quiescence keeps every byte -/

/-- Steps that keep a byte, one after another, keep it. -/
theorem foldl_cell {α : Type} {f : Sys → α → Sys} {x : Cell} (hf : ∀ y a, (f y a).cell x = y.cell x) (l : List α) (y : Sys) :
    (l.foldl f y).cell x = y.cell x := by
  induction l generalizing y with
  | nil => rfl
  | cons a l ih => exact (ih (f y a)).trans (hf y a)

/-- A change of a die that keeps its steward memory and its slices' bytes keeps every byte. -/
theorem Sys.cell_modDie {y : Sys} {d : Nat} {f : Die → Die} (x : Cell) (hmem : (f (y.die d)).smem = (y.die d).smem) (hbad : (f (y.die d)).smemBad = (y.die d).smemBad)
    (hslice : ∀ b, ((f (y.die d)).slice b).mem = ((y.die d).slice b).mem ∧ ((f (y.die d)).slice b).poison = ((y.die d).slice b).poison) :
    (y.modDie d f).cell x = y.cell x := by
  obtain ⟨e, sl, o⟩ := x
  rcases eq_or_ne e d with rfl | he
  · cases sl <;> simp [Sys.cell, hmem, hbad, hslice]
  · simp [Sys.cell, Sys.die_modDie, he]

/-- A change of a die that leaves its memories alone keeps every byte. -/
theorem Sys.cell_modDie_of_slices (f : Die → Die) (x : Cell) {y : Sys} {d : Nat} (hmem : (f (y.die d)).smem = (y.die d).smem)
    (hbad : (f (y.die d)).smemBad = (y.die d).smemBad) (hslices : (f (y.die d)).slices = (y.die d).slices) : (y.modDie d f).cell x = y.cell x :=
  Sys.cell_modDie x hmem hbad fun b => by simp [Die.slice, hslices]

theorem freeOwned_cell (y : Sys) (sl : Slot) (x : Cell) : (freeOwned y sl).cell x = y.cell x := by
  refine foldl_cell (fun z o => z.cell_modDie x rfl rfl fun b => ?_) _ _
  rcases eq_or_ne b o.2.2 with rfl | hb
  · simp [Die.slice]
  · simp [Die.slice, mgetD_mset_ne _ _ _ hb]

theorem endResumption_cell (y : Sys) (c : Ctx) (x : Cell) : (endResumption y c).cell x = y.cell x := by
  unfold endResumption
  split
  · rfl
  · split
    · rfl
    · exact freeOwned_cell y _ x

theorem logQuiesced_cell (y : Sys) (d k : Nat) (x : Cell) : (logQuiesced y d k).cell x = y.cell x :=
  foldl_cell (fun z _ => foldl_cell (fun v _ => Sys.cell_of_dies (writeRecord_kept v _ _ _ _ _ _ _ _).1 x) _ z) _ y

theorem quiesce_cell (y : Sys) (d k cause sub : Nat) (x : Cell) : (quiesce y d k cause sub).cell x = y.cell x := by
  unfold quiesce
  dsimp only
  split
  · rfl
  · rw [noteExcess_cell, endResumption_cell, Sys.cell_setCtx]
    exact (Sys.cell_modDie_of_slices (fun v => dropWaiters v k) x rfl rfl rfl).trans (logQuiesced_cell y d k x)

/-! ## A trap keeps every byte -/

theorem computeOut_cell (d : Nat) (y : Sys) (x : Cell) : (computeOut d y).cell x = y.cell x := by
  unfold computeOut
  split
  · exact Sys.cell_modDie_of_slices (fun v => { v with inSvc := false, stw := { v.stw with stopped := true } }) x rfl rfl rfl
  · rfl

theorem stopDrawing_cell (d : Nat) (y : Sys) (x : Cell) : (stopDrawing d y).cell x = y.cell x :=
  Sys.cell_modDie_of_slices (fun v => { v with dark := true, pool := 0, dfloor := 0, ctxs := v.ctxs.map (fun c =>
    (c.1, { c.2 with load := 0, floor := 0, pres := 0, revived := false })) }) x rfl rfl rfl

theorem stewardDoubleFault_cell (y : Sys) (d : Nat) (x : Cell) : (stewardDoubleFault y d).cell x = y.cell x := by
  refine (Sys.cell_modDie_of_slices (fun v => { v with stw := { v.stw with stopped := true } }) x rfl rfl rfl).trans ?_
  rw [stopDrawing_cell, computeOut_cell]
  exact foldl_cell (fun z k => quiesce_cell z d k cMachineCheck 0 x) _ _

theorem takeTrap_cell (y : Sys) (r : SeqRef) (pc0 : Word) (t : Trap) (x : Cell) : (takeTrap y r pc0 t).cell x = y.cell x := by
  unfold takeTrap
  dsimp only
  split
  · split
    · exact stewardDoubleFault_cell ..
    · exact quiesce_cell ..
  · exact enterTrap_cell ..

/-! ## The issue -/

section
variable {s : State} {i : Instr} {c : Common}

theorem not_issued {P : Prop} (h : none = some c) : P := nomatch h

theorem issued_of {c' : Common} {e : Host.Outcome State Fault Refusal} {u : Unit3} {qc : Nat} {plan : SeqRef → Sys → Iss Plan}
    (h : e = runIssue s i c' u qc plan) (hc : some c' = some c) : ∃ u qc plan, e = runIssue s i c u qc plan := by
  obtain rfl := Option.some.inj hc
  exact ⟨_, _, _, h⟩

/-- Every command that does not wait for its fragment is issued by one routine, its own checks aside. -/
theorem exec_command : cmdCommon i = some c → (∀ w, i ≠ .mxSpl w c) → i ≠ .mxFrm c → ∃ u qc plan, exec i s = runIssue s i c u qc plan := by
  induction i using Instr.casesOn
  case mxSpl w _ => rintro ⟨⟩ hspl; exact absurd rfl (hspl w)
  case mxFrm => rintro ⟨⟩ _ hfrm; exact absurd rfl hfrm
  all_goals try exact not_issued
  all_goals exact fun hc _ _ => issued_of rfl hc

/-- How the issue of a command ends. -/
inductive IssueEnd (y : Sys) (r : SeqRef) : Res → Prop where
  | waits : IssueEnd y r (.stall y)
  | traps (t : Trap) : IssueEnd y r (.trap t)
  | joins (f : Ctx → Ctx) : IssueEnd y r (.ok (y.modCtxOf r f) none)

theorem issueStep_end (i : Instr) (c : Common) (u : Unit3) (qc : Nat) (plan : SeqRef → Sys → Iss Plan) (r : SeqRef) (y : Sys) :
    IssueEnd y r (issueStep i c u qc plan r y) := by
  unfold issueStep issueEnd
  dsimp only
  split
  · exact .waits
  · exact .traps _
  · split
    · exact .traps _
    · split
      · exact .waits
      · exact .joins _

theorem IssueEnd.commit_cell {y : Sys} {r : SeqRef} {e : Res} (h : IssueEnd y r e) (len : Nat) (x : Cell) : (commit r y len e).cell x = y.cell x := by
  cases h with
  | waits => rfl
  | traps t => exact takeTrap_cell ..
  | joins f => simp [commit]

theorem issue_cells (u : Unit3) (qc : Nat) (plan : SeqRef → Sys → Iss Plan) : ∃ t, runIssue s i c u qc plan = .next t ∧ CellsKept s t :=
  ⟨_, rfl, fun x => (issueStep_end i c u qc plan s.cur s.sys).commit_cell 8 x⟩

/-- An unmapped semaphore is the command's first check (log entry 21). -/
theorem issue_unmapped {n : BitVec 8} (ht : s.traps) (h : semCheck s.ctxNow c = fails (semRangeTrap n.toNat)) (u : Unit3) (qc : Nat)
    (plan : SeqRef → Sys → Iss Plan) : ∃ t, runIssue s i c u qc plan = .next t ∧ Trapped s 0x0B (n.zeroExtend 64) t := by
  have hstep : issueStep i c u qc plan s.cur s.sys = .trap { code := 0x0B, addr1 := n.zeroExtend 64 } := by
    have haddr : n.zeroExtend 64 = BitVec.ofNat 64 n.toNat := by simp [BitVec.zeroExtend, BitVec.ofNat_toNat]
    have h' : semCheck (s.sys.ctxOf s.cur) c = fails (semRangeTrap n.toNat) := h
    simp only [issueStep, issueEnd, h', haddr]
    rfl
  refine ⟨_, rfl, ?_⟩
  rw [hstep]
  exact trapped_of ht 8 0x0B _

/-- A command whose plan stands waits while its queue is full. -/
theorem issue_full {u : Unit3} {qc : Nat} {plan : SeqRef → Sys → Iss Plan} {p : Plan} (hsem : semCheck s.ctxNow c = .ok ()) (hplan : plan s.cur s.sys = .ok p)
    (hbad : p.bad = none) (hfull : queueCap qc ≤ (s.ctxNow.queue qc).ents.length) : ∃ t, runIssue s i c u qc plan = .next t ∧ Unmoved s t := by
  have hsem' : semCheck (s.sys.ctxOf s.cur) c = .ok () := hsem
  have hfull' : queueCap qc ≤ ((s.sys.ctxOf s.cur).queue qc).ents.length := hfull
  have hstep : issueStep i c u qc plan s.cur s.sys = .stall s.sys := by
    simp [issueStep, issueEnd, hsem', hplan, hbad, hfull']
  exact ⟨_, rfl, by rw [hstep]; rfl⟩

/-- The check of a command on every row. -/
theorem rowsPlan_all {w : BitVec 3} {weight : Ctx → Nat} (hi : s.cur.idx.isSome = true) (hs : s.ctxNow.shape ≠ 7) :
    ∃ p, rowsPlan w c true false weight s.cur s.sys = .ok p ∧ p.bad = none := by
  have hmatrix : checkMatrix s.cur (s.sys.ctxOf s.cur) = .ok () := checkMatrix_array hi hs
  unfold rowsPlan
  simp only [hmatrix, iss_ok_bind, if_true, iss_pure, Bool.not_true, Bool.false_eq_true, if_false, Bool.false_and, codeIf_false]
  rw [eachRep_ok (g := fun _ => (0, 0)) fun i _ => rfl]
  exact ⟨_, rfl, rfl⟩

end

/-- Settles O25: every command is issued by one routine, which checks the semaphores first, and ends by waiting, by a trap or by an entry of its queue. -/
theorem commandsAtIssue : Obligations.CommandsAtIssue := by
  unfold Obligations.CommandsAtIssue
  intro s i c hc hspl hfrm
  obtain ⟨u, qc, plan, hexec⟩ := exec_command (s := s) hc hspl hfrm
  refine ⟨?_, fun ht hth hw => ?_, fun ht hw hinc hs => ?_, fun n q hi hq hk hshape hsem hfull => ?_⟩
  · unfold Ends
    rw [hexec]
    exact issue_cells u qc plan
  · unfold Ends
    rw [hexec]
    refine issue_unmapped ht ?_ u qc plan
    exact if_pos (Bool.and_eq_true_iff.2 ⟨bne_iff_ne.2 hth, decide_eq_true hw⟩)
  · unfold Ends
    rw [hexec]
    refine issue_unmapped ht ?_ u qc plan
    exact (if_neg (by simpa [or_iff_not_imp_left] using hw)).trans (if_pos (Bool.and_eq_true_iff.2 ⟨bne_iff_ne.2 hinc, decide_eq_true hs⟩))
  · subst hi hq
    obtain ⟨p, hp, hbad⟩ := rowsPlan_all (c := c) (w := n) (weight := fun _ => 1) hk hshape
    exact issue_full hsem hp hbad hfull

end Sys2Proof.Machine

/-! SUPPORT. What the hub does by itself after an event (14 R317 to R319, R331): no window byte changes, no posted record is taken, and no error is lost. -/

namespace Sys2Proof.Machine

/- The proofs of this file are elaborated one after another: side by side they take more memory than the check grants. -/
set_option Elab.async false

/-- No byte and no posted record differs, node numbers only grow, and no set QERR is cleared. -/
structure HubOnly (y z : Sys) : Prop where
  cell : ∀ x, z.cell x = y.cell x
  posted : z.hub.posted = y.hub.posted
  next : y.hub.nodeNext ≤ z.hub.nodeNext
  qerr : ∀ f q, ((y.fn f).queue q).qerr.getLsbD 63 = true → ((z.fn f).queue q).qerr.getLsbD 63 = true

/-- A queue whose QERR is set keeps it set, whatever error is posted to it. -/
theorem HQueue.post_keeps {u : HQueue} (h : u.qerr.getLsbD 63 = true) (kind cause node graph : Nat) : (u.post kind cause node graph).qerr.getLsbD 63 = true := by
  have hsame : (u.post kind cause node graph).qerr = (u.post 0 cause node graph).qerr := by
    simp only [HQueue.post, bitOf_toNat u.qerr 63, h, if_true]
  rw [hsame]
  exact u.post_set (by decide) cause node graph

namespace HubOnly

variable {x y z : Sys}

theorem refl (y : Sys) : HubOnly y y := ⟨fun _ => rfl, rfl, le_rfl, fun _ _ h => h⟩

theorem trans (h : HubOnly x y) (k : HubOnly y z) : HubOnly x z :=
  ⟨fun i => (k.cell i).trans (h.cell i), k.posted.trans h.posted, h.next.trans k.next, fun f q hq => k.qerr f q (h.qerr f q hq)⟩

theorem of_fns (hc : ∀ x, z.cell x = y.cell x) (hp : z.hub.posted = y.hub.posted) (hn : y.hub.nodeNext ≤ z.hub.nodeNext) (hf : z.hub.fns = y.hub.fns) :
    HubOnly y z := ⟨hc, hp, hn, fun f q h => by rwa [Sys.fn, hf]⟩

theorem modPart (y : Sys) (p : Nat) (f : Part → Part) : HubOnly y (y.modPart p f) := of_fns (fun _ => rfl) rfl le_rfl rfl

theorem modNode (y : Sys) (k : Nat) (f : Node → Node) : HubOnly y (y.modNode k f) := by
  cases h : mget? y.hub.nodes k with
  | none => exact of_fns (fun _ => rfl) (by simp [Sys.modNode, h]) (by simp [Sys.modNode, h]) (by simp [Sys.modNode, h])
  | some n => exact of_fns (fun _ => rfl) (by simp [Sys.modNode, h]) (by simp [Sys.modNode, h]) (by simp [Sys.modNode, h])

theorem addNode (n : Node) (y : Sys) : HubOnly y (addNode n y) := of_fns (fun _ => rfl) rfl (Nat.le_succ _) rfl

theorem postErr (f q kind cause node graph : Nat) (y : Sys) : HubOnly y (postErr f q kind cause node graph y) := by
  refine ⟨fun _ => rfl, rfl, le_rfl, fun g r h => ?_⟩
  rw [Machine.postErr, Sys.fn_modFn]
  split
  · rw [raiseIstat_queue, Sys.modQueue, Sys.fn_modFn_self, Fn.queue, mgetD_mset]
    subst g
    split
    · subst r; exact HQueue.post_keeps h ..
    · exact h
  · rwa [Sys.modQueue, Sys.fn_modFn, if_neg ‹_›]

theorem endNode (k : Nat) (err : Option (Nat × Nat)) (y : Sys) : HubOnly y (endNode k err y) := by
  have hdrop : HubOnly y (dropNode k y) := of_fns (fun _ => rfl) rfl le_rfl rfl
  unfold Machine.endNode
  dsimp only
  split
  · exact refl y
  · split
    · exact hdrop
    · split
      · exact hdrop.trans (modPart ..)
      · exact (hdrop.trans (postErr ..)).trans (modPart ..)

theorem makeReady (k : Nat) (n : Node) (y : Sys) : HubOnly y (makeReady k n y) := by
  unfold Machine.makeReady
  refine (modNode y k (fun n => { n with ready := true, readyAt := y.hub.now })).trans ?_
  dsimp only
  split
  · exact endNode ..
  · split
    · exact endNode ..
    · split
      · exact endNode ..
      · exact modNode ..

theorem diverge (y : Sys) (p : Nat) : HubOnly y (diverge y p) := by
  refine trans ?_ (modPart ..)
  refine List.foldlRecOn (motive := fun z : Sys => HubOnly y z) _ _ (modPart ..) fun z hz x _ => ?_
  split
  · exact hz.trans (of_fns (fun _ => Sys.cell_modCtx ..) rfl le_rfl rfl)
  · exact hz

theorem gated (y : Sys) (p : Nat) (c : Choice) {f : Sys → Sys} (hf : ∀ z, HubOnly z (f z)) : HubOnly y (gated y p c f) := by
  unfold Machine.gated
  cases h : gate y p c with
  | hold => exact refl y
  | go z =>
    unfold gate at h
    dsimp only at h
    split at h
    · cases h; exact (modPart ..).trans (hf _)
    · split at h
      · split at h
        · cases h; exact (modPart ..).trans (hf _)
        · cases h
      · split at h <;> cases h
  | diverged z =>
    unfold gate at h
    dsimp only at h
    split at h
    · cases h
    · split at h
      · split at h <;> cases h
      · split at h
        · cases h; exact diverge y p
        · cases h

theorem releasedRecord (p : Nat) (x : BitVec 1024) (r : Release) (err : Bool) (y : Sys) : HubOnly y (releasedRecord p x r err y) := by
  unfold Machine.releasedRecord
  split
  · exact modPart ..
  · exact addNode ..

theorem firstRelease (p : Nat) (r : Release) (y : Sys) : HubOnly y (firstRelease p r y) := by
  unfold Machine.firstRelease
  dsimp only
  split
  · exact postErr ..
  · split
    · exact postErr ..
    · split
      · exact releasedRecord ..
      · exact modPart ..

theorem laterRelease (p : Nat) (e : Pending) (r : Release) (y : Sys) : HubOnly y (laterRelease p e r y) := by
  unfold Machine.laterRelease
  dsimp only
  split
  · exact (modPart ..).trans (releasedRecord ..)
  · exact modPart ..

theorem applyRelease (p : Nat) (r : Release) (y : Sys) : HubOnly y (applyRelease p r y) := by
  unfold Machine.applyRelease
  refine (modPart y p (fun p => { p with held := p.held.erase r })).trans ?_
  dsimp only
  split
  · exact laterRelease ..
  · exact firstRelease ..

theorem readyGated (k : Nat) (n : Node) (y : Sys) : HubOnly y (readyGated k n y) := by
  unfold Machine.readyGated
  split
  · exact makeReady ..
  · exact gated y _ _ fun z => makeReady k n z

theorem settleOne (h : settleOne y = some z) : HubOnly y z := by
  unfold Machine.settleOne at h
  split at h
  · cases h; exact applyRelease ..
  · split at h
    · cases h; exact readyGated ..
    · split at h
      · cases h; exact endNode ..
      · cases h

theorem settleN (n : Nat) (y : Sys) : HubOnly y (settleN n y) := by
  induction n generalizing y with
  | zero => exact refl y
  | succ n ih =>
    rw [Machine.settleN]
    split
    · exact refl y
    · next z hz => exact (settleOne hz).trans (ih z)

theorem settleHub (y : Sys) : HubOnly y (settleHub y) := settleN 256 y

end HubOnly

/-! ## A posted record is taken (10 R237) -/

section
variable {s : State} {x : Posted}

/-- The record leaves the list, and what the hub then does by itself takes no other and changes no byte. -/
theorem takePosted_hub (y : Sys) (x : Posted) : HubOnly (y.modHub (fun h => { h with posted := h.posted.erase x })) (takePosted x y) := by
  unfold takePosted
  dsimp only
  split
  · exact .refl _
  · split
    · exact .postErr ..
    · exact .addNode ..

theorem takePosted_discarded {y : Sys} (h : (y.fn x.fn).flr = true ∨ (y.part x.part).resetting = true) :
    takePosted x y = y.modHub (fun h => { h with posted := h.posted.erase x }) := by
  unfold takePosted
  exact if_pos (Bool.or_eq_true_iff.2 h)

section
variable {y : Sys} (hf : (y.fn x.fn).flr = false) (hp : (y.part x.part).resetting = false)
include hf hp

/-- A record that is refused sets the QERR of its origin's queue. -/
theorem takePosted_refused (h : recordBad x.record = true ∨ recPreds x.record ≠ 0 ∨ recGng x.record = true) :
    (((takePosted x y).fn x.oFn).queue x.oQ).qerr.getLsbD 63 = true := by
  have hbad : (recordBad x.record || recPreds x.record != 0 || recGng x.record) = true := by
    rcases h with h | h | h <;> simp [h]
  have htake : takePosted x y = postErr x.oFn x.oQ eRefused cOperand (recNode x.record) (recGraph x.record)
      (y.modHub (fun h => { h with posted := h.posted.erase x })) := by
    unfold takePosted
    exact (if_neg (by rw [Bool.not_eq_true]; exact Bool.or_eq_false_iff.2 ⟨hf, hp⟩)).trans (if_pos hbad)
  rw [htake, postErr_queue]
  exact HQueue.post_set _ (by decide) ..

/-- A record that is taken becomes a node. -/
theorem takePosted_taken (hbad : recordBad x.record = false) (hpreds : recPreds x.record = 0) (hgng : recGng x.record = false) :
    y.hub.nodeNext < (takePosted x y).hub.nodeNext := by
  have htake : takePosted x y = addNode { fn := x.fn, part := x.part, record := x.record, oFn := x.oFn, oQ := x.oQ, came := .posted }
      (y.modHub (fun h => { h with posted := h.posted.erase x })) := by
    unfold takePosted
    exact (if_neg (by rw [Bool.not_eq_true]; exact Bool.or_eq_false_iff.2 ⟨hf, hp⟩)).trans (if_neg (by simp [hbad, hpreds, hgng]))
  rw [htake]
  exact Nat.lt_succ_self _

end

theorem postedRecordTake_ends (h : s.sys.hub.posted.find? (postedReady s.sys) = some x) {P : State → Prop}
    (hP : P { s with sys := settleHub (takePosted x s.sys) }) : Ends .postedRecordTake s P := by
  refine ends_of_ev (f := fun y => match y.hub.posted.find? (postedReady y) with
    | none => y
    | some x => settleHub (takePosted x y)) rfl ?_ hP
  simp only [h]

theorem postedRecordTake_holds (h : s.sys.hub.posted.find? (postedReady s.sys) = some x) :
    Ends .postedRecordTake s (fun t => t.sys.hub.posted = s.sys.hub.posted.erase x ∧
    ((s.sys.fn x.fn).flr = true ∨ (s.sys.part x.part).resetting = true → SettleThen s (fun y => y = s.sys.modHub (fun h => { h with posted := h.posted.erase x })) t) ∧
    ((s.sys.fn x.fn).flr = false → (s.sys.part x.part).resetting = false →
      (recordBad x.record = true ∨ recPreds x.record ≠ 0 ∨ recGng x.record = true → ((t.sys.fn x.oFn).queue x.oQ).qerr.getLsbD 63 = true) ∧
      (recordBad x.record = false → recPreds x.record = 0 → recGng x.record = false → s.sys.hub.nodeNext < t.sys.hub.nodeNext)) ∧ CellsKept s t) := by
  have hset := HubOnly.settleHub (takePosted x s.sys)
  have hkept := (takePosted_hub s.sys x).trans hset
  refine postedRecordTake_ends h ⟨hkept.posted, fun hr => ⟨_, takePosted_discarded hr, rfl⟩, fun hf hp => ⟨fun hb => ?_, fun hb hpr hg => ?_⟩, hkept.cell⟩
  · exact hset.qerr _ _ (takePosted_refused hf hp hb)
  · exact (takePosted_taken hf hp hb hpr hg).trans_le hset.next

end

end Sys2Proof.Machine

/-! SUPPORT. The start of the head of a queue (03 R66, 12 R303, 15 R340): its waits, its weight, and what its start leaves unchanged. -/

namespace Sys2Proof.Machine

/- The proofs of this file are elaborated one after another: side by side they take more memory than the check grants. -/
set_option Elab.async false

/-! ## The head of a queue -/

theorem EQueue.unit_single {u : EQueue} {e : Entry} {rest : List Entry} (hq : u.ents = e :: rest) (hs : isStream e.cmd = false) : u.unit = [e] := by
  cases hp : isProg e.cmd <;> simp [EQueue.unit, hq, hs, hp, throughProg]

theorem Ctx.queue_modQueue_ne (c : Ctx) {q k : Nat} (h : k ≠ q) (f : EQueue → EQueue) : (c.modQueue q f).queue k = c.queue k := mgetD_mset_ne _ _ _ h

theorem eq_xbProg_of_isProg {i : Instr} : isProg i = true → ∃ ch wp c, i = .xbProg ch wp c := by
  induction i using Instr.casesOn
  case xbProg => exact fun _ => ⟨_, _, _, rfl⟩
  all_goals exact Bool.noConfusion

theorem not_isProg_of_isStream {i : Instr} (h : isStream i = true) : isProg i = false := by
  refine Bool.eq_false_iff.2 fun hp => ?_
  obtain ⟨_, _, _, rfl⟩ := eq_xbProg_of_isProg hp
  cases h

theorem headReady_single {c : Ctx} {q : Nat} {e : Entry} {rest : List Entry} (hc : c.engines = true) (hk : q ∈ c.queueCodes) (hq : (c.queue q).ents = e :: rest)
    (hs : isStream e.cmd = false) (hst : e.started = false) : headReady c q (isProg e.cmd) = true := by
  simp [headReady, hc, hk, EQueue.unit_single hq hs, unitWhole, hs, hst]

/-- Of a context, which was `c`, nothing differs but queue `q`, at whose head stands `e`. -/
structure HeadIs (d l q : Nat) (c : Ctx) (e : Entry) (rest : List Entry) (z : Sys) : Prop where
  queue : (z.ctx d l).queue q = { c.queue q with ents := e :: rest }
  others : ∀ k, k ≠ q → (z.ctx d l).queue k = c.queue k
  ctx : ∃ qs, z.ctx d l = { c with queues := qs }

section
variable {d l q : Nat} {c : Ctx} {e e' : Entry} {rest : List Entry} {y z : Sys}

theorem HeadIs.of_ctx (h : HeadIs d l q c e rest y) (hc : z.ctx d l = y.ctx d l) : HeadIs d l q c e rest z := by
  obtain ⟨hq, ho, hx⟩ := h
  rw [← hc] at hq ho hx
  exact ⟨hq, ho, hx⟩

theorem HeadIs.modEntry (h : HeadIs d l q c e rest z) (hr : ∀ x ∈ rest, x.num ≠ e.num) (f : Entry → Entry) :
    HeadIs d l q c (f e) rest (z.modEntry d l q e.num f) := by
  obtain ⟨_, hc⟩ := h.ctx
  have hctx : (z.modEntry d l q e.num f).ctx d l = (z.ctx d l).modQueue q (fun u => u.modEntry e.num f) := Sys.ctx_modCtx_self ..
  refine ⟨?_, fun k hk => ?_, ⟨_, by rw [hctx, hc]; rfl⟩⟩
  · rw [hctx, Ctx.queue_modQueue_self, EQueue.modEntry_head (congrArg EQueue.ents h.queue) rfl hr, h.queue]
  · rw [hctx, Ctx.queue_modQueue_ne _ hk, h.others k hk]

/-- An entry that has not started weighs nothing, before its wait is met and after. -/
theorem HeadIs.ballast (h : HeadIs d l q c e' rest z) (hq : (c.queue q).ents = e :: rest) (hs : e.started = false) (hs' : e'.started = false) :
    (z.ctx d l).ballast = c.ballast := by
  obtain ⟨_, hc⟩ := h.ctx
  have hstarted : ∀ k, ((z.ctx d l).queue k).ents.filter (·.started) = (c.queue k).ents.filter (·.started) := fun k => by
    rcases eq_or_ne k q with rfl | hk
    · simp [h.queue, hq, hs, hs']
    · rw [h.others k hk]
  have hcodes : (z.ctx d l).queueCodes = c.queueCodes := by rw [hc]; rfl
  have hentries : (z.ctx d l).entries.filter (fun qe => qe.2.started) = c.entries.filter (fun qe => qe.2.started) := by
    simp only [Ctx.entries, hcodes, List.filter_flatMap, List.filter_map]
    exact congrArg (fun f => List.flatMap f c.queueCodes) (funext fun k => congrArg (List.map (fun e => (k, e))) (hstarted k))
  rw [Ctx.ballast, Ctx.realWeight, hentries, hc]
  rfl

/-- The older requests of the context are those of its other queues. -/
theorem HeadIs.olderWaits (h : HeadIs d l q (y.ctx d l) e rest z) (hg : z.gov = y.gov) : olderWaits z d l q = olderWaits y d l q := by
  unfold Machine.olderWaits
  rw [hg]
  refine congrArg (List.any _) (funext fun r => ?_)
  cases r with
  | entry d' l' q' =>
    rcases eq_or_ne q' q with rfl | hq
    · simp
    · simp only [entryWaits, h.others q' hq]
  | _ => rfl

/-! ## Its wait -/

/-- The entry with its wait met, and once it has started. -/
def Entry.met (e : Entry) : Entry := { e with waited := true }
def Entry.begun (e : Entry) : Entry := { e with waited := true, started := true }

@[simp] theorem modSem_ctx (y : Sys) (d ps e m : Nat) (f : Sem → Sem) : (y.modSem d ps f).ctx e m = y.ctx e m := by
  rw [Sys.ctx, Sys.modSem, Sys.die_modDie]
  split
  · next h => rw [h]; rfl
  · rfl

theorem modSem_sem (y : Sys) (d ps : Nat) (f : Sem → Sem) : ((y.modSem d ps f).die d).sem ps = f ((y.die d).sem ps) := by
  rw [Sys.modSem, Sys.die_modDie_self, Die.setSem, Die.sem, mgetD_mset_self]

theorem logKept_logWait (y : Sys) (d part ps virt thr cyc ctag que ent : Nat) : LogKept y (logWait y d part ps virt thr cyc ctag que ent) := by
  unfold logWait
  dsimp only
  exact (logKept_note ..).trans (logKept_writeRecord ..)

theorem tryWaits_single (d l q : Nat) (e : Entry) (y : Sys) : tryWaits d l q [e] y = tryWait d l q e y := by
  rw [tryWaits]
  rcases tryWait d l q e y with ⟨z, _ | _⟩ <;> rfl

/-- The wait of the head entry has been met, and its threshold taken. -/
structure WaitMet (d l q : Nat) (y : Sys) (e : Entry) (rest : List Entry) (z : Sys) : Prop where
  head : HeadIs d l q (y.ctx d l) e.met rest z
  gov : z.gov = y.gov
  cell : ∀ x, z.cell x = y.cell x
  count : e.waited = false → ∀ ps thr, e.wait = some (ps, thr) → ((z.die d).sem ps).count = ((y.die d).sem ps).count - thr

/-- The head entry may start, its weight aside. -/
def waitOpen (d l q : Nat) (e : Entry) (y : Sys) : Prop :=
  e.waited = true ∨ e.wait = none ∨ ∃ ps thr, e.wait = some (ps, thr) ∧ ((y.die d).sem ps).met l q e.num thr = true

section
variable (hq : ((y.ctx d l).queue q).ents = e :: rest) (hr : ∀ x ∈ rest, x.num ≠ e.num)
include hq

theorem HeadIs.refl : HeadIs d l q (y.ctx d l) e rest y := ⟨by rw [← hq], fun _ _ => rfl, ⟨_, rfl⟩⟩

include hr

theorem tryWait_met (hmet : waitOpen d l q e y) : ∃ z, tryWait d l q e y = (z, true) ∧ WaitMet d l q y e rest z := by
  cases hw : e.waited with
  | true =>
    have he : e.met = e := by rw [Entry.met, ← hw]
    exact ⟨y, by simp [tryWait, hw], ⟨he.symm ▸ HeadIs.refl hq, rfl, fun _ => rfl, fun h => absurd h (by simp [hw])⟩⟩
  | false =>
    cases hwait : e.wait with
    | none =>
      exact ⟨y.modEntry d l q e.num Entry.met, by simp only [tryWait, hw, hwait, Bool.false_eq_true, if_false]; rfl,
        ⟨(HeadIs.refl hq).modEntry hr Entry.met, rfl, fun _ => Sys.cell_modCtx .., fun _ _ _ h => absurd h (by simp [hwait])⟩⟩
    | some w =>
      obtain ⟨ps, thr⟩ := w
      have hm : ((y.die d).sem ps).met l q e.num thr = true := by simpa [waitOpen, hw, hwait] using hmet
      have hlog := logKept_logWait (y.modSem d ps (fun m => m.take l q e.num thr)) d (y.ctx d l).part ps e.wvirt thr e.cyc (y.ctx d l).ctag q e.num
      have hhead := (HeadIs.refl hq).of_ctx ((hlog.ctx d l).trans (modSem_ctx y d ps d l _))
      refine ⟨_, by simp only [tryWait, hw, hwait, hm, Bool.false_eq_true, if_false, if_true]; rfl, ⟨hhead.modEntry hr Entry.met,
        hlog.gov, fun x => ?_, fun _ ps' thr' h => ?_⟩⟩
      · exact (Sys.cell_modCtx ..).trans ((hlog.cell x).trans (Sys.cell_setSem ..))
      · obtain ⟨rfl, rfl⟩ : ps = ps' ∧ thr = thr' := by simpa [hwait] using h
        rw [modEntry_sem, hlog.die, modSem_sem]
        rfl

omit hq hr in
/-- An unmet wait becomes a waiter, once. -/
theorem Sem.wait_waiter (m : Sem) (l q n thr : Nat) : ∃ w ∈ (m.wait l q n thr).waiters, w.ctx = l ∧ w.que = q ∧ w.ent = n := by
  unfold Sem.wait
  split
  · next h =>
    obtain ⟨w, hw, his⟩ := List.any_eq_true.1 h
    exact ⟨w, hw, by simpa [isWaiter, and_assoc] using his⟩
  · exact ⟨⟨l, q, n, thr⟩, by simp, rfl, rfl, rfl⟩

omit hq hr in
theorem Sem.wait_count (m : Sem) (l q n thr : Nat) : (m.wait l q n thr).count = m.count := by
  unfold Sem.wait
  split <;> rfl

omit hq hr in
theorem tryWait_unmet {ps thr : Nat} (hw : e.waited = false) (hwait : e.wait = some (ps, thr)) (hm : ((y.die d).sem ps).met l q e.num thr = false) :
    ∃ z, tryWait d l q e y = (z, false) ∧ z.ctx d l = y.ctx d l ∧ ((z.die d).sem ps).count = ((y.die d).sem ps).count ∧
      (∃ w ∈ ((z.die d).sem ps).waiters, w.ctx = l ∧ w.que = q ∧ w.ent = e.num) ∧ ∀ x, z.cell x = y.cell x := by
  have hlog : ∃ u, LogKept y u ∧ tryWait d l q e y = (u.modSem d ps (fun m => m.wait l q e.num thr), false) := by
    simp only [tryWait, hw, hwait, hm, Bool.false_eq_true, if_false]
    split
    · exact ⟨y, .refl y, rfl⟩
    · exact ⟨_, logKept_note .., rfl⟩
  obtain ⟨u, hu, htry⟩ := hlog
  refine ⟨_, htry, (modSem_ctx ..).trans (hu.ctx d l), ?_, ?_, fun x => (Sys.cell_setSem ..).trans (hu.cell x)⟩
  · rw [modSem_sem, Sem.wait_count, hu.die]
  · rw [modSem_sem]
    exact Sem.wait_waiter ..

/-! ## Its start -/

/-- The head entry has started. -/
structure EntryStarted (d l q : Nat) (y : Sys) (e : Entry) (rest : List Entry) (w : Sys) : Prop where
  head : HeadIs d l q (y.ctx d l) e.begun rest w
  request : GReq.entry d l q ∉ w.gov.open_
  cell : ∀ x, w.cell x = y.cell x
  count : e.waited = false → ∀ ps thr, e.wait = some (ps, thr) → ((w.die d).sem ps).count = ((y.die d).sem ps).count - thr

/-- The request for weight of a queue's head is answered. -/
def unasked (d l q : Nat) (y : Sys) : Sys := { y with gov := { y.gov with open_ := y.gov.open_.filter (fun r => r != .entry d l q) } }

/-- The start of an entry whose waits are met and whose weight fits. -/
def startedSys (d l q : Nat) (e : Entry) (y : Sys) : Sys := logEntry ((unasked d l q y).modEntry d l q e.num (fun e => { e with started := true })) d l q 4 e

omit hq in
theorem WaitMet.starts (h : WaitMet d l q y e rest z) : EntryStarted d l q y e rest (startedSys d l q e.met z) := by
  have hlog : LogKept ((unasked d l q z).modEntry d l q e.num (fun e => { e with started := true })) (startedSys d l q e.met z) := logKept_logEntry ..
  have hhead : HeadIs d l q (y.ctx d l) e.met rest (unasked d l q z) := h.head.of_ctx rfl
  refine ⟨(hhead.modEntry hr (fun e => { e with started := true })).of_ctx (hlog.ctx d l), ?_, fun x => ?_, fun hw ps thr hs => ?_⟩
  · rw [hlog.gov]
    exact fun hmem => absurd (List.mem_filter.1 hmem).2 (by simp)
  · exact (hlog.cell x).trans ((Sys.cell_modCtx ..).trans (h.cell x))
  · rw [hlog.die, modEntry_sem]
    exact h.count hw ps thr hs

section
variable (hs : isStream e.cmd = false) (hst : e.started = false)
include hs

omit hr in
theorem startUnit_unmet {ps thr : Nat} (hw : e.waited = false) (hwait : e.wait = some (ps, thr)) (hm : ((y.die d).sem ps).met l q e.num thr = false)
    (start : Sys → Sys) : startUnit d l q start y = (tryWait d l q e y).1 := by
  obtain ⟨z, hz, -⟩ := tryWait_unmet hw hwait hm
  simp only [startUnit, EQueue.unit_single hq hs, tryWaits_single, hz]

include hst

theorem startUnit_starts (hmet : waitOpen d l q e y) (hfit : e.weight ≤ (y.ctx d l).ballast) (hold : olderWaits y d l q = false) (start : Sys → Sys) :
    ∃ w, startUnit d l q start y = start w ∧ EntryStarted d l q y e rest w := by
  obtain ⟨z, hz, hm⟩ := tryWait_met hq hr hmet
  have hunit : ((z.ctx d l).queue q).unit = [e.met] := EQueue.unit_single (congrArg EQueue.ents hm.head.queue) hs
  have hgo : (sumWeight [e.met] ≤ (z.ctx d l).ballast && !olderWaits z d l q) = true := by
    rw [hm.head.ballast hq hst hst, hm.head.olderWaits hm.gov, hold]
    simpa [sumWeight, Entry.met] using hfit
  refine ⟨_, ?_, WaitMet.starts hr hm⟩
  simp only [startUnit, EQueue.unit_single hq hs, tryWaits_single, hz, hunit, hgo, if_true, List.foldl_cons, List.foldl_nil]
  rfl

theorem startUnit_asks (hmet : waitOpen d l q e y) (hfit : (y.ctx d l).ballast < e.weight) (start : Sys → Sys) :
    ∃ z, startUnit d l q start y = { z with gov := z.gov.openReq (.entry d l q) } ∧ WaitMet d l q y e rest z := by
  obtain ⟨z, hz, hm⟩ := tryWait_met hq hr hmet
  have hunit : ((z.ctx d l).queue q).unit = [e.met] := EQueue.unit_single (congrArg EQueue.ents hm.head.queue) hs
  have hno : (sumWeight [e.met] ≤ (z.ctx d l).ballast && !olderWaits z d l q) = false := by
    rw [hm.head.ballast hq hst hst]
    simp [sumWeight, Entry.met, hfit]
  refine ⟨z, ?_, hm⟩
  simp only [startUnit, EQueue.unit_single hq hs, tryWaits_single, hz, hunit, hno, Bool.false_eq_true, if_false]

end
end
end

/-! ## The programs of a group -/

/-- The strips of a chain take the programs of its group. -/
def takePrograms (d l ch : Nat) (y : Sys) : Sys := y.modChain d l ch (startStrips (((y.group d l ch).getLast?.map (·.progs)).getD []))

theorem startStrips_strip (ps : List StripProg) (h : Chain) {k : Nat} (hk : k < 5) : (startStrips ps h).strip k =
    { h.strip k with prog := ps.getD k {}, ip := 0, iter := 0, busy := (ps.getD k {}).nr != 0, posts := [] } := by
  simp [startStrips, Chain.strip, vgetD, hk]

/-! ## The events -/

section
variable {s : State} {d l q : Nat} {c : Ctx} {e : Entry} {rest : List Entry} {P : State → Prop}
  (hc : c = s.sys.ctx d l) (hq : (c.queue q).ents = e :: rest) (hen : c.engines = true) (hk : q ∈ c.queueCodes) (hst : e.started = false)
  (hs : isStream e.cmd = false) (hheld : entryHeld s.sys d l q [e] = false)
include hc hq hen hk hst hs hheld

theorem entryStart_ends (hcp : copyStopped c q = false) (hp : isProg e.cmd = false) (hP : P { s with sys := startUnit d l q id s.sys }) :
    Ends (.entryStart d l q) s P := by
  subst hc
  have hready : headReady (s.sys.ctx d l) q false = true := hp ▸ headReady_single hen hk hq hs hst
  refine ends_of_ev (f := entryStartStep d l q) rfl ?_ hP
  exact if_pos (by simp [hready, hcp, EQueue.unit_single hq hs, hheld])

theorem stripGroupStart_ends {ch : Nat} (hch : q = 1 + ch) (hp : isProg e.cmd = true) (hP : P { s with sys := startUnit d l q (takePrograms d l ch) s.sys }) : Ends (.stripGroupStart d l ch) s P := by
  subst hc hch
  have hready : headReady (s.sys.ctx d l) (1 + ch) true = true := hp ▸ headReady_single hen hk hq hs hst
  refine ends_of_ev (f := groupStartStep d l ch) rfl ?_ hP
  exact if_pos (by simp [hready, EQueue.unit_single hq hs, hheld])

/-- A group whose waits are met and whose weight fits starts: each strip takes its program. -/
theorem stripGroupStart_starts (hr : ∀ x ∈ rest, x.num ≠ e.num) (hmet : waitOpen d l q e s.sys) (hfit : e.weight ≤ c.ballast)
    (hold : olderWaits s.sys d l q = false) (hp : isProg e.cmd = true) {ch : Nat} {h : Chain} (hch : q = 1 + ch) (hh : c.chains[ch]? = some h) :
    Ends (.stripGroupStart d l ch) s (fun t => ((t.sys.ctx d l).queue q).ents = { e with waited := true, started := true } :: rest ∧
      (∃ h', (t.sys.ctx d l).chains[ch]? = some h' ∧ h'.running = true ∧ h'.ports = h.ports ∧
        (∀ k, k < 5 → (h'.strip k).prog = e.progs.getD k {} ∧ (h'.strip k).ip = 0 ∧ (h'.strip k).iter = 0 ∧
          ((h'.strip k).busy = true ↔ (e.progs.getD k {}).nr ≠ 0) ∧ (h'.strip k).v = (h.strip k).v ∧ (h'.strip k).p = (h.strip k).p ∧
          (h'.strip k).sr = (h.strip k).sr)) ∧ CellsKept s t) := by
  obtain ⟨w, hw, hstart⟩ := startUnit_starts (hc ▸ hq) hr hs hst hmet (hc ▸ hfit) hold (takePrograms d l ch)
  refine stripGroupStart_ends hc hq hen hk hst hs hheld hch hp ?_
  obtain ⟨_, hctx⟩ := hstart.head.ctx
  have hprogs : ((w.group d l ch).getLast?.map (·.progs)).getD [] = e.progs := by
    rw [Sys.group, ← hch, EQueue.unit_single (congrArg EQueue.ents hstart.head.queue) hs]
    rfl
  rw [hw, takePrograms, hprogs]
  refine ⟨?_, ⟨startStrips e.progs h, ?_, rfl, rfl, fun k hk5 => ?_⟩, fun x => (Sys.cell_modCtx ..).trans (hstart.cell x)⟩
  · rw [Sys.modChain, Sys.ctx_modCtx_self]
    exact congrArg EQueue.ents hstart.head.queue
  · rw [Sys.modChain, Sys.ctx_modCtx_self, getElem?_lmod, if_pos rfl, hctx, ← hc]
    exact congrArg (Option.map _) hh
  · rw [startStrips_strip _ _ hk5]
    exact ⟨rfl, rfl, rfl, bne_iff_ne, rfl, rfl, rfl⟩

end

end Sys2Proof.Machine

/-! SUPPORT. The retirement of a copy entry and of a strip group (03 R67, 09 R201, 10 R216, R237). -/

namespace Sys2Proof.Machine

/- The proofs of this file are elaborated one after another: side by side they take more memory than the check grants. -/
set_option Elab.async false

/-! ## The retirement of a copy entry -/

theorem addPend_mem (y : Sys) (d l : Nat) (p : PendCause) : p ∈ ((addPend y d l p).ctx d l).pend := by
  rw [addPend, Sys.ctx_modCtx_self]
  split
  · next h => simpa using h
  · simp

theorem retireHead_pend {d l q : Nat} {e : Entry} (y : Sys) (hb : e.bad = true) : PendCause.machineCheck q e.num ∈ ((retireHead d l q e y).ctx d l).pend := by
  simp only [retireHead, hb, if_true]
  exact addPend_mem ..

theorem signalledCount_self {e : Entry} {ps inc sc : Nat} (h : e.signal = some (ps, inc, sc)) (n : Nat) :
    signalledCount e ps n = if e.signalled then n else min (n + inc) 65535 := by
  cases hs : e.signalled <;> simp [signalledCount, h, hs]

theorem signalledCount_quiet {e : Entry} {ps : Nat} (h : e.signal.map (fun x => x.1) ≠ some ps) (n : Nat) : signalledCount e ps n = n := by
  unfold signalledCount
  split
  · rfl
  · next p _ _ hs =>
    have hp : ps ≠ p := fun hp => h (by rw [hs, hp]; rfl)
    simp [hp]

theorem HeadGone.retired {s : State} {d l q : Nat} {e : Entry} {rest : List Entry} {z : Sys} (h : HeadGone d l q e rest s.sys z) :
    Retired s d l q e rest { s with sys := noteExcess z } := by
  have hq : ((noteExcess z).ctx d l).queue q = { (s.sys.ctx d l).queue q with ret := e.num, ents := rest } := h.queue
  refine ⟨by rw [hq], by rw [hq], by rw [hq], fun ps inc sc hs => ?_, fun ps hne => ?_⟩
  · exact (h.count ps).trans (signalledCount_self hs _)
  · exact (h.count ps).trans (signalledCount_quiet hne _)

theorem copyRetire_holds {s : State} {d l q : Nat} {c : Ctx} {e : Entry} {rest : List Entry} (hc : c = s.sys.ctx d l) (hq : (c.queue q).ents = e :: rest)
    (hr : ∀ x ∈ rest, x.num ≠ e.num) (hen : c.engines = true) (hst : e.started = true) (hd : e.done = true) (h8 : 8 ≤ q) :
    Ends (.entryRetire d l q) s (fun t => Retired s d l q e rest t ∧ CellsKept s t ∧
      (e.bad = true → PendCause.machineCheck q e.num ∈ (t.sys.ctx d l).pend) ∧ (e.bad = false → (t.sys.ctx d l).pend = c.pend)) := by
  subst hc
  have hgone := retireHead_gone (y := s.sys) ⟨⟨e, rfl, hq⟩, hr⟩
  have hhead : startedHead (s.sys.ctx d l) q = some e := by simp [startedHead, hq, hst]
  have hstep : entryRetireStep d l q s.sys = retireHead d l q e s.sys := by
    simp [entryRetireStep, hen, hhead, hd, h8, show q ≠ 0 by omega]
  exact ends_of_ev (f := fun y => noteExcess (entryRetireStep d l q y)) rfl (congrArg noteExcess hstep)
    ⟨hgone.retired, (Settled.of_gone hgone).cell, fun hb => retireHead_pend s.sys hb, hgone.pend⟩

/-! ## Links and bypass leave the strips alone -/

/-- What a group's retirement reads of a chain. -/
def Chain.core (h : Chain) : Bool × Vector Strip 5 := (h.running, h.strips)

/-- Nothing of the hub, and nothing of a chain but its ports, differs. -/
structure StripsKept (y z : Sys) : Prop where
  hub : z.hub = y.hub
  chains : ∀ d l, (z.ctx d l).chains.map Chain.core = (y.ctx d l).chains.map Chain.core

namespace StripsKept

variable {x y z : Sys}

theorem refl (y : Sys) : StripsKept y y := ⟨rfl, fun _ _ => rfl⟩

theorem trans (h : StripsKept x y) (k : StripsKept y z) : StripsKept x z := ⟨k.hub.trans h.hub, fun d l => (k.chains d l).trans (h.chains d l)⟩

theorem modCtx {d l : Nat} {f : Ctx → Ctx} (hf : ∀ c : Ctx, (f c).chains.map Chain.core = c.chains.map Chain.core) (y : Sys) : StripsKept y (y.modCtx d l f) := by
  refine ⟨rfl, fun e m => ?_⟩
  rw [Sys.ctx_modCtx]
  split
  · next h => obtain ⟨rfl, rfl⟩ := h; exact hf _
  · rfl

theorem passPush (d l ch n : Nat) (y : Sys) : StripsKept y (passPush d l ch n y) :=
  (modCtx (by intro c; exact lmod_map (by intro; rfl) c.chains ch) y).trans (modCtx (by intro; rfl) _)

theorem pushOne {d l ch : Nat} (h : pushOne d l ch y = some z) : StripsKept y z := by
  unfold Machine.pushOne at h
  dsimp only at h
  split at h
  · cases h
  · split at h
    · split at h
      · cases h
      · split at h
        · cases h
        · split at h
          · cases h
          · cases h; exact (passPush ..).trans (modCtx (by intro; rfl) _)
        · split at h
          · cases h; exact passPush ..
          · split at h
            · cases h; exact passPush ..
            · split at h
              · cases h
              · cases h; exact (passPush ..).trans (modCtx (by intro; rfl) _)
    · cases h

theorem moveLink (d l fuel : Nat) (y : Sys) : StripsKept y (moveLink d l fuel y) := by
  induction fuel generalizing y with
  | zero => exact refl y
  | succ n ih =>
    rw [Machine.moveLink]
    split
    · exact refl y
    · next z hz =>
      obtain ⟨ch, -, hch⟩ := List.exists_of_findSome?_eq_some hz
      exact (pushOne hch).trans (ih z)

theorem moveLinks (d l : Nat) (y : Sys) : StripsKept y (moveLinks d l y) := by
  refine List.foldlRecOn (motive := fun z : Sys => StripsKept y z) _ _ (refl y) fun z hz m _ => ?_
  split
  · exact hz.trans (moveLink d m 96 z)
  · exact hz

end StripsKept

/-! ## The entries of a group complete (10 R216) -/

/-- Nothing differs but the entries of one queue, semaphores of its die, and the logs. -/
structure QueueOnly (d l q : Nat) (y : Sys) (ents : List Entry) (z : Sys) : Prop where
  queue : (z.ctx d l).queue q = { (y.ctx d l).queue q with ents := ents }
  ctx : ∃ qs, z.ctx d l = { y.ctx d l with queues := qs }
  cell : ∀ x, z.cell x = y.cell x
  posted : z.hub.posted = y.hub.posted
  node : z.hub.nodes = y.hub.nodes

/-- The entry once it has completed. -/
def Entry.completed (x : Entry) : Entry := if x.done then x else { x with done := true, signalled := true }

theorem EQueue.modEntry_mid {u : EQueue} {A B : List Entry} {x : Entry} (hu : u.ents = A ++ x :: B) (hA : ∀ a ∈ A, a.num ≠ x.num) (hB : ∀ b ∈ B, b.num ≠ x.num)
    (f : Entry → Entry) : u.modEntry x.num f = { u with ents := A ++ f x :: B } := by
  have hrest : ∀ L : List Entry, (∀ a ∈ L, a.num ≠ x.num) → L.map (fun e => if e.num = x.num then f e else e) = L := fun L hL =>
    (List.map_congr_left fun a ha => if_neg (hL a ha)).trans (List.map_id' L)
  simp [EQueue.modEntry, hu, hrest A hA, hrest B hB]

section
variable {d l q : Nat} {y z : Sys} {A B : List Entry} {x : Entry}

theorem QueueOnly.modEntry (h : QueueOnly d l q y (A ++ x :: B) z) (hA : ∀ a ∈ A, a.num ≠ x.num) (hB : ∀ b ∈ B, b.num ≠ x.num) (f : Entry → Entry) :
    QueueOnly d l q y (A ++ f x :: B) (z.modEntry d l q x.num f) := by
  obtain ⟨hq, ⟨_, hc⟩, hcell, hp, hn⟩ := h
  have hctx : (z.modEntry d l q x.num f).ctx d l = (z.ctx d l).modQueue q (fun u => u.modEntry x.num f) := Sys.ctx_modCtx_self ..
  refine ⟨?_, ⟨_, by rw [hctx, hc]; rfl⟩, fun i => (Sys.cell_modCtx ..).trans (hcell i), hp, hn⟩
  rw [hctx, Ctx.queue_modQueue_self, EQueue.modEntry_mid (congrArg EQueue.ents hq) hA hB, hq]

theorem semSignal_hub (y : Sys) (d part ps inc ctag que ent : Nat) : (semSignal y d part ps inc ctag que ent).hub.posted = y.hub.posted ∧
    (semSignal y d part ps inc ctag que ent).hub.nodes = y.hub.nodes := by
  have hnote := logKept_note y part (.sem ((y.die d).sem ps).tag ctag que ent false)
  obtain ⟨_, _, _, hn⟩ := hnote.hub
  have hset : ((noteSem y d part ps ctag que ent false).modDie d (fun v => v.setSem ps ((v.sem ps).add inc (ctag, que, ent)))).hub.posted = y.hub.posted ∧
      ((noteSem y d part ps ctag que ent false).modDie d (fun v => v.setSem ps ((v.sem ps).add inc (ctag, que, ent)))).hub.nodes = y.hub.nodes := by
    constructor
    · exact (congrArg Hub.posted hn :)
    · exact (congrArg Hub.nodes hn :)
  obtain ⟨_, _, _, hw⟩ := (logKept_writeRecord ((noteSem y d part ps ctag que ent false).modDie d (fun v => v.setSem ps ((v.sem ps).add inc (ctag, que, ent)))) part 6 que ctag ent
    (BitVec.ofNat 64 (ps * 2 ^ 48 + inc % 2 ^ 16)) (BitVec.ofNat 64 ((((noteSem y d part ps ctag que ent false).modDie d (fun v => v.setSem ps ((v.sem ps).add inc (ctag, que, ent)))).die d).sem ps).count) _).hub
  exact ⟨(congrArg Hub.posted hw).trans hset.1, (congrArg Hub.nodes hw).trans hset.2⟩

theorem semSignal_cell (y : Sys) (d part ps inc ctag que ent : Nat) (i : Cell) : (semSignal y d part ps inc ctag que ent).cell i = y.cell i := by
  have hdie : ∀ e, ∃ ss, (semSignal y d part ps inc ctag que ent).die e = { y.die e with sems := ss } := fun e => by
    rw [semSignal_die]
    split
    · next h => subst h; exact ⟨_, rfl⟩
    · exact ⟨_, rfl⟩
  exact Sys.cell_of_die (fun e => by obtain ⟨_, h⟩ := hdie e; rw [h]; exact ⟨rfl, rfl, rfl⟩) i

theorem QueueOnly.semSignal {ents : List Entry} (h : QueueOnly d l q y ents z) (part ps inc ctag que ent : Nat) :
    QueueOnly d l q y ents (semSignal z d part ps inc ctag que ent) := by
  obtain ⟨hq, hc, hcell, hp, hn⟩ := h
  have hctx := semSignal_ctx z d part ps inc ctag que ent d l
  have hhub := semSignal_hub z d part ps inc ctag que ent
  refine ⟨hctx ▸ hq, hctx ▸ hc, fun i => (semSignal_cell ..).trans (hcell i), hhub.1.trans hp, hhub.2.trans hn⟩

theorem complete_queueOnly (h : QueueOnly d l q y (A ++ x :: B) z) (hA : ∀ a ∈ A, a.num ≠ x.num) (hB : ∀ b ∈ B, b.num ≠ x.num) :
    QueueOnly d l q y (A ++ { x with done := true, signalled := true } :: B) (complete d l q x z) := by
  have hdone := h.modEntry hA hB (fun e => { e with done := true })
  unfold complete applySignal
  dsimp only
  split
  · next hs =>
    have hx : ({ x with done := true, signalled := true } : Entry) = { x with done := true } := by rw [← hs]
    rw [hx]
    exact hdone
  · have hsig := QueueOnly.modEntry (x := { x with done := true }) hdone hA hB (fun e => { e with signalled := true })
    split
    · exact hsig
    · exact hsig.semSignal ..

end

/-- The group at the head of a chain's queue: its streams, all done, and its program, the chain idle. -/
structure GroupDone (d l ch : Nat) (G tail : List Entry) (h : Chain) (y : Sys) : Prop where
  ents : ((y.ctx d l).queue (1 + ch)).ents = G ++ tail
  nums : (G ++ tail).Pairwise (fun x y => x.num ≠ y.num)
  group : y.group d l ch = G
  chain : (y.ctx d l).chains[ch]? = some h
  done : ∀ x ∈ G, groupEntryDone h x = true

section
variable {d l ch : Nat} {G tail : List Entry} {h : Chain} {y z : Sys}

/-- One entry of the group, when it is its turn to complete. -/
def completeOne (d l ch : Nat) (y : Sys) (e : Entry) : Sys :=
  match (y.ctx d l).chains[ch]? with
  | some h => if !e.done && groupEntryDone h e then complete d l (1 + ch) e y else y
  | none => y

theorem completeOne_queueOnly {A B : List Entry} {x : Entry} (hch : (y.ctx d l).chains[ch]? = some h) (hx : groupEntryDone h x = true)
    (hz : QueueOnly d l (1 + ch) y (A ++ x :: B) z) (hA : ∀ a ∈ A, a.num ≠ x.num) (hB : ∀ b ∈ B, b.num ≠ x.num) :
    QueueOnly d l (1 + ch) y (A ++ x.completed :: B) (completeOne d l ch z x) := by
  obtain ⟨_, hc⟩ := hz.ctx
  have hch' : (z.ctx d l).chains[ch]? = some h := by rw [hc]; exact hch
  simp only [completeOne, hch', hx, Entry.completed]
  cases x.done with
  | true => exact hz
  | false => exact complete_queueOnly hz hA hB

theorem Entry.completed_num (x : Entry) : x.completed.num = x.num := by unfold Entry.completed; split <;> rfl
theorem Entry.completed_cmd (x : Entry) : x.completed.cmd = x.cmd := by unfold Entry.completed; split <;> rfl
theorem Entry.completed_bad (x : Entry) : x.completed.bad = x.bad := by unfold Entry.completed; split <;> rfl
theorem Entry.completed_done (x : Entry) : x.completed.done = true := by unfold Entry.completed; split <;> simp_all
theorem groupEntryDone_completed (h : Chain) (x : Entry) : groupEntryDone h x.completed = groupEntryDone h x := by
  unfold Entry.completed; split <;> rfl

theorem foldl_completeOne (hch : (y.ctx d l).chains[ch]? = some h) (R : List Entry) : ∀ (A : List Entry) (z : Sys), (∀ x ∈ R, groupEntryDone h x = true) →
    (A ++ R ++ tail).Pairwise (fun x y => x.num ≠ y.num) → QueueOnly d l (1 + ch) y (A ++ R ++ tail) z →
    QueueOnly d l (1 + ch) y (A ++ R.map Entry.completed ++ tail) (R.foldl (completeOne d l ch) z) := by
  induction R with
  | nil => exact fun _ _ _ _ hz => hz
  | cons x R ih =>
    intro A z hx hnum hz
    have hsplit : A ++ x :: R ++ tail = A ++ x :: (R ++ tail) := by simp
    rw [hsplit] at hnum hz
    obtain ⟨-, hright, hacross⟩ := List.pairwise_append.1 hnum
    have hA : ∀ a ∈ A, a.num ≠ x.num := fun a ha => hacross a ha x (by simp)
    have hB : ∀ b ∈ R ++ tail, b.num ≠ x.num := fun b hb => ((List.pairwise_cons.1 hright).1 b hb).symm
    have hone := completeOne_queueOnly hch (hx x (by simp)) hz hA hB
    have hjoin : A ++ x.completed :: (R ++ tail) = (A ++ [x.completed]) ++ R ++ tail := by simp
    have hnum' : ((A ++ [x.completed]) ++ R ++ tail).Pairwise (fun x y => x.num ≠ y.num) := by
      rw [← hjoin, List.pairwise_append, List.pairwise_cons]
      simp only [List.mem_cons, Entry.completed_num, forall_eq_or_imp]
      exact ⟨(List.pairwise_append.1 hnum).1, ⟨fun b hb => (hB b hb).symm, (List.pairwise_cons.1 hright).2⟩,
        fun a ha => ⟨hA a ha, fun b hb => hacross a ha b (List.mem_cons_of_mem _ hb)⟩⟩
    have := ih (A ++ [x.completed]) _ (fun b hb => hx b (List.mem_cons_of_mem _ hb)) hnum' (hjoin ▸ hone)
    simpa using this

/-- Every entry of a group that is done completes. -/
theorem completeStreams_queueOnly (hg : GroupDone d l ch G tail h y) :
    QueueOnly d l (1 + ch) y (G.map Entry.completed ++ tail) (completeStreams d l ch y) := by
  have hstep : completeStreams d l ch y = G.foldl (completeOne d l ch) y := by rw [← hg.group]; rfl
  rw [hstep]
  exact foldl_completeOne (A := []) hg.chain G y hg.done hg.nums ⟨by rw [List.nil_append, ← hg.ents], ⟨_, rfl⟩, fun _ => rfl, rfl, rfl⟩

/-- Entries that have completed complete no more. -/
theorem completeStreams_done (hg : ∀ x ∈ y.group d l ch, x.done = true) : completeStreams d l ch y = y := by
  have hfold : ∀ R : List Entry, (∀ x ∈ R, x.done = true) → R.foldl (completeOne d l ch) y = y := fun R hR => by
    induction R with
    | nil => rfl
    | cons x R ih =>
      have hx : completeOne d l ch y x = y := by
        unfold completeOne
        split
        · simp [hR x (by simp)]
        · rfl
      rw [List.foldl_cons, hx]
      exact ih fun b hb => hR b (List.mem_cons_of_mem _ hb)
  exact hfold _ hg

/-- No stream of a group that is done moves. -/
theorem moveStreams_done (hg : GroupDone d l ch G tail h y) : moveStreams d l ch y = y := by
  have hnone : (G.filter (fun e => isStream e.cmd && streamReady h G e)) = [] := by
    refine List.filter_eq_nil_iff.2 fun e he hready => ?_
    obtain ⟨hs, hready⟩ := Bool.and_eq_true_iff.1 hready
    have hdone := hg.done e he
    rw [groupEntryDone, not_isProg_of_isStream hs] at hdone
    have hrep : e.reps.length ≤ e.rep := by simpa using hdone
    simp [streamReady, hrep.not_gt] at hready
  simp only [moveStreams, hg.chain, hg.group, hnone, List.foldl_nil]

/-! ## The group retires -/

/-- The unit at the head of a queue is a group, as far as its program. -/
theorem EQueue.unit_group {u : EQueue} {g tail : List Entry} {p : Entry} (hu : u.ents = g ++ p :: tail) (hg : ∀ x ∈ g, isStream x.cmd = true)
    (hp : isProg p.cmd = true) : u.unit = g ++ [p] := by
  have hthrough : ∀ g : List Entry, (∀ x ∈ g, isStream x.cmd = true) → throughProg (g ++ p :: tail) = g ++ [p] := fun g hg => by
    induction g with
    | nil => simp [throughProg, hp]
    | cons x g ih => simp [throughProg, not_isProg_of_isStream (hg x (by simp)), ih fun b hb => hg b (List.mem_cons_of_mem _ hb)]
  unfold EQueue.unit
  rw [hu]
  cases g with
  | nil => simp [hp, throughProg]
  | cons x g =>
    have h := hthrough (x :: g) hg
    rw [List.cons_append] at h ⊢
    simp only [hg x (by simp), Bool.true_or, if_true]
    exact h

theorem logKept_logEntries (d l q kind : Nat) (g : List Entry) (y : Sys) : LogKept y (g.foldl (fun y e => logEntry y d l q kind e) y) :=
  List.foldlRecOn (motive := fun z : Sys => LogKept y z) _ _ (.refl y) fun _ hz e _ => hz.trans (logKept_logEntry _ _ _ _ _ e)

/-- The group is gone from its queue, its chain no longer running. -/
structure GroupGone (d l ch n : Nat) (tail : List Entry) (y z : Sys) : Prop where
  ents : ((z.ctx d l).queue (1 + ch)).ents = tail
  ret : ((z.ctx d l).queue (1 + ch)).ret = n
  running : ∀ h, (y.ctx d l).chains[ch]? = some h → (((z.ctx d l).chains[ch]?).map (·.running)) = some false
  sems : (z.die d).sems = (y.die d).sems
  cell : ∀ x, z.cell x = y.cell x
  posted : z.hub.posted = y.hub.posted

/-- The queue and the chain of a group of `k` entries that retires. -/
def groupLeft (ch n k : Nat) (c : Ctx) : Ctx :=
  { c.modQueue (1 + ch) (fun u => { u with ret := n, ents := u.ents.drop k }) with
    wdCycles := 0
    chains := lmod c.chains ch (fun h => { h with running := false }) }

theorem groupLeft_queue (ch n k : Nat) (c : Ctx) :
    (groupLeft ch n k c).queue (1 + ch) = { c.queue (1 + ch) with ret := n, ents := (c.queue (1 + ch)).ents.drop k } :=
  Ctx.queue_modQueue_self c (1 + ch) (fun u => { u with ret := n, ents := u.ents.drop k })

theorem groupLeft_gone (hq : ((y.ctx d l).queue (1 + ch)).ents = G ++ tail) (n : Nat) :
    GroupGone d l ch n tail y ((G.foldl (fun y e => logEntry y d l (1 + ch) 5 e) y).modCtx d l (groupLeft ch n G.length)) := by
  have hlog := logKept_logEntries d l (1 + ch) 5 G y
  obtain ⟨_, _, _, hhub⟩ := hlog.hub
  refine ⟨?_, ?_, fun h hh => ?_, ?_, fun x => (Sys.cell_modCtx ..).trans (hlog.cell x), (congrArg Hub.posted hhub :)⟩
  · rw [Sys.ctx_modCtx_self, hlog.ctx, groupLeft_queue, hq, List.drop_left]
  · rw [Sys.ctx_modCtx_self, groupLeft_queue]
  · rw [Sys.ctx_modCtx_self, hlog.ctx, groupLeft, getElem?_lmod, if_pos rfl, hh]
    rfl
  · rw [Sys.die_modCtx_sems, hlog.die]

theorem GroupGone.addPend {n : Nat} (h : GroupGone d l ch n tail y z) (p : PendCause) : GroupGone d l ch n tail y (addPend z d l p) := by
  have hctx : ∃ ps, (Machine.addPend z d l p).ctx d l = { z.ctx d l with pend := ps } := by
    rw [Machine.addPend, Sys.ctx_modCtx_self]
    split <;> exact ⟨_, rfl⟩
  obtain ⟨_, hctx⟩ := hctx
  exact ⟨by rw [hctx]; exact h.ents, by rw [hctx]; exact h.ret, by rw [hctx]; exact h.running, (Sys.die_modCtx_sems ..).trans h.sems,
    fun x => (Sys.cell_modCtx ..).trans (h.cell x), h.posted⟩

/-- The group retires as one; where an entry of it met uncorrectable data, its program's number is reported. -/
theorem retireGroup_gone (hq : ((y.ctx d l).queue (1 + ch)).ents = G ++ tail) {n : Nat} (hn : (G.getLast?.map (·.num)).getD 0 = n) :
    GroupGone d l ch n tail y (retireGroup d l ch G y) ∧
      (G.any (·.bad) = true → PendCause.machineCheck (1 + ch) n ∈ ((retireGroup d l ch G y).ctx d l).pend) := by
  have hgone := groupLeft_gone hq n
  cases hb : G.any (·.bad) with
  | false =>
    have hstep : retireGroup d l ch G y = (G.foldl (fun y e => logEntry y d l (1 + ch) 5 e) y).modCtx d l (groupLeft ch n G.length) := by
      subst hn; simp only [retireGroup, hb, Bool.false_eq_true, if_false]; rfl
    exact ⟨hstep ▸ hgone, fun h => absurd h (by simp)⟩
  | true =>
    have hstep : retireGroup d l ch G y = addPend ((G.foldl (fun y e => logEntry y d l (1 + ch) 5 e) y).modCtx d l (groupLeft ch n G.length)) d l
        (.machineCheck (1 + ch) n) := by
      subst hn; simp only [retireGroup, hb, if_true, entryMachineCheck, Nat.add_eq_zero_iff, Nat.one_ne_zero, false_and, if_false]; rfl
    exact hstep ▸ ⟨hgone.addPend _, fun _ => addPend_mem ..⟩

/-! ## What the group's signals add -/

theorem completeOne_quiet {x : Entry} {ps : Nat} (hx : x.signal.map (fun z => z.1) ≠ some ps) (z : Sys) :
    (((completeOne d l ch z x).die d).sem ps).count = ((z.die d).sem ps).count := by
  unfold completeOne
  split
  · split
    · exact (complete_count ..).trans (signalledCount_quiet hx _)
    · rfl
  · rfl

theorem completeStreams_quiet {ps : Nat} (hG : ∀ x ∈ y.group d l ch, x.signal.map (fun z => z.1) ≠ some ps) :
    (((completeStreams d l ch y).die d).sem ps).count = ((y.die d).sem ps).count :=
  List.foldlRecOn (motive := fun z : Sys => ((z.die d).sem ps).count = ((y.die d).sem ps).count) _ _ rfl
    fun z hz x hx => (completeOne_quiet (d := d) (l := l) (ch := ch) (hG x hx) z).trans hz

/-- The signal of a program without streams, once (03 R67). -/
theorem completeStreams_single {p : Entry} (hg : GroupDone d l ch [p] tail h y) {ps inc sc : Nat} (hs : p.signal = some (ps, inc, sc)) :
    (((completeStreams d l ch y).die d).sem ps).count =
      if p.done || p.signalled then ((y.die d).sem ps).count else min (((y.die d).sem ps).count + inc) 65535 := by
  have hstep : completeStreams d l ch y = [p].foldl (completeOne d l ch) y := by rw [← hg.group]; rfl
  rw [hstep, List.foldl_cons, List.foldl_nil, completeOne]
  simp only [hg.chain, hg.done p (by simp)]
  cases p.done with
  | true => rfl
  | false => exact (complete_count ..).trans (signalledCount_self hs _)

/-! ## STRIP_GROUP_RETIRE -/

theorem handPosts_posted (p : Entry) (hch : (y.ctx d l).chains[ch]? = some h) : (handPosts d l ch p y).hub.posted.map (·.record) =
    y.hub.posted.map (·.record) ++ (List.range 5).flatMap (fun k => (h.strip k).posts) := by
  simp [handPosts, Sys.modHub, hch, Function.comp_def]

theorem handPosts_dies (d l ch : Nat) (p : Entry) (y : Sys) : (handPosts d l ch p y).dies = y.dies := rfl

theorem groupEntryDone_core {h' : Chain} (hc : h'.core = h.core) (x : Entry) : groupEntryDone h' x = groupEntryDone h x := by
  have hstrips : h'.strips = h.strips := (Prod.mk.inj hc).2
  simp only [groupEntryDone, Chain.idle, Chain.strip, hstrips]

/-- The system when a group that is done hands on its records: its entries complete, and links and bypass take what has room. -/
def groupPumped (d l ch : Nat) (y : Sys) : Sys := moveLinks d l (completeStreams d l ch y)

/-- What the group is by then. -/
structure GroupPumped (d l ch : Nat) (G tail : List Entry) (h : Chain) (y z : Sys) : Prop where
  ents : ((z.ctx d l).queue (1 + ch)).ents = G.map Entry.completed ++ tail
  chain : ∃ h', (z.ctx d l).chains[ch]? = some h' ∧ h'.core = h.core
  sems : (z.die d).sems = ((completeStreams d l ch y).die d).sems
  cell : ∀ x, z.cell x = y.cell x
  posted : z.hub.posted = y.hub.posted

theorem groupPumped_of (hg : GroupDone d l ch G tail h y) : GroupPumped d l ch G tail h y (groupPumped d l ch y) := by
  have hcomp := completeStreams_queueOnly hg
  have hlinks := moveLinks_links d l (completeStreams d l ch y)
  have hstrips := StripsKept.moveLinks d l (completeStreams d l ch y)
  obtain ⟨⟨_, _, _, _, hc⟩, -⟩ := hlinks.ctx d l
  obtain ⟨_, hqs⟩ := hcomp.ctx
  obtain ⟨_, hd⟩ := hlinks.die d
  refine ⟨?_, ?_, by rw [groupPumped, hd], fun x => ((Settled.of_links (b := false) (d := d) (l := l) hlinks).cell x).trans (hcomp.cell x), ?_⟩
  · rw [groupPumped, hc]
    exact congrArg EQueue.ents hcomp.queue
  · have hmap := congrArg (fun L => L[ch]?) (hstrips.chains d l)
    have hch : ((completeStreams d l ch y).ctx d l).chains[ch]? = some h := by rw [hqs]; exact hg.chain
    simp only [List.getElem?_map, hch, Option.map_some] at hmap
    exact Option.map_eq_some_iff.1 hmap
  · rw [groupPumped, hstrips.hub]
    exact hcomp.posted

section
variable {s : State} {c : Ctx} {g : List Entry} {p : Entry} (hc : c = s.sys.ctx d l) (hen : c.engines = true) (hch : c.chains[ch]? = some h)
  (hrun : h.running = true) (hidle : h.idle = true) (hq : (c.queue (1 + ch)).ents = g ++ p :: tail)
  (hnum : (g ++ p :: tail).Pairwise (fun x y => x.num ≠ y.num)) (hg : ∀ x ∈ g, isStream x.cmd = true ∧ x.reps.length ≤ x.rep) (hp : isProg p.cmd = true)
include hc hch hidle hq hnum hg hp

theorem groupDone_of : GroupDone d l ch (g ++ [p]) tail h s.sys := by
  subst hc
  refine ⟨by simp [hq], by simpa using hnum, EQueue.unit_group hq (fun x hx => (hg x hx).1) hp, hch, fun x hx => ?_⟩
  rcases List.mem_append.1 hx with hx | hx
  · obtain ⟨hs, hd⟩ := hg x hx
    simp [groupEntryDone, not_isProg_of_isStream hs, hd]
  · rw [List.mem_singleton.1 hx, groupEntryDone, hp, if_pos rfl, hidle]

include hen hrun

/-- A group that is done, its chain idle, retires in one turn. -/
theorem groupRetireStep_retires : groupRetireStep d l ch s.sys =
    retireGroup d l ch ((g ++ [p]).map Entry.completed) (handPosts d l ch p.completed (groupPumped d l ch s.sys)) := by
  have hd := groupDone_of hc hch hidle hq hnum hg hp
  have hpumped := groupPumped_of hd
  obtain ⟨h', hch', hcore⟩ := hpumped.chain
  have hpump : pump d l ch s.sys = groupPumped d l ch s.sys := by
    simp only [pump, hd.chain, Option.map_some, Option.getD_some, hrun, if_true, moveStreams_done hd, groupPumped]
  have hunit : (groupPumped d l ch s.sys).group d l ch = (g ++ [p]).map Entry.completed := by
    rw [List.map_append]
    refine EQueue.unit_group (tail := tail) (by rw [hpumped.ents]; simp) (fun x hx => ?_) (by rw [Entry.completed_cmd]; exact hp)
    obtain ⟨z, hz, rfl⟩ := List.mem_map.1 hx
    rw [Entry.completed_cmd]
    exact (hg z hz).1
  have hlast : ((g ++ [p]).map Entry.completed).getLast? = some p.completed := by simp
  have hall : ((g ++ [p]).map Entry.completed).all (groupEntryDone h') = true := by
    simp only [List.all_eq_true, List.mem_map, forall_exists_index, and_imp, forall_apply_eq_imp_iff₂, groupEntryDone_completed, groupEntryDone_core hcore]
    exact hd.done
  have hdone : completeStreams d l ch (groupPumped d l ch s.sys) = groupPumped d l ch s.sys := by
    refine completeStreams_done fun x hx => ?_
    rw [hunit] at hx
    obtain ⟨z, -, rfl⟩ := List.mem_map.1 hx
    exact z.completed_done
  subst hc
  simp only [groupRetireStep, hen, hch, Option.map_some, Option.getD_some, hrun, Bool.and_true, Bool.not_true, Bool.false_eq_true, if_false, hpump, hch', hunit, hlast,
    hall, if_true, hdone]

theorem stripGroupRetire_holds : Ends (.stripGroupRetire d l ch) s (fun t => ((t.sys.ctx d l).queue (1 + ch)).ents = tail ∧
    ((t.sys.ctx d l).queue (1 + ch)).ret = p.num ∧ CellsKept s t ∧ (((t.sys.ctx d l).chains[ch]?).map (·.running)) = some false ∧
    t.sys.hub.posted.map (·.record) = s.sys.hub.posted.map (·.record) ++ (List.range 5).flatMap (fun k => (h.strip k).posts) ∧
    ((∃ x ∈ g ++ [p], x.bad = true) → PendCause.machineCheck (1 + ch) p.num ∈ (t.sys.ctx d l).pend) ∧
    (∀ ps, (∀ x ∈ g ++ [p], x.signal.map (fun z => z.1) ≠ some ps) → ((t.sys.die d).sem ps).count = ((s.sys.die d).sem ps).count) ∧
    (∀ ps inc sc, g = [] → p.signal = some (ps, inc, sc) → ((t.sys.die d).sem ps).count =
      (if p.done || p.signalled then ((s.sys.die d).sem ps).count else min (((s.sys.die d).sem ps).count + inc) 65535))) := by
  have hd := groupDone_of hc hch hidle hq hnum hg hp
  have hpumped := groupPumped_of hd
  obtain ⟨h', hch', hcore⟩ := hpumped.chain
  have hstrips : h'.strips = h.strips := (Prod.mk.inj hcore).2
  have hn : (((g ++ [p]).map Entry.completed).getLast?.map (·.num)).getD 0 = p.num := by simp [Entry.completed_num]
  have hdies := handPosts_dies d l ch p.completed (groupPumped d l ch s.sys)
  have hctx := Sys.ctx_of_dies hdies d l
  have hents : (((handPosts d l ch p.completed (groupPumped d l ch s.sys)).ctx d l).queue (1 + ch)).ents = _ := (congrArg (fun c => (c.queue (1 + ch)).ents) hctx).trans hpumped.ents
  obtain ⟨hgone, hpend⟩ := retireGroup_gone hents hn
  have hstep := groupRetireStep_retires hc hen hch hrun hidle hq hnum hg hp
  have hdie : (handPosts d l ch p.completed (groupPumped d l ch s.sys)).die d = (groupPumped d l ch s.sys).die d := by
    simp only [Sys.die, hdies]
  have hsem : ∀ ps, ((retireGroup d l ch ((g ++ [p]).map Entry.completed) (handPosts d l ch p.completed (groupPumped d l ch s.sys))).die d).sem ps =
      ((completeStreams d l ch s.sys).die d).sem ps := fun ps => by
    simp only [Die.sem, hgone.sems, hdie, hpumped.sems]
  generalize retireGroup d l ch ((g ++ [p]).map Entry.completed) (handPosts d l ch p.completed (groupPumped d l ch s.sys)) = z at hgone hpend hstep hsem
  generalize groupPumped d l ch s.sys = w at hpumped hch' hgone hdies hctx hdie
  refine ends_of_ev (f := fun y => noteExcess (groupRetireStep d l ch y)) rfl (congrArg noteExcess hstep)
    ⟨hgone.ents, hgone.ret, fun x => (hgone.cell x).trans ((Sys.cell_of_dies hdies x).trans (hpumped.cell x)), hgone.running h' (hctx ▸ hch'), ?_, fun ⟨x, hx, hb⟩ => ?_, fun ps hps => ?_, fun ps inc sc h0 hs => ?_⟩
  · refine (congrArg (List.map (·.record)) hgone.posted).trans ((handPosts_posted p.completed hch').trans ?_)
    simp only [hpumped.posted, Chain.strip, hstrips]
  · refine hpend (List.any_eq_true.2 ⟨x.completed, List.mem_map_of_mem hx, ?_⟩)
    rw [Entry.completed_bad, hb]
  · rw [noteExcess_die, hsem]
    exact completeStreams_quiet (hd.group ▸ hps)
  · subst h0
    rw [noteExcess_die, hsem]
    exact completeStreams_single hd hs

end
end

/-- Settles O37: the head entry by its wait and its weight, a group by the completion of its entries, a posted record by what the hub keeps. -/
theorem entryEvents : Obligations.EntryEvents := by
  unfold Obligations.EntryEvents
  intro s d l q c e rest hc hq hr hen hk
  refine ⟨fun hst hs hheld hcp => ⟨fun hmet => ⟨fun hfit hold => ⟨fun hp => ?_, fun hp ch h hch hh => ?_⟩, fun hp hfit => ?_⟩, fun hp hw ps thr hwait hm => ?_⟩,
    fun hst hd h8 => copyRetire_holds hc hq hr hen hst hd h8, fun ch h g p tail hch hh hrun hidle hsplit hnum hg hp => ?_, fun x hx => postedRecordTake_holds hx⟩
  · obtain ⟨w, hw, hstart⟩ := startUnit_starts (hc ▸ hq) hr hs hst hmet (hc ▸ hfit) hold id
    exact entryStart_ends hc hq hen hk hst hs hheld hcp hp
      (hw ▸ ⟨congrArg EQueue.ents hstart.head.queue, hstart.count, hstart.request, hstart.cell⟩)
  · exact stripGroupStart_starts hc hq hen hk hst hs hheld hr hmet hfit hold hp hch hh
  · obtain ⟨z, hz, hwait⟩ := startUnit_asks (hc ▸ hq) hr hs hst hmet (hc ▸ hfit) id
    exact entryStart_ends hc hq hen hk hst hs hheld hcp hp (hz ▸ ⟨congrArg EQueue.ents hwait.head.queue, mem_openReq_self .., hwait.cell⟩)
  · obtain ⟨z, hz, hctx, hcount, hwaiter, hcell⟩ := tryWait_unmet (q := q) hw hwait hm
    have hstep := startUnit_unmet (hc ▸ hq) hs hw hwait hm id
    exact entryStart_ends hc hq hen hk hst hs hheld hcp hp (by rw [hstep, hz]; exact ⟨hctx.trans hc.symm, hcount, hwaiter, hcell⟩)
  · subst hch
    exact stripGroupRetire_holds hc hen hh hrun hidle (hq.trans hsplit) (hsplit ▸ hnum) hg hp

end Sys2Proof.Machine

/-! SUPPORT. A word as the sum of its fields (03 R57 to R62, R65, R70): the low bits of a word, the fields that an instruction reads from it, and the fields
whose values the decoder has checked. -/

namespace Sys2Proof.Machine

/- The proofs of this file are elaborated one after another: side by side they take more memory than the check grants. -/
set_option Elab.async false

/-! ## The low bits of a word -/

/-- The `k` lowest bits of a number. -/
def low (w k : Nat) : Nat := w % 2 ^ k

theorem low_zero (w : Nat) : low w 0 = 0 := Nat.mod_one w

/-- A field is the step from one prefix of the word to the next. -/
theorem low_add (w lo n : Nat) : low w (lo + n) = low w lo + place (fld w lo n) lo := by
  rw [low, low, place, fld, Nat.mul_comm, Nat.pow_add, Nat.mod_mul]

theorem fld_eq_toNat_bf (w lo n : Nat) : fld w lo n = (bf w lo n).toNat := (BitVec.toNat_ofNat ..).symm

/-! ## What an instruction reads of a word -/

/-- The word `x` is the constant `K` and, at their places, the fields of `w` that a list names. -/
def SumOf (w x K : Nat) (fs : List (Nat × Nat)) : Prop := x = K + (fs.map fun f => place (fld w f.1 f.2) f.1).sum

namespace SumOf

variable {w x K : Nat} {fs : List (Nat × Nat)}

theorem base : SumOf w K K [] := rfl

theorem add {y lo n : Nat} (h : SumOf w x K fs) (hy : y = place (fld w lo n) lo) : SumOf w (x + y) K ((lo, n) :: fs) := by
  rw [SumOf, List.map_cons, List.sum_cons, h, hy, Nat.add_assoc, Nat.add_comm (List.sum _)]

theorem field {lo n : Nat} (h : SumOf w x K fs) : SumOf w (x + place (bf w lo n).toNat lo) K ((lo, n) :: fs) := h.add (by rw [fld_eq_toNat_bf])

theorem flag {lo : Nat} (h : SumOf w x K fs) : SumOf w (x + place (fld w lo 1 == 1).toNat lo) K ((lo, 1) :: fs) := by
  have hbit : fld w lo 1 = 0 ∨ fld w lo 1 = 1 := Nat.mod_two_eq_zero_or_one _
  refine h.add ?_
  rcases hbit with hb | hb <;> rw [hb] <;> rfl

/-- The common fields of format EC are neighbours (03 R61). -/
theorem common (h : SumOf w x K fs) : SumOf w (x + encCommon (commonOf w)) K ((10, 39) :: fs) := by
  refine h.add (Nat.add_left_cancel (n := low w 10) ?_)
  rw [← low_add w 10 39, low_add w 47 2, low_add w 44 3, low_add w 36 8, low_add w 32 4, low_add w 24 8, low_add w 18 6, low_add w 10 8]
  simp only [encCommon, commonOf, ← fld_eq_toNat_bf, Nat.add_assoc]

end SumOf

/-! ## What the decoder has checked -/

/-- The fields of a list hold the values that it gives. -/
def Known (w : Nat) (cs : List (Nat × Nat × Nat)) : Prop := ∀ c ∈ cs, fld w c.1 c.2.1 = c.2.2

theorem Known.nil {w : Nat} : Known w [] := fun _ h => nomatch h

theorem Known.cons {w lo n v : Nat} {cs : List (Nat × Nat × Nat)} (h : fld w lo n = v) (k : Known w cs) : Known w ((lo, n, v) :: cs) :=
  List.forall_mem_cons.2 ⟨h, k⟩

/-! ## The fields make up the word -/

/-- The bits of a field. -/
def mask (lo n : Nat) : Nat := (2 ^ n - 1) * 2 ^ lo

theorem place_fld (w lo n : Nat) : place (fld w lo n) lo = w &&& mask lo n := by
  refine Nat.eq_of_testBit_eq fun i => ?_
  rw [place, mask, fld, Nat.testBit_and, Nat.testBit_mul_two_pow, Nat.testBit_mul_two_pow, Nat.testBit_mod_two_pow, Nat.testBit_div_two_pow,
    Nat.testBit_two_pow_sub_one]
  by_cases h : lo ≤ i
  · simp only [h, decide_true, Bool.true_and, Nat.sub_add_cancel h, Bool.and_comm]
  · simp only [h, decide_false, Bool.false_and, Bool.and_false]

/-- Bits that do not meet add up without a carry. -/
theorem or_eq_add {a b : Nat} (h : a &&& b = 0) : a ||| b = a + b := by
  have hlt : a + b < 2 ^ (a + b) := Nat.lt_two_pow_self
  have hor := BitVec.add_eq_or_of_and_eq_zero (BitVec.ofNat (a + b) a) (BitVec.ofNat (a + b) b) (by rw [← BitVec.ofNat_and, h])
  have hor := congrArg BitVec.toNat hor
  rwa [← BitVec.ofNat_or, ← BitVec.ofNat_add, BitVec.toNat_ofNat, BitVec.toNat_ofNat, Nat.mod_eq_of_lt hlt, Nat.mod_eq_of_lt
    (Nat.or_lt_two_pow ((Nat.le_add_right a b).trans_lt hlt) ((Nat.le_add_left b a).trans_lt hlt)), eq_comm] at hor

theorem and_add {w a b : Nat} (h : a &&& b = 0) : w &&& (a + b) = (w &&& a) + (w &&& b) := by
  have hw : (w &&& a) &&& (w &&& b) = 0 := by rw [Nat.and_left_comm, ← Nat.and_assoc, ← Nat.and_assoc, Nat.and_self, Nat.and_assoc, h, Nat.and_zero]
  rw [← or_eq_add h, ← or_eq_add hw, Nat.and_or_distrib_left]

/-- The bits of `m` are those of `k` and of the fields, each once. -/
def covers (m : Nat) : List (Nat × Nat) → Nat → Bool
  | [], k => Nat.beq m k
  | (lo, n) :: fs, k => Nat.beq (Nat.land k (mask lo n)) 0 && covers m fs (k + mask lo n)

theorem and_of_covers {w m : Nat} {fs : List (Nat × Nat)} {k : Nat} (h : covers m fs k = true) :
    (w &&& k) + (fs.map fun f => place (fld w f.1 f.2) f.1).sum = w &&& m := by
  induction fs generalizing k with
  | nil => rw [Nat.eq_of_beq_eq_true h]; rfl
  | cons f fs ih =>
    obtain ⟨hk, h⟩ := Bool.and_eq_true_iff.1 h
    rw [← ih h, and_add (Nat.eq_of_beq_eq_true hk), List.map_cons, List.sum_cons, place_fld, Nat.add_assoc]

/-- The fields that are read, those that are known and the bits of `k` make up the `N` lowest bits, each once, and the values of the known ones add up from `v`
to the constant `K`. -/
def tiled (N K : Nat) (fs : List (Nat × Nat)) : List (Nat × Nat × Nat) → Nat → Nat → Bool
  | [], v, k => Nat.beq K v && covers (2 ^ N - 1) fs k
  | (lo, n, x) :: cs, v, k => Nat.beq (Nat.land k (mask lo n)) 0 && tiled N K fs cs (v + place x lo) (k + mask lo n)

theorem SumOf.add_of_tiled {w x K N : Nat} {fs : List (Nat × Nat)} {cs : List (Nat × Nat × Nat)} (h : SumOf w x K fs) (hk : Known w cs) {v k : Nat}
    (ht : tiled N K fs cs v k = true) : (w &&& k) + x = v + low w N := by
  induction cs generalizing v k with
  | nil =>
    obtain ⟨hK, hc⟩ := Bool.and_eq_true_iff.1 ht
    rw [h, Nat.eq_of_beq_eq_true hK, low, ← Nat.and_two_pow_sub_one_eq_mod, ← and_of_covers hc, Nat.add_left_comm]
  | cons c cs ih =>
    obtain ⟨lo, n, y⟩ := c
    obtain ⟨hd, ht⟩ := Bool.and_eq_true_iff.1 ht
    obtain ⟨hc, hk⟩ := List.forall_mem_cons.1 hk
    have hc : fld w lo n = y := hc
    have hx := ih hk ht
    rw [and_add (Nat.eq_of_beq_eq_true hd), ← place_fld, hc, Nat.add_right_comm, Nat.add_right_comm v] at hx
    exact Nat.add_right_cancel hx

theorem SumOf.eq_low {w x K N : Nat} {fs : List (Nat × Nat)} {cs : List (Nat × Nat × Nat)} (h : SumOf w x K fs) (hk : Known w cs)
    (ht : tiled N K fs cs 0 0 = true) : x = low w N := by
  simpa using h.add_of_tiled hk ht

/-! ## Instructions read from a word -/

/-- One arm of a `match` on a number, as the match unfolds: a chain of comparisons, taken arm by arm. (`split` proves for the last arm an equation whose size
is quadratic in the number of arms, of which `decode32` has 93.) -/
def arm (op v : Nat) (x rest : Except DecErr Instr) : Except DecErr Instr :=
  dite (op = v) (Eq.ndrec_symm (motive := fun _ => Except DecErr Instr) x) fun _ => rest

theorem dite_eq_arm (op v : Nat) (x rest : Except DecErr Instr) :
    dite (op = v) (Eq.ndrec_symm (motive := fun _ => Except DecErr Instr) x) (fun _ => rest) = arm op v x rest := rfl

/-- A well-formed instruction, of a strip's space or of the sequencer's, whose word is the `N` lowest bits of `w`. -/
def Spells (w N : Nat) (strip : Bool) (i : Instr) : Prop := i.wf = true ∧ isWord i = strip ∧ encode i = some (low w N)

/-- Whatever a decoder answers once it knows the fields `cs` is spelled by the word. -/
def Faithful (w N : Nat) (strip : Bool) (cs : List (Nat × Nat × Nat)) (x : Except DecErr Instr) : Prop := Known w cs → ∀ i, x = .ok i → Spells w N strip i

/-- The word spells an instruction if the fields `cs` are known, the admission of operands `f` is, and the check `bad` fails. -/
def Passes (w N : Nat) (strip f : Bool) (cs : List (Nat × Nat × Nat)) (bad : Bool) (i : Instr) : Prop :=
  f = true → bad = false → Known w cs → Spells w N strip i

section
variable {w N : Nat} {strip f : Bool} {cs : List (Nat × Nat × Nat)} {i : Instr}

namespace Passes

theorem assoc {a b c : Bool} (h : Passes w N strip f cs (a || (b || c)) i) : Passes w N strip f cs (a || b || c) i := Bool.or_assoc a b c ▸ h

/-- A field that must hold one value. -/
theorem field {lo n v : Nat} {b : Bool} (h : Passes w N strip f ((lo, n, v) :: cs) b i) : Passes w N strip f cs (fld w lo n != v || b) i := fun hf hbad hk =>
  h hf (Bool.or_eq_false_iff.1 hbad).2 (hk.cons (bne_eq_false_iff_eq.1 (Bool.or_eq_false_iff.1 hbad).1))

theorem fld_eq_seven (h : 14 ≤ fld w 7 4) : fld w 8 3 = 7 := by
  have hhalf : fld w 7 4 / 2 = fld w 8 3 :=
    (Nat.mod_mul_right_div_self (w / 2 ^ 7) 2 (2 ^ 3)).trans (congrArg (· % 2 ^ 3) (Nat.div_div_eq_div_mul w (2 ^ 7) 2))
  exact hhalf.symm.trans (Nat.div_eq_of_lt_le h (Nat.mod_lt _ (Nat.two_pow_pos 4)))

/-- A guard field of 14 or 15 has its three highest bits set. -/
theorem lastGuard {b : Bool} (h : Passes w N strip f ((8, 3, 7) :: cs) b i) : Passes w N strip f cs (decide (fld w 7 4 < 14) || b) i := fun hf hbad hk =>
  h hf (Bool.or_eq_false_iff.1 hbad).2 (hk.cons (fld_eq_seven (Nat.not_lt.1 (of_decide_eq_false (Bool.or_eq_false_iff.1 hbad).1))))

/-- A check that admits some of the values of an operand. -/
theorem accept {a b c : Bool} (ha : a = false → c = true) (h : Passes w N strip (f && c) cs b i) : Passes w N strip f cs (a || b) i := fun hf hbad =>
  h (Bool.and_eq_true_iff.2 ⟨hf, ha (Bool.or_eq_false_iff.1 hbad).1⟩) (Bool.or_eq_false_iff.1 hbad).2

/-- A check that follows from the others. -/
theorem skip {a b : Bool} (h : Passes w N strip f cs b i) : Passes w N strip f cs (a || b) i := fun hf hbad => h hf (Bool.or_eq_false_iff.1 hbad).2

theorem swap {c d bad : Bool} (h : Passes w N strip (f && d && c) cs bad i) : Passes w N strip (f && c && d) cs bad i := Bool.and_right_comm f d c ▸ h

/-- Three operands whose checks come last to first. -/
theorem rev {a b c bad : Bool} (h : Passes w N strip (f && c && b && a) cs bad i) : Passes w N strip (f && a && b && c) cs bad i := by
  rwa [Bool.and_right_comm f a b, Bool.and_right_comm (f && b) a c, Bool.and_right_comm f b c]

theorem done {x K : Nat} {fs : List (Nat × Nat)} (h : SumOf w x K fs)
    (hi : (i.wf, encode i, isWord i, tiled N K fs cs 0 0) = (f, some x, strip, true)) : Passes w N strip f cs false i := by
  obtain ⟨rfl, hx, hs, ht⟩ : i.wf = f ∧ encode i = some x ∧ isWord i = strip ∧ tiled N K fs cs 0 0 = true := by simpa using hi
  exact fun hf _ hk => ⟨hf, hs, hx.trans (congrArg some (h.eq_low hk ht))⟩

variable {K l₁ n₁ l₂ n₂ l₃ n₃ l₄ n₄ l₅ n₅ l₆ n₆ : Nat}

theorem none : (i.wf, encode i, isWord i, tiled N K [] cs 0 0) = (f, some K, strip, true) → Passes w N strip f cs false i := done .base

theorem one : (i.wf, encode i, isWord i, tiled N K [(l₁, n₁)] cs 0 0) =
    (f, some (K + place (bf w l₁ n₁).toNat l₁), strip, true) →
      Passes w N strip f cs false i := done (.field .base)

theorem two : (i.wf, encode i, isWord i, tiled N K [(l₂, n₂), (l₁, n₁)] cs 0 0) =
    (f, some (K + place (bf w l₁ n₁).toNat l₁ + place (bf w l₂ n₂).toNat l₂), strip, true) →
      Passes w N strip f cs false i := done (.field (.field .base))

theorem three : (i.wf, encode i, isWord i, tiled N K [(l₃, n₃), (l₂, n₂), (l₁, n₁)] cs 0 0) =
    (f, some (K + place (bf w l₁ n₁).toNat l₁ + place (bf w l₂ n₂).toNat l₂ + place (bf w l₃ n₃).toNat l₃), strip, true) →
      Passes w N strip f cs false i := done (.field (.field (.field .base)))

theorem four : (i.wf, encode i, isWord i, tiled N K [(l₄, n₄), (l₃, n₃), (l₂, n₂), (l₁, n₁)] cs 0 0) =
    (f, some (K + place (bf w l₁ n₁).toNat l₁ + place (bf w l₂ n₂).toNat l₂ +
      place (bf w l₃ n₃).toNat l₃ + place (bf w l₄ n₄).toNat l₄), strip, true) →
      Passes w N strip f cs false i := done (.field (.field (.field (.field .base))))

theorem five : (i.wf, encode i, isWord i, tiled N K [(l₅, n₅), (l₄, n₄), (l₃, n₃), (l₂, n₂), (l₁, n₁)] cs 0 0) =
    (f, some (K + place (bf w l₁ n₁).toNat l₁ + place (bf w l₂ n₂).toNat l₂ +
      place (bf w l₃ n₃).toNat l₃ + place (bf w l₄ n₄).toNat l₄ + place (bf w l₅ n₅).toNat l₅), strip, true) →
      Passes w N strip f cs false i := done (.field (.field (.field (.field (.field .base)))))

theorem six : (i.wf, encode i, isWord i, tiled N K [(l₆, n₆), (l₅, n₅), (l₄, n₄), (l₃, n₃), (l₂, n₂), (l₁, n₁)] cs 0 0) =
    (f, some (K + place (bf w l₁ n₁).toNat l₁ + place (bf w l₂ n₂).toNat l₂ +
      place (bf w l₃ n₃).toNat l₃ + place (bf w l₄ n₄).toNat l₄ + place (bf w l₅ n₅).toNat l₅ + place (bf w l₆ n₆).toNat l₆), strip, true) →
      Passes w N strip f cs false i := done (.field (.field (.field (.field (.field (.field .base))))))

end Passes

namespace Faithful

theorem error {e : DecErr} : Faithful w N strip cs (.error e) := fun _ _ h => nomatch h

theorem ok (h : Passes w N strip true cs false i) : Faithful w N strip cs (.ok i) := fun hk _ hi => Except.ok.inj hi ▸ h rfl rfl hk

theorem resv {bad : Bool} (h : Passes w N strip true cs (bad || false) i) : Faithful w N strip cs (resv bad i) := by
  cases bad
  · exact .ok h
  · exact .error

theorem stripWord {bad no : Bool} (hf : f = true) (h : Passes w N strip f cs (bad || (no || false)) i) : Faithful w N strip cs (stripWord bad no i) := by
  subst hf
  cases bad
  · cases no
    · exact .ok h
    · exact .error
  · exact .error

theorem ite {lo : Nat} {x y : Except DecErr Instr} (h : Faithful w N strip ((lo, 1, 0) :: cs) x) (h' : Faithful w N strip ((lo, 1, 1) :: cs) y) :
    Faithful w N strip cs (if fld w lo 1 = 0 then x else y) := fun hk => by
  split
  · next hz => exact h (hk.cons hz)
  · next hz => exact h' (hk.cons ((Nat.mod_two_eq_zero_or_one _).resolve_left hz))

theorem arm {lo n v : Nat} {x rest : Except DecErr Instr} (t : Faithful w N strip cs rest) (h : Faithful w N strip ((lo, n, v) :: cs) x) :
    Faithful w N strip cs (arm (fld w lo n) v x rest) := fun hk => by
  by_cases hv : fld w lo n = v
  · subst hv
    rw [Machine.arm, dif_pos rfl]
    exact h (hk.cons rfl)
  · rw [Machine.arm, dif_neg hv]
    exact t hk

end Faithful

/-- What the instructions of a list have in common that a function code can pick, the first one's code being `k`. -/
def Picks (w N : Nat) (strip : Bool) (cs : List (Nat × Nat × Nat)) (lo n k : Nat) (l : List (Except DecErr Instr)) : Prop :=
  ∀ m x, l[m]? = some x → Faithful w N strip ((lo, n, k + m) :: cs) x

theorem Picks.nil {lo n k : Nat} : Picks w N strip cs lo n k [] := fun _ _ hm => nomatch List.getElem?_nil.symm.trans hm

theorem Picks.cons {lo n k : Nat} {x : Except DecErr Instr} {l : List (Except DecErr Instr)} (h : Faithful w N strip ((lo, n, k) :: cs) x)
    (t : Picks w N strip cs lo n (k + 1) l) : Picks w N strip cs lo n k (x :: l)
  | 0, _, hm => Option.some.inj hm ▸ h
  | m + 1, y, hm => Nat.add_right_comm k 1 m ▸ t m y hm

theorem Faithful.pickFn {lo n : Nat} {l : List (Except DecErr Instr)} (h : Picks w N strip cs lo n 0 l) : Faithful w N strip cs (pickFn (fld w lo n) l) := by
  intro hk i hi
  rw [Sys2Proof.pickFn, List.getD_eq_getElem?_getD] at hi
  cases hf : l[fld w lo n]? with
  | none => rw [hf] at hi; cases hi
  | some x => rw [hf] at hi; exact h _ x hf (hk.cons (Nat.zero_add _).symm) i hi

theorem Faithful.pick {lo n : Nat} {x : Except DecErr Instr} (h : Faithful w N strip ((lo, n, 0) :: cs) x) :
    Faithful w N strip cs (Sys2Proof.pickFn (fld w lo n) [x]) :=
  .pickFn (.cons h .nil)

end

/-! ### From a check to the admission of an operand -/

theorem not_of {b : Bool} (h : b = false) : (!b) = true := congrArg Bool.not h

theorem of_not {b : Bool} (h : (!b) = false) : b = true := by simpa using h

theorem bne_of {w lo n v : Nat} (hv : Nat.blt v (2 ^ n) = true) (h : (fld w lo n == v) = false) : (bf w lo n != BitVec.ofNat n v) = true := by
  refine bne_iff_ne.2 fun he => beq_eq_false_iff_ne.1 h ?_
  rw [fld_eq_toNat_bf, he, BitVec.toNat_ofNat, Nat.mod_eq_of_lt (Nat.le_of_ble_eq_true hv)]

theorem lt_of {w lo n k : Nat} (h : decide (fld w lo n > k) = false) : decide ((bf w lo n).toNat < k + 1) = true := by
  rw [fld_eq_toNat_bf] at h
  exact decide_eq_true (Nat.lt_succ_of_le (Nat.not_lt.1 (of_decide_eq_false h)))

theorem logicType_of {w : Nat} (h : (!(fld w 23 3 == 3 || fld w 23 3 == 4)) = false) : (bf w 23 3 == 3 || bf w 23 3 == 4) = true := by
  simpa [← BitVec.toNat_inj, ← fld_eq_toNat_bf, or_iff_not_imp_left] using h

/-- A field of six bits that holds 4 holds it in its three lowest bits. -/
theorem mode_of {w : Nat} {t : Bool} (h : (t && fld w 26 3 == 4) = false) : (!(t && bf w 26 6 == 4)) = true := by
  cases t
  · rfl
  · have hlow : fld w 26 6 % 2 ^ 3 = fld w 26 3 := Nat.mod_mod_of_dvd _ ⟨8, rfl⟩
    exact bne_of rfl (beq_eq_false_iff_ne.2 fun he => beq_eq_false_iff_ne.1 h (hlow.symm.trans (congrArg (· % 2 ^ 3) he)))

/-! ## The words of the sequencer -/

set_option linter.auxLemma false in
theorem faithful_decode32 {w : Nat} : Faithful w 32 false [(0, 2, 0)] (decode32 (fld w 2 8) w) := by
  unfold decode32
  delta decode32.match_1
  dsimp only [dite_eq_arm]
  -- Registers alone.
  iterate 11 refine .arm ?_ (.pick (.ok (.three rfl)))
  iterate 4 refine .arm ?_ (.pickFn (.cons (.ok (.three rfl)) (.cons (.ok (.three rfl)) .nil)))
  refine .arm ?_ (.pickFn (.cons (.ok (.three rfl)) (.cons (.ok (.three rfl)) (.cons (.ok (.three rfl)) .nil))))
  iterate 2 refine .arm ?_ (.pickFn (.cons (.ok (.three rfl)) (.cons (.ok (.three rfl)) .nil)))
  refine .arm ?_ (.pickFn (.cons (.resv (.field (.two rfl))) (.cons (.resv (.field (.two rfl))) (.cons (.resv (.field (.two rfl))) .nil))))
  refine .arm ?_ (.pickFn (.cons (.resv (.field (.two rfl))) (.cons (.resv (.field (.two rfl))) (.cons (.resv (.field (.two rfl)))
    (.cons (.resv (.field (.two rfl))) (.cons (.resv (.field (.two rfl))) (.cons (.resv (.field (.two rfl))) .nil)))))))
  -- A 12-bit immediate, shifts by a constant, loads and stores.
  iterate 4 refine .arm ?_ (.ok (.three rfl))
  iterate 3 refine .arm ?_ (.resv (.field (.three rfl)))
  iterate 10 refine .arm ?_ (.ok (.three rfl))
  refine .arm ?_ (.pick (.ok (.three rfl)))
  iterate 4 refine .arm ?_ (.ok (.three rfl))
  refine .arm ?_ (.pick (.ok (.three rfl)))
  refine .arm ?_ (.ok (.three rfl))
  refine .arm ?_ (.pick (.resv (.assoc (.field (.field (.two rfl))))))
  -- Transfers of control.
  iterate 8 refine .arm ?_ (.resv (.accept (bne_of rfl) (.four rfl)))
  refine .arm ?_ (.resv (.assoc (.accept (bne_of rfl) (.field (.three rfl)))))
  iterate 2 refine .arm ?_ (.resv (.accept (bne_of rfl) (.two rfl)))
  iterate 2 refine .arm ?_ (.pick (.resv (.assoc (.field (.field (.one rfl))))))
  refine .arm ?_ (.pick (.resv (.field (.none rfl))))
  refine .arm ?_ (.pick (.resv (.field (.three rfl))))
  refine .arm ?_ (.pick (.resv (.field (.none rfl))))
  -- An 8-bit number.
  refine .arm ?_ (.pick (.resv (.field (.two rfl))))
  refine .arm ?_ (.pick (.resv (.field (.three rfl))))
  refine .arm ?_ (.pick (.resv (.field (.two rfl))))
  refine .arm ?_ (.pick (.ok (.three rfl)))
  iterate 2 refine .arm ?_ (.pick (.resv (.assoc (.field (.accept not_of (.two rfl))))))
  refine .arm ?_ (.pick (.resv (.accept not_of (.three rfl))))
  refine .arm ?_ (.pickFn (.cons (.resv (.field (.none rfl))) (.cons (.resv (.field (.none rfl)))
    (.cons (.resv (.field (.none rfl))) (.cons (.resv (.field (.none rfl))) .nil)))))
  iterate 2 refine .arm ?_ (.pick (.resv (.assoc (.field (.field (.one rfl))))))
  iterate 3 refine .arm ?_ (.pick (.resv (.assoc (.accept not_of (.field (.two rfl))))))
  refine .arm ?_ (.pick (.resv (.assoc (.accept not_of (.field (.one rfl))))))
  iterate 3 refine .arm ?_ (.pick (.resv (.assoc (.accept not_of (.field (.two rfl))))))
  iterate 2 refine .arm ?_ (.pick (.resv (.field (.one rfl))))
  iterate 3 refine .arm ?_ (.pick (.resv (.field (.none rfl))))
  iterate 6 refine .arm ?_ (.pick (.resv (.field (.two rfl))))
  refine .arm ?_ (.pick (.resv (.assoc (.field (.field (.done (.flag (.field .base)) rfl))))))
  refine .arm ?_ (.pick (.resv (.field (.none rfl))))
  refine .arm ?_ (.pick (.ok (.three rfl)))
  exact .error

set_option linter.auxLemma false in
theorem faithful_decode48 {w : Nat} : Faithful w 48 false [(0, 2, 1)] (decode48 (fld w 2 8) w) := by
  unfold decode48
  delta decode48.match_1
  dsimp only [dite_eq_arm]
  iterate 3 refine .arm ?_ (.resv (.field (.two rfl)))
  iterate 2 refine .arm ?_ (.resv (.assoc (.field (.accept (bne_of rfl) (.two rfl)))))
  iterate 4 refine .arm ?_ (.resv (.assoc (.field (.accept (bne_of rfl) (.three rfl)))))
  exact .error

set_option linter.auxLemma false in
theorem faithful_decode64 {w : Nat} : Faithful w 64 false [(0, 2, 2)] (decode64 (fld w 2 8) w) := by
  unfold decode64
  delta decode64.match_1
  dsimp only [dite_eq_arm]
  -- The engine commands.
  refine .arm ?_ (.resv (.assoc (.field (.accept not_of (.done (.field (.field (.field (.common .base)))) rfl)))))
  refine .arm ?_ (.resv (.assoc (.field (.accept not_of (.done (.field (.common .base)) rfl)))))
  refine .arm ?_ (.resv (.assoc (.field (.accept not_of (.done (.field (.field (.field (.field (.field (.common .base)))))) rfl)))))
  refine .arm ?_ (.resv (.assoc (.field (.accept not_of (.done (.flag (.field (.field (.common .base)))) rfl)))))
  refine .arm ?_ (.resv (.assoc (.field (.accept not_of (.done (.flag (.field (.common .base))) rfl)))))
  refine .arm ?_ (.resv (.assoc (.field (.accept not_of (.done (.field (.field (.common .base))) rfl)))))
  iterate 3 refine .arm ?_ (.resv (.assoc (.field (.accept not_of (.done (.flag (.field (.common .base))) rfl)))))
  refine .arm ?_ (.resv (.assoc (.field (.accept not_of (.done (.flag (.common .base)) rfl)))))
  refine .arm ?_ (.resv (.assoc (.field (.accept not_of (.done (.field (.common .base)) rfl)))))
  refine .arm ?_ (.resv (.assoc (.field (.accept not_of (.done (.common .base) rfl)))))
  refine .arm ?_ (.resv (.assoc (.field (.accept not_of (.done (.field (.field (.common .base))) rfl)))))
  refine .arm ?_ (.resv (.assoc (.field (.accept not_of (.done (.field (.field (.field (.field (.common .base))))) rfl)))))
  iterate 4 refine .arm ?_ (.resv (.assoc (.field (.accept not_of (.done (.field (.field (.common .base))) rfl)))))
  refine .arm ?_ (.resv (.assoc (.field (.accept not_of (.done (.flag (.field (.field (.common .base)))) rfl)))))
  iterate 2 refine .arm ?_ (.resv (.assoc (.field (.accept not_of (.done (.field (.field (.common .base))) rfl)))))
  refine .arm ?_ (.resv (.assoc (.field (.accept not_of (.done (.field (.field (.field (.common .base)))) rfl)))))
  iterate 2 refine .arm ?_ (.resv (.assoc (.field (.accept not_of (.done (.field (.field (.common .base))) rfl)))))
  refine .arm ?_ (.resv (.assoc (.field (.accept not_of (.done (.flag (.field (.field (.field (.common .base))))) rfl)))))
  iterate 2 refine .arm ?_ (.resv (.assoc (.field (.accept not_of (.done (.field (.field (.common .base))) rfl)))))
  iterate 2 refine .arm ?_ (.resv (.assoc (.field (.accept not_of (.done (.field (.common .base)) rfl)))))
  refine .arm ?_ (.resv (.assoc (.field (.accept not_of (.done (.field (.field (.common .base))) rfl)))))
  refine .arm ?_ (.resv (.accept not_of (.done (.field (.field (.field (.field (.field (.common .base)))))) rfl)))
  refine .arm ?_ (.resv (.assoc (.field (.accept not_of (.done (.field (.field (.field (.field (.common .base))))) rfl)))))
  refine .arm ?_ (.resv (.assoc (.field (.accept not_of (.done (.field (.field (.field (.common .base)))) rfl)))))
  -- The walk set-up words.
  iterate 3 refine .arm ?_ (.resv (.assoc (.field (.field (.three rfl)))))
  iterate 2 refine .arm ?_ (.resv (.assoc (.field (.accept lt_of (.four rfl)))))
  refine .arm ?_ (.resv (.assoc (.field (.field (.one rfl)))))
  exact .error

/-! ## The words of strip programs -/

set_option linter.auxLemma false in
theorem faithful_decodeStrip {w : Nat} : Faithful w 32 true [] (decodeStrip w) := by
  unfold decodeStrip
  split
  · exact .error
  next hg =>
  have hg : (bf w 7 4 != 12 && bf w 7 4 != 13) = true := by
    obtain ⟨h12, h13⟩ := Bool.or_eq_false_iff.1 (Bool.eq_false_of_not_eq_true hg)
    exact Bool.and_eq_true_iff.2 ⟨bne_of rfl h12, bne_of rfl h13⟩
  delta decodeStrip.match_1
  dsimp only [dite_eq_arm]
  -- Arithmetic, logic and moves.
  iterate 3 refine .arm ?_ (.stripWord hg (.assoc (.accept (bne_of rfl) (.accept not_of (.assoc (.skip (.accept (bne_of rfl) (.six rfl))))))))
  iterate 2 refine .arm ?_ (.stripWord hg (.assoc (.field (.accept (bne_of rfl) (.assoc (.skip (.accept (bne_of rfl) (.five rfl))))))))
  iterate 2 refine .arm ?_ (.stripWord hg (.assoc (.assoc (.field (.accept (bne_of rfl) (.accept not_of (.assoc (.skip (.accept (bne_of rfl) (.five rfl))))))))))
  iterate 6 refine .arm ?_ (.stripWord hg (.assoc (.skip (.accept not_of (.assoc (.accept logicType_of (.swap (.accept (bne_of rfl) (.six rfl)))))))))
  refine .arm ?_ (.stripWord hg (.assoc (.assoc (.field (.field (.skip (.assoc (.field (.accept (bne_of rfl) (.three rfl))))))))))
  iterate 4 refine .arm ?_
              (.stripWord hg (.assoc (.assoc (.field (.skip (.accept lt_of (.assoc (.accept of_not (.swap (.accept lt_of (.six rfl)))))))))))
  refine .arm ?_
    (.stripWord hg (.assoc (.assoc (.assoc (.field (.accept (bne_of rfl) (.accept lt_of (.accept (bne_of rfl) (.swap (.accept (bne_of rfl) (.six rfl)))))))))))
  iterate 2 refine .arm ?_
              (.stripWord hg (.assoc (.assoc (.field (.accept (bne_of rfl) (.accept (bne_of rfl) (.assoc (.accept not_of (.accept (bne_of rfl) (.six rfl))))))))))
  refine .arm ?_ (.stripWord rfl (.assoc (.field (.accept (bne_of rfl) (.assoc (.assoc (.accept not_of (.lastGuard (.field (.six rfl))))))))))
  refine .arm ?_ (.stripWord hg (.assoc (.assoc (.field (.field (.accept (bne_of rfl) (.accept (bne_of rfl) (.six rfl))))))))
  iterate 5 refine .arm ?_
              (.stripWord hg (.assoc (.assoc (.assoc (.field (.field (.skip (.accept lt_of (.assoc (.accept of_not (.swap (.accept (bne_of rfl) (.five rfl)))))))))))))
  refine .arm ?_
    (.stripWord hg (.assoc (.assoc (.field (.skip (.accept lt_of (.assoc (.accept of_not (.swap (.accept (bne_of rfl) (.six rfl)))))))))))
  iterate 3 refine .arm ?_ (.stripWord hg (.assoc (.field (.accept (bne_of rfl) (.assoc (.skip (.accept lt_of (.five rfl))))))))
  refine .arm ?_ (.stripWord hg (.assoc (.field (.skip (.assoc (.accept of_not (.accept lt_of (.five rfl))))))))
  refine .arm ?_ (.stripWord hg (.assoc (.field (.skip (.assoc (.assoc (.field (.accept (bne_of rfl) (.accept lt_of (.swap (.five rfl)))))))))))
  refine .arm ?_
    (.stripWord hg (.assoc (.field (.skip (.assoc (.assoc (.assoc (.field (.accept lt_of (.accept lt_of (.accept lt_of (.rev (.five rfl)))))))))))))
  refine .arm ?_ (.ite (.stripWord hg (.assoc (.assoc (.field (.field (.accept (bne_of rfl) (.accept lt_of (.four rfl))))))))
    (.stripWord hg (.assoc (.assoc (.field (.field (.accept (bne_of rfl) (.assoc (.accept (bne_of rfl) (.accept lt_of (.swap (.four rfl))))))))))))
  iterate 2 refine .arm ?_
              (.stripWord hg (.assoc (.assoc (.field (.accept (bne_of rfl) (.accept not_of
      (.assoc (.assoc (.skip (.accept (bne_of rfl) (.accept mode_of (.swap (.five rfl)))))))))))))
  iterate 4 refine .arm ?_ (.stripWord hg (.assoc (.assoc (.field (.field (.accept (bne_of rfl) (.assoc (.skip (.accept (bne_of rfl) (.four rfl))))))))))
  iterate 2 refine .arm ?_ (.stripWord hg (.assoc (.field (.skip (.assoc (.field (.accept (bne_of rfl) (.four rfl))))))))
  refine .arm ?_ (.stripWord hg (.assoc (.assoc (.field (.field (.skip (.assoc (.field (.accept (bne_of rfl) (.three rfl))))))))))
  refine .arm ?_ (.ite (.stripWord hg (.assoc (.field (.skip (.assoc (.field (.accept (bne_of rfl) (.four rfl))))))))
    (.stripWord hg (.assoc (.field (.skip (.assoc (.field (.accept (bne_of rfl) (.four rfl)))))))))
  refine .arm ?_ (.stripWord hg (.assoc (.field (.skip (.assoc (.field (.accept (bne_of rfl) (.four rfl))))))))
  refine .arm ?_
    (.stripWord rfl (.assoc (.assoc (.assoc (.field (.field (.skip (.accept lt_of (.assoc (.field (.lastGuard (.two rfl))))))))))))
  refine .arm ?_ (.stripWord rfl (.field (.lastGuard (.two rfl))))
  refine .arm ?_
    (.stripWord rfl (.assoc (.assoc (.assoc (.field (.field (.field (.skip (.assoc (.field (.lastGuard (.two rfl))))))))))))
  refine .arm ?_ (.stripWord hg (.assoc (.assoc (.field (.field (.skip (.assoc (.field (.accept (bne_of rfl) (.three rfl))))))))))
  refine .arm ?_
    (.stripWord rfl (.assoc (.assoc (.assoc (.field (.field (.skip (.accept (bne_of rfl) (.assoc (.field (.lastGuard (.three rfl))))))))))))
  exact .error

/-! ## Every word -/

/-- The length that the first parcel gives says which of the three spaces the word is read in. -/
theorem decodeSeq_ok {w : Nat} {i : Instr} (h : decodeSeq w = .ok i) :
    (fld w 0 2 = 0 ∧ decode32 (fld w 2 8) w = .ok i) ∨ (fld w 0 2 = 1 ∧ decode48 (fld w 2 8) w = .ok i) ∨
      (fld w 0 2 = 2 ∧ decode64 (fld w 2 8) w = .ok i) := by
  unfold decodeSeq at h
  split at h
  case h_1 hl => exact .inl ⟨hl, h⟩
  case h_2 hl => exact .inr (.inl ⟨hl, h⟩)
  case h_3 hl => exact .inr (.inr ⟨hl, h⟩)
  case h_4 => cases h

/-- Settles O57: in each of the four spaces every bit of the word belongs to a field of the instruction or to one that the decoder checks. -/
theorem encodeDecode : Obligations.EncodeDecode := by
  intro w i
  refine ⟨fun h => ?_, faithful_decodeStrip .nil i⟩
  obtain ⟨hl, h⟩ | ⟨hl, h⟩ | ⟨hl, h⟩ := decodeSeq_ok h
  · obtain ⟨hwf, hi, he⟩ := faithful_decode32 (.cons hl .nil) i h
    exact ⟨hwf, hi, 4, by simp only [lenOf, hl], he⟩
  · obtain ⟨hwf, hi, he⟩ := faithful_decode48 (.cons hl .nil) i h
    exact ⟨hwf, hi, 6, by simp only [lenOf, hl], he⟩
  · obtain ⟨hwf, hi, he⟩ := faithful_decode64 (.cons hl .nil) i h
    exact ⟨hwf, hi, 8, by simp only [lenOf, hl], he⟩

end Sys2Proof.Machine
